-- ==== Sys2Proof/Config.lean ====
section
/-!
DEFINITION. What an implementation fixes, and the free values: constants with no body, of which nothing can be proved.
A step that needs a fresh free value applies one to the counter `State.free`.
-/

namespace Sys2Proof.Config

/-- 05 R208: what a cell of a vector register holds once a retirement has left its contents undefined: the retirement's
number and the cell's key. UNVERIFIED, log 11. -/
opaque freeCell : Nat → Nat → BitVec 32

/-- 05 R182: which of the values within 2 ulp a function of VSPEC gives at f32: the function's code and its operand.
UNVERIFIED, log 7. -/
opaque specPick : Nat → BitVec 32 → Nat

/-- 05 R190: the order in which VFSUMR adds when VTYPE.REPRO is 0: which two of the remaining operands are added next.
UNVERIFIED, log 8. -/
opaque sumPick : Nat → Nat → Nat

/-- 05 R199: which element supplies the bytes of a repeated address in a store without an element order.
UNVERIFIED, log 9. -/
opaque storePick : Nat → Nat → Nat

/-- 07 R262: the token stream CPLZ chooses for a block of 4,096 bytes. UNVERIFIED, log 10. -/
opaque lzTokens : List (BitVec 8) → List (BitVec 8)

/-- 09 R324, R327: bytes whose source the spec does not name: a submission slot that no NRING captured, and data behind an
address outside the window. PRESUMED, log 20. -/
opaque freeByte : Nat → Nat → BitVec 8

/-- 13 R409: the fused digest of the image key, and R410: the fused 64-byte secret, by byte. -/
opaque keyDigest : Nat → BitVec 8
opaque deviceSecret : Nat → BitVec 8

/-- 13 R410: the randomness of FIPS 205 that a signing uses, by the number of the signing and of the byte. -/
opaque slhRandom : Nat → Nat → BitVec 8

/-- 12 R399: what the layout of a save area has no place for, of a context that another device saved: the address of a queue's record
and a number. UNVERIFIED, log 41. -/
opaque freeSaved : Nat → Nat → BitVec 64

end Sys2Proof.Config
end

