-- ==== Sys2Proof/Machine/Float.lean ====
section
/-!
DEFINITION. Floating point (04 R143, 05 R174 to R176): formats, exact values, and the one rounding that every
instruction applies to an exact result. A value is decoded to sign, integer significand and binary exponent, the
arithmetic is exact over the integers, and `roundTo` narrows once at the end.
-/

namespace Sys2Proof.Machine

/-- The floating-point formats: binary64, binary32, binary16, bf16, e5m2, e4m3, e2m1. -/
inductive FFmt where
  | f64 | f32 | f16 | bf16 | e5m2 | e4m3 | e2m1
  deriving DecidableEq, Repr

/-- The rounding modes of VTYPE.RM (R118). -/
inductive Rm where
  | rne | rna | rtz | rup | rdn | sr
  deriving DecidableEq, Repr

/-- The IEEE flags in the order of FFLAGS (R120): NV at bit 4 down to NX at bit 0. -/
abbrev Flags := BitVec 5

def flagNV : Flags := 16
def flagDZ : Flags := 8
def flagOF : Flags := 4
def flagUF : Flags := 2
def flagNX : Flags := 1

/-- Fraction bits. -/
def FFmt.fracBits : FFmt → Nat
  | .f64 => 52 | .f32 => 23 | .f16 => 10 | .bf16 => 7 | .e5m2 => 2 | .e4m3 => 3 | .e2m1 => 1

/-- Exponent bits. -/
def FFmt.expBits : FFmt → Nat
  | .f64 => 11 | .f32 => 8 | .f16 => 5 | .bf16 => 8 | .e5m2 => 5 | .e4m3 => 4 | .e2m1 => 2

def FFmt.width (f : FFmt) : Nat := 1 + f.expBits + f.fracBits

def FFmt.bias (f : FFmt) : Int := 2 ^ (f.expBits - 1) - 1

/-- The exponent of the smallest positive normal value. -/
def FFmt.emin (f : FFmt) : Int := 1 - f.bias

/-- Whether the format has infinities and IEEE overflow (R176). -/
def FFmt.hasInf : FFmt → Bool
  | .f64 | .f32 | .f16 | .bf16 | .e5m2 => true
  | .e4m3 | .e2m1 => false

/-- The magnitude code of the largest finite value (R176). -/
def FFmt.maxCode (f : FFmt) : Nat :=
  match f with
  | .e4m3 => 0x7E
  | .e2m1 => 7
  | _ => (2 ^ f.expBits - 1) * 2 ^ f.fracBits - 1

/-- The canonical NaN; e2m1 has none (R176). -/
def FFmt.nan : FFmt → Option Nat
  | .f64 => some 0x7FF8000000000000 | .f32 => some 0x7FC00000 | .f16 => some 0x7E00 | .bf16 => some 0x7FC0
  | .e5m2 => some 0x7E | .e4m3 => some 0x7F | .e2m1 => none

def FFmt.signBit (f : FFmt) : Nat := 2 ^ (f.expBits + f.fracBits)

/-- The encoding of +∞ where the format has one. -/
def FFmt.infCode (f : FFmt) : Nat := (2 ^ f.expBits - 1) * 2 ^ f.fracBits

/-- A decoded value: a NaN (quiet or signalling), an infinity, or (−1)^neg × mant × 2^exp. -/
inductive FVal where
  | nan (signalling : Bool)
  | inf (neg : Bool)
  | fin (neg : Bool) (mant : Nat) (exp : Int)
  deriving DecidableEq, Repr

/-- The value of an encoding, read from the low bits. A signalling NaN has its most significant fraction bit 0 (R177); the
8-bit formats have none. -/
def fdecode (f : FFmt) (bits : Nat) : FVal :=
  let b := bits % (2 * f.signBit)
  let neg := decide (b / f.signBit = 1)
  let mag := b % f.signBit
  let e := mag / 2 ^ f.fracBits
  let m := mag % 2 ^ f.fracBits
  if mag > f.maxCode then
    if f.hasInf && m == 0 then .inf neg
    else .nan (decide (m < 2 ^ (f.fracBits - 1)) && (match f with | .e5m2 | .e4m3 | .e2m1 => false | _ => true))
  else if e = 0 then .fin neg m (f.emin - f.fracBits)
  else .fin neg (m + 2 ^ f.fracBits) (f.emin - f.fracBits + (e - 1 : Nat))

/-- A non-negative magnitude known to lie in [mant × 2^exp, (mant + 1) × 2^exp): exactly mant × 2^exp when `sticky` is
false, strictly above it when true. -/
structure Approx where
  neg : Bool
  mant : Nat
  exp : Int
  sticky : Bool
  deriving DecidableEq, Repr

/-- The number of bits of a natural number. -/
def bitLen (n : Nat) : Nat := if n = 0 then 0 else n.log2 + 1

/-- Whether a magnitude with quotient `q`, remainder `rem` of 2^sh, and sticky tail rounds away from zero. Under SR `r` is
the LFSR output (R174). -/
def roundsUp (mode : Rm) (r : Nat) (neg : Bool) (q rem sh : Nat) (sticky : Bool) : Bool :=
  match mode with
  | .rne => decide (2 * rem > 2 ^ sh) || (decide (2 * rem = 2 ^ sh) && (sticky || q % 2 == 1))
  | .rna => decide (2 * rem ≥ 2 ^ sh) && decide (0 < sh)
  | .rtz => false
  | .rup => !neg && (decide (rem ≠ 0) || sticky)
  | .rdn => neg && (decide (rem ≠ 0) || sticky)
  | .sr => decide (rem * 2 ^ 32 > r * 2 ^ sh) || (sticky && decide (rem * 2 ^ 32 = r * 2 ^ sh))

/-- The magnitude as an integer multiple of 2^qexp: quotient, remainder, and the number of bits dropped. -/
def alignTo (mant : Nat) (exp qexp : Int) : Nat × Nat × Nat :=
  if qexp ≤ exp then (mant * 2 ^ (exp - qexp).toNat, 0, 0)
  else
    let sh := (qexp - exp).toNat
    (mant / 2 ^ sh, mant % 2 ^ sh, sh)

/-- Rounds a magnitude to an integer multiple of 2^qexp: the multiple, and whether the result is inexact. -/
def roundAt (mode : Rm) (r : Nat) (a : Approx) (qexp : Int) : Nat × Bool :=
  let (q, rem, sh) := alignTo a.mant a.exp qexp
  let up := roundsUp mode r a.neg q rem sh a.sticky
  (if up then q + 1 else q, decide (rem ≠ 0) || a.sticky)

/-- The exponent of the leading bit of a magnitude. -/
def Approx.lead (a : Approx) : Int := a.exp + (bitLen a.mant : Int) - 1

/-- R176: a non-zero result is tiny when its exact value, rounded to the destination's precision with an unbounded exponent,
lies strictly inside ±2^emin; under SR that rounding is RNE. -/
def isTiny (f : FFmt) (mode : Rm) (a : Approx) : Bool :=
  if a.mant = 0 then a.sticky
  else if a.lead ≥ f.emin then false
  else if a.lead < f.emin - 1 then true
  else
    let m := if mode = .sr then .rne else mode
    decide ((roundAt m 0 a (a.lead - f.fracBits)).1 < 2 ^ (f.fracBits + 1))

/-- Round (R14): an exact non-NaN value rounded once to a format, with the flags. The second component holds the flags OF,
UF and NX. Overflow follows R176: IEEE 754 where the format has infinities, the largest finite value otherwise. -/
def roundTo (f : FFmt) (mode : Rm) (r : Nat) (a : Approx) : Nat × Flags :=
  let sign := if a.neg then f.signBit else 0
  if a.mant = 0 ∧ a.sticky = false then (sign, 0)
  else
    let qmin := f.emin - f.fracBits
    let q0 := if a.mant = 0 then qmin else a.lead - f.fracBits
    let qexp := if q0 < qmin then qmin else q0
    let code (m : Rm) : Nat × Bool :=
      let (sig, inx) := roundAt m r a qexp
      ((qexp - qmin).toNat * 2 ^ f.fracBits + sig, inx)
    let (c, inx) := code mode
    let (cn, _) := code .rne
    let trunc := (code .rtz).1
    -- under SR a value beyond the largest finite one rounds as RNE does (R174)
    let beyond := decide (trunc > f.maxCode) || (decide (trunc = f.maxCode) && inx)
    let c := if mode = .sr ∧ beyond = true then cn else c
    let m := if mode = .sr then .rne else mode
    if c > f.maxCode then
      let toInf := match m with
        | .rne | .rna | .sr => true
        | .rtz => false
        | .rup => !a.neg
        | .rdn => a.neg
      (sign + (if f.hasInf && toInf then f.infCode else f.maxCode), flagOF ||| flagNX)
    else
      (sign + c, (if inx then flagNX else 0) ||| (if inx && isTiny f mode a then flagUF else 0))

/-- What an instruction gives for an invalid operation, or for a NaN operand: the canonical NaN, or +0 with NV where the format
has none (R176). -/
def nanResult (f : FFmt) (flags : Flags) : Nat × Flags :=
  match f.nan with
  | some n => (n, flags)
  | none => (0, flags ||| flagNV)

/-- An infinity arriving in a format: the infinity, or R176's result where the format has none. -/
def infResult (f : FFmt) (neg : Bool) : Nat × Flags :=
  if f.hasInf then ((if neg then f.signBit else 0) + f.infCode, 0)
  else match f.nan with
    | some n => (n, flagNV)
    | none => ((if neg then f.signBit else 0) + f.maxCode, flagNV)

/-- NV for a signalling NaN among the operands. -/
def snanFlag (x : FVal) : Flags := match x with | .nan true => flagNV | _ => 0

def FVal.isNan : FVal → Bool
  | .nan _ => true
  | _ => false

def FVal.isSnan : FVal → Bool
  | .nan s => s
  | _ => false

def FVal.neg : FVal → FVal
  | .nan s => .nan s
  | .inf n => .inf !n
  | .fin n m e => .fin (!n) m e

def FVal.isZero : FVal → Bool
  | .fin _ 0 _ => true
  | _ => false

def FVal.sign : FVal → Bool
  | .nan _ => false
  | .inf n => n
  | .fin n _ _ => n

/-- The exact sum of two finite values as a sign and magnitude; an exact zero takes the sign IEEE 754 gives it. -/
def exactSum (mode : Rm) (n1 : Bool) (m1 : Nat) (e1 : Int) (n2 : Bool) (m2 : Nat) (e2 : Int) : Approx :=
  let e := if e1 ≤ e2 then e1 else e2
  let v1 : Int := (m1 * 2 ^ (e1 - e).toNat : Nat)
  let v2 : Int := (m2 * 2 ^ (e2 - e).toNat : Nat)
  let v := (if n1 then -v1 else v1) + (if n2 then -v2 else v2)
  if v = 0 then ⟨if n1 = n2 then n1 else decide (mode = .rdn), 0, e, false⟩
  else ⟨decide (v < 0), v.natAbs, e, false⟩

/-- va + vb. -/
def faddV (f : FFmt) (mode : Rm) (r : Nat) (x y : FVal) : Nat × Flags :=
  match x, y with
  | .nan s, y => nanResult f ((if s then flagNV else 0) ||| snanFlag y)
  | .inf _, .nan s => nanResult f (if s then flagNV else 0)
  | .fin _ _ _, .nan s => nanResult f (if s then flagNV else 0)
  | .inf a, .inf b => if a = b then infResult f a else nanResult f flagNV
  | .inf a, .fin _ _ _ => infResult f a
  | .fin _ _ _, .inf b => infResult f b
  | .fin n1 m1 e1, .fin n2 m2 e2 => roundTo f mode r (exactSum mode n1 m1 e1 n2 m2 e2)

/-- va × vb. -/
def fmulV (f : FFmt) (mode : Rm) (r : Nat) (x y : FVal) : Nat × Flags :=
  match x, y with
  | .nan s, y => nanResult f ((if s then flagNV else 0) ||| snanFlag y)
  | .inf _, .nan s => nanResult f (if s then flagNV else 0)
  | .fin _ _ _, .nan s => nanResult f (if s then flagNV else 0)
  | .inf a, .inf b => infResult f (a != b)
  | .inf a, .fin b m _ => if m = 0 then nanResult f flagNV else infResult f (a != b)
  | .fin a m _, .inf b => if m = 0 then nanResult f flagNV else infResult f (a != b)
  | .fin n1 m1 e1, .fin n2 m2 e2 => roundTo f mode r ⟨n1 != n2, m1 * m2, e1 + e2, false⟩

/-- The magnitude m1 × 2^e1 / (m2 × 2^e2), m2 non-zero. -/
def exactQuot (neg : Bool) (m1 : Nat) (e1 : Int) (m2 : Nat) (e2 : Int) : Approx :=
  let n := m1 * 2 ^ 200
  ⟨neg, n / m2, e1 - 200 - e2, decide (n % m2 ≠ 0)⟩

/-- va / vb. -/
def fdivV (f : FFmt) (mode : Rm) (r : Nat) (x y : FVal) : Nat × Flags :=
  match x, y with
  | .nan s, y => nanResult f ((if s then flagNV else 0) ||| snanFlag y)
  | .inf _, .nan s => nanResult f (if s then flagNV else 0)
  | .fin _ _ _, .nan s => nanResult f (if s then flagNV else 0)
  | .inf _, .inf _ => nanResult f flagNV
  | .inf a, .fin b _ _ => infResult f (a != b)
  | .fin a _ _, .inf b => ((if a != b then f.signBit else 0), 0)
  | .fin n1 m1 e1, .fin n2 m2 e2 =>
    if m2 = 0 then
      if m1 = 0 then nanResult f flagNV
      else ((infResult f (n1 != n2)).1, (infResult f (n1 != n2)).2 ||| flagDZ)
    else roundTo f mode r (exactQuot (n1 != n2) m1 e1 m2 e2)

/-- x × y + z, rounded once. An infinity times a zero raises NV whatever the addend (R143). -/
def ffmaV (f : FFmt) (mode : Rm) (r : Nat) (x y z : FVal) : Nat × Flags :=
  let sn := snanFlag x ||| snanFlag y ||| snanFlag z
  let infZero := match x, y with
    | .inf _, .fin _ m _ => decide (m = 0)
    | .fin _ m _, .inf _ => decide (m = 0)
    | _, _ => false
  if infZero then nanResult f (flagNV ||| sn)
  else if x.isNan || y.isNan || z.isNan then nanResult f sn
  else
    let pneg := x.sign != y.sign
    match x, y, z with
    | .fin _ m1 e1, .fin _ m2 e2, .fin n3 m3 e3 => roundTo f mode r (exactSum mode pneg (m1 * m2) (e1 + e2) n3 m3 e3)
    | .fin _ _ _, .fin _ _ _, .inf n => infResult f n
    | .fin _ _ _, .fin _ _ _, .nan _ => nanResult f sn
    | _, _, .inf n => if pneg = n then infResult f n else nanResult f flagNV
    | _, _, _ => infResult f pneg

/-- The integer square root, bit by bit from bit `k` down. -/
def isqrtFrom (n : Nat) : Nat → Nat → Nat
  | 0, r => if (r + 1) * (r + 1) ≤ n then r + 1 else r
  | k + 1, r =>
    let c := r + 2 ^ (k + 1)
    isqrtFrom n k (if c * c ≤ n then c else r)

/-- ⌊√n⌋. -/
def isqrt (n : Nat) : Nat := isqrtFrom n (bitLen n / 2 + 1) 0

/-- √(m × 2^e), with more than 150 bits and the tail. -/
def exactSqrt (m : Nat) (e : Int) : Approx :=
  let e' := if e % 2 = 0 then e else e - 1
  let m' := if e % 2 = 0 then m else 2 * m
  let n := m' * 2 ^ 320
  let q := isqrt n
  ⟨false, q, e' / 2 - 160, decide (q * q ≠ n)⟩

/-- √x. -/
def fsqrtV (f : FFmt) (mode : Rm) (r : Nat) (x : FVal) : Nat × Flags :=
  match x with
  | .nan s => nanResult f (if s then flagNV else 0)
  | .inf n => if n then nanResult f flagNV else infResult f false
  | .fin n m e =>
    if m = 0 then ((if n then f.signBit else 0), 0)
    else if n then nanResult f flagNV
    else roundTo f mode r (exactSqrt m e)

/-- 1/√x (05 R182). -/
def frsqrtV (f : FFmt) (mode : Rm) (r : Nat) (x : FVal) : Nat × Flags :=
  match x with
  | .nan s => nanResult f (if s then flagNV else 0)
  | .inf n => if n then nanResult f flagNV else (0, 0)
  | .fin n m e =>
    if m = 0 then ((infResult f n).1, flagDZ)
    else if n then nanResult f flagNV
    else
      let e' := if e % 2 = 0 then e else e - 1
      let m' := if e % 2 = 0 then m else 2 * m
      let q := isqrt (2 ^ 640 / m')
      roundTo f mode r ⟨false, q, -(e' / 2) - 320, decide (q * q * m' ≠ 2 ^ 640)⟩

/-- Whether x < y, both finite or infinite. -/
def fltV (x y : FVal) : Bool :=
  match x, y with
  | .nan _, _ => false
  | _, .nan _ => false
  | .inf a, .inf b => a && !b
  | .inf a, .fin _ _ _ => a
  | .fin _ _ _, .inf b => !b
  | .fin n1 m1 e1, .fin n2 m2 e2 =>
    let e := if e1 ≤ e2 then e1 else e2
    let v1 : Int := (m1 * 2 ^ (e1 - e).toNat : Nat)
    let v2 : Int := (m2 * 2 ^ (e2 - e).toNat : Nat)
    decide ((if n1 then -v1 else v1) < (if n2 then -v2 else v2))

/-- Whether x = y; a NaN equals nothing and −0 equals +0. -/
def feqV (x y : FVal) : Bool := !x.isNan && !y.isNan && !fltV x y && !fltV y x

/-- FMIN and FMAX (R143) on encodings: −0 below +0; one NaN gives the other operand, two give the canonical NaN; NV on a
signalling NaN. -/
def fminmax (f : FFmt) (isMax : Bool) (a b : Nat) : Nat × Flags :=
  let w := 2 * f.signBit
  let x := fdecode f a
  let y := fdecode f b
  let fl := snanFlag x ||| snanFlag y
  if x.isNan && y.isNan then nanResult f fl
  else if x.isNan then (b % w, fl)
  else if y.isNan then (a % w, fl)
  else
    let xBelow := fltV x y || (feqV x y && x.sign && !y.sign)
    (if xBelow != isMax then a % w else b % w, fl)

/-- The class bit of FKIND (R143). -/
def fkindBit (f : FFmt) (a : Nat) : Nat :=
  match fdecode f a with
  | .nan s => if s then 1 else 0
  | .inf n => if n then 9 else 8
  | .fin n m _ =>
    let base := if m = 0 then 2 else if m < 2 ^ f.fracBits then 4 else 6
    if n then base + 1 else base

/-- FCSIGN, FNSIGN, FXSIGN: the magnitude of `a` with a sign taken from `a` and `b`. -/
def fsignOp (f : FFmt) (op : Bool → Bool → Bool) (a b : Nat) : Nat :=
  let sa := decide (a / f.signBit % 2 = 1)
  let sb := decide (b / f.signBit % 2 = 1)
  a % f.signBit + (if op sa sb then f.signBit else 0)

/-- Float to float (R176): rounded once; NaN and infinities as the destination takes them. -/
def fcvtV (dst : FFmt) (mode : Rm) (r : Nat) (x : FVal) : Nat × Flags :=
  match x with
  | .nan s => nanResult dst (if s then flagNV else 0)
  | .inf n => infResult dst n
  | .fin n m e => roundTo dst mode r ⟨n, m, e, false⟩

/-- Integer to float, rounded once. -/
def fofInt (dst : FFmt) (mode : Rm) (r : Nat) (v : Int) : Nat × Flags :=
  roundTo dst mode r ⟨decide (v < 0), v.natAbs, 0, false⟩

/-- A magnitude rounded to an integer, with whether it was inexact. -/
def roundInt (mode : Rm) (r : Nat) (a : Approx) : Int × Bool :=
  let (q, inx) := roundAt mode r a 0
  (if a.neg then -(q : Int) else q, inx)

/-- A magnitude rounded to an integer of the range lo to hi: under SR one beyond the limit of its sign rounds as RNE does (05 R174). -/
def roundIntIn (lo hi : Int) (mode : Rm) (r : Nat) (a : Approx) : Int × Bool :=
  let (t, inx) := roundAt .rtz 0 a 0
  let lim := (if a.neg then lo else hi).natAbs
  let beyond := decide (lim < t) || (decide (t = lim) && inx)
  roundInt (if mode = .sr ∧ beyond = true then .rne else mode) r a

/-- Float to integer in the range lo to hi (R143, R184): out of range saturates with NV, a NaN gives 0 with NV, otherwise
an inexact result raises NX. -/
def ftoInt (mode : Rm) (r : Nat) (lo hi : Int) (x : FVal) : Int × Flags :=
  match x with
  | .nan _ => (0, flagNV)
  | .inf n => (if n then lo else hi, flagNV)
  | .fin n m e =>
    let (v, inx) := roundIntIn lo hi mode r ⟨n, m, e, false⟩
    if v < lo then (lo, flagNV) else if v > hi then (hi, flagNV)
    else (v, if inx then flagNX else 0)

/-- R175: one step of an LFSR; the new state is also the output. -/
def lfsrNext (s : BitVec 32) : BitVec 32 :=
  if s.getLsbD 0 then (s >>> 1) ^^^ 0x80200003#32 else s >>> 1

end Sys2Proof.Machine
end

