-- ==== Sys2Proof/Machine/Special.lean ====
section
/-!
DEFINITION. The special functions of VSPEC (05 R182). At f16 and bf16 a function is computed in fixed point with more than 600
fraction bits, so that its exact value is known far beyond any rounding boundary, and rounded once; at f32 the result is
one of the values within 2 ulp of the exact value, which one being a free value.
-/

namespace Sys2Proof.Machine

/-- The functions of VSPEC (R182), in the order of their codes. -/
inductive SpecOp where
  | sqrt | rcp | rsqrt | exp2 | log2 | exp | log | tanh | sigm | gelu | silu | sin | cos | erf
  deriving DecidableEq, Repr

/-- Fraction bits of the fixed-point values below. -/
def fxBits : Nat := 640

/-- 1 in fixed point. -/
def fxOne : Nat := 2 ^ 640

/-- π/2 × 2^1024, truncated. -/
def halfPi1024 : Nat :=
  0x1921fb54442d18469898cc51701b839a252049c1114cf98e804177d4c76273644a29410f31c6809bbdf2a33679a748636605614dbe4be286e9fc26adadaa3848bc90b6aecc4bcfd8de89885d34c6fdad617feb96de80d6fdbdc70d7f6b5133f4b5d3e4822f8963fcc9250cca3d9c8b67b8400f97142c77e0b31b4906c38aba734

/-- ln 2 × 2^1024, truncated. -/
def ln2At1024 : Nat :=
  0xb17217f7d1cf79abc9e3b39803f2f6af40f343267298b62d8a0d175b8baafa2be7b876206debac98559552fb4afa1b10ed2eae35c138214427573b291169b8253e96ca16224ae8c51acbda11317c387eb9ea9bc3b136603b256fa0ec7657f74b72ce87b19d6548caf5dfa6bd38303248655fa1872f20e3a2da2d97c50f3fd5c6

/-- 2/√π × 2^640, truncated. -/
def twoOverSqrtPi : Nat :=
  0x120dd750429b6d11ae3a914fed7fd8688281341d7587cea2e7342b06199cc416180eb39f0b24e1e2281806c12d98f35d77a3e9ddc91c394f0e9eedf0efffd84a2a4ac3b98489b8cbd3845e8fef6ff6af9

/-- √½ × 2^640, truncated. -/
def sqrtHalf : Nat :=
  0xb504f333f9de6484597d89b3754abe9f1d6f60ba893ba84ced17ac85833399154afc83043ab8a2c3a8b1fe6fdc83db390f74a85e439c7b4a780487363dfa2768d2202e8742af1f4e53059c6011bc337b

def fxMul (a b : Nat) : Nat := a * b / 2 ^ 640

/-- m × 2^e in fixed point. -/
def toFx (m : Nat) (e : Int) : Nat :=
  let k := e + 640
  if k ≥ 0 then m * 2 ^ k.toNat else m / 2 ^ (-k).toNat

/-- Σ r^i / i! from term `t` on. -/
def expSeries (r : Nat) : Nat → Nat → Nat → Nat
  | 0, _, _ => 0
  | fuel + 1, i, t => t + expSeries r fuel (i + 1) (fxMul t r / (i + 1))

/-- e^v for a fixed-point v of either sign: the result as fixed point times 2^k. -/
def expFx (v : Int) : Nat × Int :=
  let l2 : Nat := ln2At1024 / 2 ^ 384
  let k := v / (l2 : Int)
  let rr := (v - k * (l2 : Int)).toNat
  (expSeries rr 150 0 fxOne, k)

/-- Σ z^(2i+1)/(2i+1), for atanh. -/
def atanhSeries (z2 : Nat) : Nat → Nat → Nat → Nat
  | 0, _, _ => 0
  | fuel + 1, i, t => t / (2 * i + 1) + atanhSeries z2 fuel (i + 1) (fxMul t z2)

/-- ln of m × 2^e, m non-zero, as a fixed-point value of either sign. -/
def lnFx (m : Nat) (e : Int) : Int :=
  let n := bitLen m
  -- the significand scaled into [1/2, 1), then into [√½, √2)
  let x := m * 2 ^ (640 - n)
  let ex := e + n
  let (x, ex) := if x < sqrtHalf then (2 * x, ex - 1) else (x, ex)
  let num : Int := (x : Int) - fxOne
  let z := num.natAbs * fxOne / (x + fxOne)
  let s : Int := 2 * atanhSeries (fxMul z z) 140 0 z
  (if num < 0 then -s else s) + ex * ((ln2At1024 / 2 ^ 384 : Nat) : Int)

/-- Σ over the terms 2^i z^(2i+1)/(2i+1)!! from term `t` on. -/
def erfSeries (z2 : Nat) : Nat → Nat → Nat → Nat
  | 0, _, _ => 0
  | fuel + 1, i, t => t + erfSeries z2 fuel (i + 1) (fxMul t (2 * z2) / (2 * i + 3))

/-- erf z for a fixed-point z of 0 to 20. -/
def erfFx (z : Nat) : Nat :=
  let z2 := fxMul z z
  let (x, k) := expFx (-(z2 : Int))
  let ez := if k ≥ 0 then x * 2 ^ k.toNat else x / 2 ^ (-k).toNat
  fxMul twoOverSqrtPi (fxMul ez (erfSeries z2 1600 0 z))

/-- Σ ±r^i/i! over i of one parity, from term `t` of index `i` on: sine from i = 1, cosine from i = 0. -/
def trigSeries (r2 : Nat) : Nat → Nat → Int → Int
  | 0, _, _ => 0
  | fuel + 1, i, t => t + trigSeries r2 fuel (i + 2) (-(t * r2 / 2 ^ 640) / ((i + 1) * (i + 2)))

/-- sin (or cos) of m × 2^e, m non-zero, as a fixed-point value of either sign. -/
def trigFx (cosine neg : Bool) (m : Nat) (e : Int) : Int :=
  -- reduced modulo π/2 with 1,024 fraction bits
  let k := e + 1024
  let v := if k ≥ 0 then m * 2 ^ k.toNat else m / 2 ^ (-k).toNat
  let n := v / halfPi1024
  let r := (v % halfPi1024) / 2 ^ 384
  let r2 := fxMul r r
  let s := trigSeries r2 90 1 r
  let c := trigSeries r2 90 0 fxOne
  let q := n % 4
  if cosine then
    if q = 0 then c else if q = 1 then -s else if q = 2 then -c else s
  else
    let x := if q = 0 then s else if q = 1 then c else if q = 2 then -s else -c
    if neg then -x else x

/-- A fixed-point value times 2^k as an inexact magnitude; the last 32 computed bits are dropped. -/
def fxApprox (neg : Bool) (v : Nat) (k : Int) : Approx := ⟨neg, v / 2 ^ 32, k - 608, true⟩

/-- A positive magnitude too small to be represented by any format. -/
def approxTiny (neg : Bool) : Approx := ⟨neg, 1, -100000, true⟩

/-- A magnitude beyond every format. -/
def approxHuge (neg : Bool) : Approx := ⟨neg, 1, 100000, true⟩

/-- e^x for x = ±m × 2^e, non-zero. -/
def expApprox (neg : Bool) (m : Nat) (e : Int) : Approx :=
  if e + bitLen m > 11 then (if neg then approxTiny false else approxHuge false)
  else
    let v := toFx m e
    let (y, k) := expFx (if neg then -(v : Int) else v)
    fxApprox false y k

/-- 2^x for x = ±m × 2^e, non-zero; exact at integers. -/
def exp2Approx (neg : Bool) (m : Nat) (e : Int) : Approx :=
  if e + bitLen m > 14 then (if neg then approxTiny false else approxHuge false)
  else
    let v := toFx m e
    let i := v / fxOne
    if v % fxOne = 0 then ⟨false, 1, if neg then -(i : Int) else i, false⟩
    else
      let fr := v % fxOne
      let l2 : Nat := ln2At1024 / 2 ^ 384
      let (y, k) := expFx (if neg then -(fxMul fr l2 : Nat) else (fxMul fr l2 : Nat))
      fxApprox false y (k + (if neg then -(i : Int) else i))

/-- ln x for x = m × 2^e other than 1. -/
def logApprox (m : Nat) (e : Int) : Approx :=
  let v := lnFx m e
  fxApprox (decide (v < 0)) v.natAbs 0

/-- log2 x for x = m × 2^e; exact at powers of two. -/
def log2Approx (m : Nat) (e : Int) : Approx :=
  if m = 2 ^ (bitLen m - 1) then
    let k := e + bitLen m - 1
    ⟨decide (k < 0), k.natAbs, 0, false⟩
  else
    let v := lnFx m e
    fxApprox (decide (v < 0)) (v.natAbs * fxOne / (ln2At1024 / 2 ^ 384)) 0

/-- tanh x, kept below 1. -/
def tanhApprox (neg : Bool) (m : Nat) (e : Int) : Approx :=
  if e + bitLen m > 9 then fxApprox neg (fxOne - 1) 0
  else
    let (y, k) := expFx (-(2 * (toFx m e) : Nat))
    let t := if k ≥ 0 then y * 2 ^ k.toNat else y / 2 ^ (-k).toNat
    fxApprox neg (Nat.min (fxOne - 1) ((fxOne - t) * fxOne / (fxOne + t))) 0

/-- 1 / (1 + e^−x) as a fixed-point value below 1. -/
def sigmFx (neg : Bool) (m : Nat) (e : Int) : Nat :=
  if e + bitLen m > 9 then (if neg then 0 else fxOne - 1)
  else
    -- t = e^−|x|, at most 1
    let (y, k) := expFx (-(toFx m e : Nat))
    let t := if k ≥ 0 then y * 2 ^ k.toNat else y / 2 ^ (-k).toNat
    if neg then t * fxOne / (fxOne + t) else Nat.min (fxOne - 1) (fxOne * fxOne / (fxOne + t))

/-- The normal distribution function (1 + erf(x / √2)) / 2 as a fixed-point value. -/
def phiFx (neg : Bool) (m : Nat) (e : Int) : Nat :=
  if e + bitLen m > 4 then (if neg then 0 else fxOne - 1)
  else
    let h := erfFx (fxMul (toFx m e) sqrtHalf)
    (if neg then fxOne - h else fxOne + h) / 2

/-- The exact value of a function other than the correctly rounded three at a finite non-zero operand. -/
def specApprox (op : SpecOp) (neg : Bool) (m : Nat) (e : Int) : Approx :=
  match op with
  | .exp => expApprox neg m e
  | .exp2 => exp2Approx neg m e
  | .log => logApprox m e
  | .log2 => log2Approx m e
  | .tanh => tanhApprox neg m e
  | .sigm => let v := sigmFx neg m e; if v = 0 then approxTiny false else fxApprox false v 0
  | .gelu =>
    let v := phiFx neg m e
    if v < 2 ^ 64 then approxTiny neg else let a := fxApprox neg (v * m) 0; { a with exp := a.exp + e }
  | .silu =>
    let v := sigmFx neg m e
    if v < 2 ^ 64 then approxTiny neg else let a := fxApprox neg (v * m) 0; { a with exp := a.exp + e }
  | .sin => let v := trigFx false neg m e; fxApprox (decide (v < 0)) v.natAbs 0
  | .cos => let v := trigFx true neg m e; fxApprox (decide (v < 0)) v.natAbs 0
  | .erf =>
    if e + bitLen m > 4 then fxApprox neg (fxOne - 1) 0 else fxApprox neg (erfFx (toFx m e)) 0
  | .sqrt | .rcp | .rsqrt => ⟨neg, m, e, false⟩

/-- Whether the magnitude that a code names lies within 2 ulp of an exact one, in the ulp of the exact one's binade (R182). -/
def within2 (f : FFmt) (a : Approx) (c : Nat) : Bool :=
  match fdecode f c with
  | .fin _ m e =>
    let ulp := max (a.lead - f.fracBits) (f.emin - f.fracBits)
    let q := min a.exp (min e ulp)
    let v := m * 2 ^ (e - q).toNat
    let lo := a.mant * 2 ^ (a.exp - q).toNat
    let hi := (if a.sticky then a.mant + 1 else a.mant) * 2 ^ (a.exp - q).toNat
    let two := 2 ^ (ulp + 1 - q).toNat
    decide (hi ≤ v + two) && decide (v ≤ lo + two)
  | _ => false

/-- R182 at f32: a value within 2 ulp of the exact one, and which of them is a free value. NX tells whether the result differs from the
exact value; overflow and UF are those of R176 under the rounding mode. UNVERIFIED, log 7. -/
def pickWithin2 (f : FFmt) (mode : Rm) (pick : Nat) (a : Approx) : Nat × Flags :=
  let (lowBits, lowFl) := roundTo f .rtz 0 a
  let (rmBits, rmFl) := roundTo f (if mode = .sr then .rne else mode) 0 a
  if rmFl &&& flagOF ≠ 0 then (rmBits, rmFl)
  else
    let mag := lowBits % f.signBit
    let near := ((List.range 6).map (fun i => mag - 2 + i)).filter (fun c => decide (c ≤ f.maxCode) && within2 f a c)
    let c := near.getD (pick % near.length) mag
    let fl : Flags := if lowFl = 0 ∧ c = mag then 0 else flagNX ||| (if isTiny f mode a then flagUF else 0)
    (lowBits - mag + c, fl)

/-- R182: a function of VSPEC on an encoding. -/
def specFn (op : SpecOp) (f : FFmt) (mode : Rm) (r : Nat) (bits : Nat) : Nat × Flags :=
  let x := fdecode f bits
  let one := (f.bias.toNat) * 2 ^ f.fracBits
  let zero (n : Bool) : Nat × Flags := ((if n then f.signBit else 0), 0)
  let finish (a : Approx) : Nat × Flags :=
    match f with
    | .f32 => pickWithin2 f mode (Config.specPick (match op with
        | .sqrt => 0 | .rcp => 1 | .rsqrt => 2 | .exp2 => 3 | .log2 => 4 | .exp => 5 | .log => 6 | .tanh => 7
        | .sigm => 8 | .gelu => 9 | .silu => 10 | .sin => 11 | .cos => 12 | .erf => 13) (BitVec.ofNat 32 bits)) a
    | _ => roundTo f mode r a
  match op with
  | .sqrt => fsqrtV f mode r x
  | .rsqrt => frsqrtV f mode r x
  | .rcp => fdivV f mode r (.fin false 1 0) x
  | _ =>
    match x with
    | .nan s => nanResult f (if s then flagNV else 0)
    | .inf n =>
      match op with
      | .exp2 | .exp => if n then zero false else infResult f false
      | .log2 | .log => if n then nanResult f flagNV else infResult f false
      | .tanh | .erf => (one + (if n then f.signBit else 0), 0)
      | .sigm => if n then zero false else (one, 0)
      | .gelu | .silu => if n then zero true else infResult f false
      | .sin | .cos => nanResult f flagNV
      | .sqrt | .rcp | .rsqrt => zero n
    | .fin n m e =>
      if m = 0 then
        match op with
        | .exp2 | .exp | .cos => (one, 0)
        | .log2 | .log => ((infResult f true).1, flagDZ)
        | .sigm => (one - 2 ^ f.fracBits, 0)
        | .tanh | .erf | .gelu | .silu | .sin => zero n
        | .sqrt | .rcp | .rsqrt => zero n
      else
        match op with
        | .log2 | .log =>
          if n then nanResult f flagNV
          else if bits % (2 * f.signBit) = one then zero false
          else finish (specApprox op n m e)
        | _ => finish (specApprox op n m e)

end Sys2Proof.Machine
end

