-- ==== Sys2Proof/Machine/QueueOp.lean ====
section
/-!
DEFINITION. The operations that the entries of a hart's vector command queue name (04 R157): one constructor for each
instruction pattern of majors 0x18 to 0x35, with the function inside the pattern and the register fields as numbers.
-/

namespace Sys2Proof.Machine

/-- The register and control fields of the vector formats (R91, R95). -/
structure VF where
  vd : Nat := 0
  va : Nat := 0
  vb : Nat := 0
  m : Bool := false
  ms : Nat := 0
  ds : Nat := 0
  x : Bool := false
  deriving DecidableEq, Repr

/-- VINT and VINTS (R179). -/
inductive IntOp where
  | add | sub | subr | mul | mulh | mulhu | min | max | minu | maxu | and | or | xor | sll | srl | sra
  deriving DecidableEq, Repr

/-- VFP, VFPS (R180) and VFP64 (R181); `sqrt` is VFP64's alone. -/
inductive FpOp where
  | add | sub | mul | div | min | max | fma | fnma | fms | csign | nsign | xsign | kind | subr | sqrt
  deriving DecidableEq, Repr

/-- VCMP and VCMPS (R183). -/
inductive CmpOp where
  | eq | ne | lt | ltu | le | leu | gt | gtu | feq | fne | flt | fle | fgt | fge | fcun
  deriving DecidableEq, Repr

/-- The VCVT major (R184). -/
inductive CvtOp where
  | cvt | widen | narrow | narrows
  deriving DecidableEq, Repr

/-- VRED (R190). -/
inductive RedOp where
  | sum | max | min | maxu | minu | and | or | xor | fsum | fmax | fmin
  deriving DecidableEq, Repr

/-- VPERM (R192 to R195). -/
inductive PermOp where
  | shup | shdn | gather | compress | expand | merge | move | splat | head | acnt | xup | xdn | xbc | xrev
  deriving DecidableEq, Repr

/-- VBITS (R196). -/
inductive BitOp where
  | unpack | bext | fsl | fsr | lut | clz | ctz | popc | brev
  deriving DecidableEq, Repr

/-- VMEM (R199 to R201); `u` marks the stores without an element order. -/
inductive MemOp where
  | ld | lds | ldx | ldff
  | st (u : Bool) | sts (u : Bool) | stx (u : Bool)
  deriving DecidableEq, Repr

/-- VGRID slices (R202): row, column or diagonal. -/
inductive SliceOp where
  | row | col | diag
  deriving DecidableEq, Repr

/-- VQSRC (R197). -/
inductive QsrcOp where
  | mv | add | sub | mul | fadd | fsub | fmul | fma | and | or | xor
  deriving DecidableEq, Repr

/-- MASK (R205, R206). -/
inductive MaskOp where
  | and | or | xor | andn | orn | nand | nor | xnor | mv | not | set | clr | sbf | sif | sof | popc | first | ld | st
  deriving DecidableEq, Repr

/-- STRM (06 R232). -/
inductive StrmOp where
  | sopen | sclose | savail | swait | sskip | sdrain | srewind | spref | sgather | sldxBg | strans | sstat
  deriving DecidableEq, Repr

/-- COPY (07 R253). -/
inductive CopyOp where
  | cpy | cpfill | cpcvt | cplz | cpxp | cpcrc | cpcrc64 | cprel | cpshad | cpbl | cpwait
  deriving DecidableEq, Repr

/-- Whether a copy command honours VSTART, and has zeroed it once it has started (07 R256, R263, R267). DESIGN CHOICE, log 58. -/
def CopyOp.fromVstart (op : CopyOp) : Bool := op == .cpy || op == .cpfill || op == .cpxp || op == .cprel

/-- STOR (09 R320). -/
inductive StorOp where
  | nring | ncqhd | nqstat | ncqpoll
  deriving DecidableEq, Repr

/-- LINK (10 R346). -/
inductive LinkOp where
  | lturn | lstat | lpause | lresume | lremap | ltrain | lwait
  deriving DecidableEq, Repr

/-- BEACON (11 R363). -/
inductive BeaconOp where
  | bput | bget | batom | bnotify | bwait | bpoll | bfence | bstat | blport
  deriving DecidableEq, Repr

/-- What a queue entry does when it runs. The scalar operands were captured at issue and stand in the entry. -/
inductive QOp where
  | vint (op : IntOp) (vs : Bool) (f : VF)
  | vfp (op : FpOp) (vs : Bool) (f : VF)
  | vfp64 (op : FpOp) (f : VF)
  | vspec (op : SpecOp) (f : VF)
  | vcmp (op : CmpOp) (vs : Bool) (f : VF)
  | vcvt (op : CvtOp) (fmt : Nat) (f : VF)
  | vmxpack (fmt : Nat) (f : VF)
  | vmxunpack (fmt : Nat) (f : VF)
  | vamax (f : VF)
  | vbamax (f : VF)
  | vscale (fmt : Nat)
  | vquant (f : VF)
  | vdequant (f : VF)
  | vred (op : RedOp) (f : VF)
  | vperm (op : PermOp) (f : VF)
  | vbits (op : BitOp) (f : VF)
  | vcfg (n : Nat)
  | vset (vtype : BitVec 16) (ds : Nat) (avl : Nat)
  | setVl (vl : Nat)
  | vmem (op : MemOp) (f : VF)
  | gslice (op : SliceOp) (write : Bool) (f : VF)
  | gpass (q : Nat)
  | vqsrc (op : QsrcOp) (peek : Bool) (qn : Nat) (f : VF)
  | venq (qn : Nat) (f : VF)
  | mask (op : MaskOp) (md ma mb : Nat)
  | tmul (qc qr sk : Nat) (p : Bool) (acc ds gc : Nat)
  | tmulsp (qc qr sk : Nat) (p : Bool) (acc ds gc : Nat)
  | tmodeOn (qmask : Nat)
  | tmodeOff (qmask : Nat)
  | tshape (ds : Nat)
  | tzero (acc ds : Nat)
  | trd (col : Bool) (vd ds : Nat)
  | twr (col : Bool) (va ds : Nat)
  | tpred (ds : Nat)
  | tsync
  | strm (op : StrmOp) (qn : Nat) (ra rb ds : Nat)
  | copy (op : CopyOp) (spd sps : Bool) (ds sc : Nat)
  | stor (op : StorOp)
  | link (op : LinkOp)
  | beacon (op : BeaconOp)
  deriving DecidableEq, Repr

end Sys2Proof.Machine
end

