-- ==== Sys2Proof/Machine/Sparse.lean ====
section
/-!
DEFINITION. Sparse maps from numbers: lists of (key, value) pairs whose keys rise strictly. A key that is not listed
holds the map's default. `smSet` keeps no entry equal to the default, so equal maps are equal lists.
-/

namespace Sys2Proof.Machine

/-- A sparse map keyed by numbers. -/
abbrev SMap (α : Type) := List (Nat × α)

variable {α : Type}

/-- The value at `k`, if listed. -/
def smFind (m : SMap α) (k : Nat) : Option α :=
  match m with
  | [] => none
  | (j, v) :: t => if j = k then some v else smFind t k

/-- The value at `k`, or the default. -/
def smGet (d : α) (m : SMap α) (k : Nat) : α := (smFind m k).getD d

/-- `m` with `v` listed at `k`. -/
def smPut (m : SMap α) (k : Nat) (v : α) : SMap α :=
  match m with
  | [] => [(k, v)]
  | (j, w) :: t => if k < j then (k, v) :: (j, w) :: t else if k = j then (k, v) :: t else (j, w) :: smPut t k v

/-- `m` with nothing listed at `k`. -/
def smErase (m : SMap α) (k : Nat) : SMap α := m.filter (fun p => p.1 ≠ k)

/-- `m` holding `v` at `k`, in the canonical form for the default `d`. -/
def smSet [DecidableEq α] (d : α) (m : SMap α) (k : Nat) (v : α) : SMap α :=
  if v = d then smErase m k else smPut m k v

/-- The keys rise strictly. -/
def smSorted (m : SMap α) : Bool :=
  match m with
  | [] => true
  | (j, _) :: t => (match t with | [] => true | (k, _) :: _ => decide (j < k)) && smSorted t

/-- The canonical form: keys rise strictly and no entry equals the default. -/
def smWf [DecidableEq α] (d : α) (m : SMap α) : Bool := smSorted m && m.all (fun p => p.2 ≠ d)

/-- A log of `cap` slots after record number `n` (counted from 0): once it is full, a record overwrites the oldest in its slot
(02 R69, 13 R406). -/
def ringPut {α : Type} (cap n : Nat) (log : List α) (x : α) : List α :=
  if log.length < cap then log ++ [x] else log.set (n % cap) x

/-- What a saturating 32-bit count reads. -/
def sat32 (n : Nat) : BitVec 32 := BitVec.ofNat 32 (Nat.min n 0xFFFFFFFF)

end Sys2Proof.Machine
end

