-- ==== Sys2Proof/Syntax.lean ====
section
/-!
DEFINITION. The instructions and events of the FH-800 (stepping A0): one constructor of `Instr` for each row of the
opcode table. Encoded instructions (03 R90 to R115) carry the fields of their encoding, under the names of R91;
the 69 rows without an encoding are the machine's events and host commands (95, "What each step holds"), which carry
what the outside or the schedule supplies.
-/

namespace Sys2Proof

/-- One command as the launch sequencer reads it from a ring (12 R382, R383): the queue it came from, its sequence
number, the opcode and flag bytes, and the 64-byte blocks of its fields. -/
structure HostCmd where
  queue : Nat
  seq : BitVec 64
  opcode : BitVec 8
  flags : BitVec 8
  block : BitVec 512
  block2 : BitVec 512
  deriving DecidableEq, Repr

/-- One packet of the Beacon fabric (11 R360): the header fields and the payload bytes, and whether a router's buffer has lost its data
(R370). -/
structure Packet where
  gpn : BitVec 12
  typ : BitVec 4
  dst : BitVec 12
  vc : BitVec 1
  last : BitVec 1
  src : BitVec 12
  role : BitVec 7
  slot : BitVec 8
  addr : BitVec 64
  plen : BitVec 11
  rcnt : BitVec 12
  opw : BitVec 16
  xlen : BitVec 64
  payload : List (BitVec 8)
  bad : Bool := false
  deriving DecidableEq, Repr

/-- The instruction set: `rd ra rb rc` name scalar registers, `vd va vb` the fields of the vector formats, `md ma mb`
those of the mask format, `m ms ds x` the vector control fields (R95). -/
inductive Instr where
  /-- ADD (R139). -/
  | add (rd : BitVec 5) (ra : BitVec 5) (rb : BitVec 5)
  /-- SUB (R139). -/
  | sub (rd : BitVec 5) (ra : BitVec 5) (rb : BitVec 5)
  /-- AND (R139). -/
  | and (rd : BitVec 5) (ra : BitVec 5) (rb : BitVec 5)
  /-- OR (R139). -/
  | or (rd : BitVec 5) (ra : BitVec 5) (rb : BitVec 5)
  /-- XOR (R139). -/
  | xor (rd : BitVec 5) (ra : BitVec 5) (rb : BitVec 5)
  /-- ANDN (R139). -/
  | andn (rd : BitVec 5) (ra : BitVec 5) (rb : BitVec 5)
  /-- ORN (R139). -/
  | orn (rd : BitVec 5) (ra : BitVec 5) (rb : BitVec 5)
  /-- XNOR (R139). -/
  | xnor (rd : BitVec 5) (ra : BitVec 5) (rb : BitVec 5)
  /-- SLL (R139). -/
  | sll (rd : BitVec 5) (ra : BitVec 5) (rb : BitVec 5)
  /-- SRL (R139). -/
  | srl (rd : BitVec 5) (ra : BitVec 5) (rb : BitVec 5)
  /-- SRA (R139). -/
  | sra (rd : BitVec 5) (ra : BitVec 5) (rb : BitVec 5)
  /-- ROL (R139). -/
  | rol (rd : BitVec 5) (ra : BitVec 5) (rb : BitVec 5)
  /-- ROR (R139). -/
  | ror (rd : BitVec 5) (ra : BitVec 5) (rb : BitVec 5)
  /-- SLT (R139). -/
  | slt (rd : BitVec 5) (ra : BitVec 5) (rb : BitVec 5)
  /-- SLTU (R139). -/
  | sltu (rd : BitVec 5) (ra : BitVec 5) (rb : BitVec 5)
  /-- MUL (R139). -/
  | mul (rd : BitVec 5) (ra : BitVec 5) (rb : BitVec 5)
  /-- MULH (R139). -/
  | mulh (rd : BitVec 5) (ra : BitVec 5) (rb : BitVec 5)
  /-- MULHU (R139). -/
  | mulhu (rd : BitVec 5) (ra : BitVec 5) (rb : BitVec 5)
  /-- MULHSU (R139). -/
  | mulhsu (rd : BitVec 5) (ra : BitVec 5) (rb : BitVec 5)
  /-- DIV (R139). -/
  | div (rd : BitVec 5) (ra : BitVec 5) (rb : BitVec 5)
  /-- DIVU (R139). -/
  | divu (rd : BitVec 5) (ra : BitVec 5) (rb : BitVec 5)
  /-- REM (R139). -/
  | rem (rd : BitVec 5) (ra : BitVec 5) (rb : BitVec 5)
  /-- REMU (R139). -/
  | remu (rd : BitVec 5) (ra : BitVec 5) (rb : BitVec 5)
  /-- MIN (R139). -/
  | min (rd : BitVec 5) (ra : BitVec 5) (rb : BitVec 5)
  /-- MAX (R139). -/
  | max (rd : BitVec 5) (ra : BitVec 5) (rb : BitVec 5)
  /-- MINU (R139). -/
  | minu (rd : BitVec 5) (ra : BitVec 5) (rb : BitVec 5)
  /-- MAXU (R139). -/
  | maxu (rd : BitVec 5) (ra : BitVec 5) (rb : BitVec 5)
  /-- CLZ (R139). -/
  | clz (rd : BitVec 5) (ra : BitVec 5)
  /-- CTZ (R139). -/
  | ctz (rd : BitVec 5) (ra : BitVec 5)
  /-- POPC (R139). -/
  | popc (rd : BitVec 5) (ra : BitVec 5)
  /-- REV8 (R139). -/
  | rev8 (rd : BitVec 5) (ra : BitVec 5)
  /-- SLLI (R139). -/
  | slli (rd : BitVec 5) (ra : BitVec 5) (sh : BitVec 6)
  /-- SRLI (R139). -/
  | srli (rd : BitVec 5) (ra : BitVec 5) (sh : BitVec 6)
  /-- SRAI (R139). -/
  | srai (rd : BitVec 5) (ra : BitVec 5) (sh : BitVec 6)
  /-- RORI (R139). -/
  | rori (rd : BitVec 5) (ra : BitVec 5) (sh : BitVec 6)
  /-- SEXTB (R139). -/
  | sextb (rd : BitVec 5) (ra : BitVec 5)
  /-- SEXTH (R139). -/
  | sexth (rd : BitVec 5) (ra : BitVec 5)
  /-- SEXTW (R139). -/
  | sextw (rd : BitVec 5) (ra : BitVec 5)
  /-- ZEXTW (R139). -/
  | zextw (rd : BitVec 5) (ra : BitVec 5)
  /-- SELZ (R100). -/
  | selz (rd : BitVec 5) (ra : BitVec 5) (rb : BitVec 5) (rc : BitVec 5)
  /-- SELNZ (R100). -/
  | selnz (rd : BitVec 5) (ra : BitVec 5) (rb : BitVec 5) (rc : BitVec 5)
  /-- FSL (R141). -/
  | fsl (rd : BitVec 5) (ra : BitVec 5) (rb : BitVec 5) (rc : BitVec 5)
  /-- FSR (R141). -/
  | fsr (rd : BitVec 5) (ra : BitVec 5) (rb : BitVec 5) (rc : BitVec 5)
  /-- BFX (R141). -/
  | bfx (rd : BitVec 5) (ra : BitVec 5) (rb : BitVec 5) (rc : BitVec 5)
  /-- BFXS (R141). -/
  | bfxs (rd : BitVec 5) (ra : BitVec 5) (rb : BitVec 5) (rc : BitVec 5)
  /-- BFI (R141). -/
  | bfi (rd : BitVec 5) (ra : BitVec 5) (rb : BitVec 5) (rc : BitVec 5)
  /-- BDEP (R141). -/
  | bdep (rd : BitVec 5) (ra : BitVec 5) (rb : BitVec 5)
  /-- BCMPR (R141). -/
  | bcmpr (rd : BitVec 5) (ra : BitVec 5) (rb : BitVec 5)
  /-- BREV (R141). -/
  | brev (rd : BitVec 5) (ra : BitVec 5)
  /-- FADD_S (R143). -/
  | faddS (rd : BitVec 5) (ra : BitVec 5) (rb : BitVec 5)
  /-- FSUB_S (R143). -/
  | fsubS (rd : BitVec 5) (ra : BitVec 5) (rb : BitVec 5)
  /-- FMUL_S (R143). -/
  | fmulS (rd : BitVec 5) (ra : BitVec 5) (rb : BitVec 5)
  /-- FDIV_S (R143). -/
  | fdivS (rd : BitVec 5) (ra : BitVec 5) (rb : BitVec 5)
  /-- FSQRT_S (R143). -/
  | fsqrtS (rd : BitVec 5) (ra : BitVec 5)
  /-- FMIN_S (R143). -/
  | fminS (rd : BitVec 5) (ra : BitVec 5) (rb : BitVec 5)
  /-- FMAX_S (R143). -/
  | fmaxS (rd : BitVec 5) (ra : BitVec 5) (rb : BitVec 5)
  /-- FMA_S (R143). -/
  | fmaS (rd : BitVec 5) (ra : BitVec 5) (rb : BitVec 5) (rc : BitVec 5)
  /-- FNMA_S (R143). -/
  | fnmaS (rd : BitVec 5) (ra : BitVec 5) (rb : BitVec 5) (rc : BitVec 5)
  /-- FCSIGN_S (R143). -/
  | fcsignS (rd : BitVec 5) (ra : BitVec 5) (rb : BitVec 5)
  /-- FNSIGN_S (R143). -/
  | fnsignS (rd : BitVec 5) (ra : BitVec 5) (rb : BitVec 5)
  /-- FXSIGN_S (R143). -/
  | fxsignS (rd : BitVec 5) (ra : BitVec 5) (rb : BitVec 5)
  /-- FEQ_S (R143). -/
  | feqS (rd : BitVec 5) (ra : BitVec 5) (rb : BitVec 5)
  /-- FLT_S (R143). -/
  | fltS (rd : BitVec 5) (ra : BitVec 5) (rb : BitVec 5)
  /-- FLE_S (R143). -/
  | fleS (rd : BitVec 5) (ra : BitVec 5) (rb : BitVec 5)
  /-- FKIND_S (R143). -/
  | fkindS (rd : BitVec 5) (ra : BitVec 5)
  /-- FTOI_S (R143). -/
  | ftoiS (rd : BitVec 5) (ra : BitVec 5)
  /-- FTOIU_S (R143). -/
  | ftoiuS (rd : BitVec 5) (ra : BitVec 5)
  /-- ITOF_S (R143). -/
  | itofS (rd : BitVec 5) (ra : BitVec 5)
  /-- UTOF_S (R143). -/
  | utofS (rd : BitVec 5) (ra : BitVec 5)
  /-- FTOH_S (R143). -/
  | ftohS (rd : BitVec 5) (ra : BitVec 5)
  /-- FTOB_S (R143). -/
  | ftobS (rd : BitVec 5) (ra : BitVec 5)
  /-- HTOF_S (R143). -/
  | htofS (rd : BitVec 5) (ra : BitVec 5)
  /-- BTOF_S (R143). -/
  | btofS (rd : BitVec 5) (ra : BitVec 5)
  /-- FCVTX_S (R143). -/
  | fcvtxS (rd : BitVec 5) (ra : BitVec 5)
  /-- FADD_D (R143). -/
  | faddD (rd : BitVec 5) (ra : BitVec 5) (rb : BitVec 5)
  /-- FSUB_D (R143). -/
  | fsubD (rd : BitVec 5) (ra : BitVec 5) (rb : BitVec 5)
  /-- FMUL_D (R143). -/
  | fmulD (rd : BitVec 5) (ra : BitVec 5) (rb : BitVec 5)
  /-- FDIV_D (R143). -/
  | fdivD (rd : BitVec 5) (ra : BitVec 5) (rb : BitVec 5)
  /-- FSQRT_D (R143). -/
  | fsqrtD (rd : BitVec 5) (ra : BitVec 5)
  /-- FMIN_D (R143). -/
  | fminD (rd : BitVec 5) (ra : BitVec 5) (rb : BitVec 5)
  /-- FMAX_D (R143). -/
  | fmaxD (rd : BitVec 5) (ra : BitVec 5) (rb : BitVec 5)
  /-- FMA_D (R143). -/
  | fmaD (rd : BitVec 5) (ra : BitVec 5) (rb : BitVec 5) (rc : BitVec 5)
  /-- FNMA_D (R143). -/
  | fnmaD (rd : BitVec 5) (ra : BitVec 5) (rb : BitVec 5) (rc : BitVec 5)
  /-- FCSIGN_D (R143). -/
  | fcsignD (rd : BitVec 5) (ra : BitVec 5) (rb : BitVec 5)
  /-- FNSIGN_D (R143). -/
  | fnsignD (rd : BitVec 5) (ra : BitVec 5) (rb : BitVec 5)
  /-- FXSIGN_D (R143). -/
  | fxsignD (rd : BitVec 5) (ra : BitVec 5) (rb : BitVec 5)
  /-- FEQ_D (R143). -/
  | feqD (rd : BitVec 5) (ra : BitVec 5) (rb : BitVec 5)
  /-- FLT_D (R143). -/
  | fltD (rd : BitVec 5) (ra : BitVec 5) (rb : BitVec 5)
  /-- FLE_D (R143). -/
  | fleD (rd : BitVec 5) (ra : BitVec 5) (rb : BitVec 5)
  /-- FKIND_D (R143). -/
  | fkindD (rd : BitVec 5) (ra : BitVec 5)
  /-- FTOI_D (R143). -/
  | ftoiD (rd : BitVec 5) (ra : BitVec 5)
  /-- FTOIU_D (R143). -/
  | ftoiuD (rd : BitVec 5) (ra : BitVec 5)
  /-- ITOF_D (R143). -/
  | itofD (rd : BitVec 5) (ra : BitVec 5)
  /-- UTOF_D (R143). -/
  | utofD (rd : BitVec 5) (ra : BitVec 5)
  /-- FTOH_D (R143). -/
  | ftohD (rd : BitVec 5) (ra : BitVec 5)
  /-- FTOB_D (R143). -/
  | ftobD (rd : BitVec 5) (ra : BitVec 5)
  /-- HTOF_D (R143). -/
  | htofD (rd : BitVec 5) (ra : BitVec 5)
  /-- BTOF_D (R143). -/
  | btofD (rd : BitVec 5) (ra : BitVec 5)
  /-- FCVTX_D (R143). -/
  | fcvtxD (rd : BitVec 5) (ra : BitVec 5)
  /-- ADDI (R140). -/
  | addi (rd : BitVec 5) (ra : BitVec 5) (imm : BitVec 16)
  /-- ANDI (R140). -/
  | andi (rd : BitVec 5) (ra : BitVec 5) (imm : BitVec 16)
  /-- ORI (R140). -/
  | ori (rd : BitVec 5) (ra : BitVec 5) (imm : BitVec 16)
  /-- XORI (R140). -/
  | xori (rd : BitVec 5) (ra : BitVec 5) (imm : BitVec 16)
  /-- SLTI (R140). -/
  | slti (rd : BitVec 5) (ra : BitVec 5) (imm : BitVec 16)
  /-- SLTIU (R140). -/
  | sltiu (rd : BitVec 5) (ra : BitVec 5) (imm : BitVec 16)
  /-- LUI (R140). -/
  | lui (rd : BitVec 5) (imm : BitVec 16)
  /-- ADDHI (R140). -/
  | addhi (rd : BitVec 5) (ra : BitVec 5) (imm : BitVec 16)
  /-- LDB (R144). -/
  | ldb (rd : BitVec 5) (ra : BitVec 5) (off : BitVec 13)
  /-- LDH (R144). -/
  | ldh (rd : BitVec 5) (ra : BitVec 5) (off : BitVec 13)
  /-- LDW (R144). -/
  | ldw (rd : BitVec 5) (ra : BitVec 5) (off : BitVec 13)
  /-- LDD (R144). -/
  | ldd (rd : BitVec 5) (ra : BitVec 5) (off : BitVec 13)
  /-- LDBU (R144). -/
  | ldbu (rd : BitVec 5) (ra : BitVec 5) (off : BitVec 13)
  /-- LDHU (R144). -/
  | ldhu (rd : BitVec 5) (ra : BitVec 5) (off : BitVec 13)
  /-- LDWU (R144). -/
  | ldwu (rd : BitVec 5) (ra : BitVec 5) (off : BitVec 13)
  /-- STB (R144). -/
  | stb (rd : BitVec 5) (ra : BitVec 5) (off : BitVec 13)
  /-- STH (R144). -/
  | sth (rd : BitVec 5) (ra : BitVec 5) (off : BitVec 13)
  /-- STW (R144). -/
  | stw (rd : BitVec 5) (ra : BitVec 5) (off : BitVec 13)
  /-- STD (R144). -/
  | std (rd : BitVec 5) (ra : BitVec 5) (off : BitVec 13)
  /-- RMSWAP (R145). -/
  | rmswap (rd : BitVec 5) (ra : BitVec 5) (rb : BitVec 5) (sc : BitVec 2) (aq : BitVec 1) (rl : BitVec 1) (w : BitVec 1)
  /-- RMADD (R145). -/
  | rmadd (rd : BitVec 5) (ra : BitVec 5) (rb : BitVec 5) (sc : BitVec 2) (aq : BitVec 1) (rl : BitVec 1) (w : BitVec 1)
  /-- RMAND (R145). -/
  | rmand (rd : BitVec 5) (ra : BitVec 5) (rb : BitVec 5) (sc : BitVec 2) (aq : BitVec 1) (rl : BitVec 1) (w : BitVec 1)
  /-- RMOR (R145). -/
  | rmor (rd : BitVec 5) (ra : BitVec 5) (rb : BitVec 5) (sc : BitVec 2) (aq : BitVec 1) (rl : BitVec 1) (w : BitVec 1)
  /-- RMXOR (R145). -/
  | rmxor (rd : BitVec 5) (ra : BitVec 5) (rb : BitVec 5) (sc : BitVec 2) (aq : BitVec 1) (rl : BitVec 1) (w : BitVec 1)
  /-- RMMIN (R145). -/
  | rmmin (rd : BitVec 5) (ra : BitVec 5) (rb : BitVec 5) (sc : BitVec 2) (aq : BitVec 1) (rl : BitVec 1) (w : BitVec 1)
  /-- RMMAX (R145). -/
  | rmmax (rd : BitVec 5) (ra : BitVec 5) (rb : BitVec 5) (sc : BitVec 2) (aq : BitVec 1) (rl : BitVec 1) (w : BitVec 1)
  /-- RMMINU (R145). -/
  | rmminu (rd : BitVec 5) (ra : BitVec 5) (rb : BitVec 5) (sc : BitVec 2) (aq : BitVec 1) (rl : BitVec 1) (w : BitVec 1)
  /-- RMMAXU (R145). -/
  | rmmaxu (rd : BitVec 5) (ra : BitVec 5) (rb : BitVec 5) (sc : BitVec 2) (aq : BitVec 1) (rl : BitVec 1) (w : BitVec 1)
  /-- CAS (R145). -/
  | cas (rd : BitVec 5) (ra : BitVec 5) (rb : BitVec 5) (sc : BitVec 2) (aq : BitVec 1) (rl : BitVec 1) (w : BitVec 1)
  /-- LDA (R145). -/
  | lda (rd : BitVec 5) (ra : BitVec 5) (sc : BitVec 2) (w : BitVec 1)
  /-- STL (R145). -/
  | stl (ra : BitVec 5) (rb : BitVec 5) (sc : BitVec 2) (w : BitVec 1)
  /-- CLAIM (R146). -/
  | claim (rd : BitVec 5) (ra : BitVec 5) (rb : BitVec 5) (sc : BitVec 2) (aq : BitVec 1) (rl : BitVec 1)
  /-- JALR (R147). -/
  | jalr (rd : BitVec 5) (ra : BitVec 5) (imm : BitVec 16)
  /-- BEQ (R147). -/
  | beq (ra : BitVec 5) (rb : BitVec 5) (off : BitVec 13)
  /-- BNE (R147). -/
  | bne (ra : BitVec 5) (rb : BitVec 5) (off : BitVec 13)
  /-- BLT (R147). -/
  | blt (ra : BitVec 5) (rb : BitVec 5) (off : BitVec 13)
  /-- BGE (R147). -/
  | bge (ra : BitVec 5) (rb : BitVec 5) (off : BitVec 13)
  /-- BLTU (R147). -/
  | bltu (ra : BitVec 5) (rb : BitVec 5) (off : BitVec 13)
  /-- BGEU (R147). -/
  | bgeu (ra : BitVec 5) (rb : BitVec 5) (off : BitVec 13)
  /-- JAL (R147). -/
  | jal (rd : BitVec 5) (off : BitVec 21)
  /-- LOOPV (R150). -/
  | loopv (rc : BitVec 5) (rp : BitVec 5) (np : BitVec 2) (esh : BitVec 2) (off : BitVec 12)
  /-- CWREAD (R151). -/
  | cwread (rd : BitVec 5) (cw : BitVec 12)
  /-- CWWRITE (R151). -/
  | cwwrite (ra : BitVec 5) (cw : BitVec 12)
  /-- CWSET (R151). -/
  | cwset (ra : BitVec 5) (cw : BitVec 12)
  /-- CWCLR (R151). -/
  | cwclr (ra : BitVec 5) (cw : BitVec 12)
  /-- TRAP (R152). -/
  | trap (n : BitVec 12)
  /-- BRK (R152). -/
  | brk (n : BitVec 12)
  /-- RETT (R162). -/
  | rett
  /-- YIELD (R153). -/
  | yield
  /-- HALT (R154). -/
  | halt
  /-- BAR (R155). -/
  | bar (ra : BitVec 5) (n : BitVec 12)
  /-- FENCE (R156). -/
  | fence (ps : BitVec 5) (qs : BitVec 5) (sc : BitVec 2)
  /-- VADD (R179). -/
  | vadd (vd : BitVec 5) (va : BitVec 5) (vb : BitVec 5) (m : BitVec 1) (ms : BitVec 3) (ds : BitVec 2)
  /-- VSUB (R179). -/
  | vsub (vd : BitVec 5) (va : BitVec 5) (vb : BitVec 5) (m : BitVec 1) (ms : BitVec 3) (ds : BitVec 2)
  /-- VSUBR (R179). -/
  | vsubr (vd : BitVec 5) (va : BitVec 5) (vb : BitVec 5) (m : BitVec 1) (ms : BitVec 3) (ds : BitVec 2)
  /-- VMUL (R179). -/
  | vmul (vd : BitVec 5) (va : BitVec 5) (vb : BitVec 5) (m : BitVec 1) (ms : BitVec 3) (ds : BitVec 2)
  /-- VMULH (R179). -/
  | vmulh (vd : BitVec 5) (va : BitVec 5) (vb : BitVec 5) (m : BitVec 1) (ms : BitVec 3) (ds : BitVec 2)
  /-- VMULHU (R179). -/
  | vmulhu (vd : BitVec 5) (va : BitVec 5) (vb : BitVec 5) (m : BitVec 1) (ms : BitVec 3) (ds : BitVec 2)
  /-- VMIN (R179). -/
  | vmin (vd : BitVec 5) (va : BitVec 5) (vb : BitVec 5) (m : BitVec 1) (ms : BitVec 3) (ds : BitVec 2)
  /-- VMAX (R179). -/
  | vmax (vd : BitVec 5) (va : BitVec 5) (vb : BitVec 5) (m : BitVec 1) (ms : BitVec 3) (ds : BitVec 2)
  /-- VMINU (R179). -/
  | vminu (vd : BitVec 5) (va : BitVec 5) (vb : BitVec 5) (m : BitVec 1) (ms : BitVec 3) (ds : BitVec 2)
  /-- VMAXU (R179). -/
  | vmaxu (vd : BitVec 5) (va : BitVec 5) (vb : BitVec 5) (m : BitVec 1) (ms : BitVec 3) (ds : BitVec 2)
  /-- VAND (R179). -/
  | vand (vd : BitVec 5) (va : BitVec 5) (vb : BitVec 5) (m : BitVec 1) (ms : BitVec 3) (ds : BitVec 2)
  /-- VOR (R179). -/
  | vor (vd : BitVec 5) (va : BitVec 5) (vb : BitVec 5) (m : BitVec 1) (ms : BitVec 3) (ds : BitVec 2)
  /-- VXOR (R179). -/
  | vxor (vd : BitVec 5) (va : BitVec 5) (vb : BitVec 5) (m : BitVec 1) (ms : BitVec 3) (ds : BitVec 2)
  /-- VSLL (R179). -/
  | vsll (vd : BitVec 5) (va : BitVec 5) (vb : BitVec 5) (m : BitVec 1) (ms : BitVec 3) (ds : BitVec 2)
  /-- VSRL (R179). -/
  | vsrl (vd : BitVec 5) (va : BitVec 5) (vb : BitVec 5) (m : BitVec 1) (ms : BitVec 3) (ds : BitVec 2)
  /-- VSRA (R179). -/
  | vsra (vd : BitVec 5) (va : BitVec 5) (vb : BitVec 5) (m : BitVec 1) (ms : BitVec 3) (ds : BitVec 2)
  /-- VADD_VS (R179). -/
  | vaddVs (vd : BitVec 5) (va : BitVec 5) (vb : BitVec 5) (m : BitVec 1) (ms : BitVec 3) (ds : BitVec 2)
  /-- VSUB_VS (R179). -/
  | vsubVs (vd : BitVec 5) (va : BitVec 5) (vb : BitVec 5) (m : BitVec 1) (ms : BitVec 3) (ds : BitVec 2)
  /-- VSUBR_VS (R179). -/
  | vsubrVs (vd : BitVec 5) (va : BitVec 5) (vb : BitVec 5) (m : BitVec 1) (ms : BitVec 3) (ds : BitVec 2)
  /-- VMUL_VS (R179). -/
  | vmulVs (vd : BitVec 5) (va : BitVec 5) (vb : BitVec 5) (m : BitVec 1) (ms : BitVec 3) (ds : BitVec 2)
  /-- VMULH_VS (R179). -/
  | vmulhVs (vd : BitVec 5) (va : BitVec 5) (vb : BitVec 5) (m : BitVec 1) (ms : BitVec 3) (ds : BitVec 2)
  /-- VMULHU_VS (R179). -/
  | vmulhuVs (vd : BitVec 5) (va : BitVec 5) (vb : BitVec 5) (m : BitVec 1) (ms : BitVec 3) (ds : BitVec 2)
  /-- VMIN_VS (R179). -/
  | vminVs (vd : BitVec 5) (va : BitVec 5) (vb : BitVec 5) (m : BitVec 1) (ms : BitVec 3) (ds : BitVec 2)
  /-- VMAX_VS (R179). -/
  | vmaxVs (vd : BitVec 5) (va : BitVec 5) (vb : BitVec 5) (m : BitVec 1) (ms : BitVec 3) (ds : BitVec 2)
  /-- VMINU_VS (R179). -/
  | vminuVs (vd : BitVec 5) (va : BitVec 5) (vb : BitVec 5) (m : BitVec 1) (ms : BitVec 3) (ds : BitVec 2)
  /-- VMAXU_VS (R179). -/
  | vmaxuVs (vd : BitVec 5) (va : BitVec 5) (vb : BitVec 5) (m : BitVec 1) (ms : BitVec 3) (ds : BitVec 2)
  /-- VAND_VS (R179). -/
  | vandVs (vd : BitVec 5) (va : BitVec 5) (vb : BitVec 5) (m : BitVec 1) (ms : BitVec 3) (ds : BitVec 2)
  /-- VOR_VS (R179). -/
  | vorVs (vd : BitVec 5) (va : BitVec 5) (vb : BitVec 5) (m : BitVec 1) (ms : BitVec 3) (ds : BitVec 2)
  /-- VXOR_VS (R179). -/
  | vxorVs (vd : BitVec 5) (va : BitVec 5) (vb : BitVec 5) (m : BitVec 1) (ms : BitVec 3) (ds : BitVec 2)
  /-- VSLL_VS (R179). -/
  | vsllVs (vd : BitVec 5) (va : BitVec 5) (vb : BitVec 5) (m : BitVec 1) (ms : BitVec 3) (ds : BitVec 2)
  /-- VSRL_VS (R179). -/
  | vsrlVs (vd : BitVec 5) (va : BitVec 5) (vb : BitVec 5) (m : BitVec 1) (ms : BitVec 3) (ds : BitVec 2)
  /-- VSRA_VS (R179). -/
  | vsraVs (vd : BitVec 5) (va : BitVec 5) (vb : BitVec 5) (m : BitVec 1) (ms : BitVec 3) (ds : BitVec 2)
  /-- VFADD (R180). -/
  | vfadd (vd : BitVec 5) (va : BitVec 5) (vb : BitVec 5) (m : BitVec 1) (ms : BitVec 3) (ds : BitVec 2) (x : BitVec 1)
  /-- VFSUB (R180). -/
  | vfsub (vd : BitVec 5) (va : BitVec 5) (vb : BitVec 5) (m : BitVec 1) (ms : BitVec 3) (ds : BitVec 2) (x : BitVec 1)
  /-- VFMUL (R180). -/
  | vfmul (vd : BitVec 5) (va : BitVec 5) (vb : BitVec 5) (m : BitVec 1) (ms : BitVec 3) (ds : BitVec 2) (x : BitVec 1)
  /-- VFDIV (R180). -/
  | vfdiv (vd : BitVec 5) (va : BitVec 5) (vb : BitVec 5) (m : BitVec 1) (ms : BitVec 3) (ds : BitVec 2) (x : BitVec 1)
  /-- VFMIN (R180). -/
  | vfmin (vd : BitVec 5) (va : BitVec 5) (vb : BitVec 5) (m : BitVec 1) (ms : BitVec 3) (ds : BitVec 2) (x : BitVec 1)
  /-- VFMAX (R180). -/
  | vfmax (vd : BitVec 5) (va : BitVec 5) (vb : BitVec 5) (m : BitVec 1) (ms : BitVec 3) (ds : BitVec 2) (x : BitVec 1)
  /-- VFMA (R180). -/
  | vfma (vd : BitVec 5) (va : BitVec 5) (vb : BitVec 5) (m : BitVec 1) (ms : BitVec 3) (ds : BitVec 2) (x : BitVec 1)
  /-- VFNMA (R180). -/
  | vfnma (vd : BitVec 5) (va : BitVec 5) (vb : BitVec 5) (m : BitVec 1) (ms : BitVec 3) (ds : BitVec 2) (x : BitVec 1)
  /-- VFMS (R180). -/
  | vfms (vd : BitVec 5) (va : BitVec 5) (vb : BitVec 5) (m : BitVec 1) (ms : BitVec 3) (ds : BitVec 2) (x : BitVec 1)
  /-- VFCSIGN (R180). -/
  | vfcsign (vd : BitVec 5) (va : BitVec 5) (vb : BitVec 5) (m : BitVec 1) (ms : BitVec 3) (ds : BitVec 2) (x : BitVec 1)
  /-- VFNSIGN (R180). -/
  | vfnsign (vd : BitVec 5) (va : BitVec 5) (vb : BitVec 5) (m : BitVec 1) (ms : BitVec 3) (ds : BitVec 2) (x : BitVec 1)
  /-- VFXSIGN (R180). -/
  | vfxsign (vd : BitVec 5) (va : BitVec 5) (vb : BitVec 5) (m : BitVec 1) (ms : BitVec 3) (ds : BitVec 2) (x : BitVec 1)
  /-- VFKIND (R180). -/
  | vfkind (vd : BitVec 5) (va : BitVec 5) (vb : BitVec 5) (m : BitVec 1) (ms : BitVec 3) (ds : BitVec 2) (x : BitVec 1)
  /-- VFSUBR (R180). -/
  | vfsubr (vd : BitVec 5) (va : BitVec 5) (vb : BitVec 5) (m : BitVec 1) (ms : BitVec 3) (ds : BitVec 2) (x : BitVec 1)
  /-- VFADD_VS (R180). -/
  | vfaddVs (vd : BitVec 5) (va : BitVec 5) (vb : BitVec 5) (m : BitVec 1) (ms : BitVec 3) (ds : BitVec 2) (x : BitVec 1)
  /-- VFSUB_VS (R180). -/
  | vfsubVs (vd : BitVec 5) (va : BitVec 5) (vb : BitVec 5) (m : BitVec 1) (ms : BitVec 3) (ds : BitVec 2) (x : BitVec 1)
  /-- VFMUL_VS (R180). -/
  | vfmulVs (vd : BitVec 5) (va : BitVec 5) (vb : BitVec 5) (m : BitVec 1) (ms : BitVec 3) (ds : BitVec 2) (x : BitVec 1)
  /-- VFDIV_VS (R180). -/
  | vfdivVs (vd : BitVec 5) (va : BitVec 5) (vb : BitVec 5) (m : BitVec 1) (ms : BitVec 3) (ds : BitVec 2) (x : BitVec 1)
  /-- VFMIN_VS (R180). -/
  | vfminVs (vd : BitVec 5) (va : BitVec 5) (vb : BitVec 5) (m : BitVec 1) (ms : BitVec 3) (ds : BitVec 2) (x : BitVec 1)
  /-- VFMAX_VS (R180). -/
  | vfmaxVs (vd : BitVec 5) (va : BitVec 5) (vb : BitVec 5) (m : BitVec 1) (ms : BitVec 3) (ds : BitVec 2) (x : BitVec 1)
  /-- VFMA_VS (R180). -/
  | vfmaVs (vd : BitVec 5) (va : BitVec 5) (vb : BitVec 5) (m : BitVec 1) (ms : BitVec 3) (ds : BitVec 2) (x : BitVec 1)
  /-- VFNMA_VS (R180). -/
  | vfnmaVs (vd : BitVec 5) (va : BitVec 5) (vb : BitVec 5) (m : BitVec 1) (ms : BitVec 3) (ds : BitVec 2) (x : BitVec 1)
  /-- VFMS_VS (R180). -/
  | vfmsVs (vd : BitVec 5) (va : BitVec 5) (vb : BitVec 5) (m : BitVec 1) (ms : BitVec 3) (ds : BitVec 2) (x : BitVec 1)
  /-- VFCSIGN_VS (R180). -/
  | vfcsignVs (vd : BitVec 5) (va : BitVec 5) (vb : BitVec 5) (m : BitVec 1) (ms : BitVec 3) (ds : BitVec 2) (x : BitVec 1)
  /-- VFNSIGN_VS (R180). -/
  | vfnsignVs (vd : BitVec 5) (va : BitVec 5) (vb : BitVec 5) (m : BitVec 1) (ms : BitVec 3) (ds : BitVec 2) (x : BitVec 1)
  /-- VFXSIGN_VS (R180). -/
  | vfxsignVs (vd : BitVec 5) (va : BitVec 5) (vb : BitVec 5) (m : BitVec 1) (ms : BitVec 3) (ds : BitVec 2) (x : BitVec 1)
  /-- VFKIND_VS (R180). -/
  | vfkindVs (vd : BitVec 5) (va : BitVec 5) (vb : BitVec 5) (m : BitVec 1) (ms : BitVec 3) (ds : BitVec 2) (x : BitVec 1)
  /-- VFSUBR_VS (R180). -/
  | vfsubrVs (vd : BitVec 5) (va : BitVec 5) (vb : BitVec 5) (m : BitVec 1) (ms : BitVec 3) (ds : BitVec 2) (x : BitVec 1)
  /-- VFSQRT (R182). -/
  | vfsqrt (vd : BitVec 5) (va : BitVec 5) (m : BitVec 1) (ms : BitVec 3) (ds : BitVec 2) (x : BitVec 1)
  /-- VFRCP (R182). -/
  | vfrcp (vd : BitVec 5) (va : BitVec 5) (m : BitVec 1) (ms : BitVec 3) (ds : BitVec 2) (x : BitVec 1)
  /-- VFRSQRT (R182). -/
  | vfrsqrt (vd : BitVec 5) (va : BitVec 5) (m : BitVec 1) (ms : BitVec 3) (ds : BitVec 2) (x : BitVec 1)
  /-- VFEXP2 (R182). -/
  | vfexp2 (vd : BitVec 5) (va : BitVec 5) (m : BitVec 1) (ms : BitVec 3) (ds : BitVec 2) (x : BitVec 1)
  /-- VFLOG2 (R182). -/
  | vflog2 (vd : BitVec 5) (va : BitVec 5) (m : BitVec 1) (ms : BitVec 3) (ds : BitVec 2) (x : BitVec 1)
  /-- VFEXP (R182). -/
  | vfexp (vd : BitVec 5) (va : BitVec 5) (m : BitVec 1) (ms : BitVec 3) (ds : BitVec 2) (x : BitVec 1)
  /-- VFLOG (R182). -/
  | vflog (vd : BitVec 5) (va : BitVec 5) (m : BitVec 1) (ms : BitVec 3) (ds : BitVec 2) (x : BitVec 1)
  /-- VFTANH (R182). -/
  | vftanh (vd : BitVec 5) (va : BitVec 5) (m : BitVec 1) (ms : BitVec 3) (ds : BitVec 2) (x : BitVec 1)
  /-- VFSIGM (R182). -/
  | vfsigm (vd : BitVec 5) (va : BitVec 5) (m : BitVec 1) (ms : BitVec 3) (ds : BitVec 2) (x : BitVec 1)
  /-- VFGELU (R182). -/
  | vfgelu (vd : BitVec 5) (va : BitVec 5) (m : BitVec 1) (ms : BitVec 3) (ds : BitVec 2) (x : BitVec 1)
  /-- VFSILU (R182). -/
  | vfsilu (vd : BitVec 5) (va : BitVec 5) (m : BitVec 1) (ms : BitVec 3) (ds : BitVec 2) (x : BitVec 1)
  /-- VFSIN (R182). -/
  | vfsin (vd : BitVec 5) (va : BitVec 5) (m : BitVec 1) (ms : BitVec 3) (ds : BitVec 2) (x : BitVec 1)
  /-- VFCOS (R182). -/
  | vfcos (vd : BitVec 5) (va : BitVec 5) (m : BitVec 1) (ms : BitVec 3) (ds : BitVec 2) (x : BitVec 1)
  /-- VFERF (R182). -/
  | vferf (vd : BitVec 5) (va : BitVec 5) (m : BitVec 1) (ms : BitVec 3) (ds : BitVec 2) (x : BitVec 1)
  /-- VCVT (R184). -/
  | vcvt (vd : BitVec 5) (va : BitVec 5) (fmt : BitVec 5) (m : BitVec 1) (ms : BitVec 3) (ds : BitVec 2) (x : BitVec 1)
  /-- VWIDEN (R184). -/
  | vwiden (vd : BitVec 5) (va : BitVec 5) (fmt : BitVec 5) (m : BitVec 1) (ms : BitVec 3) (ds : BitVec 2) (x : BitVec 1)
  /-- VNARROW (R184). -/
  | vnarrow (vd : BitVec 5) (va : BitVec 5) (fmt : BitVec 5) (m : BitVec 1) (ms : BitVec 3) (ds : BitVec 2) (x : BitVec 1)
  /-- VNARROWS (R184). -/
  | vnarrows (vd : BitVec 5) (va : BitVec 5) (fmt : BitVec 5) (m : BitVec 1) (ms : BitVec 3) (ds : BitVec 2) (x : BitVec 1)
  /-- VMXPACK (R185). -/
  | vmxpack (vd : BitVec 5) (va : BitVec 5) (fmt : BitVec 5) (m : BitVec 1) (ms : BitVec 3) (ds : BitVec 2) (x : BitVec 1)
  /-- VMXUNPACK (R186). -/
  | vmxunpack (vd : BitVec 5) (va : BitVec 5) (fmt : BitVec 5) (m : BitVec 1) (ms : BitVec 3) (ds : BitVec 2) (x : BitVec 1)
  /-- VAMAX (R187). -/
  | vamax (vd : BitVec 5) (va : BitVec 5) (m : BitVec 1) (ms : BitVec 3) (ds : BitVec 2) (x : BitVec 1)
  /-- VSCALE (R188). -/
  | vscale (vd : BitVec 5) (va : BitVec 5) (fmt : BitVec 5) (x : BitVec 1)
  /-- VQUANT (R189). -/
  | vquant (vd : BitVec 5) (va : BitVec 5) (vb : BitVec 5) (m : BitVec 1) (ms : BitVec 3) (ds : BitVec 2) (x : BitVec 1)
  /-- VDEQUANT (R189). -/
  | vdequant (vd : BitVec 5) (va : BitVec 5) (vb : BitVec 5) (m : BitVec 1) (ms : BitVec 3) (ds : BitVec 2) (x : BitVec 1)
  /-- VBAMAX (R187). -/
  | vbamax (vd : BitVec 5) (va : BitVec 5) (m : BitVec 1) (ms : BitVec 3) (ds : BitVec 2) (x : BitVec 1)
  /-- VSUMR (R190). -/
  | vsumr (vd : BitVec 5) (va : BitVec 5) (vb : BitVec 5) (m : BitVec 1) (ms : BitVec 3) (ds : BitVec 2)
  /-- VMAXR (R190). -/
  | vmaxr (vd : BitVec 5) (va : BitVec 5) (vb : BitVec 5) (m : BitVec 1) (ms : BitVec 3) (ds : BitVec 2)
  /-- VMINR (R190). -/
  | vminr (vd : BitVec 5) (va : BitVec 5) (vb : BitVec 5) (m : BitVec 1) (ms : BitVec 3) (ds : BitVec 2)
  /-- VMAXUR (R190). -/
  | vmaxur (vd : BitVec 5) (va : BitVec 5) (vb : BitVec 5) (m : BitVec 1) (ms : BitVec 3) (ds : BitVec 2)
  /-- VMINUR (R190). -/
  | vminur (vd : BitVec 5) (va : BitVec 5) (vb : BitVec 5) (m : BitVec 1) (ms : BitVec 3) (ds : BitVec 2)
  /-- VANDR (R190). -/
  | vandr (vd : BitVec 5) (va : BitVec 5) (vb : BitVec 5) (m : BitVec 1) (ms : BitVec 3) (ds : BitVec 2)
  /-- VORR (R190). -/
  | vorr (vd : BitVec 5) (va : BitVec 5) (vb : BitVec 5) (m : BitVec 1) (ms : BitVec 3) (ds : BitVec 2)
  /-- VXORR (R190). -/
  | vxorr (vd : BitVec 5) (va : BitVec 5) (vb : BitVec 5) (m : BitVec 1) (ms : BitVec 3) (ds : BitVec 2)
  /-- VFSUMR (R191). -/
  | vfsumr (vd : BitVec 5) (va : BitVec 5) (vb : BitVec 5) (m : BitVec 1) (ms : BitVec 3) (ds : BitVec 2) (x : BitVec 1)
  /-- VFMAXR (R190). -/
  | vfmaxr (vd : BitVec 5) (va : BitVec 5) (vb : BitVec 5) (m : BitVec 1) (ms : BitVec 3) (ds : BitVec 2) (x : BitVec 1)
  /-- VFMINR (R190). -/
  | vfminr (vd : BitVec 5) (va : BitVec 5) (vb : BitVec 5) (m : BitVec 1) (ms : BitVec 3) (ds : BitVec 2) (x : BitVec 1)
  /-- VSHUP (R192). -/
  | vshup (vd : BitVec 5) (va : BitVec 5) (vb : BitVec 5) (m : BitVec 1) (ms : BitVec 3) (ds : BitVec 2)
  /-- VSHDN (R192). -/
  | vshdn (vd : BitVec 5) (va : BitVec 5) (vb : BitVec 5) (m : BitVec 1) (ms : BitVec 3) (ds : BitVec 2)
  /-- VGATHER (R192). -/
  | vgather (vd : BitVec 5) (va : BitVec 5) (vb : BitVec 5) (m : BitVec 1) (ms : BitVec 3) (ds : BitVec 2)
  /-- VCOMPRESS (R193). -/
  | vcompress (vd : BitVec 5) (va : BitVec 5) (vb : BitVec 5) (m : BitVec 1) (ms : BitVec 3) (ds : BitVec 2)
  /-- VEXPAND (R192). -/
  | vexpand (vd : BitVec 5) (va : BitVec 5) (m : BitVec 1) (ms : BitVec 3) (ds : BitVec 2)
  /-- VMERGE (R192). -/
  | vmerge (vd : BitVec 5) (va : BitVec 5) (vb : BitVec 5) (m : BitVec 1) (ms : BitVec 3) (ds : BitVec 2)
  /-- VMOVE (R192). -/
  | vmove (vd : BitVec 5) (va : BitVec 5) (m : BitVec 1) (ms : BitVec 3) (ds : BitVec 2)
  /-- VSPLAT (R192). -/
  | vsplat (vd : BitVec 5) (va : BitVec 5) (m : BitVec 1) (ms : BitVec 3) (ds : BitVec 2)
  /-- VHEAD (R192). -/
  | vhead (vd : BitVec 5) (va : BitVec 5) (ds : BitVec 2)
  /-- VACNT (R192). -/
  | vacnt (vd : BitVec 5) (m : BitVec 1) (ms : BitVec 3) (ds : BitVec 2)
  /-- VXUP (R194). -/
  | vxup (vd : BitVec 5) (va : BitVec 5) (vb : BitVec 5) (m : BitVec 1) (ms : BitVec 3) (ds : BitVec 2)
  /-- VXDN (R194). -/
  | vxdn (vd : BitVec 5) (va : BitVec 5) (vb : BitVec 5) (m : BitVec 1) (ms : BitVec 3) (ds : BitVec 2)
  /-- VXBC (R194). -/
  | vxbc (vd : BitVec 5) (va : BitVec 5) (vb : BitVec 5) (m : BitVec 1) (ms : BitVec 3) (ds : BitVec 2)
  /-- VXREV (R194). -/
  | vxrev (vd : BitVec 5) (va : BitVec 5) (m : BitVec 1) (ms : BitVec 3) (ds : BitVec 2)
  /-- VUNPACK (R196). -/
  | vunpack (vd : BitVec 5) (va : BitVec 5) (vb : BitVec 5) (m : BitVec 1) (ms : BitVec 3) (ds : BitVec 2)
  /-- VBEXT (R196). -/
  | vbext (vd : BitVec 5) (va : BitVec 5) (vb : BitVec 5) (m : BitVec 1) (ms : BitVec 3) (ds : BitVec 2)
  /-- VFSL (R196). -/
  | vfsl (vd : BitVec 5) (va : BitVec 5) (vb : BitVec 5) (m : BitVec 1) (ms : BitVec 3) (ds : BitVec 2)
  /-- VFSR (R196). -/
  | vfsr (vd : BitVec 5) (va : BitVec 5) (vb : BitVec 5) (m : BitVec 1) (ms : BitVec 3) (ds : BitVec 2)
  /-- VLUT (R196). -/
  | vlut (vd : BitVec 5) (va : BitVec 5) (vb : BitVec 5) (m : BitVec 1) (ms : BitVec 3) (ds : BitVec 2)
  /-- VCLZ (R196). -/
  | vclz (vd : BitVec 5) (va : BitVec 5) (m : BitVec 1) (ms : BitVec 3) (ds : BitVec 2)
  /-- VCTZ (R196). -/
  | vctz (vd : BitVec 5) (va : BitVec 5) (m : BitVec 1) (ms : BitVec 3) (ds : BitVec 2)
  /-- VPOPC (R196). -/
  | vpopc (vd : BitVec 5) (va : BitVec 5) (m : BitVec 1) (ms : BitVec 3) (ds : BitVec 2)
  /-- VBREV (R196). -/
  | vbrev (vd : BitVec 5) (va : BitVec 5) (m : BitVec 1) (ms : BitVec 3) (ds : BitVec 2)
  /-- VCFG (R165). -/
  | vcfg (n : BitVec 5)
  /-- VSETVL (R169). -/
  | vsetvl (vd : BitVec 5) (va : BitVec 5) (vb : BitVec 5) (ds : BitVec 2)
  /-- VSETVLI (R169). -/
  | vsetvli (rd : BitVec 5) (ra : BitVec 5) (imm : BitVec 16)
  /-- VLD (R199). -/
  | vld (vd : BitVec 5) (va : BitVec 5) (m : BitVec 1) (ms : BitVec 3) (ds : BitVec 2)
  /-- VLDS (R199). -/
  | vlds (vd : BitVec 5) (va : BitVec 5) (vb : BitVec 5) (m : BitVec 1) (ms : BitVec 3) (ds : BitVec 2)
  /-- VLDX (R199). -/
  | vldx (vd : BitVec 5) (va : BitVec 5) (vb : BitVec 5) (m : BitVec 1) (ms : BitVec 3) (ds : BitVec 2)
  /-- VLDFF (R200). -/
  | vldff (vd : BitVec 5) (va : BitVec 5) (m : BitVec 1) (ms : BitVec 3) (ds : BitVec 2)
  /-- VST (R199). -/
  | vst (vd : BitVec 5) (va : BitVec 5) (m : BitVec 1) (ms : BitVec 3) (ds : BitVec 2)
  /-- VSTS (R199). -/
  | vsts (vd : BitVec 5) (va : BitVec 5) (vb : BitVec 5) (m : BitVec 1) (ms : BitVec 3) (ds : BitVec 2)
  /-- VSTX (R199). -/
  | vstx (vd : BitVec 5) (va : BitVec 5) (vb : BitVec 5) (m : BitVec 1) (ms : BitVec 3) (ds : BitVec 2)
  /-- VST_U (R199). -/
  | vstU (vd : BitVec 5) (va : BitVec 5) (m : BitVec 1) (ms : BitVec 3) (ds : BitVec 2)
  /-- VSTS_U (R199). -/
  | vstsU (vd : BitVec 5) (va : BitVec 5) (vb : BitVec 5) (m : BitVec 1) (ms : BitVec 3) (ds : BitVec 2)
  /-- VSTX_U (R199). -/
  | vstxU (vd : BitVec 5) (va : BitVec 5) (vb : BitVec 5) (m : BitVec 1) (ms : BitVec 3) (ds : BitVec 2)
  /-- GROW (R202). -/
  | grow (vd : BitVec 5) (va : BitVec 5) (m : BitVec 1) (ms : BitVec 3) (ds : BitVec 2)
  /-- GCOL (R202). -/
  | gcol (vd : BitVec 5) (va : BitVec 5) (m : BitVec 1) (ms : BitVec 3) (ds : BitVec 2)
  /-- GDIAG (R202). -/
  | gdiag (vd : BitVec 5) (va : BitVec 5) (m : BitVec 1) (ms : BitVec 3) (ds : BitVec 2)
  /-- GROWS (R202). -/
  | grows (vd : BitVec 5) (va : BitVec 5) (m : BitVec 1) (ms : BitVec 3) (ds : BitVec 2)
  /-- GCOLS (R202). -/
  | gcols (vd : BitVec 5) (va : BitVec 5) (m : BitVec 1) (ms : BitVec 3) (ds : BitVec 2)
  /-- GDIAGS (R202). -/
  | gdiags (vd : BitVec 5) (va : BitVec 5) (m : BitVec 1) (ms : BitVec 3) (ds : BitVec 2)
  /-- GPASS (R204). -/
  | gpass (vd : BitVec 5) (vb : BitVec 5)
  /-- VMVQ (R197). -/
  | vmvq (vd : BitVec 5) (p : BitVec 1) (qn : BitVec 4) (m : BitVec 1) (ms : BitVec 3) (ds : BitVec 2)
  /-- VADDQ (R197). -/
  | vaddq (vd : BitVec 5) (va : BitVec 5) (p : BitVec 1) (qn : BitVec 4) (m : BitVec 1) (ms : BitVec 3) (ds : BitVec 2)
  /-- VSUBQ (R197). -/
  | vsubq (vd : BitVec 5) (va : BitVec 5) (p : BitVec 1) (qn : BitVec 4) (m : BitVec 1) (ms : BitVec 3) (ds : BitVec 2)
  /-- VMULQ (R197). -/
  | vmulq (vd : BitVec 5) (va : BitVec 5) (p : BitVec 1) (qn : BitVec 4) (m : BitVec 1) (ms : BitVec 3) (ds : BitVec 2)
  /-- VFADDQ (R197). -/
  | vfaddq (vd : BitVec 5) (va : BitVec 5) (p : BitVec 1) (qn : BitVec 4) (m : BitVec 1) (ms : BitVec 3) (ds : BitVec 2) (x : BitVec 1)
  /-- VFSUBQ (R197). -/
  | vfsubq (vd : BitVec 5) (va : BitVec 5) (p : BitVec 1) (qn : BitVec 4) (m : BitVec 1) (ms : BitVec 3) (ds : BitVec 2) (x : BitVec 1)
  /-- VFMULQ (R197). -/
  | vfmulq (vd : BitVec 5) (va : BitVec 5) (p : BitVec 1) (qn : BitVec 4) (m : BitVec 1) (ms : BitVec 3) (ds : BitVec 2) (x : BitVec 1)
  /-- VFMAQ (R197). -/
  | vfmaq (vd : BitVec 5) (va : BitVec 5) (p : BitVec 1) (qn : BitVec 4) (m : BitVec 1) (ms : BitVec 3) (ds : BitVec 2) (x : BitVec 1)
  /-- VANDQ (R197). -/
  | vandq (vd : BitVec 5) (va : BitVec 5) (p : BitVec 1) (qn : BitVec 4) (m : BitVec 1) (ms : BitVec 3) (ds : BitVec 2)
  /-- VORQ (R197). -/
  | vorq (vd : BitVec 5) (va : BitVec 5) (p : BitVec 1) (qn : BitVec 4) (m : BitVec 1) (ms : BitVec 3) (ds : BitVec 2)
  /-- VXORQ (R197). -/
  | vxorq (vd : BitVec 5) (va : BitVec 5) (p : BitVec 1) (qn : BitVec 4) (m : BitVec 1) (ms : BitVec 3) (ds : BitVec 2)
  /-- VENQ (R198). -/
  | venq (va : BitVec 5) (qn : BitVec 4) (m : BitVec 1) (ms : BitVec 3) (ds : BitVec 2)
  /-- MAND (R205). -/
  | mand (md : BitVec 7) (ma : BitVec 7) (mb : BitVec 7)
  /-- MOR (R205). -/
  | mor (md : BitVec 7) (ma : BitVec 7) (mb : BitVec 7)
  /-- MXOR (R205). -/
  | mxor (md : BitVec 7) (ma : BitVec 7) (mb : BitVec 7)
  /-- MANDN (R205). -/
  | mandn (md : BitVec 7) (ma : BitVec 7) (mb : BitVec 7)
  /-- MORN (R205). -/
  | morn (md : BitVec 7) (ma : BitVec 7) (mb : BitVec 7)
  /-- MNAND (R205). -/
  | mnand (md : BitVec 7) (ma : BitVec 7) (mb : BitVec 7)
  /-- MNOR (R205). -/
  | mnor (md : BitVec 7) (ma : BitVec 7) (mb : BitVec 7)
  /-- MXNOR (R205). -/
  | mxnor (md : BitVec 7) (ma : BitVec 7) (mb : BitVec 7)
  /-- MMV (R205). -/
  | mmv (md : BitVec 7) (ma : BitVec 7)
  /-- MNOT (R205). -/
  | mnot (md : BitVec 7) (ma : BitVec 7)
  /-- MSET (R205). -/
  | mset (md : BitVec 7)
  /-- MCLR (R205). -/
  | mclr (md : BitVec 7)
  /-- MSBF (R205). -/
  | msbf (md : BitVec 7) (ma : BitVec 7)
  /-- MSIF (R205). -/
  | msif (md : BitVec 7) (ma : BitVec 7)
  /-- MSOF (R205). -/
  | msof (md : BitVec 7) (ma : BitVec 7)
  /-- MPOPC (R205). -/
  | mpopc (md : BitVec 7) (ma : BitVec 7)
  /-- MFIRST (R205). -/
  | mfirst (md : BitVec 7) (ma : BitVec 7)
  /-- MLD (R206). -/
  | mld (md : BitVec 7) (ma : BitVec 7)
  /-- MST (R206). -/
  | mst (md : BitVec 7) (ma : BitVec 7)
  /-- VCEQ (R183). -/
  | vceq (vd : BitVec 5) (va : BitVec 5) (vb : BitVec 5) (m : BitVec 1) (ms : BitVec 3) (ds : BitVec 2)
  /-- VCNE (R183). -/
  | vcne (vd : BitVec 5) (va : BitVec 5) (vb : BitVec 5) (m : BitVec 1) (ms : BitVec 3) (ds : BitVec 2)
  /-- VCLT (R183). -/
  | vclt (vd : BitVec 5) (va : BitVec 5) (vb : BitVec 5) (m : BitVec 1) (ms : BitVec 3) (ds : BitVec 2)
  /-- VCLTU (R183). -/
  | vcltu (vd : BitVec 5) (va : BitVec 5) (vb : BitVec 5) (m : BitVec 1) (ms : BitVec 3) (ds : BitVec 2)
  /-- VCLE (R183). -/
  | vcle (vd : BitVec 5) (va : BitVec 5) (vb : BitVec 5) (m : BitVec 1) (ms : BitVec 3) (ds : BitVec 2)
  /-- VCLEU (R183). -/
  | vcleu (vd : BitVec 5) (va : BitVec 5) (vb : BitVec 5) (m : BitVec 1) (ms : BitVec 3) (ds : BitVec 2)
  /-- VCGT (R183). -/
  | vcgt (vd : BitVec 5) (va : BitVec 5) (vb : BitVec 5) (m : BitVec 1) (ms : BitVec 3) (ds : BitVec 2)
  /-- VCGTU (R183). -/
  | vcgtu (vd : BitVec 5) (va : BitVec 5) (vb : BitVec 5) (m : BitVec 1) (ms : BitVec 3) (ds : BitVec 2)
  /-- VFCEQ (R183). -/
  | vfceq (vd : BitVec 5) (va : BitVec 5) (vb : BitVec 5) (m : BitVec 1) (ms : BitVec 3) (ds : BitVec 2) (x : BitVec 1)
  /-- VFCNE (R183). -/
  | vfcne (vd : BitVec 5) (va : BitVec 5) (vb : BitVec 5) (m : BitVec 1) (ms : BitVec 3) (ds : BitVec 2) (x : BitVec 1)
  /-- VFCLT (R183). -/
  | vfclt (vd : BitVec 5) (va : BitVec 5) (vb : BitVec 5) (m : BitVec 1) (ms : BitVec 3) (ds : BitVec 2) (x : BitVec 1)
  /-- VFCLE (R183). -/
  | vfcle (vd : BitVec 5) (va : BitVec 5) (vb : BitVec 5) (m : BitVec 1) (ms : BitVec 3) (ds : BitVec 2) (x : BitVec 1)
  /-- VFCGT (R183). -/
  | vfcgt (vd : BitVec 5) (va : BitVec 5) (vb : BitVec 5) (m : BitVec 1) (ms : BitVec 3) (ds : BitVec 2) (x : BitVec 1)
  /-- VFCGE (R183). -/
  | vfcge (vd : BitVec 5) (va : BitVec 5) (vb : BitVec 5) (m : BitVec 1) (ms : BitVec 3) (ds : BitVec 2) (x : BitVec 1)
  /-- VFCUN (R183). -/
  | vfcun (vd : BitVec 5) (va : BitVec 5) (vb : BitVec 5) (m : BitVec 1) (ms : BitVec 3) (ds : BitVec 2) (x : BitVec 1)
  /-- VCEQ_VS (R183). -/
  | vceqVs (vd : BitVec 5) (va : BitVec 5) (vb : BitVec 5) (m : BitVec 1) (ms : BitVec 3) (ds : BitVec 2)
  /-- VCNE_VS (R183). -/
  | vcneVs (vd : BitVec 5) (va : BitVec 5) (vb : BitVec 5) (m : BitVec 1) (ms : BitVec 3) (ds : BitVec 2)
  /-- VCLT_VS (R183). -/
  | vcltVs (vd : BitVec 5) (va : BitVec 5) (vb : BitVec 5) (m : BitVec 1) (ms : BitVec 3) (ds : BitVec 2)
  /-- VCLTU_VS (R183). -/
  | vcltuVs (vd : BitVec 5) (va : BitVec 5) (vb : BitVec 5) (m : BitVec 1) (ms : BitVec 3) (ds : BitVec 2)
  /-- VCLE_VS (R183). -/
  | vcleVs (vd : BitVec 5) (va : BitVec 5) (vb : BitVec 5) (m : BitVec 1) (ms : BitVec 3) (ds : BitVec 2)
  /-- VCLEU_VS (R183). -/
  | vcleuVs (vd : BitVec 5) (va : BitVec 5) (vb : BitVec 5) (m : BitVec 1) (ms : BitVec 3) (ds : BitVec 2)
  /-- VCGT_VS (R183). -/
  | vcgtVs (vd : BitVec 5) (va : BitVec 5) (vb : BitVec 5) (m : BitVec 1) (ms : BitVec 3) (ds : BitVec 2)
  /-- VCGTU_VS (R183). -/
  | vcgtuVs (vd : BitVec 5) (va : BitVec 5) (vb : BitVec 5) (m : BitVec 1) (ms : BitVec 3) (ds : BitVec 2)
  /-- VFCEQ_VS (R183). -/
  | vfceqVs (vd : BitVec 5) (va : BitVec 5) (vb : BitVec 5) (m : BitVec 1) (ms : BitVec 3) (ds : BitVec 2) (x : BitVec 1)
  /-- VFCNE_VS (R183). -/
  | vfcneVs (vd : BitVec 5) (va : BitVec 5) (vb : BitVec 5) (m : BitVec 1) (ms : BitVec 3) (ds : BitVec 2) (x : BitVec 1)
  /-- VFCLT_VS (R183). -/
  | vfcltVs (vd : BitVec 5) (va : BitVec 5) (vb : BitVec 5) (m : BitVec 1) (ms : BitVec 3) (ds : BitVec 2) (x : BitVec 1)
  /-- VFCLE_VS (R183). -/
  | vfcleVs (vd : BitVec 5) (va : BitVec 5) (vb : BitVec 5) (m : BitVec 1) (ms : BitVec 3) (ds : BitVec 2) (x : BitVec 1)
  /-- VFCGT_VS (R183). -/
  | vfcgtVs (vd : BitVec 5) (va : BitVec 5) (vb : BitVec 5) (m : BitVec 1) (ms : BitVec 3) (ds : BitVec 2) (x : BitVec 1)
  /-- VFCGE_VS (R183). -/
  | vfcgeVs (vd : BitVec 5) (va : BitVec 5) (vb : BitVec 5) (m : BitVec 1) (ms : BitVec 3) (ds : BitVec 2) (x : BitVec 1)
  /-- VFCUN_VS (R183). -/
  | vfcunVs (vd : BitVec 5) (va : BitVec 5) (vb : BitVec 5) (m : BitVec 1) (ms : BitVec 3) (ds : BitVec 2) (x : BitVec 1)
  /-- TMUL (R300). -/
  | tmul (qc : BitVec 5) (qr : BitVec 5) (sk : BitVec 5) (p : BitVec 1) (acc : BitVec 3) (ds : BitVec 2) (gc : BitVec 5)
  /-- TMULSP (R302). -/
  | tmulsp (qc : BitVec 5) (qr : BitVec 5) (sk : BitVec 5) (p : BitVec 1) (acc : BitVec 3) (ds : BitVec 2) (gc : BitVec 5)
  /-- TMODE_ON (R286). -/
  | tmodeOn (vb : BitVec 5)
  /-- TMODE_OFF (R287). -/
  | tmodeOff (vb : BitVec 5)
  /-- TSHAPE (R289). -/
  | tshape (vd : BitVec 5) (va : BitVec 5) (vb : BitVec 5) (ds : BitVec 2)
  /-- TZERO (R291). -/
  | tzero (vb : BitVec 5) (ds : BitVec 2)
  /-- TRDR (R292). -/
  | trdr (vd : BitVec 5) (va : BitVec 5) (ds : BitVec 2)
  /-- TRDC (R292). -/
  | trdc (vd : BitVec 5) (va : BitVec 5) (ds : BitVec 2)
  /-- TWRR (R292). -/
  | twrr (vd : BitVec 5) (va : BitVec 5) (ds : BitVec 2)
  /-- TWRC (R292). -/
  | twrc (vd : BitVec 5) (va : BitVec 5) (ds : BitVec 2)
  /-- TPRED (R290). -/
  | tpred (ds : BitVec 2)
  /-- TSYNC (R293). -/
  | tsync
  /-- SOPEN (R233). -/
  | sopen (qn : BitVec 5) (ra : BitVec 5) (ds : BitVec 2)
  /-- SCLOSE (R234). -/
  | sclose (qn : BitVec 5) (ds : BitVec 2)
  /-- SAVAIL (R235). -/
  | savail (qn : BitVec 5) (rd : BitVec 5) (ds : BitVec 2)
  /-- SWAIT (R236). -/
  | swait (qn : BitVec 5) (ra : BitVec 5) (ds : BitVec 2)
  /-- SSKIP (R237). -/
  | sskip (qn : BitVec 5) (ra : BitVec 5) (ds : BitVec 2)
  /-- SDRAIN (R238). -/
  | sdrain (qn : BitVec 5) (ds : BitVec 2)
  /-- SREWIND (R239). -/
  | srewind (qn : BitVec 5) (ds : BitVec 2)
  /-- SPREF (R240). -/
  | spref (qn : BitVec 5) (ra : BitVec 5) (ds : BitVec 2)
  /-- SGATHER (R244). -/
  | sgather (qn : BitVec 5) (ra : BitVec 5) (ds : BitVec 2)
  /-- SLDX_BG (R243). -/
  | sldxBg (qn : BitVec 5) (ra : BitVec 5) (rb : BitVec 5) (ds : BitVec 2)
  /-- STRANS (R233). -/
  | strans (qn : BitVec 5) (ra : BitVec 5) (ds : BitVec 2)
  /-- SSTAT (R235). -/
  | sstat (qn : BitVec 5) (rd : BitVec 5) (ds : BitVec 2)
  /-- CPY (R256). -/
  | cpy (rd : BitVec 5) (ra : BitVec 5) (spd : BitVec 1) (sps : BitVec 1) (ds : BitVec 2)
  /-- CPFILL (R256). -/
  | cpfill (rd : BitVec 5) (rb : BitVec 5) (spd : BitVec 1) (ds : BitVec 2)
  /-- CPCVT (R257). -/
  | cpcvt (rd : BitVec 5) (ra : BitVec 5) (rb : BitVec 5) (spd : BitVec 1) (sps : BitVec 1) (ds : BitVec 2)
  /-- CPLZ (R262). -/
  | cplz (rd : BitVec 5) (ra : BitVec 5) (rb : BitVec 5) (sps : BitVec 1) (ds : BitVec 2)
  /-- CPXP (R263). -/
  | cpxp (rd : BitVec 5) (ra : BitVec 5) (rb : BitVec 5) (spd : BitVec 1) (ds : BitVec 2)
  /-- CPCRC (R265). -/
  | cpcrc (rd : BitVec 5) (ra : BitVec 5) (rb : BitVec 5) (sps : BitVec 1) (ds : BitVec 2)
  /-- CPCRC64 (R265). -/
  | cpcrc64 (rd : BitVec 5) (ra : BitVec 5) (rb : BitVec 5) (sps : BitVec 1) (ds : BitVec 2)
  /-- CPREL (R267). -/
  | cprel (rd : BitVec 5) (ra : BitVec 5) (rb : BitVec 5) (ds : BitVec 2)
  /-- CPSHAD (R272). -/
  | cpshad (rd : BitVec 5) (ra : BitVec 5)
  /-- CPBL (R273). -/
  | cpbl (rd : BitVec 5) (sc : BitVec 2)
  /-- CPWAIT (R275). -/
  | cpwait
  /-- NRING (R321). -/
  | nring (ra : BitVec 5) (rb : BitVec 5)
  /-- NCQHD (R325). -/
  | ncqhd (ra : BitVec 5) (rb : BitVec 5)
  /-- NQSTAT (R322). -/
  | nqstat (rd : BitVec 5) (ra : BitVec 5)
  /-- NCQPOLL (R326). -/
  | ncqpoll (rd : BitVec 5) (ra : BitVec 5)
  /-- LTURN (R348). -/
  | lturn (rd : BitVec 5) (ra : BitVec 5) (rb : BitVec 5)
  /-- LSTAT (R350). -/
  | lstat (rd : BitVec 5) (ra : BitVec 5)
  /-- LPAUSE (R354). -/
  | lpause (ra : BitVec 5)
  /-- LRESUME (R355). -/
  | lresume (ra : BitVec 5)
  /-- LREMAP (R356). -/
  | lremap (ra : BitVec 5) (rb : BitVec 5)
  /-- LTRAIN (R357). -/
  | ltrain (ra : BitVec 5) (rb : BitVec 5)
  /-- LWAIT (R349). -/
  | lwait (rd : BitVec 5) (ra : BitVec 5)
  /-- BPUT (R365). -/
  | bput (rd : BitVec 5) (ra : BitVec 5) (rb : BitVec 5)
  /-- BGET (R365). -/
  | bget (rd : BitVec 5) (ra : BitVec 5) (rb : BitVec 5)
  /-- BATOM (R366). -/
  | batom (rd : BitVec 5) (ra : BitVec 5) (rb : BitVec 5)
  /-- BNOTIFY (R367). -/
  | bnotify (rd : BitVec 5) (ra : BitVec 5) (rb : BitVec 5)
  /-- BWAIT (R369). -/
  | bwait (rd : BitVec 5) (ra : BitVec 5)
  /-- BPOLL (R369). -/
  | bpoll (rd : BitVec 5) (ra : BitVec 5)
  /-- BFENCE (R370). -/
  | bfence
  /-- BSTAT (R371). -/
  | bstat (rd : BitVec 5) (ra : BitVec 5)
  /-- BLPORT (R371). -/
  | blport (rd : BitVec 5) (ra : BitVec 5)
  /-- KLAUNCH (R404). -/
  | klaunch (rd : BitVec 5) (ra : BitVec 5)
  /-- KWAIT (R404). -/
  | kwait (ra : BitVec 5)
  /-- CTXSAVE (R404). -/
  | ctxsave (ra : BitVec 5)
  /-- CTXLOAD (R404). -/
  | ctxload (ra : BitVec 5)
  /-- SVRD (R418). -/
  | svrd (rd : BitVec 5) (ra : BitVec 5)
  /-- SVWR (R418). -/
  | svwr (rd : BitVec 5) (ra : BitVec 5)
  /-- WARM (R419). -/
  | warm (ra : BitVec 5) (n : BitVec 2)
  /-- WDISARM (R419). -/
  | wdisarm (n : BitVec 2)
  /-- VDADD (R181). -/
  | vdadd (vd : BitVec 5) (va : BitVec 5) (vb : BitVec 5) (m : BitVec 1) (ms : BitVec 3) (ds : BitVec 2) (x : BitVec 1)
  /-- VDSUB (R181). -/
  | vdsub (vd : BitVec 5) (va : BitVec 5) (vb : BitVec 5) (m : BitVec 1) (ms : BitVec 3) (ds : BitVec 2) (x : BitVec 1)
  /-- VDMUL (R181). -/
  | vdmul (vd : BitVec 5) (va : BitVec 5) (vb : BitVec 5) (m : BitVec 1) (ms : BitVec 3) (ds : BitVec 2) (x : BitVec 1)
  /-- VDDIV (R181). -/
  | vddiv (vd : BitVec 5) (va : BitVec 5) (vb : BitVec 5) (m : BitVec 1) (ms : BitVec 3) (ds : BitVec 2) (x : BitVec 1)
  /-- VDMIN (R181). -/
  | vdmin (vd : BitVec 5) (va : BitVec 5) (vb : BitVec 5) (m : BitVec 1) (ms : BitVec 3) (ds : BitVec 2) (x : BitVec 1)
  /-- VDMAX (R181). -/
  | vdmax (vd : BitVec 5) (va : BitVec 5) (vb : BitVec 5) (m : BitVec 1) (ms : BitVec 3) (ds : BitVec 2) (x : BitVec 1)
  /-- VDFMA (R181). -/
  | vdfma (vd : BitVec 5) (va : BitVec 5) (vb : BitVec 5) (m : BitVec 1) (ms : BitVec 3) (ds : BitVec 2) (x : BitVec 1)
  /-- VDFNMA (R181). -/
  | vdfnma (vd : BitVec 5) (va : BitVec 5) (vb : BitVec 5) (m : BitVec 1) (ms : BitVec 3) (ds : BitVec 2) (x : BitVec 1)
  /-- VDFMS (R181). -/
  | vdfms (vd : BitVec 5) (va : BitVec 5) (vb : BitVec 5) (m : BitVec 1) (ms : BitVec 3) (ds : BitVec 2) (x : BitVec 1)
  /-- VDCSIGN (R181). -/
  | vdcsign (vd : BitVec 5) (va : BitVec 5) (vb : BitVec 5) (m : BitVec 1) (ms : BitVec 3) (ds : BitVec 2) (x : BitVec 1)
  /-- VDNSIGN (R181). -/
  | vdnsign (vd : BitVec 5) (va : BitVec 5) (vb : BitVec 5) (m : BitVec 1) (ms : BitVec 3) (ds : BitVec 2) (x : BitVec 1)
  /-- VDXSIGN (R181). -/
  | vdxsign (vd : BitVec 5) (va : BitVec 5) (vb : BitVec 5) (m : BitVec 1) (ms : BitVec 3) (ds : BitVec 2) (x : BitVec 1)
  /-- VDKIND (R181). -/
  | vdkind (vd : BitVec 5) (va : BitVec 5) (m : BitVec 1) (ms : BitVec 3) (ds : BitVec 2) (x : BitVec 1)
  /-- VDSUBR (R181). -/
  | vdsubr (vd : BitVec 5) (va : BitVec 5) (vb : BitVec 5) (m : BitVec 1) (ms : BitVec 3) (ds : BitVec 2) (x : BitVec 1)
  /-- VDSQRT (R181). -/
  | vdsqrt (vd : BitVec 5) (va : BitVec 5) (m : BitVec 1) (ms : BitVec 3) (ds : BitVec 2) (x : BitVec 1)
  /-- TRAP_ENTRY (R160). -/
  | trapEntry (hart : Nat)
  /-- ENTRY_COMPLETE (R158). -/
  | entryComplete (hart : Nat)
  /-- BAR_WAIT_END (R155). -/
  | barWaitEnd (hart : Nat)
  /-- YIELD_EXPIRY (R153). -/
  | yieldExpiry (hart : Nat)
  /-- STREAM_FETCH (R223). -/
  | streamFetch (hart q pos : Nat)
  /-- STREAM_STORE_WRITE (R229). -/
  | streamStoreWrite (hart q pos : Nat)
  /-- SGATHER_ROW (R244). -/
  | sgatherRow (hart q engine : Nat)
  /-- COPY_CHUNK (R252). -/
  | copyChunk (hart uid pos engine : Nat)
  /-- DRIVE_REQUEST (R318). -/
  | driveRequest (port : Nat) (rid : BitVec 16) (addr : BitVec 64) (write : Bool) (len : Nat) (data : List (BitVec 8))
  /-- PAIR_ERROR (R333). -/
  | pairError (handle : Nat)
  /-- TURN_BEGIN (R339). -/
  | turnBegin (link : Nat)
  /-- AUTO_TURN (R340). -/
  | autoTurn (link : Nat) (toB : Bool)
  /-- TURN_DRAIN_END (R338). -/
  | turnDrainEnd (link : Nat)
  /-- TURN_DEAD_TIME_END (R338). -/
  | turnDeadTimeEnd (link : Nat)
  /-- LINK_PAUSED (R354). -/
  | linkPaused (link : Nat)
  /-- LTRAIN_DONE (R357). -/
  | ltrainDone (link : Nat) (failed : BitVec 8) (badSpares : BitVec 32)
  /-- FLIT_REPLAY (R345). -/
  | flitReplay (link group lane : Nat) (again : Bool)
  /-- PUT (R365). -/
  | put (port : Nat) (pkt : Packet)
  /-- GETREQ (R365). -/
  | getreq (port : Nat) (pkt : Packet)
  /-- ATOM (R366). -/
  | atom (port : Nat) (pkt : Packet)
  /-- NOTIFY (R367). -/
  | notify (port : Nat) (pkt : Packet)
  /-- ACK (R365). -/
  | ack (port : Nat) (pkt : Packet)
  /-- GETDATA (R365). -/
  | getdata (port : Nat) (pkt : Packet)
  /-- ATOMRSP (R366). -/
  | atomrsp (port : Nat) (pkt : Packet)
  /-- BELL (R376). -/
  | bell (port vc : Nat) (gpn : BitVec 12)
  /-- RBELL (R379). -/
  | rbell (port vc : Nat) (gpn : BitVec 12)
  /-- BEACON_FLIT_REPLAY (R359). -/
  | beaconFlitReplay (port : Nat) (again : Bool)
  /-- PORT_UP (R362). -/
  | portUp (port : Nat)
  /-- LAUNCH_BIND (R391). -/
  | launchBind (slot : Nat)
  /-- PRE_EMPTION (R397). -/
  | preEmption (slot : Nat)
  /-- CONTEXT_SAVE (R401). -/
  | contextSave (slot : Nat)
  /-- COMPLETION_ENTRY_WRITE (R382). -/
  | completionEntryWrite (queue : Nat)
  /-- SQTAIL (R382). -/
  | sqtail (queue : Nat) (value : BitVec 64)
  /-- CQHEAD (R382). -/
  | cqhead (queue : Nat) (value : BitVec 64)
  /-- ENABLE (R380). -/
  | enable (queue : Nat) (value : BitVec 64)
  /-- TENANT_CREATE (R386). -/
  | tenantCreate (cmd : HostCmd)
  /-- TENANT_RESET (R388). -/
  | tenantReset (cmd : HostCmd)
  /-- TENANT_DELETE (R383). -/
  | tenantDelete (cmd : HostCmd)
  /-- OWNER_SET (R415). -/
  | ownerSet (cmd : HostCmd)
  /-- PAIR_CREATE (R316). -/
  | pairCreate (cmd : HostCmd)
  /-- PAIR_DELETE (R383). -/
  | pairDelete (cmd : HostCmd)
  /-- REGION_CREATE (R268). -/
  | regionCreate (cmd : HostCmd)
  /-- REGION_DELETE (R383). -/
  | regionDelete (cmd : HostCmd)
  /-- GANG_CREATE (R361). -/
  | gangCreate (cmd : HostCmd)
  /-- GANG_DELETE (R375). -/
  | gangDelete (cmd : HostCmd)
  /-- GANG_SWITCH_SAVE (R376). -/
  | gangSwitchSave (cmd : HostCmd)
  /-- GANG_SWITCH_RESUME (R379). -/
  | gangSwitchResume (cmd : HostCmd)
  /-- LAUNCH_SUSPEND (R396). -/
  | launchSuspend (cmd : HostCmd)
  /-- LAUNCH_RESUME (R398). -/
  | launchResume (cmd : HostCmd)
  /-- DEBUG_GRANT (R416). -/
  | debugGrant (cmd : HostCmd)
  /-- LAUNCH (R389). -/
  | launch (cmd : HostCmd)
  /-- INVALIDATE (R61). -/
  | invalidate (cmd : HostCmd)
  /-- FAULT_REPLY_RETRY (R66). -/
  | faultReplyRetry (cmd : HostCmd)
  /-- FAULT_REPLY_ABORT (R66). -/
  | faultReplyAbort (cmd : HostCmd)
  /-- NOP (R383). -/
  | nop (cmd : HostCmd)
  /-- BOOTGO (R409). -/
  | bootgo (readError : Bool)
  /-- RESETKEY (R425). -/
  | resetkey (value : BitVec 64)
  /-- POWER_ON (R425). -/
  | powerOn
  /-- ATTREQ (R410). -/
  | attreq
  /-- FATALREQ (R406). -/
  | fatalreq
  /-- SVNFUSE (R406). -/
  | svnfuse (value : BitVec 64)
  /-- CLUSTER_RETIRE (R208). -/
  | clusterRetire (core die cluster : Nat)
  /-- OWNER_ENTRY_WRITE (R415). -/
  | ownerEntryWrite (entry : Nat) (value : BitVec 8)
  /-- REGISTER_WRITE (R8). -/
  | registerWrite (offset : Nat) (value : BitVec 64)
  /-- POWER_CLAMP_WINDOW (R412). -/
  | powerClampWindow (watts : Nat)
  /-- JUNCTION_HOT (R412). -/
  | junctionHot (die : Nat)
  /-- THERMAL (R426). -/
  | thermal (die : Nat)
  /-- CD_MEMORY (R426). -/
  | cdMemory
  /-- DUMPDONE (R427). -/
  | dumpdone
  deriving DecidableEq, Repr

end Sys2Proof
end

