-- ==== Sys2Proof/Machine/HartState.lean ====
section
/-!
DEFINITION. The state of a hart (01 R44): registers, control words, masks, stream queues and the vector command queue
with its entries.
-/

namespace Sys2Proof.Machine

/-- What a trap reports (04 R160, R164): the cause code, TINFO0 to TINFO3. -/
structure TrapInfo where
  code : BitVec 8
  i0 : Word := 0
  i1 : Word := 0
  i2 : Word := 0
  i3 : Word := 0
  deriving DecidableEq, Repr

/-- A trap that is ready to be taken (R163): from the queue entry of a QSN, or from outside the hart. -/
structure PendTrap where
  info : TrapInfo
  vec : Bool
  qsn : BitVec 16
  /-- Whether the cause came from outside the hart (R163 step 3). -/
  outside : Bool
  deriving DecidableEq, Repr

/-- A memory request that faulted and waits for a reply of the host (02 R65): its fault-queue sequence number once an entry
was written, the virtual address, the reason, the kind (1 load, 2 store), the die and source that made it, the unit of a copy
command or the element or request of a stream queue that it concerns, and the QSN of the instruction that it belongs to. -/
structure HeldReq where
  seq : Option (BitVec 64)
  va : Word
  reason : BitVec 8
  kind : Nat
  die : Nat
  source : Nat
  unit : Nat := 0
  qsn : BitVec 16 := 0
  deriving DecidableEq, Repr

/-- Where a queue entry stands (R158); a started copy command or rank update lets later entries start. -/
inductive EStat where
  | waiting | started | held | complete
  deriving DecidableEq, Repr

/-- What a command captures when it starts (07 R250): VL, VTYPE, the selector and its participating dies. -/
structure Cap where
  vl : Nat
  vtype : BitVec 16
  sel : BitVec 64
  dies : List Nat
  deriving DecidableEq, Repr

/-- The progress of a copy command (07 R279, R280), by die position: units completed, or of a rank update the k positions
applied (08 R304), CPLZ cursor, partial CRC; the flags and saturations to be reported at completion; the regions whose shadow side it
uses, fixed when it starts (R270), and those that it has touched; the request held for a reply; the engine that serves a CPREL
(R252). -/
structure CopyProg where
  done : SMap Nat := []
  cur : SMap Nat := []
  part : SMap (BitVec 64) := []
  flags : Flags := 0
  sat : Nat := 0
  openAt : List Nat := []
  shadow : List Nat := []
  engine : Option Nat := none
  held : Option HeldReq := none
  heldPos : Nat := 0
  /-- A unit whose held request was answered ABORT or whose write was denied, with the cause to raise. -/
  fail : Option TrapInfo := none
  deriving DecidableEq, Repr

/-- The register configuration in force (01 R36): the number of registers and the quarters whose columns they hold. -/
structure VConfig where
  nreg : Nat
  quarters : BitVec 4
  deriving DecidableEq, Repr

/-- An entry of the vector command queue (R157, R158). -/
structure Entry where
  uid : Nat
  qsn : BitVec 16
  op : QOp
  word : BitVec 32
  pc : Word
  opd : Word
  opa : Word
  opb : Word
  /-- s[RB + 1], the expected value of BATOM's CAS (11 R366). -/
  opc : Word := 0
  dst : Option Nat
  st : EStat
  /-- The restart index, once a trap or a stop has fixed one; otherwise the entry honours VSTART. -/
  restart : Option Nat
  cap : Option Cap
  prog : CopyProg
  /-- 08 R288: a tile word that issued while the issue-time copy of the tile state was off. -/
  lazyTile : Bool
  /-- A clustered effect already made when the entry waits (a VL trim, an appended request). -/
  began : Bool
  /-- A rank update's grid columns, c0 first, its number of k positions, and the LANEMASK, fixed when it starts (08 R295, R305,
  R311). -/
  cols : List Nat := []
  kTotal : Nat := 0
  laneMask : BitVec 32 := 0
  /-- The VL that a VSETVLI or VSETVL fixed at issue (R149). -/
  vlNew : Nat := 0
  /-- The cycle in which it issued, and the granule that its consuming read waits on (02 R86). -/
  issued : Nat := 0
  waitsOn : Option Nat := none
  /-- The configuration under which an entry goes on that had started when its hart received a quarter (05 R204). -/
  oldCfg : Option (Option VConfig) := none
  /-- Whether it had started before a trap held it (05 R204). -/
  ran : Bool := false
  /-- The descriptor that an SOPEN or STRANS captured when it started (06 R216). -/
  desc : Option (BitVec 512) := none
  deriving DecidableEq, Repr

/-- One request of an indexed load (06 R242, R243) or of a staged gather (R244): its address, the die that serves it,
the QSN that made it, 0 once the element is in the buffer or the row staged, and its index among the requests of its die. -/
structure StreamReq where
  addr : Word
  die : Nat
  qsn : BitVec 16
  slot : Nat
  data : Option Nat
  deriving DecidableEq, Repr

/-- A stream queue (06 R212). Positions are lists by die position. -/
structure StreamQ where
  isOpen : Bool := false
  desc : BitVec 512 := 0
  dies : List Nat := []
  dstep : Word := 0
  /-- Elements taken or enqueued since SOPEN or SREWIND. -/
  pos : Nat := 0
  /-- The next element of each die stream to be taken or enqueued; for SRC 4 the requests recorded of each lane die. -/
  dpos : List Nat := []
  /-- The next element of each die stream of an affine load queue to be fetched. -/
  fpos : List Nat := []
  /-- The die stream whose run is current in queue order, and the elements left of the run (R214, R225). -/
  cur : Nat := 0
  left : Nat := 0
  /-- Buffered elements by key: die-stream element × 8 + position for SRC 0, 1 and stores, the element's place in queue
  order for SRC 2 to 4. A store element carries the QSN of its VENQ in bits [271:256]. -/
  buf : SMap (BitVec 272) := []
  /-- Granules emptied since the fetch (R226): key × 4 + the number of the granule among the element's. -/
  stale : List Nat := []
  window : Nat := 0
  held : Option HeldReq := none
  abort : Option (BitVec 64) := none
  denied : Option TrapInfo := none
  /-- Die positions whose next element lies outside the slice. -/
  range : List Nat := []
  /-- The queue that this one serves as index queue. -/
  bound : Option Nat := none
  /-- Requests by number whose elements are not all taken (SRC 2 to 4), and the number of requests recorded since SOPEN: of SRC 2 the
  indices taken from the index queue. -/
  reqs : SMap StreamReq := []
  nreqs : Nat := 0
  qsn : BitVec 16 := 0
  deriving DecidableEq, Repr

/-- Whether a hart executes (04 R154, R160, 12 R391, R397). -/
inductive RunState where
  | free | running | halted | failed | preempted
  deriving DecidableEq, Repr

/-- A FENCE that still holds back later instructions (04 R156): the kinds of QS and of PS it named, its scope, the entry
and the QSN from which on entries are later than it, and the entries held at a trap, which count as not yet issued (R159). -/
structure FenceHold where
  ps : BitVec 5
  qs : BitVec 5
  scope : BitVec 2
  before : Nat
  qsn : BitVec 16 := 0
  held : List (Nat × BitVec 16) := []
  deriving DecidableEq, Repr

/-- A portable kernel that the loader regenerated (12 R403): the address of its body, the body words, the element count, and
the element and word that come next. -/
structure Portable where
  base : Word
  body : List (BitVec 32)
  count : Nat
  elem : Nat := 0
  word : Nat := 0
  deriving DecidableEq, Repr

/-- The state of a hart (01 R44). DESIGN CHOICE, log 1. -/
structure Hart where
  run : RunState := .free
  super : Bool := false
  pc : Word := 0
  sregs : SMap Word := []
  vl : BitVec 15 := 0
  vstart : BitVec 14 := 0
  vtype : BitVec 16 := 0x000A
  ds : SMap Word := []
  fflags : Flags := 0
  fexc : SMap Word := []
  /-- The entry occurrence that made each record of FEXC0 to FEXC4 (05 R178). -/
  fexcMark : SMap Nat := []
  satcnt : BitVec 32 := 0
  lfsrIdx : BitVec 9 := 0
  lfsr : SMap (BitVec 32) := []
  copyLfsr : SMap (BitVec 32) := []
  tm : Nat := 0
  tn : Nat := 0
  tk : Nat := 0
  tkprog : Nat := 0
  tenant : Nat := 0
  owned : BitVec 4 := 0
  tile : BitVec 4 := 0
  tileIssue : BitVec 4 := 0
  cfg : Option VConfig := none
  tvec : Word := 0
  tcause : BitVec 9 := 0
  tpc : Word := 0
  tqsn : BitVec 16 := 0
  tinfo0 : Word := 0
  tinfo1 : Word := 0
  tinfo2 : Word := 0
  tinfo3 : Word := 0
  tscratch : Word := 0
  emubase : Word := 0
  masks : SMap (BitVec 16384) := []
  maskDirty : List Nat := []
  vdirty : List Nat := []
  vhw : SMap Nat := []
  queues : SMap StreamQ := []
  queue : List Entry := []
  nextQsn : BitVec 16 := 0
  nextUid : Nat := 0
  /-- The BAR wait record (R155): barrier address and generation. -/
  bar : Option (Word × BitVec 32) := none
  fence : List FenceHold := []
  yield : Nat := 0
  /-- R288: the hart issues no later instruction until its lazy tile word has started. -/
  issueHold : Bool := false
  /-- 13 R422: the watch pass marker: whether it is for an entry, and QSN × 2^15 + element, or the address of the instruction,
  that may pass. DEDUCED, log 38. -/
  watchPass : Option (Bool × Nat) := none
  /-- 05 R208: a retirement not yet reported. -/
  laneRetired : Bool := false
  /-- The held entry whose trap was taken last, and whether VSTART was written since (R159). -/
  faultUid : Option Nat := none
  vstartSet : Bool := false
  /-- The number of instructions that the hart has issued, but for those whose own trap was taken. DESIGN CHOICE, log 5. -/
  issueCount : Nat := 0
  pending : List PendTrap := []
  launch : Option Nat := none
  role : Nat := 0
  /-- The key of the hart's table in the Beacon router (11 R364): the number of its launch × 128 + its role. -/
  fkey : Nat := 0
  portable : Option Portable := none
  /-- Its held entries were stopped by a pre-emption and not by a trap: they are released when it resumes (12 R398). -/
  release : Bool := false
  /-- The launch that a CTXSAVE or CTXLOAD under way acts on, with the status once it has ended (12 R404). -/
  ctx : Option (Nat × Option Nat) := none
  /-- The schedule holds this hart's entries back: they start only at an ENTRY_COMPLETE. DESIGN CHOICE, log 3. -/
  lag : Bool := false
  /-- The progress index of the entry being run (R46). -/
  p : Nat := 0
  deriving DecidableEq, Repr

end Sys2Proof.Machine
end

