-- ==== Sys2Proof/Machine/DeviceState.lean ====
section
/-!
DEFINITION. The state of the device around the harts: tenants and their regions and fault queues, owner entries, windows,
grants and watchpoints.
-/

namespace Sys2Proof.Machine

/-- A publish region of a tenant (07 R268): its descriptor, the visible side, whether its shadow is open and for which hart,
and whether the shadow is spoiled. -/
structure Region where
  desc : BitVec 256
  side : Bool
  owner : Option Nat
  spoiled : Bool
  deriving DecidableEq, Repr

/-- What a held fault-queue entry waits for (02 R65): a stream queue or a copy command of a hart. -/
inductive FaultSource where
  | stream (hart q : Nat)
  | copy (hart uid : Nat)
  deriving DecidableEq, Repr

/-- The status of a tenant (12 R386). -/
inductive TenantStatus where
  | none | active | resetting
  deriving DecidableEq, Repr

/-- A tenant (12 R386, R387): what TENANT_CREATE set, its fault queue (02 R65), its publish regions and device launches.
DESIGN CHOICE, log 1. -/
structure Tenant where
  status : TenantStatus := .none
  priomax : Nat := 0
  root : Word := 0
  fqbase : Word := 0
  fqvec : BitVec 16 := 0
  evvec : BitVec 16 := 0
  weights : SMap (BitVec 8) := []
  faultSeq : Nat := 0
  /-- Occupied slots of the fault queue by sequence number. -/
  faults : SMap FaultSource := []
  regions : SMap Region := []
  deriving DecidableEq, Repr

/-- A debug grant (13 R416). -/
structure Grant where
  tenant : Nat
  read : Bool
  write : Bool
  watch : Bool
  base : Nat
  count : Nat
  deriving DecidableEq, Repr

/-- A watchpoint (13 R419): granule, byte mask, kinds, tenant. -/
structure WatchPt where
  pa : Nat
  bmask : BitVec 16
  kinds : BitVec 4
  tenant : Nat
  deriving DecidableEq, Repr

/-- A DMA window (13 R407, R413). -/
structure DmaWin where
  base : Nat := 0
  size : Nat := 0
  valid : Bool := false
  read : Bool := false
  write : Bool := false
  owner : BitVec 5 := 0
  deriving DecidableEq, Repr

/-- A translation held in a TLB (02 R60): tenant, first address, page size, and the leaf entry. -/
structure TlbEntry where
  tenant : Nat
  va : Nat
  size : Nat
  level : Nat
  pte : BitVec 64
  deriving DecidableEq, Repr

/-- A core: the rotation pointer (04 R136) and the clusters retired (01 R32), bit 4d + c. DESIGN CHOICE, log 1. -/
structure Core where
  rot : Nat := 0
  retired : BitVec 32 := 0
  tenant : Option Nat := none
  deriving DecidableEq, Repr

/-- A storage queue pair that is not FREE (09 R316, R322): its descriptor, its state code, the indices of NQSTAT, the entries
the drive has written and no NCQHD has released, the fault word, the captured submission entries by slot (R324), and the
commands whose completion has not been written, by CID. -/
structure Pair where
  desc : BitVec 512 := 0
  state : Nat := 1
  sqtail : Nat := 0
  sqhead : Nat := 0
  cqhead : Nat := 0
  phase : Bool := true
  written : Nat := 0
  wfault : Bool := false
  fault : BitVec 64 := 0
  captured : SMap (BitVec 512) := []
  cmds : SMap (BitVec 512) := []
  /-- The hart and the entry whose NRING rang for each of these commands (02 R70): the key of the hart's table and the entry's number. -/
  rang : SMap (Nat × Nat) := []
  /-- The harts and entries whose NRING has reached the engine and is not through, in the order of arrival (R321). -/
  ringers : List (Nat × Nat) := []
  /-- By CID of a Read whose guards are to be checked (R328), the bytes that the drive has read since its NRING, by window offset: where
  its data lies, the PRP list or SGL said as the drive read it (R323). DEDUCED, log 20. -/
  lists : SMap (SMap (BitVec 8)) := []
  /-- The bytes that the drive wrote, by window offset, while their guards may still be checked (09 R328). DEDUCED, log 20. -/
  wrote : SMap (BitVec 8) := []
  /-- The command that deletes the pair (R316). -/
  deleter : Option HostCmd := none
  deriving DecidableEq, Repr

/-- A request of a drive (09 R318): the port and the requester, the bus address, whether it writes, its length and the bytes. -/
structure DriveReq where
  port : Nat
  rid : BitVec 16
  addr : BitVec 64
  write : Bool
  len : Nat
  data : List (BitVec 8)
  deriving DecidableEq, Repr

/-- What reaches a drive's doorbell (09 R321, R325): the pair, whether it is the completion queue's, the value. -/
structure Doorbell where
  pair : Nat
  cq : Bool
  value : Nat
  deriving DecidableEq, Repr

/-- A lane group of a link (10 R335, R352): width code, direction, the fields of the group word, the remap word of R356, the
lane-error word, the cycle at which its dwell ends (R338), and the replays of the flit at hand so far (R345). -/
structure LGroup where
  width : Nat := 0
  dirB : Bool
  untrained : Bool := false
  spused : BitVec 4 := 0
  spbad : BitVec 4 := 0
  remap : BitVec 64 := 0
  laneErr : BitVec 64 := 0
  dwellEnd : Nat := 0
  retry : BitVec 32 := 0
  fails : Nat := 0
  deriving DecidableEq, Repr

/-- The class of a flit (10 R342). -/
inductive FlitClass where
  | mreq | mrsp | eng | ctl | swp
  deriving DecidableEq, Repr

/-- Whose flit it is: an access of the scalar side of a hart, by its pc; the command, the completion or an access of a queue entry,
by its QSN; a die stream; a copy command at a die position; an agent on CD; or other traffic that the schedule put in flight.
DESIGN CHOICE, log 21. -/
inductive FlitOwner where
  | hart (h : Nat) (pc : Word)
  | entry (h : Nat) (qsn : BitVec 16)
  | stream (h q pos : Nat)
  | copy (h uid pos : Nat)
  | agent (n : Nat)
  | outside (n : Nat)
  deriving DecidableEq, Repr

/-- A flit in flight on a link, or waiting for it at its sender (10 R337, R354): its link and direction, class, the tenant it
counts against, whose it is, and the permit of the receiver that it holds (R343): none, a reserved one (false) or a shared
one (true). DESIGN CHOICE, log 21. -/
structure Flit where
  link : Nat
  toB : Bool
  cls : FlitClass
  payer : Option Nat
  owner : FlitOwner
  permit : Option Bool
  deriving DecidableEq, Repr

/-- Who made a turn request (10 R339, R340). -/
inductive LinkUser where
  | tenant (t : Nat) | supervisor | controller
  deriving DecidableEq, Repr

/-- A turn request (R339). -/
structure TurnReq where
  serial : Nat
  n : Nat
  weight : Nat
  who : LinkUser
  /-- A turn of the controller's own has lost to this request (R339, R340). -/
  beat : Bool := false
  deriving DecidableEq, Repr

/-- A turn that has begun (R338): its request, the clamped split and whether it differs from the request's, the groups that
turn, and whether they are in their dead time. -/
structure Turn where
  req : TurnReq
  n : Nat
  clamped : Bool
  groups : List Nat
  dead : Bool
  deriving DecidableEq, Repr

/-- A die-to-die link (10 R335 to R357): STATE as R351 codes it, the split that its last turn or resumption gave it, groups that
differ from their reset value, the serial, the pending winner, the turn, the most recently accepted requests with who made them and their outcome, oldest first, and what
the entries that train it named and learnt, by hart × 2^32 + uid. DESIGN CHOICE, log 1. -/
structure Link where
  state : Nat := 0
  split : Nat := 4
  groups : SMap LGroup := []
  serial : Nat := 0
  winner : Option TurnReq := none
  turn : Option Turn := none
  recent : List (Nat × LinkUser × Option (BitVec 64)) := []
  trainWord : BitVec 64 := 0
  trainer : Nat := 0
  trained : SMap (BitVec 8) := []
  deriving DecidableEq, Repr

/-- A slot of an outstanding-operation table (11 R364): the packet type, the local counter, the entry, the target, the remote and the
local address, whether a response ended it, BATOM's result, and the failure (R370): its status (0 for none)
and REASON, the address, whether it was a counter's, and whether that was the local one. -/
structure FabOp where
  typ : Nat
  lcnt : Nat
  qsn : BitVec 16
  uid : Nat
  dest : Nat
  raddr : Word := 0
  laddr : Word := 0
  done : Bool := false
  result : Word := 0
  status : Nat := 0
  reason : Nat := 0
  va : Word := 0
  cnt : Bool := false
  loc : Bool := false
  /-- The bytes of BPUT's local source that were read with the packet before them. -/
  ahead : List (BitVec 8) := []
  deriving DecidableEq, Repr

/-- A failure at a target: status, REASON, address, and whether it was a counter's. -/
structure FabFail where
  status : Nat
  reason : Nat
  va : Word
  cnt : Bool
  deriving DecidableEq, Repr

/-- A gang partition (11 R361, R375 to R379): descriptor and route table, STATE as R371 codes it, output queues by logical
port × 2 + VC with each packet's logical input, the harts' tables by hart key × 256 + slot, BERR and BERRVA by hart key, the
first failure of operations under way at this target by (source rank × 128 + role) × 256 + slot, and what a SAVE keeps: the
captured and late packets, the channels belled, late packets lost, whether packets were lost, the save section. -/
structure Partition where
  desc : BitVec 512
  routes : List (BitVec 8)
  state : Nat := 1
  out : SMap (List (Nat × Packet)) := []
  ops : SMap FabOp := []
  berr : SMap (BitVec 64 × Word) := []
  tfail : SMap FabFail := []
  /-- By operation, the bytes of a packet that are written with those of the next (11 R368), with their virtual and physical address, and
  the bytes read ahead for the next. -/
  tails : SMap (Word × Nat × List (BitVec 8)) := []
  ahead : SMap (List (BitVec 8)) := []
  /-- The oldest request of the local queue is the rest of one in service. -/
  serving : Bool := false
  swept : Nat := 0
  captured : List (Nat × Packet) := []
  late : List (Nat × Packet) := []
  belled : List Nat := []
  rbelled : List Nat := []
  lost : Nat := 0
  netLost : Bool := false
  saveBase : Nat := 0
  hasSave : Bool := false
  /-- The switch command under way, and the offset of the captured section. -/
  cmd : Option HostCmd := none
  captOff : Nat := 64
  /-- Late records are still to be written. -/
  lateDue : Bool := false
  deriving DecidableEq, Repr

/-- A Beacon port (11 R359, R362): trained and up, gone down after being up, the replays of the flit at hand in a row, and
whether the neighbour returns no credits. DESIGN CHOICE, log 1. -/
structure Port where
  up : Bool := false
  failed : Bool := false
  fails : Nat := 0
  stalled : Bool := false
  deriving DecidableEq, Repr

/-- What waits for the end of a management action: a host command, or a hart in CTXSAVE or CTXLOAD (12 R404). -/
inductive Waiter where
  | cmd (c : HostCmd)
  | hart (h : Nat)
  deriving DecidableEq, Repr

/-- A completion entry that waits for its ring (12 R382): SEQ, OPCODE, STATUS, bytes 19 to 63 of the entry, whether it signals
VECTOR, and whether its command counts among the completed ones (DUP and SEQGAP do not). -/
structure Comp where
  seq : BitVec 64
  opcode : BitVec 8
  status : Nat
  rest : BitVec 360 := 0
  irq : Bool
  counts : Bool
  deriving DecidableEq, Repr

/-- A host queue (12 R380, R382): its registers, the device's ring indices and phase, commands accepted and not started,
started and not completed, completions to write, and the completed sequence numbers above LASTDONE. DESIGN CHOICE, log 1. -/
structure HostQueue where
  sqbase : Word := 0
  cqbase : Word := 0
  enable : Bool := false
  vector : BitVec 16 := 0
  cqsize : Nat := 0
  sqsize : Nat := 0
  sqhead : Nat := 0
  sqtail : Nat := 0
  cqtail : Nat := 0
  cqhead : Nat := 0
  phase : Bool := true
  lastAcc : BitVec 64 := 0
  lastDone : BitVec 64 := 0
  dseq : BitVec 64 := 0
  waiting : List HostCmd := []
  running : List HostCmd := []
  comps : List Comp := []
  above : List (BitVec 64) := []
  deriving DecidableEq, Repr

/-- A role of a kernel (12 R390): ENTRY, QUARTERS and TILEQ. -/
structure Role where
  entry : Nat
  quarters : BitVec 4
  tileq : BitVec 4
  deriving DecidableEq, Repr

/-- A kernel in the sequencer's descriptor cache (12 R393): the tenant and the KDESC that it is keyed by, its descriptor and its role
entries. -/
structure Kernel where
  tenant : Nat
  va : Word
  desc : BitVec 512
  roles : List Nat
  deriving DecidableEq, Repr

/-- Where a launch stands (12 R391 to R398): pending, running, its harts stopped for a save, or off the device. -/
inductive Stage where
  | pending | running | saving | suspended
  deriving DecidableEq, Repr

/-- A launch (12 R389 to R402): its generation, its tenant, the command that asked for it (none for KLAUNCH), what its body and
descriptor say, the arguments, the order in which it arrived and was bound, the core of each group, the save area's bookkeeping,
and what waits for its save or its restore. -/
structure Launch where
  gen : Nat
  stage : Stage := .pending
  tenant : Nat
  cmd : Option HostCmd
  prio : Nat
  preempt : Bool
  pnote : Bool
  savepa : Nat
  affinity : BitVec 32
  emup : Word
  doneaddr : Word
  kdesc : BitVec 512
  roles : List Role
  args : List Word
  arrival : Nat
  bound : Nat := 0
  /-- It has been bound once, so that later commands of its queue may start (R382). -/
  started : Bool := false
  /-- Its completion was reported (a SAVEFAIL of R399) although it runs on. -/
  closed : Bool := false
  cores : List Nat := []
  hasSave : Bool := false
  suspend : Bool := false
  /-- A LAUNCH_RESUME gave it a new save area, so that its next save is full (R401). -/
  moved : Bool := false
  preemptn : Nat := 0
  lastPa : Nat := 0
  lastGen : Nat := 0
  progress : Option Nat := none
  full : Bool := true
  waiter : Option Waiter := none
  /-- The harts by role as they stood when they were stopped; a restore takes from here only what the save area's layout has no
  place for. DEDUCED, log 41. -/
  kept : SMap Hart := []
  /-- A gang SAVE took it off the device (11 R376), and what its hart of the lowest role is told at the release (R379). -/
  gang : Bool := false
  late : Option (Nat × Nat × Nat) := none
  /-- The addresses of the emulation routines that its code calls (R402). DESIGN CHOICE, log 15. -/
  calls : List Nat := []
  deriving DecidableEq, Repr

/-- The boot page (13 R407). DESIGN CHOICE, log 1. -/
structure Boot where
  bootgo : Bool := false
  bfail : BitVec 8 := 0
  bstate : Nat := 0
  diedis : BitVec 8 := 0
  pwrlim : BitVec 12 := 0xC80
  imgsrc : Word := 0
  dumpbase : Word := 0
  dumpsize : Word := 0
  fatal : Bool := false
  dumpdone : Bool := false
  fwdead : Bool := false
  die : BitVec 8 := 0
  cause : BitVec 8 := 0
  attaddr : Word := 0
  attreq : Bool := false
  attnonce : BitVec 256 := 0
  measure : BitVec 512 := 0
  deriving DecidableEq, Repr

/-- The supervisor's own registers (13 R406, R412): FWLIM, the fused and running security versions, the Beacon log with its
count, the Beacon ports that reported that they went down (11 R359), oldest first, the arithmetic clock in MHz and the consecutive
windows over the limit at the floor. DESIGN CHOICE, log 1. -/
structure Supv where
  fwlim : BitVec 12 := 0xC80
  svn : Nat := 0
  imgSvn : Nat := 0
  beaconLog : List (BitVec 256) := []
  beaconCount : Nat := 0
  portReports : List Nat := []
  clock : Nat := 3600
  overWin : Nat := 0
  flash : List (BitVec 8) := []
  deriving DecidableEq, Repr

end Sys2Proof.Machine
end

