-- ==== Sys2Proof/Machine/State.lean ====
section
/-!
DEFINITION. The state of the device: plain data, holding every piece of state the spec names (INVENTORY.md, State), and
the model's own fields: whose turn it is, the agenda of moves to come, and the counter of free values.
-/

namespace Sys2Proof.Machine

/-- A fault of the machine. A hart's faults are traps that it takes (04 R160), and the errors that stop the device freeze it in a
next state (13 R427). `noSuchAgent` is raised by the step, for a move of the schedule that names a hart the device does not
have; stopping there is safe. -/
inductive Fault where
  | noSuchAgent
  deriving DecidableEq, Repr

/-- A refusal: an instruction that is not modelled yet, rejected by its mnemonic. Safe. -/
inductive Refusal where
  | notModelled (mnemonic : String)
  deriving DecidableEq, Repr

/-- One move of the schedule: a hart issues its next instruction; an event or command of the opcode table; a byte the host
writes to physical memory; an upset cell of a grid, sub-accumulator of a tile, buffer of a copy engine, word of DRAM, or packet in a
Beacon router's buffer; an entry that leaves a TLB of a control core or a lane die, or a kernel that leaves the descriptor cache; a flit
of other traffic put in flight, and its arrival; the hold on a hart's entries; a drive function that appears on a storage port, that
leaves it, and an MSI-X write of one; the neighbour of a Beacon port (or, as port 16, the local memory path) that takes no packets; a received packet by
its header bits; a supervisor-mode hart that firmware launches (04 R132); the image in flash. -/
inductive Act where
  | hart (h : Nat)
  | event (i : Instr)
  | hostWrite (pa : Nat) (b : BitVec 8)
  | upset (core row col : Nat) (correctable : Bool)
  | subUpset (core row col : Nat)
  | engineUpset (h uid pos : Nat)
  | packetUpset (tenant key : Nat)
  | tlbDrop (lane : Bool) (unit i : Nat)
  | memUpset (pa : Nat) (on : Bool)
  | kernelDrop (i : Nat)
  | flit (link : Nat) (toB : Bool) (cls : FlitClass) (payer : Option Nat) (n : Nat)
  | flitEnds (n : Nat)
  | lag (h : Nat) (on : Bool)
  | drive (port rid : Nat) (accepts : Bool)
  | driveGone (port rid : Nat)
  | msix (port rid : Nat)
  | packet (port : Nat) (header : BitVec 256) (payload : List (BitVec 8))
  | stall (port : Nat) (on : Bool)
  | superHart (h : Nat) (pc : Word) (tenant : Nat)
  | flash (image : List (BitVec 8))
  deriving DecidableEq, Repr

/-- The state of the machine. -/
structure State where
  /-- The hart whose turn it is, by HARTID; 128 is the supervisor core. DESIGN CHOICE, log 3. -/
  cur : Nat := 0
  agenda : List Act := []
  cycle : Nat := 0
  /-- The number of free values used so far. UNVERIFIED, log 9; DESIGN CHOICE, log 50. -/
  free : Nat := 0
  harts : SMap Hart := []
  cores : SMap Core := []
  /-- Grid cells by (core × 768 + column) × 512 + row. DESIGN CHOICE, log 12. -/
  grid : SMap (BitVec 32) := []
  /-- By quarter (core × 4 + q): the retirement that left its unwritten cells undefined (05 R208). UNVERIFIED, log 11. -/
  gridGen : SMap Nat := []
  badCells : List Nat := []
  softCells : List Nat := []
  /-- Scratchpad bytes by (core × 8 + die) × 2^22 + offset, and granules that are full by the same key over 16.
  DESIGN CHOICE, log 12. -/
  spad : SMap (BitVec 8) := []
  full : SMap Bool := []
  /-- Bytes of DRAM by location, and of the host window and supervisor SRAM by physical address. -/
  mem : List Host.Cell := []
  split : Nat := 0x100
  splitLock : Bool := false
  /-- Owner entries by physical address over 2 MiB: bit 7 valid, bits 3 to 0 tenant. -/
  owners : SMap (BitVec 8) := []
  /-- The denial log of each die (8 is CD) by slot, and how many denials it has recorded (02 R69). -/
  denyLog : SMap (List (BitVec 128)) := []
  denyCount : SMap Nat := []
  errCount : SMap (BitVec 32) := []
  /-- The first-level TLBs of the control cores, by core, and the last-level TLBs of the lane dies, by die (02 R60), most
  recently filled first. DEDUCED, log 6. -/
  tlb1 : SMap (List TlbEntry) := []
  tlb2 : SMap (List TlbEntry) := []
  /-- 8-byte words of DRAM, by location over 8, whose read meets an uncorrectable error (02 R63, 11 R370).
  DESIGN CHOICE, log 18. -/
  memBad : List Nat := []
  tenants : SMap Tenant := []
  grants : SMap Grant := []
  watch : SMap WatchPt := []
  watchReg : SMap (BitVec 64) := []
  dmaw : SMap DmaWin := []
  pairs : SMap Pair := []
  /-- Doorbell writes to the drives and answers to their requests, oldest first; an answer of none is Completer Abort.
  DESIGN CHOICE, log 19. -/
  doorbells : List Doorbell := []
  driveReplies : List (Option Nat) := []
  /-- The drive functions behind the ports, by port × 2^16 + RID, and whether each accepts the creation of queues.
  DESIGN CHOICE, log 19. -/
  drives : SMap Bool := []
  /-- Requests of drives that a link holds up, oldest first (09 R330, 10 R354). -/
  driveWait : List DriveReq := []
  links : SMap Link := []
  /-- The flits that wait for a link or are in flight on it, oldest first (10 R337, R340, R343). DESIGN CHOICE, log 21. -/
  flits : List Flit := []
  /-- Gang partitions by tenant, the Beacon ports, and the packets that left on each port, oldest first. -/
  parts : SMap Partition := []
  ports : SMap Port := []
  wire : List (Nat × Packet) := []
  /-- Scratchpad pages written, or with a granule bit changed, since they were last saved (12 R401). -/
  spDirty : List Nat := []
  /-- Host queues: 0 is the MQ, 1 + 8t + k queue k of tenant t. -/
  hostq : SMap HostQueue := []
  /-- Launches by slot, the generation that each slot reached, and counters of arrivals and bindings. -/
  launches : SMap Launch := []
  launchGen : SMap Nat := []
  /-- The kernels in the sequencer's descriptor cache, most recently read first (12 R393). DEDUCED, log 40. -/
  kernels : List Kernel := []
  arrivals : Nat := 0
  bindings : Nat := 0
  /-- The tenant whose launch was bound last (12 R391). -/
  lastTenant : Nat := 0
  /-- Tenants whose reset is under way, with the commands that wait for its end and whether each deletes the tenant (12 R388). -/
  resets : SMap (List (HostCmd × Bool)) := []
  /-- The emulation routines that the kernel loader placed, by tenant × 2^64 + virtual address: the word that each performs.
  DESIGN CHOICE, log 15. -/
  emu : SMap (BitVec 32) := []
  /-- The calls that the kernel loader wrote into code, by the same key, with the word that each replaced. DESIGN CHOICE, log 15. -/
  patched : SMap (BitVec 32 × BitVec 32) := []
  diedis : BitVec 8 := 0
  boot : Boot := {}
  supv : Supv := {}
  /-- Interrupts raised to the host, oldest first: the interrupt vector and what raised it. -/
  irqs : List (Nat × Nat) := []
  deriving DecidableEq, Repr

/-- The machine right after device reset. -/
def State.reset : State := {}

end Sys2Proof.Machine
end

