-- ==== Sys2Proof/Machine/Ops.lean ====
section
/-!
DEFINITION. The named operations on registers and bytes that the meanings share, and taking a trap and returning from one
(04 R158 to R163).
-/

namespace Sys2Proof.Machine

/-- The outcome of a step of this machine. -/
abbrev Out := Host.Outcome State Fault Refusal

/-- How a computation over the state ends early: a trap whose entry is replayed after RETT, a trap that ends its entry, or
a block in the sense of 01 R48. -/
inductive Exc where
  | trap (t : TrapInfo)
  | endTrap (t : TrapInfo)
  | wait
  deriving DecidableEq, Repr

/-- A computation over the state that can trap or block; the changes made before it ends stay (00 R14, Raise). -/
abbrev M := ExceptT Exc (StateM State)

/-- Runs a computation. -/
def runM {α : Type} (m : M α) (s : State) : Except Exc α × State := m.run s

/-! ### Harts and scalar registers -/

/-- The state of hart `h`. -/
def State.hart (s : State) (h : Nat) : Hart := smGet {} s.harts h

def State.setHart (s : State) (h : Nat) (x : Hart) : State := { s with harts := smPut s.harts h x }

def State.updHart (s : State) (h : Nat) (f : Hart → Hart) : State := s.setHart h (f (s.hart h))

/-- The hart whose turn it is. -/
def State.me (s : State) : Hart := s.hart s.cur

def State.updMe (s : State) (f : Hart → Hart) : State := s.updHart s.cur f

/-- s[r]; s0 reads as zero (R133). -/
def Hart.s (x : Hart) (r : Nat) : Word := if r = 0 then 0 else smGet 0 x.sregs r

/-- s[r] := v; a write to s0 is discarded (R133). -/
def Hart.setS (x : Hart) (r : Nat) (v : Word) : Hart :=
  if r = 0 then x else { x with sregs := smSet 0 x.sregs r v }

/-- An instruction has issued, and the program counter advances past it (R90). -/
def Hart.adv (x : Hart) : Hart := { x with pc := x.pc + 4, issueCount := x.issueCount + 1 }

/-- The supervisor core's number among the harts. DESIGN CHOICE, log 14. -/
def supvHart : Nat := 128

/-- The core of a hart. -/
def coreOf (h : Nat) : Nat := h / 4

def State.core (s : State) (c : Nat) : Core := smGet {} s.cores c

/-- m[n]. -/
def Hart.mask (x : Hart) (n : Nat) : BitVec 16384 := smGet 0 x.masks n

/-- m[n] := v, with its dirty bit (R166). -/
def Hart.setMask (x : Hart) (n : Nat) (v : BitVec 16384) : Hart :=
  { x with
    masks := smSet 0 x.masks n v
    maskDirty := if x.maskDirty.contains n then x.maskDirty else n :: x.maskDirty }

/-- m[n] with bit `i` set to `b`. -/
def setBit (v : BitVec 16384) (i : Nat) (b : Bool) : BitVec 16384 :=
  if b then v ||| (1#16384 <<< i) else v &&& ~~~(1#16384 <<< i)

/-- DS0 to DS3 (R119), each with its reset value. -/
def Hart.dsel (x : Hart) (n : Nat) : Word := smGet 0x00010000000000FF x.ds n

/-- The LFSR of lane `i` (R117): lane i starts at i + 1. DESIGN CHOICE, log 1. -/
def Hart.laneLfsr (x : Hart) (i : Nat) : BitVec 32 := smGet (BitVec.ofNat 32 (i + 1)) x.lfsr i

def Hart.setLaneLfsr (x : Hart) (i : Nat) (v : BitVec 32) : Hart :=
  { x with lfsr := smSet (BitVec.ofNat 32 (i + 1)) x.lfsr i v }

/-- The copy LFSR of die `d` and conversion lane `j` (07 R259). DESIGN CHOICE, log 1. -/
def Hart.copyLfsrAt (x : Hart) (d j : Nat) : BitVec 32 :=
  smGet (BitVec.ofNat 32 (513 + 16 * d + j)) x.copyLfsr (16 * d + j)

def Hart.setCopyLfsr (x : Hart) (d j : Nat) (v : BitVec 32) : Hart :=
  { x with copyLfsr := smSet (BitVec.ofNat 32 (513 + 16 * d + j)) x.copyLfsr (16 * d + j) v }

/-- q[n]. -/
def Hart.q (x : Hart) (n : Nat) : StreamQ := smGet {} x.queues n

def Hart.setQ (x : Hart) (n : Nat) (q : StreamQ) : Hart := { x with queues := smSet {} x.queues n q }

/-- The rounding mode of VTYPE.RM (R118). -/
def rmOf (code : Nat) : Rm :=
  match code with
  | 0 => .rne | 1 => .rna | 2 => .rtz | 3 => .rup | 4 => .rdn | _ => .sr

/-- The rounding mode of the scalar instructions and reductions: SR acts as RNE (R118, R174). -/
def rmNoSr (m : Rm) : Rm := match m with | .sr => .rne | m => m

def vtypeFmt (v : BitVec 16) : Nat := (v.extractLsb' 0 5).toNat
def vtypeGmul (v : BitVec 16) : Nat := 2 ^ (v.extractLsb' 8 2).toNat
def vtypeTp (v : BitVec 16) : Bool := v.getLsbD 10
def vtypeMp (v : BitVec 16) : Bool := v.getLsbD 11
def vtypeRm (v : BitVec 16) : Rm := rmOf (v.extractLsb' 12 3).toNat
def vtypeRepro (v : BitVec 16) : Bool := v.getLsbD 15

/-! ### The queue and readiness -/

/-- An entry whose effects are still to come and that the queue may work on. -/
def Entry.open (e : Entry) : Bool := match e.st with | .waiting | .started => true | _ => false

/-- R138: a register is pending while an entry that will write it has not completed. Held entries do not count (R159).
DESIGN CHOICE, log 5. -/
def Hart.pendReg (x : Hart) (r : Nat) : Bool := r != 0 && x.queue.any (fun e => e.open && e.dst == some r)

/-- Whether entries are held at a trap (R159). -/
def Hart.holding (x : Hart) : Bool := x.queue.any (fun e => e.st == .held)

/-- R136: the hart runs, none of the registers named has a pending write, and no lazy tile word holds its issue (08 R288). -/
def Hart.ready (x : Hart) (regs : List Nat) : Bool :=
  x.run == .running && !x.issueHold && regs.all (fun r => !x.pendReg r)

/-- Entries retire in QSN order (R45): completed ones leave from the front. -/
def retire (q : List Entry) : List Entry := q.dropWhile (fun e => e.st == .complete)

/-- The entry of a uid, replaced. -/
def Hart.updEntry (x : Hart) (uid : Nat) (f : Entry → Entry) : Hart :=
  { x with queue := x.queue.map (fun e => if e.uid = uid then f e else e) }

/-! ### Traps -/

/-- The index at which a started entry stops (R46): a copy command at the least of its dies' progress (07 R279), CPREL at
the record that its one die has reached; every other entry at its own index. -/
def Entry.stopAt (e : Entry) : Nat :=
  match e.op, e.cap with
  | .copy .cprel .., some _ => smGet 0 e.prog.done 0
  | .copy .., some c => (c.dies.zipIdx.map (fun p => smGet 0 e.prog.done p.2)).foldl Nat.min (2 ^ 64)
  | _, _ => e.restart.getD 0

/-- Whether an operation is a rank update (08 R294). -/
def QOp.isTmul : QOp → Bool
  | .tmul .. | .tmulsp .. => true
  | _ => false

/-- Operations that leave VSTART as it is when they complete (05 R172, 08 R293). DEDUCED, log 28. SLDX.BG and SGATHER, which treat it as 0
(06 R243, R244), leave it too. DESIGN CHOICE, log 58. -/
def QOp.leavesVstart : QOp → Bool
  | .vscale _ | .gpass _ | .tsync | .setVl _ | .stor _ | .link _ => true
  | .strm .. => true
  | .copy op .. => !op.fromVstart
  | .beacon op => op != .bput && op != .bget && op != .bnotify && op != .batom
  | _ => false

/-- The entries of a queue as a trap holds them (R159). `v` is the VSTART that the next waiting entry would use.
DEDUCED, log 28. -/
def holdEntries : Nat → List Entry → List Entry
  | _, [] => []
  | v, e :: es =>
    let next := if e.op.leavesVstart then v else 0
    match e.st with
    | .complete => e :: holdEntries v es
    | .held => e :: holdEntries next es
    | .waiting =>
      -- a rank update starts at 0 whatever VSTART holds (08 R295, R308)
      let from' := e.restart.getD (if e.op.isTmul then 0 else v)
      { e with st := .held, began := false, waitsOn := none, desc := none, restart := some from' } :: holdEntries next es
    -- 07 R279: a chunk that waits on a fault-queue reply is dropped
    | .started =>
      { e with
        st := .held, began := false, waitsOn := none, desc := none, ran := true, restart := some e.stopAt
        prog := { e.prog with held := none } } ::
        holdEntries next es

/-- R159: the queue stops. A started rank update leaves its progress in TKPROG (08 R308), every entry is held with its restart
index, and VSTART holds that of the oldest held entry. DEDUCED, log 28. -/
def stopQueue (x : Hart) : Hart :=
  let q := retire x.queue
  let tk := match q.find? (fun e => e.st == .started && e.op.isTmul && e.cap.isSome) with
    | some e => e.restart.getD 0
    | none => x.tkprog
  let held := holdEntries x.vstart.toNat q
  { x with
    tkprog := tk
    queue := held
    vstart := match held.find? (fun e => e.st == .held) with
      | some h => BitVec.ofNat 14 (h.restart.getD 0)
      | none => x.vstart }

/-- ContextFault (R160): the hart stops and its queue is discarded. What the launch sequencer reports is kept in the trap
words. -/
def contextFault (x : Hart) (vec : Bool) (qsn : BitVec 16) (tpc : Word) (t : TrapInfo) : Hart :=
  { x with
    run := .failed
    queue := []
    fence := []
    tcause := (if vec then 0x100 else 0) + t.code.setWidth 9
    tpc := tpc
    tqsn := qsn
    tinfo0 := t.i0, tinfo1 := t.i1, tinfo2 := t.i2, tinfo3 := t.i3 }

/-- The held entry of a QSN; a VL of CLAIM that waits in the queue has none of its own. -/
def heldOf (q : List Entry) (qsn : BitVec 16) : Option Entry :=
  q.find? (fun e => e.st == .held && e.qsn == qsn && (match e.op with | .setVl _ => false | _ => true))

/-- R160: trap entry. `vec` and `qsn` name the queue entry the cause comes from. DESIGN CHOICE, log 22. -/
def takeTrap (x : Hart) (vec : Bool) (qsn : BitVec 16) (tpc : Word) (t : TrapInfo) : Hart :=
  if x.tcause.extractLsb' 0 8 ≠ 0 ∨ x.tvec = 0 then contextFault x vec qsn tpc t
  else
    let x := stopQueue x
    { x with
      tcause := (if vec then 0x100 else 0) + t.code.setWidth 9
      tpc := tpc
      tqsn := if vec then qsn else 0
      tinfo0 := t.i0, tinfo1 := t.i1, tinfo2 := t.i2, tinfo3 := t.i3
      pc := x.tvec
      fence := []
      issueHold := false
      watchPass := none
      faultUid := if vec then (heldOf x.queue qsn).map (·.uid) else none
      vstartSet := false }

/-- A trap of the instruction at the pc: TPC holds its address (R161). DESIGN CHOICE, log 22. -/
def State.trapHere (s : State) (t : TrapInfo) : State := s.updMe (fun x => takeTrap x false 0 x.pc t)

/-- Whether an entry resumes from its own index and not from VSTART (08 R308, 07 R279): a rank update or copy command that
had started. A rank update stopped at index 0 makes its start checks again (08 R295). DEDUCED, log 28. -/
def Entry.resumes (e : Entry) : Bool :=
  e.cap.isSome &&
  (match e.op with
   | .tmul .. | .tmulsp .. => e.restart != some 0
   | .copy .. => true
   | _ => false)

/-- The held entry whose trap the hart is returning from (R159), whatever the handler has written to TCAUSE. -/
def Hart.faulting (x : Hart) : Option Entry := x.queue.find? (fun e => e.st == .held && x.faultUid == some e.uid)

/-- The index at which a held entry resumes (R159): its own, but the faulting entry takes VSTART where the handler has written it,
unless it is a rank update (08 R308).
Unwritten, VSTART is the restart index of the oldest held entry, which may be another. DEDUCED, log 28. -/
def Hart.resumeAt (x : Hart) (e : Entry) : Nat :=
  if x.faulting.any (fun o => o.uid == e.uid) && x.vstartSet && !e.resumes && !e.op.isTmul then x.vstart.toNat
  else e.restart.getD 0

/-- Whether a released entry goes on as started: a rank update that does. A copy command first takes its slots again (07 R252). -/
def Entry.goesOn (e : Entry) : Bool := e.resumes && e.op.isTmul

/-- The held entries are released in QSN order, each at its index (R159); when the oldest resumes from its own, VSTART is as its
start had left it, 0. A lazy tile word that has not started holds the issue again (08 R288). DEDUCED, log 28. -/
def Hart.releaseAt (x : Hart) (index : Entry → Nat) : Hart :=
  { x with
    vstart := if (x.queue.find? (fun e => e.st == .held)).any Entry.resumes then 0 else x.vstart
    issueHold := x.queue.any (fun e => e.st == .held && e.lazyTile && !e.resumes)
    queue := x.queue.map (fun e =>
      if e.st = .held then { e with st := if e.goesOn then .started else .waiting, restart := some (index e) } else e) }

/-- R162: the return from a trap. DEDUCED, log 28 and 38. -/
def returnFromTrap (x : Hart) : Hart :=
  { x.releaseAt x.resumeAt with
    -- 13 R422: the access at TPC, or the element at which the faulting entry resumes, may pass the watchpoint once
    watchPass :=
      if x.tcause.extractLsb' 0 8 = 0x10 then
        some (x.tcause.getLsbD 8,
          if x.tcause.getLsbD 8 then x.tqsn.toNat * 2 ^ 15 + ((x.faulting.map x.resumeAt).getD x.vstart.toNat) else x.tpc.toNat)
      else none
    pc := x.tpc
    tcause := 0
    faultUid := none
    issueCount := x.issueCount + 1 }

/-! ### Physical memory -/

/-- Where a physical byte lives (02 R51 to R54): a DRAM byte by die, memory lane and lane offset, whichever view names it;
any other byte by its physical address. DESIGN CHOICE, log 2. -/
def memKey (pa : Nat) : Nat :=
  if pa < 0x8000000000 then
    let g := pa / 4096
    (g % 8) * 2 ^ 36 + (g / 8 % 64) * 2 ^ 30 + (g / 512 * 4096 + pa % 4096)
  else if pa < 0x10000000000 then
    let o := pa - 0x8000000000
    let so := o % 2 ^ 36
    (o / 2 ^ 36) * 2 ^ 36 + (so / 4096 % 64) * 2 ^ 30 + (so / 2 ^ 18 * 4096 + so % 4096)
  else pa

/-- A byte of physical memory; a byte that nothing has written reads 0. DESIGN CHOICE, log 2. -/
def State.byteAt (s : State) (pa : Nat) : BitVec 8 := smGet 0 s.mem (memKey pa)

def State.setByte (s : State) (pa : Nat) (b : BitVec 8) : State := { s with mem := smSet 0 s.mem (memKey pa) b }

/-- `n` bytes of physical memory, little-endian (00 R6). -/
def State.bytesAt (s : State) (pa : Nat) : Nat → Nat
  | 0 => 0
  | n + 1 => (s.byteAt pa).toNat + 256 * s.bytesAt (pa + 1) n

/-- `n` bytes of physical memory written, little-endian. DESIGN CHOICE, log 4. -/
def State.setBytes (s : State) (pa : Nat) : Nat → Nat → State
  | 0, _ => s
  | n + 1, v => (s.setByte pa (BitVec.ofNat 8 v)).setBytes (pa + 1) n (v / 256)

/-! ### Scratchpad and grid -/

/-- The key of a byte of the slice of a core on a die (06 R209). -/
def spKey (core die off : Nat) : Nat := (core * 8 + die) * 2 ^ 22 + off

def State.spByte (s : State) (core die off : Nat) : BitVec 8 := smGet 0 s.spad (spKey core die off)

/-- The full/empty bit of the granule of a byte (02 R85). -/
def State.isFull (s : State) (core die off : Nat) : Bool := smGet false s.full (spKey core die off / 16)

/-- The 4 KiB page of a scratchpad byte marked as changed since its last save (12 R401). -/
def State.markPage (s : State) (core die off : Nat) : State :=
  let p := spKey core die off / 4096
  if s.spDirty.contains p then s else { s with spDirty := p :: s.spDirty }

def State.setFull (s : State) (core die off : Nat) (b : Bool) : State :=
  let s := s.markPage core die off
  { s with full := smSet false s.full (spKey core die off / 16) b }

/-- A scratchpad byte written; its granule becomes full (R85). -/
def State.setSpByte (s : State) (core die off : Nat) (b : BitVec 8) : State :=
  let s := s.markPage core die off
  { s with
    spad := smSet 0 s.spad (spKey core die off) b
    full := smSet false s.full (spKey core die off / 16) true }

/-- The key of a grid cell (01 R34). -/
def cellKey (core row col : Nat) : Nat := (core * 768 + col) * 512 + row

/-- The quarter of a core that a cell key lies in. -/
def quarterOf (key : Nat) : Nat := key / 512 / 768 * 4 + key / 512 % 768 / 192

/-- A grid cell: 0, or undefined where a retirement left the cell unwritten (05 R208).
UNVERIFIED, log 11; DESIGN CHOICE, log 12. -/
def State.cell (s : State) (key : Nat) : BitVec 32 :=
  match smFind s.grid key with
  | some v => v
  | none =>
    match smFind s.gridGen (quarterOf key) with
    | none => 0
    | some g => Config.freeCell g key

/-- A grid cell written; its ECC is encoded afresh (05 R207). -/
def State.setCell (s : State) (key : Nat) (v : BitVec 32) : State :=
  { s with
    grid := if (smFind s.gridGen (quarterOf key)).isNone then smSet 0 s.grid key v else smPut s.grid key v
    badCells := s.badCells.filter (· ≠ key)
    softCells := s.softCells.filter (· ≠ key) }

/-! ### Dies and lanes -/

/-- Whether lane die `d` is present and enabled (01 R26). -/
def State.dieOn (s : State) (d : Nat) : Bool := decide (d < 8) && !s.diedis.getLsbD d

/-- LANEMASK of a core (03 R117). -/
def State.laneMask (s : State) (core : Nat) : BitVec 32 := ~~~(s.core core).retired

/-- The enabled lanes of a core on a die, in rank order (01 R38). -/
def State.lanes (s : State) (core d : Nat) : List Nat :=
  (List.range 64).filter (fun l => (s.laneMask core).getLsbD (4 * d + l / 16))

/-- R37: the participating dies of a selector, in ascending index. -/
def State.dies (s : State) (sel : Word) : List Nat := (List.range 8).filter (fun d => sel.getLsbD d && s.dieOn d)

/-- A fresh free value's number. DESIGN CHOICE, log 50. -/
def State.nextFree (s : State) : Nat × State := (s.free, { s with free := s.free + 1 })

end Sys2Proof.Machine
end

