-- ==== Sys2Proof/Machine/Links.lean ====
section
/-!
DEFINITION. The links between the dies (10 R334 to R345): ends, groups and splits, turns, pauses, training, replays, and
the routes of accesses (01 R22).
-/

namespace Sys2Proof.Machine

/-- End A of a link (R334): its lane die. -/
def linkA (l : Nat) : Nat := [0, 1, 2, 3, 4, 5, 6, 7, 0, 1, 2, 4, 5, 6].getD l 8

/-- End B of a link (R334): CD is 8. -/
def linkB (l : Nat) : Nat := [8, 8, 8, 8, 8, 8, 8, 8, 1, 2, 3, 5, 6, 7].getD l 8

def State.link (s : State) (l : Nat) : Link := smGet {} s.links l

def State.setLink (s : State) (l : Nat) (k : Link) : State := { s with links := smSet {} s.links l k }

/-- Group `g` of a link; after reset groups 0 to 3 carry A to B (R335). -/
def Link.group (k : Link) (g : Nat) : LGroup := smGet { dirB := decide (4 ≤ g) } k.groups g

def Link.setGroup (k : Link) (g : Nat) (x : LGroup) : Link :=
  { k with groups := smSet { dirB := decide (4 ≤ g) } k.groups g x }

/-- Whether a group is in service (R335, R356). -/
def LGroup.inService (x : LGroup) : Bool := x.width != 2 && !x.untrained

/-- The in-service groups of a link, in ascending number. -/
def Link.ins (k : Link) : List Nat := (List.range 8).filter (fun g => (k.group g).inService)

/-- NAB: the in-service groups that carry A to B (R335). DEDUCED, log 32. -/
def Link.nab (k : Link) : Nat := (k.ins.filter (fun g => !(k.group g).dirB)).length

/-- R334: whether a link ends on a disabled die. -/
def State.linkDead (s : State) (l : Nat) : Bool :=
  !s.dieOn (linkA l) || (linkB l != 8 && !s.dieOn (linkB l))

/-- Whether a direction of a link has a group that takes flits. -/
def Link.carries (k : Link) (toB : Bool) : Bool :=
  k.ins.any (fun g => (k.group g).dirB != toB && !(k.turn.any (fun t => t.groups.contains g)))

/-! ### Routes (01 R22) -/

/-- The links between two dies, CD being 8, each with whether it is crossed from A to B. -/
def route (src dst : Nat) : List (Nat × Bool) :=
  if src = dst then []
  else if src = 8 then [(dst, false)]
  else if dst = 8 then [(src, true)]
  else if src + 1 = dst && src != 3 then [((if src < 3 then 8 + src else 7 + src), true)]
  else if dst + 1 = src && dst != 3 then [((if dst < 3 then 8 + dst else 7 + dst), false)]
  else [(src, true), (dst, false)]

/-! ### Flits and permits (10 R342, R343) -/

/-- The reserved permits of a class (R342). -/
def FlitClass.reserved : FlitClass → Nat
  | .mreq => 64 | .mrsp => 128 | .eng => 64 | .ctl => 32 | .swp => 8

/-- The flits that use a direction of a link: those that hold a permit of its receiver and those that wait for one. -/
def State.flitsOn (s : State) (l : Nat) (toB : Bool) : List Flit := s.flits.filter (fun f => f.link == l && f.toB == toB)

/-- R343: the permit that a flit can take among the flits of its direction: a reserved one of its class (false), else a shared one
(true) of the 728; a tenant with 364 shared ones takes none while a flit of another tenant waits for one. -/
def permitFor (fs : List Flit) (cls : FlitClass) (payer : Option Nat) : Option Bool :=
  if (fs.countP fun f => f.cls == cls && f.permit == some false) < cls.reserved then some false
  else
    let capped := payer.isSome && decide (364 ≤ fs.countP fun f => f.payer == payer && f.permit == some true) &&
      fs.any fun f => f.permit.isNone && f.payer.isSome && f.payer != payer
    if (fs.countP fun f => f.permit == some true) < 728 && !capped then some true else none

/-- Whether no flit can be placed on a direction of a link now (R335, R338, R354). -/
def State.hopShut (s : State) (l : Nat) (toB : Bool) : Bool :=
  (s.link l).state != 0 || s.linkDead l || !(s.link l).carries toB

/-- Who sends a flit: its owner, the tenant it counts against, its class. -/
structure Sender where
  owner : FlitOwner
  payer : Option Nat
  cls : FlitClass
  deriving DecidableEq, Repr

/-- The tenant that the control flits sent for a hart count against: none in supervisor mode (R343). -/
def Hart.ctlPayer (x : Hart) : Option Nat := if x.super then none else some x.tenant

/-- Whether the sender of a waiting flit still needs it. -/
def State.stillSends (s : State) : FlitOwner → Bool
  | .hart h pc => (s.hart h).run == .running && (s.hart h).pc == pc
  | .entry h qsn => (s.hart h).run == .running && (s.hart h).queue.any (fun e => e.qsn == qsn && e.open)
  | .stream h q _ => (s.hart h).run == .running && ((s.hart h).q q).isOpen
  | .copy h uid _ => (s.hart h).run == .running && (s.hart h).queue.any (fun e => e.uid == uid && e.open)
  | .agent _ => true
  | .outside _ => true

/-- Whether a flit is traffic that the schedule put in flight, which flows by itself as soon as it may. -/
def FlitOwner.isOutside : FlitOwner → Bool
  | .outside _ => true
  | _ => false

/-- R337, R355: a flit of the sender's class that came to wait for a direction of a link before the sender's own, and flows before it.
DESIGN CHOICE, log 55. -/
def State.flitAhead (s : State) (w : Sender) (l : Nat) (toB : Bool) : Bool :=
  (s.flits.takeWhile (fun f => f.owner != w.owner)).any fun f =>
    f.link == l && f.toB == toB && f.cls == w.cls && f.permit.isSome && !f.owner.isOutside && s.stillSends f.owner

/-- Whether a flit crosses a direction of a link now: the direction takes flits, none of its class waits before it, and the flit has a
permit or finds one. -/
def State.hopClear (s : State) (w : Sender) (l : Nat) (toB : Bool) : Bool :=
  !s.hopShut l toB && !s.flitAhead w l toB &&
  (let fs := s.flitsOn l toB
   fs.any (fun f => f.owner == w.owner && f.permit.isSome) || (permitFor fs w.cls w.payer).isSome)

/-- The class of the answer to a request (R342): a response, but engine, control and save traffic keeps its class. -/
def FlitClass.answer : FlitClass → FlitClass
  | .mreq => .mrsp
  | c => c

/-- The hops of a request from one die to another and of its response that cannot be crossed now, with the flit that waits. -/
def State.shutHops (s : State) (w : Sender) (src dst : Nat) : List (Sender × Nat × Bool) :=
  ((route src dst).map (fun h => (w, h)) ++ (route dst src).map (fun h => ({ w with cls := w.cls.answer }, h))).filter
    (fun h => !s.hopClear h.1 h.2.1 h.2.2)

/-- A flit waits at its sender for a hop, with the permit it finds (R354). A sender has one flit waiting at a time. -/
def State.noteFlit (s : State) (h : Sender × Nat × Bool) : State :=
  let (w, l, toB) := h
  if s.flits.any (fun f => f.owner == w.owner && f.link == l && f.toB == toB) then s
  else
    let fs := s.flits.filter (fun f => f.owner != w.owner)
    { s with flits := fs ++ [{
        link := l, toB := toB, cls := w.cls, payer := w.payer, owner := w.owner
        permit := permitFor (fs.filter (fun f => f.link == l && f.toB == toB)) w.cls w.payer }] }

/-- Freed permits go to the flits that wait for one, the oldest first (R343). -/
def grantPermits : List Flit → List Flit → List Flit
  | done, [] => done
  | done, f :: rest =>
    let g := if f.permit.isSome then f
      else { f with permit := permitFor ((done ++ rest).filter (fun g => g.link == f.link && g.toB == f.toB)) f.cls f.payer }
    grantPermits (done ++ [g]) rest

/-- Whether a waiting flit may flow: its direction takes flits, it holds a permit, and none of its class waits before it. -/
def State.mayFlow (s : State) (f : Flit) : Bool :=
  !s.hopShut f.link f.toB && f.permit.isSome && !s.flitAhead { owner := f.owner, payer := f.payer, cls := f.cls } f.link f.toB

/-- The flits that a property names and those of ended accesses leave; their permits are free again (R343). Traffic of the schedule
ends by a move of the schedule. DESIGN CHOICE, log 21. -/
def State.dropFlits (s : State) (gone : Flit → Bool) : State :=
  if s.flits.isEmpty then s
  else { s with flits := grantPermits [] (s.flits.filter fun f =>
    match f.owner with
    | .outside _ => true
    | o => s.stillSends o && !gone f) }

/-- R355: the waiting flits flow in their order, as the senders that `f` works on try again: after each round those that could flow
have flowed, or are needed no more. A hart's own flit waits for the hart's turn, and an agent's for its action. `n` bounds the rounds.
DESIGN CHOICE, log 55. -/
def State.flowFlits (f : State → State) : Nat → State → State
  | 0, s => s
  | n + 1, s =>
    if s.flits.isEmpty then s
    else State.flowFlits f n ((f s).dropFlits fun g =>
      (match g.owner with | .hart .. | .agent _ => false | _ => true) && s.flits.contains g && s.mayFlow g)

/-- The owner of the flits of an agent of the device while its action is tried. -/
def acting : FlitOwner := .agent 0

/-- An action of an agent of the device whose accesses cross links: where one of them meets a hop that is held up, its flit waits there
and the action is not made, so that a later attempt makes it whole (R354). `o` is the owner of its waiting flit, which keeps the
action's place among the waiting flits; while the action is tried, the mark of that place is on no link. DESIGN CHOICE, log 55. -/
def State.attempt {α : Type} (o : FlitOwner) (f : State → α × State) (s : State) : Option α × State :=
  let (a, t) := f { s with flits := s.flits.map (fun g => if g.owner = o then { g with owner := acting, link := 14 } else g) }
  match t.flits.find? (fun g => g.owner == acting && g.link != 14) with
  | none => (some a, { t with flits := t.flits.filter (fun g => g.owner != acting) })
  | some g =>
    (none, if s.flits.any (fun k => k.owner == o && k.link == g.link && k.toB == g.toB) then s
      else { s with flits := s.flits.filter (fun k => k.owner != o) ++ [{ g with owner := o }] })

/-- An attempt of an action that answers nothing. -/
def State.attempts (o : FlitOwner) (f : State → State) (s : State) : State := (s.attempt o (fun s => ((), f s))).2

/-- The actions of the agents of the device other than harts and engines, each the owner of a flit of its own: the launch sequencer
with its loader reads a ring, writes a completion, starts a queue's command, works on a launch, or does what a hart asks for; the
save engine saves a launch or switches a gang; the router delivers the next packet of a queue; the storage engine serves a drive; a
link sends again a flit of a group that has failed (R345). -/
def ringFlit (q : Nat) : FlitOwner := .agent (10 * q + 1)
def completionFlit (q : Nat) : FlitOwner := .agent (10 * q + 2)
def commandFlit (q : Nat) : FlitOwner := .agent (10 * q + 3)
def launchFlit (slot : Nat) : FlitOwner := .agent (10 * slot + 4)
def hartFlit (h : Nat) : FlitOwner := .agent (10 * h + 5)
def saveFlit (slot : Nat) : FlitOwner := .agent (10 * slot + 6)
def switchFlit (t : Nat) : FlitOwner := .agent (10 * t + 7)
def routerFlit (t key : Nat) : FlitOwner := .agent (10 * (34 * t + key) + 8)
def driveFlit (port rid : Nat) : FlitOwner := .agent (10 * (2 ^ 16 * port + rid) + 9)
def resentFlit (l : Nat) (toB : Bool) : FlitOwner := .agent (10 * (2 * l + if toB then 1 else 0) + 10)

/-- The launch sequencer as the sender of the flits of an action, which count against no tenant. -/
def sequencerSender : Sender := { owner := acting, payer := none, cls := .mreq }

/-- The flit of an action whose way is open has flowed. -/
def State.sent (s : State) (o : FlitOwner) : State := { s with flits := s.flits.filter (fun f => f.owner != o) }

/-- The waiting flits of agents that could flow leave: no action needs them any more. -/
def State.dropUnneeded (s : State) : State :=
  s.dropFlits fun f => (match f.owner with | .agent _ => true | _ => false) && s.mayFlow f

/-- The permit word of a receiver (R353): the permits that the flits of each class hold, and the free shared ones. -/
def State.permitWord (s : State) (l : Nat) (toB : Bool) : Nat :=
  let fs := (s.flitsOn l toB).filter (fun f => f.permit.isSome)
  let n (c : FlitClass) : Nat := fs.countP (fun f => f.cls == c)
  n .swp * 2 ^ 50 + n .ctl * 2 ^ 40 + n .eng * 2 ^ 30 + n .mrsp * 2 ^ 20 + n .mreq * 2 ^ 10 +
  (728 - fs.countP (fun f => f.permit == some true))

/-- Other traffic of the device put in flight on a link by the schedule. DESIGN CHOICE, log 21. -/
def State.putFlit (s : State) (l : Nat) (toB : Bool) (cls : FlitClass) (payer : Option Nat) (n : Nat) : State :=
  if l < 14 && !s.linkDead l then s.noteFlit ({ owner := .outside n, payer := payer, cls := cls }, l, toB) else s

/-! ### Requests and turns (R338 to R341) -/

/-- The outcome word of R349. -/
def outcome (status nab by' : Nat) : BitVec 64 := BitVec.ofNat 64 (by' % 2 ^ 16 * 2 ^ 16 + nab * 2 ^ 8 + status)

/-- The outcome of an accepted request, recorded (R349). -/
def Link.ends (k : Link) (serial : Nat) (w : BitVec 64) : Link :=
  { k with recent := k.recent.map (fun r => if r.1 = serial ∧ r.2.2 = none then (r.1, r.2.1, some w) else r) }

/-- R348: the next serial; the 64 most recently accepted requests are kept (R349). DEDUCED, log 32. -/
def Link.accept (k : Link) (who : LinkUser) : Link :=
  let n := (k.serial + 1) % 65536
  let r := k.recent ++ [(n, who, none)]
  { k with serial := n, recent := r.drop (r.length - 64) }

/-- R339: an accepted request against the pending set. DEDUCED, log 32. -/
def Link.offer (k : Link) (r : TurnReq) : Link :=
  match k.winner with
  | none => { k with winner := some r }
  | some w =>
    if (w.who = r.who ∧ w.who ≠ .controller) ∨ w.weight < r.weight then
      { k.ends w.serial (outcome 3 0 r.serial) with winner := some r }
    else
      let k := k.ends r.serial (outcome 3 0 w.serial)
      if r.who = .controller then { k with winner := some { w with beat := true } } else k

/-- The direction of each in-service group under a split (R335). -/
def Link.dirUnder (k : Link) (n g : Nat) : Bool := decide (n ≤ (k.ins.filter (· < g)).length)

/-- The groups that a turn to a split turns (R338). -/
def Link.turners (k : Link) (n : Nat) : List Nat := k.ins.filter (fun g => (k.group g).dirB != k.dirUnder n g)

/-- R340: a requested split clamped. `ab` and `ba` say whether flits wait or are in flight. -/
def Link.clamp (k : Link) (n : Nat) (ab ba : Bool) : Nat :=
  let c := k.ins.length
  let n := Nat.min n c
  if decide (2 ≤ c) && n == 0 && ab then 1
  else if decide (2 ≤ c) && n == c && ba then c - 1
  else n

/-- Whether flits wait for each direction of a link or are in flight on it (R340). -/
def State.facing (s : State) (l : Nat) : Bool × Bool := (!(s.flitsOn l true).isEmpty, !(s.flitsOn l false).isEmpty)

/-- TURN_BEGIN (R338 to R340): the winner's turn begins, or ends NOCHANGE. The event comes once every group that turns is
past its dwell. DEDUCED, log 32. -/
def turnBegin (l : Nat) (s : State) : State :=
  let k := s.link l
  match k.winner with
  | none => s
  | some w =>
    if k.state ≠ 0 ∨ k.turn ≠ none then s
    else
      let n := k.clamp w.n (s.facing l).1 (s.facing l).2
      if n = k.nab then s.setLink l ({ k with winner := none }.ends w.serial (outcome 2 n 0))
      else
        let gs := k.turners n
        let t := gs.foldl (fun t g => Nat.max t (k.group g).dwellEnd) s.cycle
        { s with cycle := t }.setLink l
          { k with winner := none, turn := some { req := w, n := n, clamped := n != w.n, groups := gs, dead := false } }

/-- Whether the winner's turn could begin in this cycle. DESIGN CHOICE, log 5. -/
def State.turnDue (s : State) (l : Nat) : Bool :=
  let k := s.link l
  match k.winner with
  | none => false
  | some w =>
    k.state == 0 && k.turn.isNone &&
    (k.turners (k.clamp w.n (s.facing l).1 (s.facing l).2)).all (fun g => decide ((k.group g).dwellEnd ≤ s.cycle))

/-- R339: a winner whose turn could begin before this cycle's request is fixed, and its turn begins. DESIGN CHOICE, log 5. -/
def State.beginDue (s : State) (l : Nat) : State := if s.turnDue l then turnBegin l s else s

/-- AUTO_TURN (R340): a turn of weight 256 that gives a direction with no group, for which a flit waits, one group.
The controller makes one such request: while a winner stands to which it has lost, it makes no other. DEDUCED, log 32. -/
def autoTurn (l : Nat) (toB : Bool) (s : State) : State :=
  let s := s.beginDue l
  let k := s.link l
  if (s.flitsOn l toB).isEmpty = true ∨ k.state ≠ 0 ∨ k.carries toB = true ∨ k.turn ≠ none ∨ k.ins = [] ∨ s.linkDead l = true ∨
      k.winner.any (fun w => w.who == .controller || w.beat) = true then s
  else
    let k := k.accept .controller
    s.setLink l (k.offer { serial := k.serial, n := if toB then 1 else k.ins.length - 1, weight := 256, who := .controller })

/-- TURN_DRAIN_END (R338): the groups that turn have drained. DESIGN CHOICE, log 5. -/
def turnDrainEnd (l : Nat) (s : State) : State :=
  let k := s.link l
  match k.turn with
  | some t => s.setLink l { k with turn := some { t with dead := true } }
  | none => s

/-- TURN_DEAD_TIME_END (R338): 72 cycles later the groups carry flits in their new direction. DESIGN CHOICE, log 5. -/
def turnDeadTimeEnd (l : Nat) (s : State) : State :=
  let k := s.link l
  match k.turn with
  | some t =>
    if t.dead then
      let now := s.cycle + 72
      let k := t.groups.foldl (fun k g =>
        let x := k.group g
        k.setGroup g { x with dirB := !x.dirB, dwellEnd := now + 3600 }) { k with turn := none, split := t.n }
      { s with cycle := now }.setLink l
        (k.ends t.req.serial (outcome (if t.clamped then 4 else 1) k.nab 0))
    else s
  | none => s

/-- R341: a tenant reset withdraws the tenant's winners, but those whose turn is fixed (R339). DEDUCED, log 32. -/
def withdrawTurns (t : Nat) (s : State) : State :=
  (List.range 14).foldl (fun s l =>
    let s := s.beginDue l
    let k := s.link l
    match k.winner with
    | some w => if w.who = .tenant t then s.setLink l ({ k with winner := none }.ends w.serial (outcome 6 0 0)) else s
    | none => s) s

/-! ### Pausing, training, replays (R345, R354 to R357) -/

/-- LINK_PAUSED (R354): every group of a PAUSING link has drained. -/
def linkPaused (l : Nat) (s : State) : State :=
  let k := s.link l
  if k.state = 1 ∧ k.turn = none then
    let s := s.setLink l { k with state := 2 }
    -- flits in flight have been received; flits at their senders wait
    { s with flits := s.flits.filter (fun f => match f.owner with | .outside _ => f.link != l || f.permit.isNone | _ => true) }
  else s

/-- Whether training a group fails (R357): the group itself, or a failed spare whose slot names a position in use. -/
def LGroup.trainFails (x : LGroup) (failed : Bool) (bad : BitVec 4) (width : Nat) : Bool :=
  failed || (List.range 4).any (fun i =>
    x.spused.getLsbD i && bad.getLsbD i && (width == 0 || decide ((x.remap.extractLsb' (12 + 6 * i) 6).toNat < 32)))

/-- A named group after its training. DEDUCED, log 33. -/
def LGroup.train (x : LGroup) (failed : Bool) (bad : BitVec 4) (width : Nat) : LGroup :=
  let y := { x with spbad := (x.spbad &&& ~~~x.spused) ||| (bad &&& x.spused) }
  if x.trainFails failed bad width then { y with width := 2 }
  else { y with width := width, untrained := false, laneErr := 0, fails := 0 }

/-- LTRAIN_DONE (R357): the named groups have trained; `failed` names groups that failed by themselves, `badSpares` the
spares that failed, four bits for each group. DEDUCED, log 33. -/
def ltrainDone (l : Nat) (failed : BitVec 8) (badSpares : BitVec 32) (s : State) : State :=
  let k := s.link l
  if k.state ≠ 3 then s
  else
    let named := (List.range 8).filter (fun g => k.trainWord.getLsbD g)
    let width := (k.trainWord.extractLsb' 8 2).toNat
    let bad (g : Nat) : BitVec 4 := badSpares.extractLsb' (4 * g) 4
    let lost := named.foldl (fun (m : BitVec 8) g =>
      if (k.group g).trainFails (failed.getLsbD g) (bad g) width then m ||| (1#8 <<< g) else m) 0
    let k := named.foldl (fun k g => k.setGroup g ((k.group g).train (failed.getLsbD g) (bad g) width)) k
    s.setLink l { k with state := 2, trained := smPut k.trained k.trainer lost }

/-- R355: the split in force recomputed over the in-service groups when a link resumes. -/
def resumeLink (l : Nat) (s : State) : State :=
  let k := s.link l
  let n := k.clamp k.split (s.facing l).1 (s.facing l).2
  s.setLink l ((k.turners n).foldl (fun k g =>
    let x := k.group g
    k.setGroup g { x with dirB := !x.dirB, dwellEnd := s.cycle + 3600 }) { k with state := 0, split := n })

end Sys2Proof.Machine
end

