-- ==== Sys2Proof/Machine/Lz.lean ====
section
/-!
DEFINITION. The compressed blocks of the copy engines and memory-lane expanders (07 R260, R261): map entries, the decoder of
LZ data, and the encoding of one block from a token stream.
-/

namespace Sys2Proof.Machine

/-- A well-formed map entry (R260): a zero block, a raw block, or LZ data of a number of 64-byte units; with its offset in
64-byte units. -/
inductive MapEntry where
  | zero
  | raw (off : Nat)
  | lz (len off : Nat)
  deriving DecidableEq, Repr

/-- R260: the entry of an 8-byte word, if well-formed. -/
def mapEntry (w : BitVec 64) : Option MapEntry :=
  let mode := (w.extractLsb' 62 2).toNat
  let len := (w.extractLsb' 48 8).toNat
  let off := (w.extractLsb' 0 40).toNat
  if w.extractLsb' 56 6 ≠ 0 ∨ w.extractLsb' 40 8 ≠ 0 then none
  else if mode = 0 then (if len = 0 ∧ off = 0 then some .zero else none)
  else if mode = 1 then (if len = 64 ∧ off % 64 = 0 then some (.raw off) else none)
  else if mode = 2 then
    if 1 ≤ len ∧ len ≤ 63 ∧ off % 64 + len ≤ 64 then some (.lz len off) else none
  else none

/-- The word of a map entry. -/
def mapWord : MapEntry → BitVec 64
  | .zero => 0
  | .raw off => BitVec.ofNat 64 (2 ^ 62 + 64 * 2 ^ 48 + off)
  | .lz len off => BitVec.ofNat 64 (2 * 2 ^ 62 + len * 2 ^ 48 + off)

/-- Why a decode ends (R261, R278): the status code and its detail. -/
structure LzFail where
  code : Nat
  detail : Nat
  deriving DecidableEq, Repr

/-- A match's bytes appended one by one, `k` of them, at distance `d` (R261). The output is held newest first. -/
def lzCopy (limit d : Nat) : Nat → List Byte → Nat → Except LzFail (List Byte × Nat)
  | 0, out, n => .ok (out, n)
  | k + 1, out, n =>
    if n ≥ limit then .ok (out, n)
    else if (n - d) / 32 = n / 32 then .error ⟨2, n⟩
    else lzCopy limit d k (out.getD (d - 1) 0 :: out) (n + 1)

/-- R261: the decode of the data from index `i` on, until `limit` bytes of output stand. The output is held newest first. -/
def lzRun (n limit : Nat) : Nat → List Byte → Nat → List Byte → Nat → Except LzFail (List Byte × List Byte × Nat)
  | 0, data, i, out, _ => .ok (out, data, i)
  | fuel + 1, data, i, out, len =>
    if len ≥ limit then .ok (out, data, i)
    else match data with
      | [] => .error ⟨1, i⟩
      | t :: rest =>
        let tv := t.toNat
        if tv < 128 then
          let l := tv + 1
          if len + l > 4096 ∨ i + 1 + l > n then .error ⟨1, i⟩
          else lzRun n limit fuel (rest.drop l) (i + 1 + l) ((rest.take l).reverse ++ out) (len + l)
        else match rest with
          | a :: b :: rest' =>
            let x := a.toNat + 256 * b.toNat
            let m := tv % 128 + 4
            let d := x % 4096 + 1
            if x ≥ 4096 ∨ len + m > 4096 then .error ⟨1, i⟩
            else if d > len then .error ⟨3, len⟩
            else match lzCopy limit d m out len with
              | .error e => .error e
              | .ok (out', len') => lzRun n limit fuel rest' (i + 3) out' len'
          | _ => .error ⟨1, i⟩

/-- The lowest index at which the rest of the data is non-zero. -/
def lzPad : List Byte → Nat → Option Nat
  | [], _ => none
  | b :: t, i => if b ≠ 0 then some i else lzPad t (i + 1)

/-- R261: the block of 4,096 bytes that LZ data decodes to. UNVERIFIED, log 10. -/
def lzDecode (data : List Byte) : Except LzFail (List Byte) :=
  match lzRun data.length 4096 4097 data 0 [] 0 with
  | .error e => .error e
  | .ok (out, rest, i) =>
    match lzPad rest i with
    | some j => .error ⟨4, j⟩
    | none => .ok out.reverse

/-- R264: the decode as far as the group of byte `k`; the last group's read also meets the end-of-block checks. -/
def lzDecodeTo (data : List Byte) (k : Nat) : Except LzFail (List Byte) :=
  if k / 32 = 127 then lzDecode data
  else match lzRun data.length (32 * (k / 32 + 1)) 4097 data 0 [] 0 with
    | .error e => .error e
    | .ok (out, _, _) => .ok out.reverse

/-- All bytes as literals: 32 tokens of 128 bytes, the token stream that any block has (R261). UNVERIFIED, log 10. -/
def lzLiterals : Nat → List Byte → List Byte
  | 0, _ => []
  | n + 1, b => (0x7F : Byte) :: (b.take 128 ++ lzLiterals n (b.drop 128))

end Sys2Proof.Machine
end

