-- ==== Sys2Proof/Machine/Mmu.lean ====
section
/-!
DEFINITION. Memory as the agents of the device reach it: the page walk and its checks (02 R55 to R59), publish regions
(07 R269), TLBs (R60), ownership, windows and grants (R67 to R69, 13 R413 to R416), compressed pages (07 R264), and the
watch units (13 R420 to R422).
-/

namespace Sys2Proof.Machine

/-- The kind of an access, as TINFO1[11:8] codes it (02 R64). -/
inductive Acc where
  | fetch | load | store | atomic
  deriving DecidableEq, Repr

def Acc.code : Acc → Nat
  | .fetch => 0 | .load => 1 | .store => 2 | .atomic => 3

def Acc.isWrite : Acc → Bool
  | .store | .atomic => true
  | _ => false

/-- On whose behalf an access is made: its tenant, whether for a supervisor-mode hart or the supervisor core, the SOURCE and
QSN that logs name, the publish regions whose shadow side it uses (07 R270), the die it starts from, 8 being CD, the control
core whose first-level TLB serves it, and whose flit it sends, of which class (10 R342), and whether its control flits count
against its tenant (10 R343). -/
structure Agent where
  tenant : Nat
  super : Bool := false
  source : Nat := 0
  qsn : BitVec 16 := 0
  shadow : List Nat := []
  at' : Nat := 8
  core : Option Nat := none
  owner : FlitOwner := acting
  cls : FlitClass := .mreq
  paid : Bool := true
  deriving DecidableEq, Repr

/-- The sender of an access's flit (10 R342, R343). -/
def Agent.sender (ag : Agent) : Sender :=
  { owner := ag.owner, payer := if ag.paid || ag.cls != .ctl then some ag.tenant else none, cls := ag.cls }

/-- The sender of the page-walk reads and TLB refills of an access (10 R342). -/
def Agent.walker (ag : Agent) : Sender := { owner := ag.owner, payer := some ag.tenant, cls := .mreq }

/-- Why an access is not made: a translation or permission fault with reason and walk level (02 R63, R64), or a denial by
ownership found at a die, 8 for the host window (R68); or that a hop of its route is held up, when it waits (10 R354). -/
inductive AccErr where
  | xlat (reason level : Nat)
  | denied (die : Nat)
  | paused (hop : Sender × Nat × Bool)
  deriving DecidableEq, Repr

/-- Where a translation ends: the physical address and the attribute code of R56; for a compressed page the address is that
of the block's map entry and `map` the map base. -/
structure Page where
  pa : Nat
  attr : Nat
  map : Nat := 0
  deriving DecidableEq, Repr

/-- The host window (02 R51). -/
def isHost (pa : Nat) : Bool := decide (0x10000000000 ≤ pa) && decide (pa < 0x800000000000)

/-- R52: whether a physical address names a byte of the interleaved view in force. -/
def State.inInter (s : State) (pa : Nat) : Bool := decide (pa < 512 * (s.split * 0x400000)) && decide (pa < 0x8000000000)

/-- R52, R54: whether a physical address names a byte of the die-local view in force, on an enabled die. -/
def State.inLocal (s : State) (pa : Nat) : Bool :=
  decide (0x8000000000 ≤ pa) && decide (pa < 0x10000000000) &&
  (let so := (pa - 0x8000000000) % 2 ^ 36
   decide (s.split * 0x400000 ≤ so / 2 ^ 18 * 4096 + so % 4096)) &&
  s.dieOn ((pa - 0x8000000000) / 2 ^ 36)

/-- A byte of DRAM through a view in force. -/
def State.inDram (s : State) (pa : Nat) : Bool := s.inInter pa || s.inLocal pa

/-- The die whose stack holds a DRAM byte (R53, R54). -/
def homeDie (pa : Nat) : Nat := if pa < 0x8000000000 then pa / 4096 % 8 else (pa - 0x8000000000) / 2 ^ 36 % 8

/-! ### The walk -/

/-- R57: whether a valid entry read at a level is malformed. -/
def pteBad (level : Nat) (e : BitVec 64) : Bool :=
  let leaf := e.getLsbD 1
  let ppn := (e.extractLsb' 12 36).toNat
  e.extractLsb' 48 16 != 0 || e.getLsbD 11 || decide ((e.extractLsb' 8 3).toNat > 4) ||
  (leaf && decide (level < 3)) || (!leaf && decide (level = 5)) ||
  (!leaf && e.extractLsb' 2 9 != 0) || (e.getLsbD 3 && !e.getLsbD 2) ||
  (leaf && decide (level = 3) && decide (ppn % 2 ^ 18 ≠ 0)) || (leaf && decide (level = 4) && decide (ppn % 2 ^ 9 ≠ 0)) ||
  (e.getLsbD 7 && decide (level < 5))

/-- R57: the group of 16 entries that a C64 entry belongs to agrees. -/
def groupOk (s : State) (table idx : Nat) (e : BitVec 64) : Bool :=
  (List.range 16).all fun k =>
    let g := BitVec.ofNat 64 (s.bytesAt (table + 8 * (idx / 16 * 16 + k)) 8)
    -- every field but PPN[3:0], A and D
    let keep : BitVec 64 := ~~~(0xF060 : BitVec 64)
    g.getLsbD 0 && !pteBad 5 g && g.getLsbD 7 && (g &&& keep) == (e &&& keep) &&
    decide ((g.extractLsb' 12 4).toNat = k)

/-- Whether a read of 8 bytes of DRAM meets an uncorrectable error (R63). DESIGN CHOICE, log 18. -/
def State.badWord (s : State) (pa : Nat) : Bool := s.memBad.contains (memKey pa / 8)

/-- The levels of the walk with the shift of each index (R55). -/
def walkLevels : List (Nat × Nat) := [(1, 48), (2, 39), (3, 30), (4, 21), (5, 12)]

/-- R55 to R57: the walk from a table by the walker of a die: the level of the leaf, the address of its entry, and the entry. The
walker's reads take the routes of 01 R22 (10 R342). A table outside both DRAM views, for which the spec names no reason, is
reported as APERTURE at the level that would read it. DEDUCED, log 6. -/
def walk (s : State) (ag : Agent) (die va : Nat) : List (Nat × Nat) → Nat → Except AccErr (Nat × Nat × BitVec 64)
  | [], _ => .error (.xlat 6 5)
  | (level, shift) :: rest, table =>
    if !s.inDram table then .error (.xlat 7 level)
    else match s.shutHops ag.walker die (homeDie table) with
      | h :: _ => .error (.paused h)
      | [] =>
        let idx := va / 2 ^ shift % 512
        let pa := table + 8 * idx
        let e := BitVec.ofNat 64 (s.bytesAt pa 8)
        if s.badWord pa then .error (.xlat 10 level)
        else if !e.getLsbD 0 then .error (.xlat 1 level)
        else if pteBad level e then .error (.xlat 6 level)
        else if e.getLsbD 1 then
          if e.getLsbD 7 && (List.range 16).any (fun k => s.badWord (table + 8 * (idx / 16 * 16 + k))) then .error (.xlat 10 level)
          else if e.getLsbD 7 && !groupOk s table idx e then .error (.xlat 6 level)
          else .ok (level, pa, e)
        else walk s ag die va rest ((e.extractLsb' 12 36).toNat * 4096)

/-- The size of the page that a leaf at a level maps; a C64 entry translates by its own frame (R55, R57). -/
def leafSize (level : Nat) : Nat := if level = 3 then 2 ^ 30 else if level = 4 then 2 ^ 21 else 4096

/-- R63: the permission checks of a leaf, in order. -/
def permFault (attr : Nat) (r w x : Bool) (k : Acc) : Option Nat :=
  match k with
  | .fetch => if !x || attr = 3 || attr = 4 then some 4 else none
  | .load => if !r then some 2 else none
  | .store => if !w then some 3 else if attr = 2 then some 8 else none
  | .atomic => if !w then some 3 else if attr = 2 then some 8 else if attr = 3 then some 9 else none

/-- R57: whether a leaf frame lies in the view its attribute requires. -/
def State.frameOk (s : State) (attr pa : Nat) : Bool :=
  match attr with
  | 0 => s.inInter pa
  | 1 => s.inLocal pa
  | 3 => isHost pa
  | _ => s.inDram pa

/-- The fields of a region descriptor (07 R268). -/
def Region.vbase (r : Region) : Nat := (r.desc.extractLsb' 0 64).toNat
def Region.pages (r : Region) : Nat := (r.desc.extractLsb' 64 32).toNat
def Region.attr (r : Region) : Nat := (r.desc.extractLsb' 96 3).toNat
def Region.readable (r : Region) : Bool := r.desc.getLsbD 99
def Region.writable (r : Region) : Bool := r.desc.getLsbD 100
def Region.sideBase (r : Region) (one : Bool) : Nat :=
  (if one then r.desc.extractLsb' 176 48 else r.desc.extractLsb' 128 48).toNat

def Region.holds (r : Region) (va : Nat) : Bool := decide (r.vbase ≤ va) && decide (va < r.vbase + 4096 * r.pages)

def State.tenant (s : State) (t : Nat) : Tenant := smGet {} s.tenants t

def State.setTenant (s : State) (t : Nat) (x : Tenant) : State := { s with tenants := smPut s.tenants t x }

/-- The region of a tenant that holds an address (R269). -/
def State.regionAt (s : State) (t : Nat) (va : Nat) : Option (Nat × Region) :=
  (s.tenant t).regions.find? (fun p => p.2.holds va)

/-! ### TLBs (R60) -/

/-- The entry of a TLB that maps an address of a tenant. A write needs a dirty leaf. DEDUCED, log 6. -/
def tlbFind (tlb : List TlbEntry) (t va : Nat) (wr : Bool) : Option TlbEntry :=
  tlb.find? fun e => e.tenant == t && decide (e.va ≤ va) && decide (va < e.va + e.size) && (!wr || e.pte.getLsbD 6)

/-- An entry taken into a TLB of a number of entries, which drops an older one of its page, or else the oldest when it is full.
DESIGN CHOICE, log 6. -/
def tlbTake (size : Nat) (e : TlbEntry) (tlb : List TlbEntry) : List TlbEntry :=
  (e :: tlb.filter (fun o => !(o.tenant == e.tenant && o.va == e.va && o.size == e.size))).take size

/-- The first-level TLB of a control core, of 64 entries, and the last-level TLB of a lane die, of 4,096. -/
def State.coreTlb (s : State) (c : Nat) : List TlbEntry := smGet [] s.tlb1 c
def State.dieTlb (s : State) (d : Nat) : List TlbEntry := smGet [] s.tlb2 d

def State.fillCore (s : State) (c : Nat) (e : TlbEntry) : State :=
  { s with tlb1 := smSet [] s.tlb1 c (tlbTake 64 e (s.coreTlb c)) }

def State.fillDie (s : State) (d : Nat) (e : TlbEntry) : State :=
  { s with tlb2 := smSet [] s.tlb2 d (tlbTake 4096 e (s.dieTlb d)) }

/-- The translations that a property names leave every TLB (R61). -/
def State.dropTlb (s : State) (p : TlbEntry → Bool) : State :=
  let out (m : SMap (List TlbEntry)) : SMap (List TlbEntry) :=
    (m.map (fun (k, l) => (k, l.filter (fun e => !p e)))).filter (fun x => !x.2.isEmpty)
  { s with tlb1 := out s.tlb1, tlb2 := out s.tlb2 }

/-- The lane die whose MMU serves the agents on CD: the enabled one of lowest number, since R60 names none. DESIGN CHOICE, log 6. -/
def State.cdMmu (s : State) : Nat := ((List.range 8).find? s.dieOn).getD 0

/-- A leaf that translates an access: its level, its entry, the address of the entry where a walk read it, and the last-level TLB
that held it or whose walker read it. -/
structure Leaf where
  level : Nat
  pte : BitVec 64
  walked : Option Nat
  die : Nat
  deriving DecidableEq, Repr

/-- R55, R60: the leaf of an address as the MMU of a lane die finds it. -/
def State.dieLeaf (s : State) (ag : Agent) (d va : Nat) (wr : Bool) : Except AccErr Leaf :=
  match tlbFind (s.dieTlb d) ag.tenant va wr with
  | some e => .ok { level := e.level, pte := e.pte, walked := none, die := d }
  | none =>
    (walk s ag d va walkLevels (s.tenant ag.tenant).root.toNat).map
      (fun (l, pa, e) => { level := l, pte := e, walked := some pa, die := d })

/-- R60: the leaf of an address as an agent finds it: in its first-level TLB, or through the MMU of its die; the agents of CD ask
the MMU of a lane die. -/
def State.leafFor (s : State) (ag : Agent) (va : Nat) (wr : Bool) : Except AccErr Leaf :=
  match ag.core.bind (fun c => tlbFind (s.coreTlb c) ag.tenant va wr) with
  | some e => .ok { level := e.level, pte := e.pte, walked := none, die := 8 }
  | none =>
    if ag.at' < 8 then s.dieLeaf ag ag.at' va wr
    else match s.shutHops ag.walker 8 s.cdMmu with
      | h :: _ => .error (.paused h)
      | [] => s.dieLeaf ag s.cdMmu va wr

/-- R58: the A bit, and for a write the D bit, that an access sets in the entry that a walk read, with one update; R60: the leaf is
then in the TLBs that served the access. -/
def State.useLeaf (s : State) (ag : Agent) (va : Nat) (wr : Bool) (l : Leaf) : State :=
  if l.die = 8 then s
  else
    let bits : BitVec 8 := if wr then 0x60 else 0x20
    let size := leafSize l.level
    let e : TlbEntry := { tenant := ag.tenant, va := va / size * size, size := size, level := l.level
                          pte := if l.walked.isSome then l.pte ||| bits.setWidth 64 else l.pte }
    let s := match l.walked with
      | some p => (s.setByte p (s.byteAt p ||| bits)).fillDie l.die e
      | none => s
    match ag.core with
    | some c => s.fillCore c e
    | none => s

/-- R49, R55 to R59, R269: the translation of one access, with the A and D bits it sets and the TLB entries it fills. Of a leaf's
frame the address accessed is what must lie in the view; a frame that lies partly outside faults only there.
DEDUCED, log 6. -/
def translate (ag : Agent) (va : Word) (k : Acc) (s : State) : Except AccErr Page × State :=
  let v := va.toNat
  if va.extractLsb' 57 7 ≠ (if va.getLsbD 56 then 0x7F#7 else 0#7) then (.error (.xlat 5 0), s)
  else match s.regionAt ag.tenant v with
    | some (i, r) =>
      let side := if ag.shadow.contains i then !r.side else r.side
      match permFault r.attr r.readable r.writable false k with
      | some reason => (.error (.xlat reason 0), s)
      | none => (.ok { pa := r.sideBase side + (v - r.vbase), attr := r.attr }, s)
    | none =>
      match s.leafFor ag v k.isWrite with
      | .error e => (.error e, s)
      | .ok l =>
        let e := l.pte
        let attr := (e.extractLsb' 8 3).toNat
        let size := leafSize l.level
        let frame := (e.extractLsb' 12 36).toNat * 4096
        let pa := if attr = 2 then frame + 8 * (v % size / 4096) else frame + v % size
        if !s.frameOk attr pa then (.error (.xlat 7 l.level), s)
        else match permFault attr (e.getLsbD 2) (e.getLsbD 3) (e.getLsbD 4) k with
          | some reason => (.error (.xlat reason l.level), s)
          | none => (.ok { pa := pa, attr := attr, map := frame }, s.useLeaf ag v k.isWrite l)

/-! ### Ownership -/

/-- The owner entry of a physical address (R67). DEDUCED, log 17. -/
def State.ownerAt (s : State) (pa : Nat) : BitVec 8 := smGet 0 s.owners (pa / 0x200000)

/-- A grant in force that covers an address owned by its tenant, with a permission (13 R416). -/
def State.granted (s : State) (pa : Nat) (perm : Grant → Bool) : Bool :=
  let o := s.ownerAt pa
  s.grants.any fun (_, g) =>
    perm g && decide (g.base ≤ pa) && decide (pa < g.base + g.count * 0x200000) && decide (g.tenant = (o.extractLsb' 0 4).toNat)

/-- 13 R413: a DMA window that holds `n` bytes for an owner, with the permission needed. -/
def State.inWindow (s : State) (pa n : Nat) (owner : Nat) (wr rd : Bool) : Bool :=
  s.dmaw.any fun (_, w) =>
    w.valid && decide (w.owner.toNat = owner) && decide (w.base ≤ pa) && decide (pa + n ≤ w.base + w.size) &&
    (!rd || w.read) && (!wr || w.write)

/-- 13 R411: whether `n` bytes touch the dump window, and whether they lie in it. -/
def State.touchesDump (s : State) (pa n : Nat) : Bool :=
  decide (s.boot.dumpbase.toNat < pa + n) && decide (pa < s.boot.dumpbase.toNat + s.boot.dumpsize.toNat)

def State.inDump (s : State) (pa n : Nat) : Bool :=
  decide (s.boot.dumpbase.toNat ≤ pa) && decide (pa + n ≤ s.boot.dumpbase.toNat + s.boot.dumpsize.toNat)

/-- R67, 13 R413, R415: whether an access to a physical address is permitted. Firmware writes the dump window while FATAL is 1, when
no DMA window need cover it, and at no other time (R411). DEDUCED, log 17. -/
def State.ownerOk (s : State) (ag : Agent) (pa n : Nat) (k : Acc) : Bool :=
  let wr := k.isWrite
  let rd := match k with | .store => false | _ => true
  if isHost pa then
    let granted := s.inWindow pa n (if ag.super then 16 else ag.tenant) wr rd
    if ag.super && wr && s.touchesDump pa n then s.boot.fatal && (granted || (!rd && s.inDump pa n)) else granted
  else
    let o := s.ownerAt pa
    if ag.super then !o.getLsbD 7 || s.granted pa (fun g => (!wr || g.write) && (!rd || g.read))
    else o.getLsbD 7 && decide ((o.extractLsb' 0 4).toNat = ag.tenant)

/-- R69: a denial recorded in the log of a die (8 for CD), which has 32 slots. -/
def State.logDenial (s : State) (die : Nat) (ag : Agent) (pa : Nat) (k : Acc) : State :=
  let kind := match k with | .load => 1 | .store => 2 | .atomic => 3 | .fetch => 4
  let o := s.ownerAt pa
  let owner := (if o.getLsbD 7 then 2 ^ 31 else 0) + (o.extractLsb' 0 4).toNat
  let e := BitVec.ofNat 128
    (pa % 2 ^ 48 + ag.tenant * 2 ^ 48 + kind * 2 ^ 56 + ag.source * 2 ^ 64 + ag.qsn.toNat * 2 ^ 80 + owner * 2 ^ 96)
  let n := smGet 0 s.denyCount die
  { s with
    denyLog := smPut s.denyLog die (ringPut 32 n (smGet [] s.denyLog die) e)
    denyCount := smSet 0 s.denyCount die (n + 1) }

/-- Whether the check of an access is made at the CD L2 rather than at the destination die (R68). -/
def checkedAtCd (scalar : Bool) (pa : Nat) : Bool := scalar || isHost pa

/-- The ownership check of an access after its translation, with the denial log's record. -/
def checkOwner (ag : Agent) (scalar : Bool) (pa n : Nat) (k : Acc) (s : State) : Except AccErr Unit × State :=
  if s.ownerOk ag pa n k then (.ok (), s)
  else
    (.error (.denied (if isHost pa then 8 else homeDie pa)),
     s.logDenial (if checkedAtCd scalar pa then 8 else homeDie pa) ag pa k)

/-- The die whose memory port or host interface serves a physical address. -/
def servedAt (pa : Nat) : Nat := if isHost pa then 8 else homeDie pa

/-- An access that a hop holds up leaves its flit waiting there (10 R354). -/
def noted {α : Type} (r : Except AccErr α × State) : Except AccErr α × State :=
  match r with
  | (.error (.paused h), s) => (.error (.paused h), s.noteFlit h)
  | r => r

/-- Translation and ownership of one access of `n` bytes, in the order of 04 R163. DESIGN CHOICE, log 4. -/
def resolve (ag : Agent) (scalar : Bool) (va : Word) (n : Nat) (k : Acc) (s : State) : Except AccErr Page × State :=
  noted <| match translate ag va k s with
  | (.error e, s) => (.error e, s)
  | (.ok p, s') =>
    match s.shutHops ag.sender ag.at' (servedAt p.pa) with
    | h :: _ => (.error (.paused h), s)
    | [] =>
      match checkOwner ag scalar p.pa (if p.attr = 2 then 8 else n) k s' with
      | (.error e, s) => (.error e, s)
      | (.ok (), s) => (.ok p, s)

/-- Bytes of physical memory as a list. -/
def State.byteList (s : State) (pa n : Nat) : List Byte := (List.range n).map (fun i => s.byteAt (pa + i))

/-- 07 R264: `n` bytes from offset `o` on of the block that a compressed page's map entry names. The expander of the die that holds
the data decodes it as far as the group of the last byte read. The owner entries of the data are checked as those of its map
entry (R67). -/
def expandRead (ag : Agent) (scalar : Bool) (k : Acc) (p : Page) (o n : Nat) (s : State) : Except AccErr Nat × State :=
  let from' (a len : Nat) (read : Except AccErr Nat) : Except AccErr Nat × State :=
    if s.inDram a && s.inDram (a + len - 1) then
      match s.shutHops { ag.sender with cls := .eng } ag.at' (homeDie a) with
      | h :: _ => (.error (.paused h), s)
      | [] =>
        match checkOwner ag scalar a len k s with
        | (.error e, s) => (.error e, s)
        | (.ok (), s) =>
          match checkOwner ag scalar (a + len - 1) 1 k s with
          | (.error e, s) => (.error e, s)
          | (.ok (), s) => (read, s)
    else (.error (.xlat 6 0), s)
  match mapEntry (BitVec.ofNat 64 (s.bytesAt p.pa 8)) with
  | none => (.error (.xlat 6 0), s)
  | some .zero => (.ok 0, s)
  | some (.raw off) =>
    let a := p.map + 64 * off
    from' a 4096 (.ok (s.bytesAt (a + o) n))
  | some (.lz len off) =>
    let a := p.map + 64 * off
    from' a (64 * len) <|
      match lzDecodeTo (s.byteList a (64 * len)) (o + n - 1) with
      | .error _ => .error (.xlat 6 0)
      | .ok bs => .ok ((List.range n).foldr (fun i acc => (bs.getD (o + i) 0).toNat + 256 * acc) 0)

/-- The value of `n` naturally aligned bytes at a virtual address, or why it is not read. DESIGN CHOICE, log 4. -/
def loadVirt (ag : Agent) (scalar : Bool) (va : Word) (n : Nat) (k : Acc) (s : State) : Except AccErr Nat × State :=
  match resolve ag scalar va n k s with
  | (.error e, s) => (.error e, s)
  | (.ok p, s) =>
    if p.attr = 2 then noted (expandRead ag scalar k p (va.toNat % 4096) n s) else (.ok (s.bytesAt p.pa n), s)

/-! ### Watchpoints -/

/-- The kinds of writes a watchpoint names (13 R420). -/
inductive WKind where
  | hart | engine | remote | drive
  deriving DecidableEq, Repr

def WKind.code : WKind → Nat
  | .hart => 1 | .engine => 2 | .remote => 3 | .drive => 4

/-- R420: the bytes of a watched granule that a write of `n` bytes at `pa` for a tenant writes and a watchpoint watches. -/
def watchBytes (w : WatchPt) (k : WKind) (tenant pa n : Nat) : Nat :=
  if w.kinds.getLsbD (k.code - 1) && decide (w.tenant = tenant) then
    (List.range 16).foldl (fun acc b =>
      if w.bmask.getLsbD b && decide (pa ≤ w.pa + b) && decide (w.pa + b < pa + n) then acc + 2 ^ b else acc) 0
  else 0

/-- The watchpoints that a write matches, with the bytes of each; supervisor accesses match none. DEDUCED, log 38. -/
def State.watchHits (s : State) (ag : Agent) (k : WKind) (pa n : Nat) : List (Nat × Nat) :=
  if ag.super then []
  else (s.watch.map (fun (i, w) => (i, watchBytes w k ag.tenant pa n))).filter (fun p => p.2 ≠ 0)

/-- R421: a match recorded in WATCHn. -/
def watchWord (old : BitVec 64) (k : WKind) (die source : Nat) (qsn : BitVec 16) (bytes : Nat) : BitVec 64 :=
  let count := ((old.extractLsb' 56 8).toNat + 1) % 256
  BitVec.ofNat 64
    (count * 2 ^ 56 + k.code * 2 ^ 52 + die * 2 ^ 48 + source * 2 ^ 32 + qsn.toNat * 2 ^ 16 + bytes)

/-- Every match of a write updates its WATCHn (R421). DEDUCED, log 38. -/
def State.recordWatch (s : State) (k : WKind) (die source : Nat) (qsn : BitVec 16) (hits : List (Nat × Nat)) : State :=
  hits.foldl (fun s (i, bytes) =>
    { s with watchReg := smSet 0 s.watchReg i (watchWord (smGet 0 s.watchReg i) k die source qsn bytes) }) s

/-- The granule that a watchpoint watches. -/
def State.watchPa (s : State) (i : Nat) : Nat := ((smFind s.watch i).map (·.pa)).getD 0

/-- The lowest watched byte written, over all the matching watchpoints. -/
def State.watchLow (s : State) (hits : List (Nat × Nat)) : Nat :=
  hits.foldl (fun acc (i, bytes) =>
    (List.range 16).foldl (fun acc b => if bytes / 2 ^ b % 2 = 1 ∧ s.watchPa i + b < acc then s.watchPa i + b else acc) acc) (2 ^ 64)

/-- The trap of a precise match (R422) of a write at `va`, `pa`. -/
def watchTrap (s : State) (hits : List (Nat × Nat)) (va : Word) (pa elem : Nat) : TrapInfo :=
  let mask := hits.foldl (fun acc p => acc + 2 ^ p.1) 0
  let first := hits.headD (0, 0)
  let low := s.watchLow hits
  { code := 0x10
    i0 := BitVec.ofNat 64 low
    i1 := BitVec.ofNat 64 (mask + 1 * 16 + first.2 * 256)
    i2 := BitVec.ofNat 64 elem
    i3 := va + BitVec.ofNat 64 (low - pa) }

/-! ### Precise faults -/

/-- The trap of a precise fault (02 R64, R68): the cause by the access kind, and STORE_DENIED_REMOTE for a denied store or
atomic. TINFO3 of a denial names the die for a write, and 8 for every check made at CD of the host window (13 R413). -/
def faultTrap (va : Word) (k : Acc) (elem : Nat) (e : AccErr) : TrapInfo :=
  let base := match k with | .fetch => 5 | .load => 6 | .store | .atomic => 7
  match e with
  | .xlat reason level =>
    { code := base, i0 := va, i1 := BitVec.ofNat 64 (reason + k.code * 256 + level * 4096), i2 := BitVec.ofNat 64 elem }
  | .denied die =>
    { code := if k.isWrite then 8 else base
      i0 := va, i1 := BitVec.ofNat 64 (0x0B + k.code * 256), i2 := BitVec.ofNat 64 elem
      i3 := if k.isWrite || die == 8 then BitVec.ofNat 64 die else 0 }
  | .paused _ => { code := base, i0 := va, i2 := BitVec.ofNat 64 elem }

/-- MISALIGN (R75, 04 R164). -/
def misalign (va : Word) (elem : Nat) : TrapInfo := { code := 4, i0 := va, i2 := BitVec.ofNat 64 elem }

/-- ILLEGAL with a reason, for the word (R97, R98). -/
def illegal (word : BitVec 32) (reason : Nat) : TrapInfo :=
  { code := 1, i0 := word.setWidth 64, i1 := BitVec.ofNat 64 reason }

end Sys2Proof.Machine
end

