-- ==== Sys2Proof/Machine/Fatal.lean ====
section
/-!
DEFINITION. Fatal errors and the freeze (13 R426 to R428), owner-entry writes and their scrub (R415), cluster retirement
(01 R32, 05 R208).
-/

namespace Sys2Proof.Machine

/-- Bytes written little-endian to a list of addresses of the dump window, as far as the window reaches (13 R428).
DESIGN CHOICE, log 47. -/
def State.dumpBytes (s : State) (off n v : Nat) : State :=
  s.setBytes (s.boot.dumpbase.toNat + off) (Nat.min n (s.boot.dumpsize.toNat - off)) v

/-- The dump header that the hardware writes alone (R427, R428): no section follows, and a window that is not empty holds it whole.
DESIGN CHOICE, log 47. -/
def State.dumpHeader (s : State) (cause die : Nat) : State :=
  if s.boot.dumpsize = 0 then s
  else
    let s := s.dumpBytes 0 4096 0
    let s := s.dumpBytes 0 2 1
    let s := s.dumpBytes 2 1 cause
    let s := s.dumpBytes 3 1 die
    let s := s.dumpBytes 4 1 1
    let s := s.dumpBytes 5 1 0xA0
    let s := s.dumpBytes 8 8 4096
    s.dumpBytes 16 64 s.boot.measure.toNat

/-- R427: a fatal error freezes the device. For a CD memory error and a trap of the supervisor core the hardware writes the
dump header and finishes the dump. DESIGN CHOICE, log 47. -/
def State.fatalFreeze (s : State) (cause die : Nat) : State :=
  if s.boot.fatal then s
  else
    let hw := cause == 2 || cause == 3
    let s := { s with boot := { s.boot with
      fatal := true, bstate := 4, cause := BitVec.ofNat 8 cause, die := BitVec.ofNat 8 die
      fwdead := hw, dumpdone := hw } }
    if hw then { s.dumpHeader cause die with irqs := s.irqs ++ [((smGet {} s.hostq 0).vector.toNat, 0)] } else s

/-- The interleaved-view address of a DRAM location (02 R53). -/
def interPa (key : Nat) : Nat :=
  let die := key / 2 ^ 36
  let lane := key / 2 ^ 30 % 64
  let off := key % 2 ^ 30
  ((off / 4096) * 512 + lane * 8 + die) * 4096 + off % 4096

/-- The die-local address of a DRAM location (R54). -/
def localPa (key : Nat) : Nat :=
  let die := key / 2 ^ 36
  let lane := key / 2 ^ 30 % 64
  let off := key % 2 ^ 30
  0x8000000000 + die * 2 ^ 36 + (off / 4096) * 2 ^ 18 + lane * 4096 + off % 4096

/-- Whether a DRAM location lies in the 2 MiB unit of a view in force. DEDUCED, log 17. -/
def State.inUnit (s : State) (unit key : Nat) : Bool :=
  decide (key < 2 ^ 39) &&
  (if key % 2 ^ 30 < s.split * 0x400000 then decide (interPa key / 0x200000 = unit)
   else decide (localPa key / 0x200000 = unit))

/-- R415: an owner entry written; a change of VALID or TENANT zeroes the unit first. The first valid entry locks SPLIT
(R406). DEDUCED, log 17. -/
def State.writeOwner (s : State) (unit : Nat) (v : BitVec 8) : State :=
  let v := v &&& 0x8F
  if smGet 0 s.owners unit = v then s
  else
    { s with
      mem := s.mem.filter (fun c => !s.inUnit unit c.1)
      owners := smSet 0 s.owners unit v
      splitLock := s.splitLock || v.getLsbD 7 }

/-- 05 R208: the cells of the quarters that a hart holds as vector registers become undefined. UNVERIFIED, log 11. -/
def State.undefineRegs (s : State) (h : Nat) : State :=
  let x := s.hart h
  (List.range 4).foldl (fun s q =>
    if x.owned.getLsbD q && !x.tile.getLsbD q then
      let k := coreOf h * 4 + q
      { s with
        grid := s.grid.filter (fun c => quarterOf c.1 ≠ k)
        gridGen := smPut s.gridGen k s.free
        free := s.free + 1 }
    else s) s

/-- 01 R32: cluster `c` of a core on a die leaves service; each hart of the core that runs, or that a
pre-emption has stopped there, has a LANE_RETIRED to take: one of them for all retirements before it is taken.
UNVERIFIED, log 11, and DESIGN CHOICE, log 57. -/
def State.retireCluster (s : State) (core die c : Nat) : State :=
  let k := smGet {} s.cores core
  let bit := 4 * die + c
  if k.retired.getLsbD bit then s
  else
    let s := { s with cores := smPut s.cores core { k with retired := k.retired ||| (1#32 <<< bit) } }
    (List.range 4).foldl (fun s i =>
      let h := 4 * core + i
      if (s.hart h).run = .running ∨ (s.hart h).run = .preempted then (s.undefineRegs h).updHart h (fun x => { x with laneRetired := true }) else s) s

end Sys2Proof.Machine
end

