-- ==== Sys2Proof/Machine/SupvRegs.lean ====
section
/-!
DEFINITION. Supervisor space (13 R406): what each offset reads and what a write to it does. Offsets that the table does not
list answer none (reason APERTURE).
-/

namespace Sys2Proof.Machine

/-- The base of supervisor space (02 R51). -/
def supvBase : Nat := 0x800000000000

/-- An 8-byte word gathered from a byte function. -/
def gather8 (f : Nat → BitVec 8) : BitVec 64 :=
  BitVec.ofNat 64 ((List.range 8).foldr (fun i acc => (f i).toNat + 256 * acc) 0)

/-- A word of a denial log or its count (02 R69), at an offset from the log's start. -/
def State.denyWord (s : State) (die off : Nat) : Option (BitVec 64) :=
  if off < 0x200 then
    let e := (smGet [] s.denyLog die).getD (off / 16) 0
    some (if off / 8 % 2 = 0 then e.extractLsb' 0 64 else e.extractLsb' 64 64)
  else if off = 0x200 then some ((sat32 (smGet 0 s.denyCount die)).setWidth 64)
  else none

/-- The 8-byte word at an 8-aligned offset of supervisor space. DESIGN CHOICE, log 14. -/
def State.supvRead (s : State) (off : Nat) : Option (BitVec 64) :=
  if off < 0x400000 then some (BitVec.ofNat 64 (s.bytesAt (supvBase + off) 8))
  else if 0x1000000 ≤ off ∧ off < 0x1800000 then
    let d := (off - 0x1000000) / 0x100000
    let o := off % 0x100000
    if o < 0x40000 then some (gather8 (fun i => smGet 0 s.owners (o + i)))
    else if o < 0x48000 then some (gather8 (fun i => smGet 0 s.owners (0x40000 + d * 0x8000 + (o - 0x40000) + i)))
    else if 0x80000 ≤ o ∧ o < 0x80208 then s.denyWord d (o - 0x80000)
    else if 0x81000 ≤ o ∧ o < 0x81400 then some ((smGet 0 s.errCount (d * 128 + (o - 0x81000) / 8)).setWidth 64)
    else if 0x83000 ≤ o ∧ o < 0x83100 then
      some (((s.core ((o - 0x83000) / 8)).retired >>> (4 * d) &&& 0xF).setWidth 64)
    else none
  else if off = 0x2000000 then
    some (BitVec.ofNat 64 ((if s.diedis = 0 then s.split else 0) + if s.splitLock then 2 ^ 63 else 0))
  else if off = 0x2000008 then some (s.supv.fwlim.setWidth 64)
  else if off = 0x2000010 then some 0
  else if off = 0x2000018 then some (BitVec.ofNat 64 s.supv.svn)
  else if 0x2000100 ≤ off ∧ off < 0x2000308 then s.denyWord 8 (off - 0x2000100)
  else if 0x2001000 ≤ off ∧ off < 0x2001800 then
    let o := off - 0x2001000
    some ((s.supv.beaconLog.getD (o / 32) 0).extractLsb' (o / 8 % 4 * 64) 64)
  else if off = 0x2001800 then some ((sat32 s.supv.beaconCount).setWidth 64)
  else none

/-- A write of bytes of the 8-byte word at an 8-aligned offset of supervisor space: the bits of `v` under the mask `m`. RO words
ignore it, a W1C bit is cleared by a 1 written to it, and bytes that are not written keep what they hold (R8, R9). The copies of
an owner entry on the dies and on CD are one entry: a write through any die's block writes all of them. A write to SPLIT with S above
256, of which R406 does not speak, keeps S. DESIGN CHOICE, log 14 and 46; DEDUCED, log 17. -/
def State.supvWrite (s : State) (off : Nat) (v m : BitVec 64) : Option State :=
  let w := (((s.supvRead off).getD 0) &&& ~~~m) ||| (v &&& m)
  let bytes (base : Nat) : State :=
    (List.range 8).foldl (fun s i => if m.getLsbD (8 * i) then s.writeOwner (base + i) (v.extractLsb' (8 * i) 8) else s) s
  if off < 0x400000 then some (s.setBytes (supvBase + off) 8 w.toNat)
  else if 0x1000000 ≤ off ∧ off < 0x1800000 then
    let d := (off - 0x1000000) / 0x100000
    let o := off % 0x100000
    if o < 0x40000 then some (bytes o)
    else if o < 0x48000 then some (bytes (0x40000 + d * 0x8000 + (o - 0x40000)))
    else if 0x80000 ≤ o ∧ o < 0x80208 then some s
    else if 0x81000 ≤ o ∧ o < 0x81400 then
      let k := d * 128 + (o - 0x81000) / 8
      some { s with errCount := smSet 0 s.errCount k (smGet 0 s.errCount k &&& ~~~((v &&& m).extractLsb' 0 32)) }
    else if 0x83000 ≤ o ∧ o < 0x83100 then
      some ((List.range 4).foldl
        (fun s c => if (v &&& m).getLsbD c then s.retireCluster ((o - 0x83000) / 8) d c else s) s)
    else none
  else if off = 0x2000000 then
    if s.splitLock || s.diedis ≠ 0 then some s
    else if (w.extractLsb' 0 9).toNat ≤ 256 then some { s with split := (w.extractLsb' 0 9).toNat }
    else some s
  else if off = 0x2000008 then
    some { s with supv := { s.supv with fwlim := w.extractLsb' 0 12 } }
  else if off = 0x2000010 then some (s.fatalFreeze 6 8)
  else if off = 0x2000018 then
    let n := (w.extractLsb' 0 6).toNat
    some (if n ≤ s.supv.imgSvn ∧ s.supv.svn < n then { s with supv := { s.supv with svn := n } } else s)
  else if 0x2000100 ≤ off ∧ off < 0x2000308 then some s
  else if 0x2001000 ≤ off ∧ off < 0x2001808 then some s
  else none

/-- The agent of the supervisor core. -/
def supvAgent : Agent := { tenant := 0, super := true, source := supvHart }

/-- The agent of a supervisor access: the supervisor core's, or that of a supervisor-mode hart through SVRD and SVWR. -/
def State.supvAccess (s : State) : Agent :=
  { tenant := s.me.tenant, super := true, source := s.cur, owner := .hart s.cur s.me.pc }

/-- A supervisor-core access outside its DMA windows is fatal (13 R413). -/
def physErr (s : State) (e : AccErr) : State :=
  match e with
  | .denied 8 => if s.cur = supvHart then s.fatalFreeze 6 8 else s
  | _ => s

/-- The check of an access to physical memory by the supervisor core or an SVRD or SVWR (13 R405, R413, R415): none when
permitted. -/
def physCheck (s : State) (ag : Agent) (pa n : Nat) (k : Acc) : Except AccErr Unit × State :=
  if isHost pa then
    if s.ownerOk ag pa n k then (.ok (), s)
    else (.error (.denied 8), (s.logDenial 8 ag pa k))
  else if s.inDram pa then checkOwner ag true pa n k s
  else (.error (.xlat 7 0), s)

/-- The die that serves a physical address of the supervisor: a lane die's block of supervisor space lies on that die (R406). -/
def physDie (pa : Nat) : Nat :=
  if pa < supvBase then servedAt pa
  else if supvBase + 0x1000000 ≤ pa ∧ pa < supvBase + 0x1800000 then (pa - supvBase - 0x1000000) / 0x100000 else 8

/-- An access of the supervisor takes its route as any other does, and waits with it (10 R354). -/
def physRoute {α : Type} (ag : Agent) (pa : Nat) (f : State → Except AccErr α × State) (s : State) : Except AccErr α × State :=
  match s.shutHops ag.sender 8 (physDie pa) with
  | h :: _ => noted (.error (.paused h), s)
  | [] => f s

/-- `n` bytes of supervisor space, word by word. -/
def State.supvBytes (s : State) (off n : Nat) : Option Nat :=
  (List.range n).foldr (fun i acc => match acc, s.supvRead ((off + i) / 8 * 8) with
    | some a, some w => some (w.toNat / 2 ^ (8 * ((off + i) % 8)) % 256 + 256 * a)
    | _, _ => none) (some 0)

/-- `n` bytes read at a physical address by the supervisor core or an SVRD. -/
def physRead (ag : Agent) (pa n : Nat) (k : Acc) : State → Except AccErr Nat × State :=
  physRoute ag pa fun s =>
    if supvBase ≤ pa then
      match s.supvBytes (pa - supvBase) n with
      | some v => (.ok v, s)
      | none => (.error (.xlat 7 0), s)
    else match physCheck s ag pa n k with
      | (.error e, s) => (.error e, s)
      | (.ok (), s) => (.ok (s.bytesAt pa n), s)

/-- `n` bytes, at most 8 and aligned, written at a physical address by the supervisor core or an SVWR. -/
def physWrite (ag : Agent) (pa n v : Nat) (k : Acc) : State → Except AccErr Unit × State :=
  physRoute ag pa fun s =>
    if supvBase ≤ pa then
      let sh := 8 * (pa % 8)
      match s.supvWrite ((pa - supvBase) / 8 * 8) (BitVec.ofNat 64 (v * 2 ^ sh)) (BitVec.ofNat 64 ((2 ^ (8 * n) - 1) * 2 ^ sh)) with
      | some s => (.ok (), s)
      | none => (.error (.xlat 7 0), s)
    else match physCheck s ag pa n k with
      | (.error e, s) => (.error e, s)
      | (.ok (), s) => (.ok (), s.setBytes pa n v)

end Sys2Proof.Machine
end

