-- ==== Sys2Proof/Machine/Access.lean ====
section
/-!
DEFINITION. The accesses to memory of a hart's scalar and vector sides, as computations that trap precisely: translation,
ownership, watch check, then the bytes (02 R62 to R68, 04 R163, 13 R420 to R422). Supervisor-core accesses are physical
(13 R405).
-/

namespace Sys2Proof.Machine

/-- The agent that the accesses of a hart's entries name. -/
def State.agent (s : State) (h : Nat) (qsn : BitVec 16) : Agent :=
  let x := s.hart h
  { tenant := x.tenant, super := x.super, source := h, qsn := qsn, owner := .entry h qsn }

/-- The agent of the scalar accesses and fetches of a hart, which its control core's TLB serves (02 R60). -/
def State.coreAgent (s : State) (h : Nat) : Agent :=
  { s.agent h 0 with core := some (coreOf h), owner := .hart h (s.hart h).pc }

/-- The agent of an access of the running hart: scalar, or of an entry at the die that it starts from. -/
def State.accessAgent (s : State) (at' : Option Nat) (qsn : BitVec 16) : Agent :=
  match at' with
  | none => s.coreAgent s.cur
  | some d => { s.agent s.cur qsn with at' := d }

/-- Ends a computation with a trap. -/
def raise {α : Type} (t : TrapInfo) : M α := throw (.trap t)

/-- Ends a computation with a trap that ends its entry. -/
def raiseEnd {α : Type} (t : TrapInfo) : M α := throw (.endTrap t)

/-- Blocks (01 R48). -/
def block {α : Type} : M α := throw .wait

/-- An element of an entry goes from one die to another (01 R22), as stream and engine data do (10 R342): it waits while a link on
its way takes no flit. DESIGN CHOICE, log 55. -/
def crossDies (qsn : BitVec 16) (src dst : Nat) : M Unit := do
  let s ← get
  let w : Sender := { (s.agent s.cur qsn).sender with cls := .eng }
  match (route src dst).find? (fun h => !s.hopClear w h.1 h.2) with
  | some h =>
    set (s.noteFlit (w, h))
    block
  | none => return ()

/-- The hart whose entry or instruction runs. -/
def meM : M Hart := do return (← get).me

def updMeM (f : Hart → Hart) : M Unit := modify (fun s => s.updMe f)

/-! ### FENCE holds (04 R156) -/

/-- Whether an entry makes accesses of a kind of 02 R70: bit 0 a read with acquire (09 R319), bit 2 vector, bit 3 engine and stream,
bit 4 the storage engine's. -/
def QOp.kind (op : QOp) (k : Nat) : Bool :=
  match op with
  | .vmem .. | .gpass _ => k == 2
  | .mask o .. => k == 2 && (o == .ld || o == .st)
  | .strm .. | .copy .. | .venq .. | .vqsrc .. | .tmul .. | .tmulsp .. => k == 3
  | .stor o => (k == 4 && (o == .nring || o == .ncqhd)) || (k == 0 && o == .ncqpoll)
  | .beacon o => k == 3 && (o == .bput || o == .bget || o == .batom || o == .bnotify)
  | _ => false

/-- The bits of a FENCE's QS that hold an instruction back. -/
def QOp.kinds (op : QOp) : BitVec 5 :=
  (if op.kind 0 then 0b00001 else 0) ||| (if op.kind 2 then 0b00100 else 0) ||| (if op.kind 3 then 0b01000 else 0) |||
  (if op.kind 4 then 0b10000 else 0)

/-- Whether a queue's elements lie in memory and not in the scratchpad alone (06 R217). -/
def StreamQ.inMemory (q : StreamQ) : Bool := q.desc.extractLsb' 405 3 != 1

/-- Whether an entry may reach host pages, whose accesses are of kind IO (R70): which pages it reaches is known only as it
translates. DESIGN CHOICE, log 4. -/
def Hart.mayIo (x : Hart) (op : QOp) : Bool :=
  match op with
  | .vmem .. | .copy .. => true
  | .mask .. => op.kind 2
  | .beacon _ => op.kind 3
  | .strm o n .. => o == .sopen || o == .strans || (x.q n).inMemory
  | .venq n _ | .vqsrc _ _ n _ => (x.q n).inMemory
  | .tmul qc qr .. => (x.q qc).inMemory || (x.q qr).inMemory
  | .tmulsp qc qr sk .. => (x.q qc).inMemory || (x.q qr).inMemory || (x.q sk).inMemory
  | _ => op.kind 4

/-- The FENCE that a hart issues now: what it has issued precedes it, but for the entries held at a trap (R159). -/
def Hart.fenceFrom (x : Hart) (ps qs : BitVec 5) (scope : BitVec 2) : FenceHold :=
  { ps := ps, qs := qs, scope := scope, before := x.nextUid, qsn := x.nextQsn
    held := (x.queue.filter (·.st == .held)).map (fun e => (e.uid, e.qsn)) }

/-- Whether an entry precedes a FENCE, by its number or by its QSN. -/
def FenceHold.after (f : FenceHold) (uid : Nat) : Bool := decide (uid < f.before) && f.held.all (·.1 != uid)
def FenceHold.afterQsn (f : FenceHold) (qsn : BitVec 16) : Bool :=
  let d := f.qsn - qsn
  d != 0 && decide (d.toNat < 2 ^ 15) && f.held.all (·.2 != qsn)

/-- A store queue that has still to write elements that were enqueued before a FENCE (R82). -/
def StreamQ.undrained (q : StreamQ) (f : FenceHold) : Bool :=
  q.isOpen && q.buf.any (fun e => f.afterQsn (e.2.extractLsb' 256 16))

/-- The slots in use of a hart's outstanding-operation table (11 R364). -/
def State.fabricOps (s : State) (h : Nat) : SMap FabOp :=
  let x := s.hart h
  match smFind s.parts x.tenant with
  | some p => p.ops.filter (fun o => o.1 / 256 = x.fkey)
  | none => []

/-- Whether SSD accesses that a doorbell of a hart started before a FENCE are still to come (R70): a command of its NRING has no
completion entry yet. -/
def State.ssdBusy (s : State) (h : Nat) (f : FenceHold) : Bool :=
  s.pairs.any fun p => p.2.rang.any fun c => c.2.1 == (s.hart h).fkey && f.after c.2.2

/-- R82, 11 R372: whether predecessors of a FENCE have still to perform. Scalar accesses have performed when they retire.
DESIGN CHOICE, log 4. -/
def State.fenceBusy (s : State) (h : Nat) (f : FenceHold) : Bool :=
  let x := s.hart h
  let early (p : QOp → Bool) : Bool := x.queue.any (fun e => e.open && f.after e.uid && p e.op)
  let draining (mem : Bool) : Bool := x.queues.any (fun p => decide (8 ≤ p.1) && p.2.undrained f && (!mem || p.2.inMemory))
  (f.ps.getLsbD 0 && early (·.kind 0)) ||
  (f.ps.getLsbD 2 && early (·.kind 2)) ||
  (f.ps.getLsbD 3 && (early (·.kind 3) || draining false || (s.fabricOps h).any (fun p => !p.2.done && f.after p.2.uid))) ||
  (f.ps.getLsbD 4 && (early x.mayIo || draining true || s.ssdBusy h f))

/-- An entry that acquires for every later access of its hart (09 R326, 11 R369). DEDUCED, log 36. -/
def QOp.acquires (op : QOp) : Bool :=
  match op with
  | .stor .ncqpoll | .beacon .bwait | .beacon .bpoll => true
  | _ => false

/-- Whether a FENCE in force holds back an instruction whose accesses are of the kinds given, as bits of QS, or an acquire of
an entry holds back a scalar access. DESIGN CHOICE, log 4; DEDUCED, log 36. -/
def State.fenced (s : State) (kinds : BitVec 5) : Bool :=
  s.me.fence.any (fun f => f.qs &&& kinds ≠ 0 && s.fenceBusy s.cur f) ||
  (kinds &&& 0b00011 != 0 && s.me.queue.any (fun e => e.open && e.op.acquires))

/-- Whether a FENCE of a trap handler holds back an entry that was released after it, at its restart index (R159, R82). -/
def State.entryFenced (s : State) (h : Nat) (e : Entry) : Bool :=
  e.restart.isSome && (s.hart h).fence.any fun f => f.held.any (·.1 == e.uid) && f.qs &&& e.op.kinds ≠ 0 && s.fenceBusy h f

/-- Whether a FENCE with IO in its successors holds back the accesses to host pages of a hart that are later than it: of an entry
from the QSN given on, or of the scalar side. -/
def State.ioHeld (s : State) (h : Nat) (qsn : Option (BitVec 16)) : Bool :=
  (s.hart h).fence.any fun f => f.qs.getLsbD 4 && qsn.all (fun q => !f.afterQsn q) && s.fenceBusy h f

/-- Whether an access is to a host page and a FENCE holds it back (R70, R82). -/
def State.hostHeld (s : State) (ag : Agent) (h : Nat) (qsn : Option (BitVec 16)) (va : Word) (k : Acc) : Bool :=
  s.ioHeld h qsn && (match (translate ag va k s).1 with | .ok p => p.attr == 3 | .error _ => false)

/-- Runs an access that answers a fault, raising the fault as the trap given. One whose route is held up blocks (10 R354). -/
def accM {α : Type} (f : State → Except AccErr α × State) (mk : AccErr → TrapInfo) : M α := do
  let s ← get
  match f s with
  | (.ok a, s) => set s; return a
  | (.error (.paused _), s) => set s; block
  | (.error e, s) => set s; raise (mk e)

/-- An action of an agent of the device that an instruction asks for; it blocks while a link holds the agent's access up. -/
def attemptM {α : Type} (o : FlitOwner) (f : State → α × State) : M α := do
  let (a, s) := (← get).attempt o f
  set s
  match a with
  | some a => return a
  | none => block

/-- Reads `n` aligned bytes at `va` for the running hart. `at'` is none for a scalar access, or
the die that a vector access starts from; `elem` is what TINFO2 holds. -/
def memRead (at' : Option Nat) (qsn : BitVec 16) (va : Word) (n : Nat) (k : Acc) (elem : Nat) : M Nat := do
  let s ← get
  if s.cur = supvHart then
    accM (fun s => match physRead s.supvAccess va.toNat n k s with
      | (.error e, s) => (.error e, physErr s e)
      | r => r) (faultTrap va k elem)
  else
    let ag := s.accessAgent at' qsn
    if s.hostHeld ag s.cur (at'.map (fun _ => qsn)) va k then block
    accM (loadVirt ag at'.isNone va n k) (faultTrap va k elem)

/-- Whether the pass marker of R422 lets this access through; it is consumed. `entry` says whether an entry makes the access,
`key` is its QSN × 2^15 + element, or the address of its instruction. DEDUCED, log 26 and 38. -/
def takePass (entry : Bool) (key : Nat) : M Bool := do
  let x ← meM
  if x.watchPass = some (entry, key) then
    updMeM (fun x => { x with watchPass := none })
    return true
  else return false

/-- The key by which the pass marker names an access: `at'` is none for a scalar one. -/
def passKey (x : Hart) (at' : Option Nat) (qsn : BitVec 16) (elem : Nat) : Nat :=
  if at'.isNone then x.pc.toNat else qsn.toNat * 2 ^ 15 + elem

/-- An attempt of an access that writes nothing, as a CAS that fails, consumes the marker all the same (R422). -/
def passUnused (at' : Option Nat) (qsn : BitVec 16) (elem : Nat) : M Unit := do
  discard (takePass at'.isSome (passKey (← meM) at' qsn elem))

/-- The translation, permission and ownership checks of a write, and its watch check; answers the physical address. The
supervisor core's address is physical. -/
def writeCheck (at' : Option Nat) (qsn : BitVec 16) (va : Word) (n : Nat) (k : Acc) (elem : Nat) : M Nat := do
  let s ← get
  let ag := s.accessAgent at' qsn
  if s.hostHeld ag s.cur (at'.map (fun _ => qsn)) va k then block
  let p ← accM (resolve ag at'.isNone va n k) (faultTrap va k elem)
  return p.pa

/-- The watch check of a write (R422), before anything is written. DEDUCED, log 26 and 38. -/
def watchCheck (at' : Option Nat) (qsn : BitVec 16) (va : Word) (pa n elem : Nat) : M Unit := do
  let s ← get
  let x := s.me
  let pass ← takePass at'.isSome (passKey x at' qsn elem)
  let hits := s.watchHits (s.agent s.cur qsn) .hart pa n
  if !pass && !hits.isEmpty then
    modify (fun s => s.recordWatch .hart (if at'.isNone then 8 else homeDie pa) s.cur (if at'.isNone then 0 else qsn) hits)
    raise (watchTrap s hits va pa elem)

/-- Writes `n` aligned bytes at `va` for the running hart. DESIGN CHOICE, log 4. -/
def memWrite (at' : Option Nat) (qsn : BitVec 16) (va : Word) (n v : Nat) (k : Acc) (elem : Nat) : M Unit := do
  let s ← get
  if s.cur = supvHart then
    accM (fun s => match physWrite s.supvAccess va.toNat n v k s with
      | (.error e, s) => (.error e, physErr s e)
      | r => r) (faultTrap va k elem)
  else
    let pa ← writeCheck at' qsn va n k elem
    watchCheck at' qsn va pa n elem
    modify (fun s => s.setBytes pa n v)

/-- MISALIGN for an address that is not a multiple of `n` (02 R75). -/
def alignCheck (va : Word) (n elem : Nat) : M Unit :=
  if va.toNat % n ≠ 0 then raise (misalign va elem) else pure ()

/-- The outcome of a scalar instruction whose effect is a computation: the hart it leaves advances unless it traps, when the
instruction's own trap is taken (R161), or blocks, when it stays. -/
def scalarM (m : M Unit) (s : State) : Out :=
  match runM m s with
  | (.ok (), s') => .next s'
  | (.error (.trap t), s') => .next (s'.trapHere t)
  | (.error (.endTrap t), s') => .next (s'.trapHere t)
  | (.error .wait, s') => .next s'

/-- A scalar instruction that reads and writes the registers named and no other state: it waits for pending writes (R138),
then acts and advances. -/
def scalarOp (regs : List Nat) (f : Hart → Hart) (s : State) : Out :=
  if s.me.ready regs then .next (s.updMe (fun x => (f x).adv)) else .next s

/-- A scalar instruction that computes: it waits for pending writes, then runs, then advances. DESIGN CHOICE, log 22. -/
def scalarRun (regs : List Nat) (m : M Unit) (s : State) : Out :=
  if s.me.ready regs then scalarM (do m; updMeM Hart.adv) s else .next s

end Sys2Proof.Machine
end

