-- ==== Sys2Proof/Machine/Alu.lean ====
section
/-!
DEFINITION. The integer instructions of the control core: ALU (04 R138, R139), immediate forms (R140), bit fields and funnel
shifts (R141).
-/

namespace Sys2Proof.Machine

/-! ### The functions of R139 and R141 -/

def aluSlt (a b : Word) : Word := if a.toInt < b.toInt then 1 else 0
def aluSltu (a b : Word) : Word := if a.toNat < b.toNat then 1 else 0

/-- A shift amount: the low six bits. -/
def sh6 (b : Word) : Nat := b.toNat % 64

/-- Bits [127:64] of an exact product. -/
def highWord (p : Int) : Word := BitVec.ofInt 64 (p / 2 ^ 64)

def aluMulh (a b : Word) : Word := highWord (a.toInt * b.toInt)
def aluMulhu (a b : Word) : Word := highWord ((a.toNat : Int) * (b.toNat : Int))
def aluMulhsu (a b : Word) : Word := highWord (a.toInt * (b.toNat : Int))

/-- R139: the quotient rounded toward zero; −1 for a division by zero. −2^63 / −1 wraps to −2^63. -/
def aluDiv (a b : Word) : Word := if b = 0 then BitVec.ofInt 64 (-1) else BitVec.ofInt 64 (a.toInt.tdiv b.toInt)

def aluDivu (a b : Word) : Word := if b = 0 then BitVec.ofInt 64 (-1) else BitVec.ofNat 64 (a.toNat / b.toNat)

/-- R139: the remainder with the sign of the dividend; the dividend for a division by zero. -/
def aluRem (a b : Word) : Word := if b = 0 then a else BitVec.ofInt 64 (a.toInt.tmod b.toInt)

def aluRemu (a b : Word) : Word := if b = 0 then a else BitVec.ofNat 64 (a.toNat % b.toNat)

def aluMin (a b : Word) : Word := if a.toInt < b.toInt then a else b
def aluMax (a b : Word) : Word := if a.toInt < b.toInt then b else a
def aluMinu (a b : Word) : Word := if a.toNat < b.toNat then a else b
def aluMaxu (a b : Word) : Word := if a.toNat < b.toNat then b else a

/-- The number of leading zeros of the low `n` bits of a number. -/
def clzNat (n v : Nat) : Nat :=
  match n with
  | 0 => 0
  | k + 1 => if v.testBit k then 0 else clzNat k v + 1

/-- The number of trailing zeros of a number, at most `n`. -/
def ctzNat (n v : Nat) : Nat :=
  match n with
  | 0 => 0
  | k + 1 => if v % 2 = 1 then 0 else ctzNat k (v / 2) + 1

/-- The number of ones among the low `n` bits. -/
def popcNat (n v : Nat) : Nat :=
  match n with
  | 0 => 0
  | k + 1 => v % 2 + popcNat k (v / 2)

/-- The low `n` bits in reverse order. -/
def brevNat (n v : Nat) : Nat :=
  match n with
  | 0 => 0
  | k + 1 => v % 2 * 2 ^ k + brevNat k (v / 2)

def aluClz (a : Word) : Word := BitVec.ofNat 64 (clzNat 64 a.toNat)
def aluCtz (a : Word) : Word := BitVec.ofNat 64 (ctzNat 64 a.toNat)
def aluPopc (a : Word) : Word := BitVec.ofNat 64 (popcNat 64 a.toNat)
def aluRev8 (a : Word) : Word :=
  a.extractLsb' 0 8 ++ a.extractLsb' 8 8 ++ a.extractLsb' 16 8 ++ a.extractLsb' 24 8 ++
  a.extractLsb' 32 8 ++ a.extractLsb' 40 8 ++ a.extractLsb' 48 8 ++ a.extractLsb' 56 8

/-- FSL: bits [127:64] of (a : b) << n. -/
def bitfFsl (a b c : Word) : Word := (((a ++ b : BitVec 128) <<< (c.toNat % 128)).extractLsb' 64 64)

/-- FSR: bits [63:0] of (a : b) >> n. -/
def bitfFsr (a b c : Word) : Word := (((a ++ b : BitVec 128) >>> (c.toNat % 128)).extractLsb' 0 64)

/-- R141: the length operand, at most 64. -/
def bitfLen (c : Word) : Nat := Nat.min (c.toNat % 128) 64

/-- BFX: `len` bits from `pos` up, zero-extended; positions above 63 read 0. -/
def bitfBfx (a b c : Word) : Word := BitVec.ofNat 64 (a.toNat / 2 ^ (sh6 b) % 2 ^ (bitfLen c))

/-- BFXS: positions above 63 read as the sign, and the field is sign-extended from its top bit. -/
def bitfBfxs (a b c : Word) : Word :=
  let len := bitfLen c
  if len = 0 then 0
  else
    let f := ((a.toInt / 2 ^ (sh6 b)) % 2 ^ len : Int)
    BitVec.ofInt 64 (if f ≥ 2 ^ (len - 1) then f - 2 ^ len else f)

/-- BFI: the old value with bits pos to min(pos + len, 64) − 1 replaced by the low bits of `a`. -/
def bitfBfi (old a b c : Word) : Word :=
  let m : Word := BitVec.ofNat 64 ((2 ^ (bitfLen c) - 1) * 2 ^ (sh6 b))
  (old &&& ~~~m) ||| ((a <<< (sh6 b)) &&& m)

/-- BDEP: the bits of `a` dealt out to the set positions of `m` in ascending order, from position `i`. -/
def depositNat : Nat → Nat → Nat → Nat
  | 0, _, _ => 0
  | k + 1, a, m =>
    if m % 2 = 1 then a % 2 + 2 * depositNat k (a / 2) (m / 2) else 2 * depositNat k a (m / 2)

/-- BCMPR: the bits of `a` at the set positions of `m`, gathered from the bottom. -/
def compressNat : Nat → Nat → Nat → Nat
  | 0, _, _ => 0
  | k + 1, a, m =>
    if m % 2 = 1 then a % 2 + 2 * compressNat k (a / 2) (m / 2) else compressNat k (a / 2) (m / 2)

def bitfBdep (a b : Word) : Word := BitVec.ofNat 64 (depositNat 64 a.toNat b.toNat)
def bitfBcmpr (a b : Word) : Word := BitVec.ofNat 64 (compressNat 64 a.toNat b.toNat)
def bitfBrev (a : Word) : Word := BitVec.ofNat 64 (brevNat 64 a.toNat)

/-! ### Operand forms -/

/-- A register-register form: s[rd] := f s[ra] s[rb]. -/
def aluOp (rd ra rb : BitVec 5) (f : Word → Word → Word) (s : State) : Out :=
  scalarOp [rd.toNat, ra.toNat, rb.toNat] (fun x => x.setS rd.toNat (f (x.s ra.toNat) (x.s rb.toNat))) s

/-- A one-operand form: s[rd] := f s[ra]. -/
def aluOp1 (rd ra : BitVec 5) (f : Word → Word) (s : State) : Out :=
  scalarOp [rd.toNat, ra.toNat] (fun x => x.setS rd.toNat (f (x.s ra.toNat))) s

/-- A three-operand form: s[rd] := f s[ra] s[rb] s[rc]. -/
def aluOp3 (rd ra rb rc : BitVec 5) (f : Word → Word → Word → Word) (s : State) : Out :=
  scalarOp [rd.toNat, ra.toNat, rb.toNat, rc.toNat]
    (fun x => x.setS rd.toNat (f (x.s ra.toNat) (x.s rb.toNat) (x.s rc.toNat))) s

/-! ### The instructions -/

/-- ADD (R139). -/
def execAdd (rd : BitVec 5) (ra : BitVec 5) (rb : BitVec 5) (s : State) : Out := aluOp rd ra rb (fun a b => a + b) s

/-- SUB (R139). -/
def execSub (rd : BitVec 5) (ra : BitVec 5) (rb : BitVec 5) (s : State) : Out := aluOp rd ra rb (fun a b => a - b) s

/-- AND (R139). -/
def execAnd (rd : BitVec 5) (ra : BitVec 5) (rb : BitVec 5) (s : State) : Out := aluOp rd ra rb (fun a b => a &&& b) s

/-- OR (R139). -/
def execOr (rd : BitVec 5) (ra : BitVec 5) (rb : BitVec 5) (s : State) : Out := aluOp rd ra rb (fun a b => a ||| b) s

/-- XOR (R139). -/
def execXor (rd : BitVec 5) (ra : BitVec 5) (rb : BitVec 5) (s : State) : Out := aluOp rd ra rb (fun a b => a ^^^ b) s

/-- ANDN (R139). -/
def execAndn (rd : BitVec 5) (ra : BitVec 5) (rb : BitVec 5) (s : State) : Out := aluOp rd ra rb (fun a b => a &&& ~~~b) s

/-- ORN (R139). -/
def execOrn (rd : BitVec 5) (ra : BitVec 5) (rb : BitVec 5) (s : State) : Out := aluOp rd ra rb (fun a b => a ||| ~~~b) s

/-- XNOR (R139). -/
def execXnor (rd : BitVec 5) (ra : BitVec 5) (rb : BitVec 5) (s : State) : Out := aluOp rd ra rb (fun a b => ~~~(a ^^^ b)) s

/-- SLL (R139). -/
def execSll (rd : BitVec 5) (ra : BitVec 5) (rb : BitVec 5) (s : State) : Out := aluOp rd ra rb (fun a b => a <<< sh6 b) s

/-- SRL (R139). -/
def execSrl (rd : BitVec 5) (ra : BitVec 5) (rb : BitVec 5) (s : State) : Out := aluOp rd ra rb (fun a b => a >>> sh6 b) s

/-- SRA (R139). -/
def execSra (rd : BitVec 5) (ra : BitVec 5) (rb : BitVec 5) (s : State) : Out := aluOp rd ra rb (fun a b => a.sshiftRight (sh6 b)) s

/-- ROL (R139). -/
def execRol (rd : BitVec 5) (ra : BitVec 5) (rb : BitVec 5) (s : State) : Out := aluOp rd ra rb (fun a b => a.rotateLeft (sh6 b)) s

/-- ROR (R139). -/
def execRor (rd : BitVec 5) (ra : BitVec 5) (rb : BitVec 5) (s : State) : Out := aluOp rd ra rb (fun a b => a.rotateRight (sh6 b)) s

/-- SLT (R139). -/
def execSlt (rd : BitVec 5) (ra : BitVec 5) (rb : BitVec 5) (s : State) : Out := aluOp rd ra rb aluSlt s

/-- SLTU (R139). -/
def execSltu (rd : BitVec 5) (ra : BitVec 5) (rb : BitVec 5) (s : State) : Out := aluOp rd ra rb aluSltu s

/-- MUL (R139). -/
def execMul (rd : BitVec 5) (ra : BitVec 5) (rb : BitVec 5) (s : State) : Out := aluOp rd ra rb (fun a b => a * b) s

/-- MULH (R139). -/
def execMulh (rd : BitVec 5) (ra : BitVec 5) (rb : BitVec 5) (s : State) : Out := aluOp rd ra rb aluMulh s

/-- MULHU (R139). -/
def execMulhu (rd : BitVec 5) (ra : BitVec 5) (rb : BitVec 5) (s : State) : Out := aluOp rd ra rb aluMulhu s

/-- MULHSU (R139). -/
def execMulhsu (rd : BitVec 5) (ra : BitVec 5) (rb : BitVec 5) (s : State) : Out := aluOp rd ra rb aluMulhsu s

/-- DIV (R139). -/
def execDiv (rd : BitVec 5) (ra : BitVec 5) (rb : BitVec 5) (s : State) : Out := aluOp rd ra rb aluDiv s

/-- DIVU (R139). -/
def execDivu (rd : BitVec 5) (ra : BitVec 5) (rb : BitVec 5) (s : State) : Out := aluOp rd ra rb aluDivu s

/-- REM (R139). -/
def execRem (rd : BitVec 5) (ra : BitVec 5) (rb : BitVec 5) (s : State) : Out := aluOp rd ra rb aluRem s

/-- REMU (R139). -/
def execRemu (rd : BitVec 5) (ra : BitVec 5) (rb : BitVec 5) (s : State) : Out := aluOp rd ra rb aluRemu s

/-- MIN (R139). -/
def execMin (rd : BitVec 5) (ra : BitVec 5) (rb : BitVec 5) (s : State) : Out := aluOp rd ra rb aluMin s

/-- MAX (R139). -/
def execMax (rd : BitVec 5) (ra : BitVec 5) (rb : BitVec 5) (s : State) : Out := aluOp rd ra rb aluMax s

/-- MINU (R139). -/
def execMinu (rd : BitVec 5) (ra : BitVec 5) (rb : BitVec 5) (s : State) : Out := aluOp rd ra rb aluMinu s

/-- MAXU (R139). -/
def execMaxu (rd : BitVec 5) (ra : BitVec 5) (rb : BitVec 5) (s : State) : Out := aluOp rd ra rb aluMaxu s

/-- CLZ (R139). -/
def execClz (rd : BitVec 5) (ra : BitVec 5) (s : State) : Out := aluOp1 rd ra aluClz s

/-- CTZ (R139). -/
def execCtz (rd : BitVec 5) (ra : BitVec 5) (s : State) : Out := aluOp1 rd ra aluCtz s

/-- POPC (R139). -/
def execPopc (rd : BitVec 5) (ra : BitVec 5) (s : State) : Out := aluOp1 rd ra aluPopc s

/-- REV8 (R139). -/
def execRev8 (rd : BitVec 5) (ra : BitVec 5) (s : State) : Out := aluOp1 rd ra aluRev8 s

/-- SLLI (R139). -/
def execSlli (rd : BitVec 5) (ra : BitVec 5) (sh : BitVec 6) (s : State) : Out := aluOp1 rd ra (fun a => a <<< sh.toNat) s

/-- SRLI (R139). -/
def execSrli (rd : BitVec 5) (ra : BitVec 5) (sh : BitVec 6) (s : State) : Out := aluOp1 rd ra (fun a => a >>> sh.toNat) s

/-- SRAI (R139). -/
def execSrai (rd : BitVec 5) (ra : BitVec 5) (sh : BitVec 6) (s : State) : Out := aluOp1 rd ra (fun a => a.sshiftRight sh.toNat) s

/-- RORI (R139). -/
def execRori (rd : BitVec 5) (ra : BitVec 5) (sh : BitVec 6) (s : State) : Out := aluOp1 rd ra (fun a => a.rotateRight sh.toNat) s

/-- SEXTB (R139). -/
def execSextb (rd : BitVec 5) (ra : BitVec 5) (s : State) : Out := aluOp1 rd ra (fun a => (a.extractLsb' 0 8).signExtend 64) s

/-- SEXTH (R139). -/
def execSexth (rd : BitVec 5) (ra : BitVec 5) (s : State) : Out := aluOp1 rd ra (fun a => (a.extractLsb' 0 16).signExtend 64) s

/-- SEXTW (R139). -/
def execSextw (rd : BitVec 5) (ra : BitVec 5) (s : State) : Out := aluOp1 rd ra (fun a => (a.extractLsb' 0 32).signExtend 64) s

/-- ZEXTW (R139). -/
def execZextw (rd : BitVec 5) (ra : BitVec 5) (s : State) : Out := aluOp1 rd ra (fun a => (a.extractLsb' 0 32).setWidth 64) s

/-- SELZ (R100). -/
def execSelz (rd : BitVec 5) (ra : BitVec 5) (rb : BitVec 5) (rc : BitVec 5) (s : State) : Out :=
  aluOp3 rd ra rb rc (fun a b c => if c = 0 then a else b) s

/-- SELNZ (R100). -/
def execSelnz (rd : BitVec 5) (ra : BitVec 5) (rb : BitVec 5) (rc : BitVec 5) (s : State) : Out :=
  aluOp3 rd ra rb rc (fun a b c => if c = 0 then b else a) s

/-- FSL (R141). -/
def execFsl (rd : BitVec 5) (ra : BitVec 5) (rb : BitVec 5) (rc : BitVec 5) (s : State) : Out :=
  aluOp3 rd ra rb rc bitfFsl s

/-- FSR (R141). -/
def execFsr (rd : BitVec 5) (ra : BitVec 5) (rb : BitVec 5) (rc : BitVec 5) (s : State) : Out :=
  aluOp3 rd ra rb rc bitfFsr s

/-- BFX (R141). -/
def execBfx (rd : BitVec 5) (ra : BitVec 5) (rb : BitVec 5) (rc : BitVec 5) (s : State) : Out :=
  aluOp3 rd ra rb rc bitfBfx s

/-- BFXS (R141). -/
def execBfxs (rd : BitVec 5) (ra : BitVec 5) (rb : BitVec 5) (rc : BitVec 5) (s : State) : Out :=
  aluOp3 rd ra rb rc bitfBfxs s

/-- BFI (R141). -/
def execBfi (rd : BitVec 5) (ra : BitVec 5) (rb : BitVec 5) (rc : BitVec 5) (s : State) : Out :=
  scalarOp [rd.toNat, ra.toNat, rb.toNat, rc.toNat]
    (fun x => x.setS rd.toNat (bitfBfi (x.s rd.toNat) (x.s ra.toNat) (x.s rb.toNat) (x.s rc.toNat))) s

/-- BDEP (R141). -/
def execBdep (rd : BitVec 5) (ra : BitVec 5) (rb : BitVec 5) (s : State) : Out := aluOp rd ra rb bitfBdep s

/-- BCMPR (R141). -/
def execBcmpr (rd : BitVec 5) (ra : BitVec 5) (rb : BitVec 5) (s : State) : Out := aluOp rd ra rb bitfBcmpr s

/-- BREV (R141). -/
def execBrev (rd : BitVec 5) (ra : BitVec 5) (s : State) : Out := aluOp1 rd ra bitfBrev s

/-- ADDI (R140). -/
def execAddi (rd : BitVec 5) (ra : BitVec 5) (imm : BitVec 16) (s : State) : Out := aluOp1 rd ra (fun a => a + imm.signExtend 64) s

/-- ANDI (R140). -/
def execAndi (rd : BitVec 5) (ra : BitVec 5) (imm : BitVec 16) (s : State) : Out := aluOp1 rd ra (fun a => a &&& imm.setWidth 64) s

/-- ORI (R140). -/
def execOri (rd : BitVec 5) (ra : BitVec 5) (imm : BitVec 16) (s : State) : Out := aluOp1 rd ra (fun a => a ||| imm.setWidth 64) s

/-- XORI (R140). -/
def execXori (rd : BitVec 5) (ra : BitVec 5) (imm : BitVec 16) (s : State) : Out := aluOp1 rd ra (fun a => a ^^^ imm.setWidth 64) s

/-- SLTI (R140). -/
def execSlti (rd : BitVec 5) (ra : BitVec 5) (imm : BitVec 16) (s : State) : Out := aluOp1 rd ra (fun a => aluSlt a (imm.signExtend 64)) s

/-- SLTIU (R140). -/
def execSltiu (rd : BitVec 5) (ra : BitVec 5) (imm : BitVec 16) (s : State) : Out := aluOp1 rd ra (fun a => aluSltu a (imm.signExtend 64)) s

/-- LUI (R140). -/
def execLui (rd : BitVec 5) (imm : BitVec 16) (s : State) : Out :=
  scalarOp [rd.toNat] (fun x => x.setS rd.toNat (imm.signExtend 64 * 65536)) s

/-- ADDHI (R140). -/
def execAddhi (rd : BitVec 5) (ra : BitVec 5) (imm : BitVec 16) (s : State) : Out := aluOp1 rd ra (fun a => a + imm.signExtend 64 * 65536) s

end Sys2Proof.Machine
end

