-- ==== Sys2Proof/Machine/Engine.lean ====
section
/-!
DEFINITION. Memory as the engines reach it (02 R62, R65, R66, R68): byte-granular reads and writes, the tenant's fault queue,
and the imprecise watch reports of engine writes (13 R423).
-/

namespace Sys2Proof.Machine

/-- `n` bytes read at a virtual address, byte by byte; the address of the first byte that faults. -/
def engineRead (ag : Agent) (va : Word) : Nat → State → Except (Word × AccErr) Nat × State
  | 0, s => (.ok 0, s)
  | n + 1, s =>
    match loadVirt ag false va 1 .load s with
    | (.error e, s) => (.error (va, e), s)
    | (.ok b, s) =>
      match engineRead ag (va + 1) n s with
      | (.error e, s) => (.error e, s)
      | (.ok r, s) => (.ok (b + 256 * r), s)

/-- The parts of a range of at most 4 KiB that lie in one page each. -/
def pageParts (va : Word) (n : Nat) : List (Word × Nat) :=
  let room := 4096 - va.toNat % 4096
  if n = 0 then [] else if n ≤ room then [(va, n)] else [(va, room), (va + BitVec.ofNat 64 room, n - room)]

/-- The parts of a range that lie in one page each, at most `fuel`. -/
def allParts : Nat → Word → Nat → List (Word × Nat)
  | 0, _, _ => []
  | fuel + 1, va, n =>
    let k := Nat.min n (4096 - va.toNat % 4096)
    if n = 0 then [] else (va, k) :: allParts fuel (va + BitVec.ofNat 64 k) (n - k)

/-- Whether a FENCE holds back a part of an entry's access that lies in a host page (02 R82). -/
def State.rangeHeld (s : State) (ag : Agent) (h : Nat) (qsn : BitVec 16) (va : Word) (n : Nat) (k : Acc) : Bool :=
  (allParts (n / 4096 + 2) va n).any (fun p => s.hostHeld ag h (some qsn) p.1 k)

/-- The physical parts of a write, every check made before anything is written (R68). -/
def resolveParts (ag : Agent) : List (Word × Nat) → State → Except (Word × AccErr) (List (Nat × Nat)) × State
  | [], s => (.ok [], s)
  | (va, n) :: rest, s =>
    match resolve ag false va n .store s with
    | (.error e, s) => (.error (va, e), s)
    | (.ok p, s) =>
      match resolveParts ag rest s with
      | (.error e, s) => (.error e, s)
      | (.ok ps, s) => (.ok ((p.pa, n) :: ps), s)

/-- Bytes written at physical addresses, with the watch reports of an engine (R423). `wsrc` is the SOURCE of R421. -/
def putParts (ag : Agent) (k : WKind) (wsrc : Nat) : List (Nat × Nat) → Nat → State → State
  | [], _, s => s
  | (pa, n) :: rest, v, s =>
    let hits := s.watchHits ag k pa n
    let s := s.setBytes pa n (v % 256 ^ n)
    let s := if hits.isEmpty then s else s.recordWatch k (if isHost pa then 8 else homeDie pa) wsrc ag.qsn hits
    putParts ag k wsrc rest (v / 256 ^ n) s

/-- `n` bytes, at most 4 KiB, written at a virtual address by a copy engine or a stream store. -/
def engineWrite (ag : Agent) (wsrc : Nat) (va : Word) (n v : Nat) (s : State) : Except (Word × AccErr) Unit × State :=
  match resolveParts ag (pageParts va n) s with
  | (.error e, s) => (.error e, s)
  | (.ok ps, s) => (.ok (), putParts ag .engine wsrc ps v s)

/-- Bytes written at physical addresses by an agent whose writes no watchpoint names (13 R420): the storage engine, the launch
sequencer, and the fault queue's. -/
def putQuiet : List (Nat × Nat) → Nat → State → State
  | [], _, s => s
  | (pa, n) :: rest, v, s => putQuiet rest (v / 256 ^ n) (s.setBytes pa n (v % 256 ^ n))

/-- `n` bytes, at most 4 KiB, written at a virtual address by such an agent. -/
def deviceWrite (ag : Agent) (va : Word) (n v : Nat) (s : State) : Except (Word × AccErr) Unit × State :=
  match resolveParts ag (pageParts va n) s with
  | (.error e, s) => (.error e, s)
  | (.ok ps, s) => (.ok (), putQuiet ps v s)

/-- The reason of an access error as the fault queue codes it (R63). DEDUCED, log 31. -/
def AccErr.reason : AccErr → Nat
  | .xlat r _ => r
  | .denied _ => 0x0B
  | .paused _ => 0

/-- What became of a replayable fault: held under its sequence number, ended as at an ABORT because its slot is unwritable,
or waiting for a free slot (R65) or for a link on the way to it. -/
inductive FaultPost where
  | held (seq : Nat)
  | aborted (seq : Nat)
  | full
  deriving DecidableEq, Repr

/-- Raises an interrupt to the host: the vector, and a number that says what raised it. -/
def State.raiseIrq (s : State) (vec what : Nat) : State := { s with irqs := s.irqs ++ [(vec, what)] }

/-- Whose flit the notice of a held request is: of its queue or its copy command, beside those of the eight positions. -/
def FaultSource.notice : FaultSource → FlitOwner
  | .stream h q => .stream h q 8
  | .copy h uid => .copy h uid 8

/-- R65: a replayable fault writes one entry of its tenant's fault queue, a notice of the control class (10 R342), which for a
supervisor-mode hart counts against no tenant (10 R343). DEDUCED, log 31. -/
def postFault (t : Nat) (va : Word) (reason kind die source hart : Nat) (qsn : BitVec 16) (src : FaultSource)
    (s : State) : FaultPost × State :=
  let x := s.tenant t
  let seq := x.faultSeq + 1
  let slot := (seq - 1) % 256
  if x.faults.any (fun p => (p.1 - 1) % 256 == slot) then (.full, s)
  else
    let at' := x.fqbase + BitVec.ofNat 64 (32 * slot)
    let v := va.toNat + reason * 2 ^ 64 + kind * 2 ^ 72 + die * 2 ^ 80 + source * 2 ^ 88 + hart * 2 ^ 96 +
      qsn.toNat * 2 ^ 112 + seq % 2 ^ 64 * 2 ^ 128
    let (r, s') := resolveParts { tenant := t, owner := src.notice, cls := .ctl, paid := !(s.hart hart).super } (pageParts at' 32) (s.setTenant t { x with faultSeq := seq })
    match r, s' with
    | .error (_, .paused _), s' => (.full, { s with flits := s'.flits })
    | .error _, s => (.aborted seq, s.raiseIrq x.fqvec.toNat seq)
    | .ok ps, s =>
      let s := putQuiet ps v s
      let y := s.tenant t
      let s := s.setTenant t { y with faults := smPut y.faults seq src }
      (.held seq, s.raiseIrq x.fqvec.toNat seq)

/-- A held request posted: at first, and again while it waits for a free slot (R65). -/
def HeldReq.post (r : HeldReq) (t hart : Nat) (qsn : BitVec 16) (src : FaultSource) (s : State) : FaultPost × State :=
  postFault t r.va r.reason.toNat r.kind r.die r.source hart qsn src s

end Sys2Proof.Machine
end

