-- ==== Sys2Proof/Machine/Operands.lean ====
section
/-!
DEFINITION. Operand forms of the vector instructions: element formats (03 R113), the placement of elements in the grid
(01 R36 to R42), register groups and their checks (03 R98, 05 R168, R173), and reading and writing elements and MX blocks
with the ECC check (05 R207), the scoreboard wait (R203) and the dirty marks (R166).
-/

namespace Sys2Proof.Machine

/-! ### Formats (R113) -/

/-- The width of a format: SEW, or the packing width that R168 gives an MX format. -/
def fmtSew (c : Nat) : Nat :=
  match c with
  | 1 | 5 | 8 | 9 => 16
  | 2 | 6 | 10 => 32
  | 3 | 7 => 64
  | 13 | 16 | 17 | 18 | 19 => 4
  | _ => 8

/-- The floating-point format of a code, for the non-MX formats. -/
def fmtFloat (c : Nat) : Option FFmt :=
  match c with
  | 8 => some .f16 | 9 => some .bf16 | 10 => some .f32 | 11 => some .e4m3 | 12 => some .e5m2 | 13 => some .e2m1
  | _ => none

def fmtIsMx (c : Nat) : Bool := decide (14 ≤ c) && decide (c ≤ 17)

/-- The integer formats s8 to s64 and z8 to z64 (R179). -/
def fmtInt (c : Nat) : Bool := decide (c < 8)

/-- Every integer format, s4 and z4 included. -/
def fmtAnyInt (c : Nat) : Bool := decide (c < 8) || c == 18 || c == 19

def fmtSigned (c : Nat) : Bool := decide (c < 4) || c == 18

/-- f32, f16 or bf16 (R180). -/
def fmtFp (c : Nat) : Option FFmt :=
  match c with
  | 8 => some .f16 | 9 => some .bf16 | 10 => some .f32
  | _ => none

/-- An assigned code (R113). -/
def fmtOk (c : Nat) : Bool := decide (c < 20)

/-- The value of `w` bits as a signed number. -/
def toSigned (w v : Nat) : Int := if v % 2 ^ w ≥ 2 ^ (w - 1) then (v % 2 ^ w : Int) - 2 ^ w else (v % 2 ^ w : Nat)

/-- The value of an integer element in its format. -/
def intValue (c v : Nat) : Int := if fmtSigned c then toSigned (fmtSew c) v else ((v % 2 ^ fmtSew c : Nat) : Int)

/-- The bits of an integer in `w` bits. -/
def ofInt (w : Nat) (v : Int) : Nat := (v % (2 ^ w : Nat)).toNat

/-- The range of an integer format. -/
def intRange (c : Nat) : Int × Int :=
  let w := fmtSew c
  if fmtSigned c then (-(2 ^ (w - 1) : Nat), (2 ^ (w - 1) : Nat) - 1) else (0, (2 ^ w : Nat) - 1)

/-- The MX formats (01 R41, 05 R185): lanes per group, bytes of a block in memory, element width. -/
def mxLanes (c : Nat) : Nat := match c with | 14 => 9 | 15 => 7 | _ => 5
def mxBytes (c : Nat) : Nat := match c with | 14 => 33 | 15 => 25 | _ => 17
def mxWidth (c : Nat) : Nat := match c with | 14 => 8 | 15 => 6 | _ => 4

/-! ### The context of an entry -/

/-- What an entry reads of its hart when it runs: its operands, VL, the fields of VTYPE, the selector with the enabled lanes
of its participating dies in position order, the geometry in force, and the governing mask. -/
structure VCtx where
  ent : Entry
  f : VF
  vl : Nat
  fmt : Nat
  gmul : Nat
  tp : Bool
  mp : Bool
  rm : Rm
  repro : Bool
  sel : Word
  core : Nat
  lanes : List (Nat × List Nat)
  allLanes : List (Nat × List Nat)
  cols : List Nat
  nreg : Nat
  tileQ : BitVec 4
  gov : BitVec 16384

/-- The columns of a set of quarters, ascending (01 R36). DEDUCED, log 23. -/
def quarterCols (q : BitVec 4) : List Nat :=
  ((List.range 4).filter (fun i => q.getLsbD i)).flatMap (fun i => (List.range 192).map (fun c => 192 * i + c))

/-- The number of registers of a configuration; 0 with none (R167). -/
def Hart.nreg (x : Hart) : Nat := (x.cfg.map (·.nreg)).getD 0

/-- The owned columns under the configuration in force. -/
def Hart.cfgCols (x : Hart) : List Nat := (x.cfg.map (fun c => quarterCols c.quarters)).getD []

/-- The context of an entry of the running hart under a selector; an entry that had started when its hart received a quarter goes
on under the configuration of then (R204). DEDUCED, log 23. -/
def State.vctx (s : State) (e : Entry) (f : VF) (sel : Word) : VCtx :=
  let x := s.me
  let x := { x with cfg := e.oldCfg.getD x.cfg }
  let core := coreOf s.cur
  { ent := e, f := f, vl := x.vl.toNat, fmt := vtypeFmt x.vtype, gmul := vtypeGmul x.vtype
    tp := vtypeTp x.vtype, mp := vtypeMp x.vtype, rm := vtypeRm x.vtype, repro := vtypeRepro x.vtype
    sel := sel, core := core
    lanes := (s.dies sel).map (fun d => (d, s.lanes core d))
    allLanes := (s.dies 0xFF).map (fun d => (d, s.lanes core d))
    cols := x.cfgCols, nreg := x.nreg, tileQ := x.tile, gov := x.mask f.ms }

/-- cpr (R36). -/
def VCtx.cpr (c : VCtx) : Nat := if c.nreg = 0 then 0 else c.cols.length / c.nreg

/-- Active(e) (00 R14). -/
def VCtx.active (c : VCtx) (e : Nat) : Bool := !c.f.m || c.gov.getLsbD e

/-! ### Placement -/

/-- Where an element lies: die, enabled lane and its rank, column within the group, subword; the position of its die and its
number within the die (R38, R39). -/
structure Place where
  die : Nat
  lane : Nat
  rank : Nat
  col : Nat
  sub : Nat
  pos : Nat
  j : Nat
  deriving DecidableEq, Repr

/-- How many elements of a width a die with `n` enabled lanes holds in `cols` columns (R38, R39). -/
def dieElems (n cols sew : Nat) : Nat := if sew = 64 then n * (cols / 2) else n * cols * (32 / sew)

/-- R38, R39: the place of element `e` of a group of `cols` columns. -/
def placeFrom (cols sew : Nat) : List (Nat × List Nat) → Nat → Nat → Option Place
  | [], _, _ => none
  | (d, ls) :: rest, pos, e =>
    let n := ls.length
    if e < dieElems n cols sew then
      if sew = 64 then
        some { die := d, lane := ls.getD (e % n) 0, rank := e % n, col := 2 * (e / n), sub := 0, pos := pos, j := e }
      else
        let k := 32 / sew
        let r := e % (n * k) / k
        some { die := d, lane := ls.getD r 0, rank := r, col := e / (n * k), sub := e % k, pos := pos, j := e }
    else placeFrom cols sew rest (pos + 1) (e - dieElems n cols sew)

/-- R42: the number of blocks that a die with `n` enabled lanes holds in `cols` columns. -/
def dieBlocks (n cols fmt : Nat) : Nat := n / mxLanes fmt * cols

/-- R41, R42: the place of block `b`: the first lane's rank in `rank`, the block's number within its die in `j`. -/
def blockFrom (cols fmt : Nat) : List (Nat × List Nat) → Nat → Nat → Option Place
  | [], _, _ => none
  | (d, ls) :: rest, pos, b =>
    let g := ls.length / mxLanes fmt
    if b < dieBlocks ls.length cols fmt then
      let r := b % g * mxLanes fmt
      some { die := d, lane := ls.getD r 0, rank := r, col := b / g, sub := 0, pos := pos, j := b }
    else blockFrom cols fmt rest (pos + 1) (b - dieBlocks ls.length cols fmt)

/-- R40, R42: VLMAX of a group of `cols` columns in a format. DEDUCED, log 23. -/
def vlmaxOf (lanes : List (Nat × List Nat)) (cols fmt : Nat) : Nat :=
  Nat.min 16384 ((lanes.map (fun p =>
    if fmtIsMx fmt then dieBlocks p.2.length cols fmt * 32 else dieElems p.2.length cols (fmtSew fmt))).sum)

/-- VLMAX for a group of span VTYPE.GMUL under a selector, with the geometry of a hart's state on a core (R117, R169). -/
def State.vlmaxOn (s : State) (core : Nat) (x : Hart) (vtype : BitVec 16) (sel : Word) : Nat :=
  let cpr := if x.nreg = 0 then 0 else x.cfgCols.length / x.nreg
  vlmaxOf ((s.dies sel).map (fun d => (d, s.lanes core d))) (vtypeGmul vtype * cpr) (vtypeFmt vtype)

/-- VLMAX of a hart in force. -/
def State.vlmax (s : State) (h : Nat) (vtype : BitVec 16) (sel : Word) : Nat := s.vlmaxOn (coreOf h) (s.hart h) vtype sel

/-- The geometry that an entry leaves (R165, R167, 08 R286, R287), when it raises nothing. -/
def Hart.geometryAfter (x : Hart) (e : Entry) : Hart :=
  match e.op with
  | .vcfg n => { x with cfg := some { nreg := n, quarters := x.owned &&& ~~~x.tile } }
  | .tmodeOn q => { x with tile := x.tile ||| BitVec.ofNat 4 q }
  | .tmodeOff q =>
    let t := x.tile &&& ~~~(BitVec.ofNat 4 q)
    { x with tile := t, cfg := some { nreg := 32, quarters := x.owned &&& ~~~t } }
  | .gpass q => { x with owned := x.owned &&& ~~~(1#4 <<< q), cfg := none }
  | _ => x

/-- The VL that VSETVLI or VSETVL fixes at issue, from the geometry that the earlier entries leave (R149, R169). -/
def State.vlIssued (s : State) (vtype : BitVec 16) (ds avl : Nat) : Nat :=
  let x := s.me
  Nat.min avl (s.vlmaxOn (coreOf s.cur) ((x.queue.filter (·.open)).foldl Hart.geometryAfter x) vtype (x.dsel ds))

/-! ### Register groups -/

/-- A register group operand: its first register, its format, its span, and its VLMAX. -/
structure Grp where
  reg : Nat
  fmt : Nat
  span : Nat
  cap : Nat
  deriving DecidableEq, Repr

/-- The restart classes that R173 distinguishes: element-wise, and block-wise or whole. -/
inductive OvClass where
  | elem | strict
  deriving DecidableEq, Repr

/-- A group operand before the checks: register field, format, and whether it is the destination. -/
structure GOpnd where
  reg : Nat
  fmt : Nat
  dst : Bool
  deriving DecidableEq, Repr

/-- ILLEGAL of an entry (R98, R164). -/
def VCtx.ill {α : Type} (c : VCtx) (reason : Nat) : M α := raise (illegal c.ent.word reason)

/-- The columns of a group. DEDUCED, log 23. -/
def VCtx.grpCols (c : VCtx) (g : Grp) : List Nat := (c.cols.drop (g.reg * c.cpr)).take (g.span * c.cpr)

/-- R173: whether a destination overlaps a source in a way that raises reason 6. -/
def badOverlap (cls : OvClass) (d s : Grp) : Bool :=
  decide (s.reg < d.reg + d.span) && decide (d.reg < s.reg + s.span) &&
  (cls == .strict || d.reg != s.reg || d.span != s.span)

/-- R304: whether the scoreboard bit of a row of a die is set for the quarter of a column: a started rank update of the hart
that has still to write there, on that die. -/
def Hart.scored (x : Hart) (die col : Nat) : Bool :=
  x.queue.any fun e =>
    e.st == .started && e.op.isTmul &&
    (match e.cap with
     | some c => c.dies.zipIdx.any (fun d => d.1 == die && decide (e.restart.getD 0 < e.kTotal))
     | none => false) &&
    e.cols.any (fun k => k / 192 == col / 192)

/-- R98, R168, R173: the group operands in field order, checked, with the element limit L. `clash` is the mask overlap of
R173. DEDUCED, log 23 and 24. -/
def VCtx.groups (c : VCtx) (ops : List GOpnd) (cls : OvClass) (clash : Bool := false) : M (List Grp × Nat) := do
  let wmin := (ops.map (fun o => fmtSew o.fmt)).foldl Nat.min 64
  if c.nreg = 0 then c.ill 7
  let gs := ops.map (fun o =>
    let span := c.gmul * fmtSew o.fmt / wmin
    ({ reg := o.reg, fmt := o.fmt, span := span, cap := vlmaxOf c.lanes (span * c.cpr) o.fmt } : Grp))
  if gs.any (fun g => decide (g.reg % g.span ≠ 0) || decide (g.reg + g.span > c.nreg)) then c.ill 5
  let dsts := (ops.zip gs).filter (fun p => p.1.dst)
  let srcs := (ops.zip gs).filter (fun p => !p.1.dst)
  if clash || dsts.any (fun d => srcs.any (fun s => badOverlap cls d.2 s.2)) then c.ill 6
  if gs.any (fun g => (c.grpCols g).any (fun col => c.tileQ.getLsbD (col / 192))) then c.ill 8
  -- R203: the entry waits while a row of its registers has its scoreboard bit set
  let x ← meM
  if c.lanes.any (fun p => gs.any (fun g => (c.grpCols g).any (fun col => x.scored p.1 col))) then block
  return (gs, (gs.map (·.cap)).foldl Nat.min 16384)

/-! ### Cells -/

/-- Reads a grid cell with its ECC check (R207, 08 R310), whatever its scoreboard bit; `elem` is what TINFO2 reports.
DESIGN CHOICE, log 18. -/
def readCellEcc (core die lane col elem : Nat) : M (BitVec 32) := do
  let s ← get
  let key := cellKey core (64 * die + lane) col
  if s.badCells.contains key then
    raise { code := 0x0F, i0 := BitVec.ofNat 64 (64 * die + lane), i1 := BitVec.ofNat 64 col, i2 := BitVec.ofNat 64 elem }
  if s.softCells.contains key then
    let k := die * 128 + core * 4 + lane / 16
    let n := smGet 0 s.errCount k
    set { s with
      softCells := s.softCells.filter (· ≠ key)
      errCount := smSet 0 s.errCount k (if n = 0xFFFFFFFF then n else n + 1) }
  return s.cell key

/-- Reads a grid cell in vector mode: it waits on the cell's scoreboard bit (R203). -/
def readCell (core die lane col elem : Nat) : M (BitVec 32) := do
  if (← meM).scored die col then block
  readCellEcc core die lane col elem

/-- Raises a register's dirty bit and its written length (R166). DEDUCED, log 23. -/
def markCell (c : VCtx) (reg ci die rank : Nat) : M Unit :=
  let r := reg + ci / c.cpr
  let base := ((c.allLanes.filter (fun p => decide (p.1 < die))).map (fun p => p.2.length * c.cpr)).sum
  let n := ((c.allLanes.find? (fun p => p.1 = die)).map (·.2.length)).getD 0
  let mark := base + ci % c.cpr * n + rank + 1
  updMeM (fun x => { x with
    vdirty := if x.vdirty.contains r then x.vdirty else r :: x.vdirty
    vhw := smSet 0 x.vhw r (Nat.max (smGet 0 x.vhw r) mark) })

/-- Writes bits of a grid cell, waiting on its scoreboard bit (R203). A write of part of a cell keeps the cell's other bits and, with
the new ECC, ends its error, raising and counting nothing (R207). DESIGN CHOICE, log 57. -/
def writeCellBits (core die lane col sh w v : Nat) : M Unit := do
  let s ← get
  if s.me.scored die col then block
  let key := cellKey core (64 * die + lane) col
  let m : BitVec 32 := BitVec.ofNat 32 ((2 ^ w - 1) * 2 ^ sh)
  set (s.setCell key ((s.cell key &&& ~~~m) ||| (BitVec.ofNat 32 (v * 2 ^ sh) &&& m)))

/-! ### Elements -/

/-- The grid column of column `ci` of a group. -/
def VCtx.gridCol (c : VCtx) (g : Grp) (ci : Nat) : Nat := c.cols.getD (g.reg * c.cpr + ci) 0

def VCtx.place (c : VCtx) (g : Grp) (e : Nat) : Option Place := placeFrom (g.span * c.cpr) (fmtSew g.fmt) c.lanes 0 e

/-- Element `e` of a group; `elem` is the element being produced (R207). -/
def VCtx.getAt (c : VCtx) (g : Grp) (e elem : Nat) : M Nat :=
  match c.place g e with
  | none => return 0
  | some p => do
    let lo ← readCell c.core p.die p.lane (c.gridCol g p.col) elem
    if fmtSew g.fmt = 64 then
      let hi ← readCell c.core p.die p.lane (c.gridCol g (p.col + 1)) elem
      return lo.toNat + 2 ^ 32 * hi.toNat
    else return lo.toNat / 2 ^ (p.sub * fmtSew g.fmt) % 2 ^ fmtSew g.fmt

/-- Element `e` of a group as its cells hold it, with no check of their ECC. -/
def VCtx.held (c : VCtx) (s : State) (g : Grp) (e : Nat) : Nat :=
  match c.place g e with
  | none => 0
  | some p =>
    let cell (k : Nat) : Nat := (s.cell (cellKey c.core (64 * p.die + p.lane) (c.gridCol g k))).toNat
    if fmtSew g.fmt = 64 then cell p.col + 2 ^ 32 * cell (p.col + 1)
    else cell p.col / 2 ^ (p.sub * fmtSew g.fmt) % 2 ^ fmtSew g.fmt

/-- A value goes from one place to another, across the links between their dies (01 R22). -/
def VCtx.carry (c : VCtx) (src dst : Option Place) : M Unit :=
  match src, dst with
  | some a, some b => crossDies c.ent.qsn a.die b.die
  | _, _ => return ()

/-- Element `i` of group `g`, read to produce element `e` of group `d`. -/
def VCtx.getFor (c : VCtx) (d g : Grp) (i e : Nat) : M Nat := do
  c.carry (c.place g i) (c.place d e)
  c.getAt g i e

/-- Element `e`, read to produce element `e`. -/
def VCtx.get (c : VCtx) (g : Grp) (e : Nat) : M Nat := c.getAt g e e

/-- Elem(g, e) := v. -/
def VCtx.put (c : VCtx) (g : Grp) (e v : Nat) : M Unit :=
  match c.place g e with
  | none => return ()
  | some p => do
    if fmtSew g.fmt = 64 then
      writeCellBits c.core p.die p.lane (c.gridCol g p.col) 0 32 v
      writeCellBits c.core p.die p.lane (c.gridCol g (p.col + 1)) 0 32 (v / 2 ^ 32)
      markCell c g.reg (p.col + 1) p.die p.rank
    else
      writeCellBits c.core p.die p.lane (c.gridCol g p.col) (p.sub * fmtSew g.fmt) (fmtSew g.fmt) v
      markCell c g.reg p.col p.die p.rank

/-! ### MX blocks (R41, R42) -/

def VCtx.blockPlace (c : VCtx) (g : Grp) (b : Nat) : Option Place := blockFrom (g.span * c.cpr) g.fmt c.lanes 0 b

/-- The enabled lanes of a participating die. -/
def VCtx.dieLanes (c : VCtx) (d : Nat) : List Nat := ((c.lanes.find? (fun p => p.1 = d)).map (·.2)).getD []

/-- The cells of some lanes of one column, the first lane's in the low bits. -/
def readLanes (core die col elem : Nat) : List Nat → M Nat
  | [] => return 0
  | l :: ls => do
    let v ← readCell core die l col elem
    let r ← readLanes core die col elem ls
    return v.toNat + 2 ^ 32 * r

/-- A value written over the cells of some lanes of one column. -/
def writeLanes (core die col : Nat) : List Nat → Nat → M Unit
  | [], _ => return ()
  | l :: ls, v => do
    writeCellBits core die l col 0 32 v
    writeLanes core die col ls (v / 2 ^ 32)

/-- Block `b` of a group as a number: the scale byte lowest, then the packed elements. -/
def VCtx.getBlock (c : VCtx) (g : Grp) (b elem : Nat) : M Nat :=
  match c.blockPlace g b with
  | none => return 0
  | some p => do
    let v ← readLanes c.core p.die (c.gridCol g p.col) elem (((c.dieLanes p.die).drop p.rank).take (mxLanes g.fmt))
    return v % 256 ^ mxBytes g.fmt

/-- The scale code of block `b` and its element `i`, of which only these cells are read, to produce element `elem`. -/
def VCtx.getMx (c : VCtx) (g : Grp) (b i elem : Nat) : M (Nat × Nat) :=
  match c.blockPlace g b with
  | none => return (0, 0)
  | some p => do
    let ls := (c.dieLanes p.die).drop p.rank
    let w := mxWidth g.fmt
    let at' := 8 + w * i
    let cells := (ls.drop (at' / 32)).take ((at' + w - 1) / 32 - at' / 32 + 1)
    let scale ← readLanes c.core p.die (c.gridCol g p.col) elem (ls.take 1)
    let v ← readLanes c.core p.die (c.gridCol g p.col) elem cells
    return (scale % 256, v / 2 ^ (at' % 32) % 2 ^ w)

/-- Block `b` written, with zero to its padding and to the unused lanes of its column. -/
def VCtx.putBlock (c : VCtx) (g : Grp) (b v : Nat) : M Unit :=
  match c.blockPlace g b with
  | none => return ()
  | some p => do
    let ls := c.dieLanes p.die
    let k := mxLanes g.fmt
    writeLanes c.core p.die (c.gridCol g p.col) ((ls.drop p.rank).take k) (v % 256 ^ mxBytes g.fmt)
    writeLanes c.core p.die (c.gridCol g p.col) (ls.drop (ls.length / k * k)) 0
    for r in List.range k do
      markCell c g.reg p.col p.die (p.rank + r)

/-- The scale code and element `i` of a block's number. -/
def mxCode (blk : Nat) : Nat := blk % 256
def mxElem (fmt blk i : Nat) : Nat := blk / 2 ^ (8 + mxWidth fmt * i) % 2 ^ mxWidth fmt

end Sys2Proof.Machine
end

