-- ==== Sys2Proof/Machine/Stream.lean ====
section
/-!
DEFINITION. Stream queues (06 R212 to R231, R242 to R244): descriptors, element addresses, queue order, fetching, taking,
enqueuing and writing.
-/

namespace Sys2Proof.Machine

/-! ### Descriptors (R216, R217) -/

def dBase (d : BitVec 512) : Word := d.extractLsb' 0 64
def dCount (d : BitVec 512) (k : Nat) : Nat := (d.extractLsb' (64 + 32 * k) 32).toNat
def dStride (d : BitVec 512) (k : Nat) : Int := (d.extractLsb' (192 + 48 * k) 48).toInt
def dDrun (d : BitVec 512) : Nat := let v := (d.extractLsb' 384 16).toNat; if v = 0 then 65536 else v
def dFmt (d : BitVec 512) : Nat := (d.extractLsb' 400 5).toNat
def dSrc (d : BitVec 512) : Nat := (d.extractLsb' 405 3).toNat
def dTr (d : BitVec 512) : Bool := d.getLsbD 408
def dSwz (d : BitVec 512) : Bool := d.getLsbD 409
def dGroup (d : BitVec 512) : Nat := (d.extractLsb' 410 2).toNat
def dIq (d : BitVec 512) : Nat := (d.extractLsb' 412 4).toNat
def dRp (d : BitVec 512) : Nat := (d.extractLsb' 416 16).toNat
def dIsh (d : BitVec 512) : Nat := (d.extractLsb' 432 4).toNat
def dSpbase (d : BitVec 512) : Nat := (d.extractLsb' 448 22).toNat

/-- N0 to N3 (R217). -/
def dN (d : BitVec 512) (k : Nat) : Nat := if k = 0 then dCount d 0 else if dCount d k = 0 then 1 else dCount d k

/-- E (R217). -/
def dE (d : BitVec 512) : Nat := dN d 0 * dN d 1 * dN d 2 * dN d 3

/-- The bytes that an element occupies: a block under an MX format, one byte for a 4-bit element. -/
def dBytes (d : BitVec 512) : Nat :=
  if fmtIsMx (dFmt d) then mxBytes (dFmt d) else if fmtSew (dFmt d) = 4 then 1 else fmtSew (dFmt d) / 8

/-- The element width in bits (R217). -/
def dWidth (d : BitVec 512) : Nat := if fmtIsMx (dFmt d) then 8 * mxBytes (dFmt d) else fmtSew (dFmt d)

/-- The dimensions, fastest first (R217). -/
def dOrder (d : BitVec 512) : List Nat := if dTr d then [1, 0, 2, 3] else [0, 1, 2, 3]

/-- R217: the bit offset of element i from the die base. -/
def dBitsFrom (d : BitVec 512) : List Nat → Nat → Int
  | [], _ => 0
  | k :: ks, rem => ((rem % dN d k : Nat) : Int) * dStride d k + dBitsFrom d ks (rem / dN d k)

def dBits (d : BitVec 512) (i : Nat) : Int := dBitsFrom d (dOrder d) i

/-- R219: the swizzled offset. -/
def swizzle (d : BitVec 512) (o : Int) : Int :=
  if dSwz d then
    let row := o / dRp d
    let k := o / 64 % 16
    o - k * 64 + (Nat.xor k.toNat (row % 16).toNat : Nat) * 64
  else o

/-- The slice offset of element i of a die stream, SRC 1 (R213). -/
def spOffset (d : BitVec 512) (i : Nat) : Int := (dBase d).toNat + swizzle d (dBits d i / 8)

/-- The memory address of element i of die stream p, SRC 0 (R213). -/
def memAddr (d : BitVec 512) (dstep : Word) (p i : Nat) : Word :=
  dBase d + BitVec.ofNat 64 p * dstep + BitVec.ofInt 64 (dBits d i / 8)

/-- Whether every byte of element i lies inside the slice (R227). -/
def inSlice (d : BitVec 512) (i : Nat) : Bool :=
  decide (0 ≤ spOffset d i) && decide (spOffset d i + dBytes d ≤ 0x400000)

/-- The value of an element in the bytes that hold it: its nibble for a 4-bit element (R6). -/
def elemOf (d : BitVec 512) (i v : Nat) : Nat :=
  if dWidth d = 4 then v / 2 ^ (dBits d i % 8).toNat % 16 else v

/-- The footprint of a descriptor (R213). -/
def dFootprint (d : BitVec 512) : Nat := (dE d * dWidth d + 7) / 8

/-! ### Queue order (R214, R225) -/

def StreamQ.src (q : StreamQ) : Nat := dSrc q.desc
def StreamQ.e (q : StreamQ) : Nat := dE q.desc

/-- Whether the queue's elements are known by die stream and element: affine sources and every store queue. -/
def StreamQ.affine (q : StreamQ) : Bool := decide (q.src ≤ 1)

/-- The buffer capacity in elements (R215). -/
def StreamQ.capacity (q : StreamQ) : Nat :=
  if fmtIsMx (dFmt q.desc) then 16384 / mxBytes (dFmt q.desc) else 16384 * 8 / dWidth q.desc

/-- The die stream that supplies or takes the next element of an affine queue, with its element: the current run, or the next
die stream that has elements left. -/
def StreamQ.nextAt (q : StreamQ) : Option (Nat × Nat) :=
  let n := q.dies.length
  let has (p : Nat) : Bool := decide (q.dpos.getD p 0 < q.e)
  if q.left ≠ 0 && has q.cur then some (q.cur, q.dpos.getD q.cur 0)
  else
    match ((List.range n).map (fun k => (q.cur + 1 + k) % n)).find? has with
    | some p => some (p, q.dpos.getD p 0)
    | none => none

/-- The key of a die stream's element. -/
def elemKey (p i : Nat) : Nat := i * 8 + p

/-- The queue one element further (R225). -/
def StreamQ.stepOn (q : StreamQ) : StreamQ :=
  if q.affine then
    match q.nextAt with
    | none => q
    | some (p, i) =>
      let same := p = q.cur ∧ q.left ≠ 0
      { q with
        pos := q.pos + 1
        dpos := q.dpos.set p (i + 1)
        cur := p
        left := (if same then q.left else dDrun q.desc) - 1 }
  else { q with pos := q.pos + 1 }

/-- The die position of element J of a queue that is not affine (R214, R243). -/
def StreamQ.posOf (q : StreamQ) (j : Nat) : Nat :=
  if q.dies.length = 0 then 0 else j / dDrun q.desc % q.dies.length

/-- How many of the first J elements in queue order a die stream of an indexed queue supplies (R214). -/
def StreamQ.countOf (q : StreamQ) (p j : Nat) : Nat :=
  let run := dDrun q.desc
  let round := run * q.dies.length
  if round = 0 then 0 else j / round * run + Nat.min run (j % round - p * run)

/-- Whether the fetch window of its die stream takes in element J of an indexed queue (R223, R240). -/
def StreamQ.inWindow (q : StreamQ) (j : Nat) : Bool :=
  let p := q.posOf j
  decide (q.countOf p j < q.countOf p q.pos + q.window)

/-- The key of the next element to be taken. -/
def StreamQ.nextKey (q : StreamQ) : Option Nat :=
  if q.affine then q.nextAt.map (fun (p, i) => elemKey p i) else some q.pos

/-- R224: the length of the run of fetched elements that starts at the next one. -/
def StreamQ.run : Nat → StreamQ → Nat
  | 0, _ => 0
  | k + 1, q =>
    match q.nextKey with
    | some key => if (smFind q.buf key).isSome then 1 + StreamQ.run k q.stepOn else 0
    | none => 0

/-- QAVAIL of a queue (R224). -/
def StreamQ.avail (q : StreamQ) (store : Bool) : Nat :=
  if !q.isOpen then 0 else if store then q.buf.length else StreamQ.run q.buf.length q

/-- Elements of an affine queue still to be taken or enqueued. -/
def StreamQ.restAffine (q : StreamQ) : Nat := (q.dpos.map (fun i => q.e - i)).sum

/-- Elements still to be taken or enqueued (R197, R236): of an SRC 2 queue those of its index queue and those whose index it has
taken; of SRC 3 and 4 the requests recorded. -/
def Hart.qRest (x : Hart) (n : Nat) : Nat :=
  let q := x.q n
  match q.src with
  | 2 => (x.q (dIq q.desc)).restAffine + (q.nreqs - q.pos)
  | 3 => q.nreqs - q.pos
  | 4 => q.nreqs * dCount q.desc 0 - q.pos
  | _ => q.restAffine

/-- EXH (R212): every element of the descriptor taken or enqueued; never of SRC 3 and 4. DEDUCED, log 27. A descriptor of no elements
sets it at once, though SOPEN leaves the status bits clear. DESIGN CHOICE, log 58. -/
def Hart.qExh (x : Hart) (n : Nat) : Bool :=
  (x.q n).isOpen && decide ((x.q n).src ≤ 2) && decide (x.qRest n = 0)

/-! ### The scratchpad -/

/-- Bytes of a slice. -/
def State.spRead (s : State) (core die off : Nat) : Nat → Nat
  | 0 => 0
  | n + 1 => (s.spByte core die off).toNat + 256 * s.spRead core die (off + 1) n

/-- Bytes of a slice written, their granules full (R85). -/
def State.spWrite (s : State) (core die off : Nat) : Nat → Nat → State
  | 0, _ => s
  | n + 1, v => (s.setSpByte core die off (BitVec.ofNat 8 v)).spWrite core die (off + 1) n (v / 256)

/-- The first bytes of the granules that `n` bytes touch. -/
def granules (off n : Nat) : List Nat :=
  if n = 0 then [] else (List.range ((off + n - 1) / 16 - off / 16 + 1)).map (fun k => (off / 16 + k) * 16)

/-- Whether every granule that `n` bytes touch is full. -/
def State.allFull (s : State) (core die off n : Nat) : Bool := (granules off n).all (fun g => s.isFull core die g)

/-- Whether every granule that `n` bytes touch is empty. -/
def State.allEmpty (s : State) (core die off n : Nat) : Bool := (granules off n).all (fun g => !s.isFull core die g)

/-! ### Where elements lie -/

/-- The die and offset of element J of an SRC 4 queue (R244): its request's slot. -/
def StreamQ.slotOf (q : StreamQ) (j : Nat) : Option (Nat × Nat) :=
  let c := dCount q.desc 0
  if c = 0 then none
  else
    (smFind q.reqs (j / c)).map (fun r =>
      let rb := c * dWidth q.desc / 8
      (r.die, dSpbase q.desc + r.slot % dN q.desc 1 * rb + j % c * dWidth q.desc / 8))

/-- The die and slice offset of the element of a key, for the sources in the scratchpad. -/
def StreamQ.spOf (q : StreamQ) (key : Nat) : Option (Nat × Nat) :=
  match q.src with
  | 1 => some (q.dies.getD (key % 8) 0, (spOffset q.desc (key / 8)).toNat)
  | 4 => q.slotOf key
  | _ => none

/-- The number of the element within its bytes: its die-stream element for SRC 1, its place in its row for SRC 4. -/
def StreamQ.spElem (q : StreamQ) (key : Nat) (v : Nat) : Nat :=
  match q.src with
  | 1 => elemOf q.desc (key / 8) v
  | _ => if dWidth q.desc = 4 then v / 2 ^ (key % dCount q.desc 0 * 4 % 8) % 16 else v

/-- The granules that a consuming take empties (R226): those that the next element of the die stream does not touch. For
SRC 4 the next element is that of the same row. -/
def StreamQ.emptied (q : StreamQ) (key : Nat) : List Nat :=
  match q.spOf key with
  | none => []
  | some (_, off) =>
    let mine := granules off (dBytes q.desc)
    let next : List Nat :=
      match q.src with
      | 1 =>
        let i := key / 8 + 1
        if i < q.e && inSlice q.desc i then granules (spOffset q.desc i).toNat (dBytes q.desc) else []
      | _ =>
        if (key + 1) % dCount q.desc 0 = 0 then []
        else match q.slotOf (key + 1) with
          | some (_, o) => granules o (dBytes q.desc)
          | none => []
    mine.filter (fun g => !next.contains g)

/-- The granules numbered as R226 marks them: key × 4 + the granule's number. -/
def StreamQ.marks (q : StreamQ) (key : Nat) (gs : List Nat) : List Nat :=
  match q.spOf key with
  | none => []
  | some (_, off) => gs.map (fun g => key * 4 + (g / 16 - off / 16))

/-- A granule is emptied by a consuming take: every buffered element of the core's queues that touches it is marked. -/
def State.emptyGranule (s : State) (core die g : Nat) : State :=
  let s := s.setFull core die g false
  (List.range 4).foldl (fun s k =>
    s.updHart (4 * core + k) (fun x =>
      { x with queues := x.queues.map (fun (n, q) =>
          if n < 8 ∧ q.isOpen = true ∧ (q.src = 1 ∨ q.src = 4) then
            let hit := q.buf.filterMap (fun (key, _) =>
              match q.spOf key with
              | some (d, off) => if d = die ∧ (granules off (dBytes q.desc)).contains g then some (key * 4 + (g / 16 - off / 16)) else none
              | none => none)
            (n, { q with stale := hit ++ q.stale.filter (fun m => !hit.contains m) })
          else (n, q)) })) s

/-! ### Fetching (R223) -/

/-- The agent of the accesses of a stream queue's die stream, whose flits are stream data (10 R342). -/
def streamAgent (s : State) (h n p die : Nat) (qsn : BitVec 16) : Agent :=
  { s.agent h qsn with at' := die, owner := .stream h n p, cls := .eng }

/-- A queue of a hart replaced. -/
def State.updQ (s : State) (h n : Nat) (f : StreamQ → StreamQ) : State := s.updHart h (fun x => x.setQ n (f (x.q n)))

/-- The elements of a store queue that were not written are dropped (R230). -/
def StreamQ.dropWrites (q : StreamQ) : StreamQ := { q with buf := [] }

/-- A request of a queue posted in the fault queue (R65): it is held, or waits for a free slot, or ends as at an ABORT, when a store
queue drops its writes (R230). DEDUCED, log 27 and 31. -/
def postStream (h n : Nat) (r : HeldReq) (s : State) : State :=
  match r.post (s.hart h).tenant h r.qsn (.stream h n) s with
  | (.held seq, s) => s.updQ h n (fun q => { q with held := some { r with seq := some (BitVec.ofNat 64 seq) } })
  | (.aborted seq, s) =>
    s.updQ h n (fun q => { (if 8 ≤ n then q.dropWrites else q) with held := none, abort := some (BitVec.ofNat 64 seq) })
  | (.full, s) => s.updQ h n (fun q => { q with held := some r })

/-- A memory request of a queue faults (R65). A queue has one request held at a time: another die stream's waits, as if not made.
DEDUCED, log 27 and 31. -/
def holdStream (h n : Nat) (r : HeldReq) (before s : State) : State :=
  if ((s.hart h).q n).held.isSome then before else postStream h n r s

/-- Whether the request of an element, or row, waits behind the held one: those of its die stream for an affine or indexed source,
and every later one in queue order for a background indexed load (R223, R243). -/
def StreamQ.behind (q : StreamQ) (key : Nat) : Bool :=
  q.held.any fun r =>
    match q.src with
    | 2 => q.posOf r.unit == q.posOf key && decide (r.unit ≤ key)
    | 3 => decide (r.unit ≤ key)
    | 4 => r.unit == key
    | _ => r.unit % 8 == key % 8

/-- What a queue does for an element behind its held request: one that has no slot yet is posted again. -/
def awaitReply (h n : Nat) (s : State) : State :=
  match ((s.hart h).q n).held with
  | some r => if r.seq.isNone then postStream h n r s else s
  | none => s

/-- The element fetched into the buffer. -/
def putFetched (h n key v : Nat) (s : State) : State :=
  s.updQ h n (fun q => { q with buf := smPut q.buf key (BitVec.ofNat 272 v) })

/-- A fetch of `k` bytes at an address for the element of a key: its value, or the fault held. -/
def fetchMem (h n p die : Nat) (qsn : BitVec 16) (va : Word) (k key : Nat) (s : State) : Option Nat × State :=
  if ((s.hart h).q n).behind key then (none, awaitReply h n s)
  else if s.hostHeld (streamAgent s h n p die qsn) h (some qsn) va .load then (none, s)
  else match engineRead (streamAgent s h n p die qsn) va k s with
    | (.ok v, s) => (some v, s)
    | (.error (_, .paused _), s) => (none, s)
    | (.error (a, e), s') =>
      (none, holdStream h n { seq := none, va := a, reason := BitVec.ofNat 8 e.reason, kind := 1, die := die, source := 0x10 + n
                              unit := key, qsn := qsn } s s')

/-- How many of the elements from `i` on, at most `k`, lie in the granule `g` alone. -/
def granuleRun (d : BitVec 512) (g : Nat) : Nat → Nat → Nat
  | 0, _ => 0
  | k + 1, i =>
    if decide (i < dE d) && inSlice d i && granules (spOffset d i).toNat (dBytes d) == [16 * g] then
      1 + granuleRun d g k (i + 1)
    else 0

/-- The elements of a run of a die stream, fetched from the slice at once. -/
def fetchRun (h n p die : Nat) : Nat → Nat → State → State
  | 0, _, s => s
  | k + 1, i, s =>
    let d := ((s.hart h).q n).desc
    let v := elemOf d i (s.spRead (coreOf h) die (spOffset d i).toNat (dBytes d))
    fetchRun h n p die k (i + 1)
      ((putFetched h n (elemKey p i) v s).updQ h n (fun q => { q with fpos := q.fpos.set p (i + 1) }))

/-- The next fetch of die stream `p` of an affine queue. The consecutive elements of one granule that the window takes in are
fetched together, so that they are of one write (R231). DEDUCED, log 27. -/
def fetchAffine (h n p : Nat) (s : State) : State :=
  let q := (s.hart h).q n
  let i := q.fpos.getD p 0
  let room := q.dpos.getD p 0 + q.window - i
  if !(decide (i < q.e) && decide (0 < room) && decide (p < q.dies.length)) then s
  else
    let die := q.dies.getD p 0
    if !s.dieOn die then s
    else if q.src = 1 then
      if !inSlice q.desc i then
        s.updQ h n (fun q => { q with range := if q.range.contains p then q.range else p :: q.range })
      else
        let off := (spOffset q.desc i).toNat
        if s.allFull (coreOf h) die off (dBytes q.desc) then
          fetchRun h n p die (Nat.max 1 (granuleRun q.desc (off / 16) room i)) i s
        else s
    else
      match fetchMem h n p die q.qsn (memAddr q.desc q.dstep p i) (dBytes q.desc) (elemKey p i) s with
      | (some v, s) =>
        (putFetched h n (elemKey p i) (elemOf q.desc i v) s).updQ h n (fun q => { q with fpos := q.fpos.set p (i + 1) })
      | (none, s) => s

/-- The next index of an SRC 2 queue, which goes to die position `p`, taken from the index queue (R242). Only a queue whose window
takes the element in takes its index. DEDUCED, log 27. Of an index queue in the scratchpad it empties no granule, since P belongs to
VQSRC alone (R226). DESIGN CHOICE, log 58. -/
def takeIndex (h n p : Nat) (s : State) : State :=
  let x := s.hart h
  let q := x.q n
  let iq := dIq q.desc
  let j := q.nreqs
  if q.posOf j ≠ p || !q.inWindow j then s
  else match (x.q iq).nextKey with
    | none => s
    | some key =>
      match smFind (x.q iq).buf key with
      | none => s
      | some idx =>
        let r : StreamReq :=
          { addr := dBase q.desc + ((idx.setWidth 64 : Word) <<< dIsh q.desc), die := q.dies.getD p 0, qsn := q.qsn
            slot := 0, data := none }
        (s.updQ h iq (fun z => { z.stepOn with buf := smErase z.buf key })).updQ h n
          (fun q => { q with reqs := smPut q.reqs j r, nreqs := j + 1 })

/-- The next request that die position `p` of an indexed queue has still to make (R242, R243). A request made is kept until its
element is taken, since a restore makes it again (R246). DEDUCED, log 27. Of an element of 4 bits, whose w / 8 bytes are no whole byte,
one byte is read and taken undivided. DESIGN CHOICE, log 58. -/
def fetchRequest (h n p : Nat) (s : State) : State :=
  let q := (s.hart h).q n
  match q.reqs.find? (fun r => q.posOf r.1 = p && r.2.data.isNone) with
  | none => s
  | some (j, r) =>
    if !q.inWindow j || !s.dieOn r.die then s
    else match fetchMem h n p r.die r.qsn r.addr (dBytes q.desc) j s with
      | (some v, s) => (putFetched h n j v s).updQ h n (fun q => { q with reqs := smPut q.reqs j { r with data := some 0 } })
      | (none, s) => s

/-- The next element of the rows of lane die `die` to be fetched (R244): the first that is neither taken nor in the buffer. -/
def StreamQ.nextStaged (q : StreamQ) (die : Nat) : Option Nat :=
  let c := dCount q.desc 0
  q.reqs.findSome? fun (k, r) =>
    if r.die = die then
      let got := (q.buf.filter (fun b => b.1 / c = k)).length
      let j := Nat.max (k * c) (Nat.min q.pos ((k + 1) * c)) + got
      if j < (k + 1) * c then some j else none
    else none

/-- The next element of a staged gather (R244) from the slice of a lane die, once its row lies in its slot. Its buffer holds
16 KiB of each die's elements (R215). DEDUCED, log 27. -/
def fetchStaged (h n die : Nat) (s : State) : State :=
  let q := (s.hart h).q n
  let c := dCount q.desc 0
  match q.nextStaged die with
  | none => s
  | some j =>
    match smFind q.reqs (j / c), q.slotOf j with
    | some r, some (_, off) =>
      let full := decide (q.capacity ≤ (q.buf.filter (fun b => (smFind q.reqs (b.1 / c)).any (fun o => o.die = die))).length)
      if r.data.isSome && !full && s.dieOn die && s.allFull (coreOf h) die off (dBytes q.desc) then
        putFetched h n j (q.spElem j (s.spRead (coreOf h) die off (dBytes q.desc))) s
      else s
    | _, _ => s

/-- R223: die stream `p` of a load queue fetches; for a staged gather `p` is the lane die. DEDUCED, log 27. -/
def streamFetch (h n p : Nat) (s : State) : State :=
  let q := (s.hart h).q n
  if !q.isOpen || q.abort.isSome || decide (8 ≤ n) then s
  else match q.src with
    | 2 => fetchRequest h n p (takeIndex h n p s)
    | 3 => fetchRequest h n p s
    | 4 => fetchStaged h n p s
    | _ => fetchAffine h n p s

/-- R244: a copy engine serves the next row request of its die into its ring slot. `engine` is 16 × die + engine. -/
def sgatherRow (h n engine : Nat) (s : State) : State :=
  let q := (s.hart h).q n
  let die := engine / 16
  if !q.isOpen || q.abort.isSome || q.src ≠ 4 || decide (8 ≤ n) || !s.dieOn die then s
  else match q.reqs.find? (fun r => r.2.die = die && r.2.data.isNone) with
    | none => s
    | some (k, r) =>
      let rb := dCount q.desc 0 * dWidth q.desc / 8
      let off := dSpbase q.desc + r.slot % dN q.desc 1 * rb
      if q.behind k then awaitReply h n s
      else if !s.allEmpty (coreOf h) die off rb then s
      else
        let ag := { streamAgent s h n die die r.qsn with source := 0x8000 + engine }
        if s.rangeHeld ag h r.qsn r.addr rb .load then s
        else match engineRead ag r.addr rb s with
        | (.ok v, s) =>
          (s.spWrite (coreOf h) die off rb v).updQ h n (fun q => { q with reqs := smPut q.reqs k { r with data := some 0 } })
        | (.error (_, .paused _), s) => s
        | (.error (a, e), s') =>
          holdStream h n { seq := none, va := a, reason := BitVec.ofNat 8 e.reason, kind := 1, die := die, source := engine % 16
                           unit := k, qsn := r.qsn } s s'

/-- The die streams of a queue, counted as STREAM_FETCH names them: die positions, or for a staged gather the lane dies. -/
def StreamQ.streams (q : StreamQ) : Nat := if q.src = 4 then 8 else q.dies.length

/-- Every die stream of a queue fetches as far as it can: `fuel` rounds. -/
def pumpFetch (h n : Nat) : Nat → State → State
  | 0, s => s
  | k + 1, s =>
    let q := (s.hart h).q n
    let round (s : State) : State :=
      let s := if q.src = 2 then (List.range 8).foldl (fun s p => streamFetch h (dIq q.desc) p s) s else s
      let s := if q.src = 4 then (List.range 8).foldl (fun s d => sgatherRow h n (16 * d) s) s else s
      (List.range q.streams).foldl (fun s p => streamFetch h n p s) s
    let s' := round s
    if s' = s then s else pumpFetch h n k s'

/-! ### Store queues (R228 to R230) -/

/-- The elements of the visit that starts at element `i` of die stream `p` (R229): consecutive enqueued elements in one
granule. -/
def visitFrom (q : StreamQ) (p g : Nat) : Nat → Nat → List Nat
  | 0, _ => []
  | k + 1, i =>
    if (smFind q.buf (elemKey p i)).isSome && decide ((spOffset q.desc i).toNat / 16 = g) then
      i :: visitFrom q p g k (i + 1)
    else []

/-- The first enqueued element of a die stream that is not written; skipped ones are passed (R237). -/
def StreamQ.firstQueued (q : StreamQ) (p : Nat) : Option Nat := (q.buf.find? (fun b => b.1 % 8 = p)).map (fun b => b.1 / 8)

/-- The elements that the buffer of a store queue's die stream holds (R215, R228). -/
def StreamQ.queuedOf (q : StreamQ) (p : Nat) : Nat := q.buf.countP (fun b => b.1 % 8 = p)

/-- One element of a store queue written over the bytes of its granule. -/
def writeSpElem (s : State) (core die : Nat) (d : BitVec 512) (i v : Nat) : State :=
  let off := (spOffset d i).toNat
  if dWidth d = 4 then
    let sh := (dBits d i % 8).toNat
    let old := (s.spByte core die off).toNat
    let keep := if sh = 0 then old / 16 * 16 else old % 16
    s.setSpByte core die off (BitVec.ofNat 8 (keep + v % 16 * 2 ^ sh))
  else s.spWrite core die off (dBytes d) v

/-- The next visit of a die stream of a store queue in the scratchpad (R229), whole or, with `flush`, as far as it is enqueued. A
visit is complete when its next element is enqueued elsewhere or skipped, lies in another granule, or does not exist. -/
def storeVisit (h n p i : Nat) (flush : Bool) (s : State) : State :=
  let q := (s.hart h).q n
  let g := (spOffset q.desc i).toNat / 16
  let visit := visitFrom q p g (q.queuedOf p) i
  let last := i + visit.length
  let whole := decide (last < q.dpos.getD p 0) || decide (q.e ≤ last) ||
    !decide (0 ≤ spOffset q.desc last ∧ (spOffset q.desc last).toNat / 16 = g)
  if whole || flush then
    let s := visit.foldl (fun s i =>
      writeSpElem s (coreOf h) (q.dies.getD p 0) q.desc i (((smFind q.buf (elemKey p i)).getD 0).extractLsb' 0 64).toNat) s
    s.updQ h n (fun q => { q with buf := visit.foldl (fun b i => smErase b (elemKey p i)) q.buf })
  else s

/-- The next element of a die stream of a store queue in memory (R229, R230). A 4-bit element reads and rewrites its byte. -/
def storeNext (h n p i : Nat) (s : State) : State :=
  let q := (s.hart h).q n
  let die := q.dies.getD p 0
  let key := elemKey p i
  let w := (smFind q.buf key).getD 0
  let qsn := w.extractLsb' 256 16
  let v := (w.extractLsb' 0 64).toNat
  let va := memAddr q.desc q.dstep p i
  let ag := streamAgent s h n p die qsn
  let wsrc := 0xA000 + 16 * die + n
  let wrote : Except (Word × AccErr) Unit × State :=
    if dWidth q.desc = 4 then
      match resolveParts ag [(va, 1)] s with
      | (.error e, s) => (.error e, s)
      | (.ok ps, s) =>
        let old := (s.byteAt ((ps.headD (0, 0)).1)).toNat
        let sh := (dBits q.desc i % 8).toNat
        let keep := if sh = 0 then old / 16 * 16 else old % 16
        (.ok (), putParts ag .engine wsrc ps (keep + v % 16 * 2 ^ sh) s)
    else engineWrite ag wsrc va (dBytes q.desc) v s
  if q.behind key then awaitReply h n s
  else if s.hostHeld ag h (some qsn) va .store then s
  else match wrote with
    | (.ok (), s) => s.updQ h n (fun q => { q with buf := smErase q.buf key })
    | (.error (_, .paused _), s) => s
    | (.error (a, .denied d), s) =>
      s.updQ h n (fun q => { q.dropWrites with denied := some (faultTrap a .store i (.denied d)), held := none })
    | (.error (a, e), s') =>
      holdStream h n { seq := none, va := a, reason := BitVec.ofNat 8 e.reason, kind := 2, die := die, source := 0x10 + n
                       unit := key, qsn := qsn } s s'

/-- R229: a store die stream writes its next visit or element. `flush` writes a visit that is still open. -/
def streamStoreWrite (h n p : Nat) (flush : Bool) (s : State) : State :=
  let q := (s.hart h).q n
  if !q.isOpen || q.abort.isSome || q.denied.isSome || decide (n < 8) || !s.dieOn (q.dies.getD p 8) then s
  else match q.firstQueued p with
    | none => s
    | some i => if q.src = 1 then storeVisit h n p i flush s else storeNext h n p i s

/-- Every die stream of a store queue writes as far as it can. -/
def pumpStores (h n : Nat) (flush : Bool) : Nat → State → State
  | 0, s => s
  | k + 1, s =>
    let q := (s.hart h).q n
    let s' := (List.range q.dies.length).foldl (fun s p => streamStoreWrite h n p flush s) s
    if s' = s then s else pumpStores h n flush k s'

/-- The rounds that pumping needs at most. -/
def StreamQ.fuel (q : StreamQ) : Nat := q.buf.length + q.reqs.length + q.window + 16

end Sys2Proof.Machine
end

