-- ==== Sys2Proof/Machine/Elements.lean ====
section
/-!
DEFINITION. How an entry runs over its elements (05 R170 to R178): the start and progress of an entry, the element loop with
mask and tail policy, stochastic rounding's lane LFSRs, the flag records, the exception mask, and signalling NaNs.
-/

namespace Sys2Proof.Machine

/-- Runs `f` on `lo` to `lo + n - 1` in ascending order. -/
def forRange (lo : Nat) : Nat → (Nat → M Unit) → M Unit
  | 0, _ => return ()
  | n + 1, f => do
    f lo
    forRange (lo + 1) n f

/-- The index at which the entry starts (R159, R172): its restart index, or VSTART. -/
def startIndex (e : Entry) : M Nat := do
  let x ← meM
  return e.restart.getD x.vstart.toNat

/-- The entry has passed its checks and starts at `p` (R46, R158). -/
def beginAt (e : Entry) (p : Nat) : M Unit :=
  updMeM (fun x => { x.updEntry e.uid (fun e => { e with st := .started, restart := some p }) with p := p })

/-- The progress index reaches `p` (R46). -/
def reach (p : Nat) : M Unit := updMeM (fun x => { x with p := p })

/-- VSTART := 0 (R170). -/
def vstart0 : M Unit := updMeM (fun x => { x with vstart := 0 })

/-- The scalar result of an entry, written when it completes (R158). -/
def setResult (e : Entry) (v : Nat) : M Unit :=
  updMeM (fun x => match e.dst with
    | some r => x.setS r (BitVec.ofNat 64 v)
    | none => x)

/-! ### Flags (R178) -/

/-- The flags in the order of FEXC0 to FEXC4. -/
def excFlags : List (Nat × Flags) := [(0, flagNV), (1, flagDZ), (2, flagOF), (3, flagUF), (4, flagNX)]

/-- One record of FEXC. -/
def fexcWord (qsn : BitVec 16) (e : Nat) : Word :=
  BitVec.ofNat 64 (2 ^ 63 + qsn.toNat * 2 ^ 32 + e % 2 ^ 14)

/-- R178: Record(flags, e) for an entry occurrence. -/
def recordFlags (x : Hart) (uid : Nat) (qsn : BitVec 16) (fl : Flags) (e : Nat) : Hart :=
  let x := { x with fflags := x.fflags ||| fl }
  excFlags.foldl (fun x (i, f) =>
    if fl &&& f = 0 then x
    else
      let w := smGet 0 x.fexc i
      if !w.getLsbD 63 || smFind x.fexcMark i != some uid then
        { x with fexc := smSet 0 x.fexc i (fexcWord qsn e), fexcMark := smPut x.fexcMark i uid }
      else
        let old := (w.extractLsb' 0 14).toNat
        { x with fexc := smSet 0 x.fexc i ((w &&& ~~~(0x3FFF : Word)) ||| BitVec.ofNat 64 (Nat.min old e)) }) x

def record (e : Entry) (fl : Flags) (i : Nat) : M Unit :=
  if fl = 0 then return () else updMeM (fun x => recordFlags x e.uid e.qsn fl i)

/-- The flags that set an exception-mask bit (R178). -/
def excBit (fl : Flags) : Bool := fl &&& (flagNV ||| flagDZ ||| flagOF) != 0

/-- The exception mask's bit of an element, when X = 1. -/
def setExc (c : VCtx) (e : Nat) (b : Bool) : M Unit :=
  if c.f.x then updMeM (fun x => x.setMask c.f.ms (setBit (x.mask c.f.ms) e b)) else return ()

/-- Adds to SATCNT, which saturates (R117, R184). -/
def addSat (n : Nat) : M Unit :=
  updMeM (fun x => { x with satcnt := BitVec.ofNat 32 (Nat.min 0xFFFFFFFF (x.satcnt.toNat + n)) })

/-! ### Stochastic rounding (R174, R175) -/

/-- One step of the LFSR of lane 64d + l under SR; 0 under every other mode, which uses none. -/
def stepLfsr (c : VCtx) (lane : Nat) : M Nat :=
  match c.rm with
  | .sr => do
    let v := lfsrNext ((← meM).laneLfsr lane)
    updMeM (fun x => x.setLaneLfsr lane v)
    return v.toNat
  | _ => return 0

/-- The step of the lane that holds a destination element. -/
def laneStep (c : VCtx) (g : Grp) (e : Nat) : M Nat :=
  match c.place g e with
  | some p => stepLfsr c (64 * p.die + p.lane)
  | none => return 0

/-! ### Signalling NaNs (R177) -/

/-- The value of an element in a float format, FP_TRAP when it is a signalling NaN and X = 0. `idx` names the operand. R177 gives TINFO1
as far as bit 31, and of a binary64 NaN the encoding takes up all 64 bits. DESIGN CHOICE, log 57. -/
def snanCheck (c : VCtx) (f : FFmt) (idx bits e : Nat) : M Unit :=
  if (fdecode f bits).isSnan && !c.f.x then
    raise { code := 0x16, i0 := BitVec.ofNat 64 idx, i1 := BitVec.ofNat 64 bits, i2 := BitVec.ofNat 64 e }
  else return ()

/-! ### The element loop (R170) -/

/-- What an element's operation gives: its result, the flags it raises, and whether it saturated. -/
structure ElemRes where
  val : Nat
  fl : Flags := 0
  sat : Bool := false

/-- The tail: elements `lo` to L − 1 written 0 when TP = 1. -/
def tailFrom (c : VCtx) (d : Grp) (lo L : Nat) : M Unit :=
  if c.tp then forRange lo (L - lo) (fun e => c.put d e 0) else return ()

/-- R170: the pattern of an element-wise instruction. -/
def elemLoop (c : VCtx) (d : Grp) (L : Nat) (op : Nat → M ElemRes) : M Unit := do
  let n := Nat.min c.vl L
  if c.vl ≠ 0 then
    let p0 ← startIndex c.ent
    beginAt c.ent p0
    forRange p0 (n - p0) (fun e => do
      if c.active e then
        let r ← op e
        c.put d e r.val
        record c.ent r.fl e
        if r.sat then addSat 1
        setExc c e (excBit r.fl || r.sat)
      else
        if c.mp then c.put d e 0
        setExc c e false
      reach (e + 1))
    tailFrom c d n L
  vstart0

/-- The loop of a comparison (R183): a bit of m[md] for each element. -/
def maskLoop (c : VCtx) (md L : Nat) (op : Nat → M (Bool × Flags)) : M Unit := do
  let n := Nat.min c.vl L
  if c.vl ≠ 0 then
    let p0 ← startIndex c.ent
    beginAt c.ent p0
    forRange p0 (n - p0) (fun e => do
      if c.active e then
        let (b, fl) ← op e
        updMeM (fun x => x.setMask md (setBit (x.mask md) e b))
        record c.ent fl e
        setExc c e (excBit fl)
      else
        if c.mp then updMeM (fun x => x.setMask md (setBit (x.mask md) e false))
        setExc c e false
      reach (e + 1))
  vstart0

/-- The loop of an element-wise instruction that writes every element below n, whatever the mask (R192, VMERGE, VACNT). -/
def everyLoop (c : VCtx) (d : Grp) (L : Nat) (op : Nat → M Nat) : M Unit := do
  let n := Nat.min c.vl L
  if c.vl ≠ 0 then
    let p0 ← startIndex c.ent
    beginAt c.ent p0
    forRange p0 (n - p0) (fun e => do
      let v ← op e
      c.put d e v
      reach (e + 1))
    tailFrom c d n L
  vstart0

/-- The active elements below n, in ascending order. -/
def VCtx.actives (c : VCtx) (n : Nat) : List Nat := (List.range n).filter c.active

/-- A whole-class instruction (R172): started with progress 0, its body when VL is not 0. -/
def wholeBody (c : VCtx) (body : M Unit) : M Unit := do
  if c.vl ≠ 0 then
    beginAt c.ent 0
    body
  vstart0

/-- The values that `op` gives for some indices, read in full; none for an index that is left unchanged. -/
def collect (op : Nat → M (Option Nat)) : List Nat → M (List (Nat × Nat))
  | [] => return []
  | e :: es => do
    let v ← op e
    let rest ← collect op es
    return match v with
      | some v => (e, v) :: rest
      | none => rest

/-- A whole-class instruction that writes a group: `op` gives an active element's value, and none leaves it unchanged;
`keep` says which inactive elements the mask policy leaves alone. Every read comes before the first write, so that a trap leaves
no element written (01 R46). -/
def wholeLoop (c : VCtx) (d : Grp) (L : Nat) (keep : Nat → Bool) (op : Nat → M (Option Nat)) : M Unit :=
  wholeBody c (do
    let n := Nat.min c.vl L
    let vs ← collect (fun e =>
      if c.active e then op e else return if c.mp && !keep e then some 0 else none) (List.range n)
    vs.forM (fun p => c.put d p.1 p.2)
    tailFrom c d n L)

/-- The wait of an immediate-class entry until every earlier entry of the hart has completed (R165, R204). -/
def waitEarlier (e : Entry) : M Unit := do
  let x ← meM
  if x.queue.any (fun o => decide (o.uid < e.uid) && o.st != .complete) then block

end Sys2Proof.Machine
end

