-- ==== Sys2Proof/Machine/Flags.lean ====
section
/-!
DEFINITION. The scalar floating-point operations and their flags (04 R142, R143): each answers the bits of its result and the
flags it raises.
-/

namespace Sys2Proof.Machine

/-- The operations of FPS (R143). -/
abbrev FpFn := Rm → Nat → Nat → Nat → Nat × Flags

def fpAdd (f : FFmt) : FpFn := fun m a b _ => faddV f m 0 (fdecode f a) (fdecode f b)
def fpSub (f : FFmt) : FpFn := fun m a b _ => faddV f m 0 (fdecode f a) (fdecode f b).neg
def fpMul (f : FFmt) : FpFn := fun m a b _ => fmulV f m 0 (fdecode f a) (fdecode f b)
def fpDiv (f : FFmt) : FpFn := fun m a b _ => fdivV f m 0 (fdecode f a) (fdecode f b)
def fpSqrt (f : FFmt) : FpFn := fun m a _ _ => fsqrtV f m 0 (fdecode f a)
def fpMin (f : FFmt) : FpFn := fun _ a b _ => fminmax f false a b
def fpMax (f : FFmt) : FpFn := fun _ a b _ => fminmax f true a b
def fpFma (f : FFmt) : FpFn := fun m a b c => ffmaV f m 0 (fdecode f a) (fdecode f b) (fdecode f c)
def fpFnma (f : FFmt) : FpFn := fun m a b c => ffmaV f m 0 (fdecode f a).neg (fdecode f b) (fdecode f c)
def fpCsign (f : FFmt) : FpFn := fun _ a b _ => (fsignOp f (fun _ y => y) a b, 0)
def fpNsign (f : FFmt) : FpFn := fun _ a b _ => (fsignOp f (fun _ y => !y) a b, 0)
def fpXsign (f : FFmt) : FpFn := fun _ a b _ => (fsignOp f (fun x y => x != y) a b, 0)

/-- FEQ: NV on a signalling NaN only. -/
def fpEq (f : FFmt) : FpFn := fun _ a b _ =>
  let x := fdecode f a
  let y := fdecode f b
  ((feqV x y).toNat, snanFlag x ||| snanFlag y)

/-- FLT: NV on any NaN. -/
def fpLt (f : FFmt) : FpFn := fun _ a b _ =>
  let x := fdecode f a
  let y := fdecode f b
  ((fltV x y).toNat, if x.isNan || y.isNan then flagNV else 0)

/-- FLE: NV on any NaN. -/
def fpLe (f : FFmt) : FpFn := fun _ a b _ =>
  let x := fdecode f a
  let y := fdecode f b
  ((fltV x y || feqV x y).toNat, if x.isNan || y.isNan then flagNV else 0)

def fpKind (f : FFmt) : FpFn := fun _ a _ _ => (2 ^ fkindBit f a, 0)

/-- The low 64 bits of an integer. -/
def intBits (w : Nat) (v : Int) : Nat := (v % 2 ^ w).toNat

def fpToI (f : FFmt) : FpFn := fun m a _ _ =>
  let r := ftoInt m 0 (-2 ^ 63) (2 ^ 63 - 1) (fdecode f a)
  (intBits 64 r.1, r.2)

def fpToIu (f : FFmt) : FpFn := fun m a _ _ =>
  let r := ftoInt m 0 0 (2 ^ 64 - 1) (fdecode f a)
  (intBits 64 r.1, r.2)

def fpOfI (f : FFmt) : FpFn := fun m a _ _ => fofInt f m 0 (BitVec.ofNat 64 a).toInt
def fpOfU (f : FFmt) : FpFn := fun m a _ _ => fofInt f m 0 (a : Int)

/-- A conversion from one float format to another. -/
def fpCvt (src dst : FFmt) : FpFn := fun m a _ _ => fcvtV dst m 0 (fdecode src a)

/-- Whether an open entry of the queue will write VTYPE (R149). -/
def Hart.vtypePending (x : Hart) : Bool :=
  x.queue.any fun e => e.open && (match e.op with | .vset .. | .tmodeOn _ | .tmodeOff _ => true | _ => false)

/-- An FPS instruction: it waits for pending writes of its registers and for the VTYPE of earlier instructions, computes under
VTYPE.RM with SR as RNE, writes its result and ORs its flags into FFLAGS (R143). -/
def fpsOp (regs : List (BitVec 5)) (rd ra rb rc : BitVec 5) (fn : FpFn) (s : State) : Out :=
  if s.me.vtypePending then .next s
  else
    scalarOp (regs.map (·.toNat)) (fun x =>
      let r := fn (rmNoSr (vtypeRm x.vtype)) (x.s ra.toNat).toNat (x.s rb.toNat).toNat (x.s rc.toNat).toNat
      { x.setS rd.toNat (BitVec.ofNat 64 r.1) with fflags := x.fflags ||| r.2 }) s

end Sys2Proof.Machine
end

