-- ==== Sys2Proof/Machine/VArith.lean ====
section
/-!
DEFINITION. What the arithmetic entries do when they run (05 R179 to R191): integer and floating-point arithmetic, special
functions, comparisons, conversions, MX blocks and quantisation, reductions.
-/

namespace Sys2Proof.Machine

/-- The context of an entry under the selector its DS field names. -/
def vctxM (e : Entry) (f : VF) : M VCtx := do
  let s ← get
  return s.vctx e f (s.me.dsel f.ds)

/-- Group `i` of a checked list. -/
def grp (gs : List Grp) (i : Nat) : Grp := gs.getD i { reg := 0, fmt := 0, span := 1, cap := 0 }

/-! ### Integer arithmetic (R179) -/

/-- An integer operation on `w`-bit patterns. -/
def intFn (op : IntOp) (w a b : Nat) : Nat :=
  let sa := toSigned w a
  let sb := toSigned w b
  let sh := b % w
  match op with
  | .add => (a + b) % 2 ^ w
  | .sub => (a + (2 ^ w - b % 2 ^ w)) % 2 ^ w
  | .subr => (b + (2 ^ w - a % 2 ^ w)) % 2 ^ w
  | .mul => a * b % 2 ^ w
  | .mulh => ofInt w (sa * sb / (2 ^ w : Nat))
  | .mulhu => a * b / 2 ^ w
  | .min => if sa < sb then a else b
  | .max => if sa < sb then b else a
  | .minu => Nat.min a b
  | .maxu => Nat.max a b
  | .and => Nat.land a b
  | .or => Nat.lor a b
  | .xor => Nat.xor a b
  | .sll => a * 2 ^ sh % 2 ^ w
  | .srl => a / 2 ^ sh
  | .sra => ofInt w (sa / (2 ^ sh : Nat))

/-- The group operands vd, va and, unless the second operand is a scalar, vb, all in VTYPE's format. -/
def threeOps (c : VCtx) (vs : Bool) : List GOpnd :=
  [⟨c.f.vd, c.fmt, true⟩, ⟨c.f.va, c.fmt, false⟩] ++ (if vs then [] else [⟨c.f.vb, c.fmt, false⟩])

/-- The second operand: vb[e], or the low SEW bits of the captured scalar. -/
def secondOp (c : VCtx) (vs : Bool) (gs : List Grp) (i e : Nat) : M Nat :=
  if vs then return c.ent.opb.toNat % 2 ^ fmtSew c.fmt else c.get (grp gs i) e

/-- VINT and VINTS. -/
def runVint (en : Entry) (op : IntOp) (vs : Bool) (f : VF) : M Unit := do
  let c ← vctxM en f
  if !fmtInt c.fmt then c.ill 4
  let (gs, L) ← c.groups (threeOps c vs) .elem
  elemLoop c (grp gs 0) L (fun e => do
    let a ← c.get (grp gs 1) e
    let b ← secondOp c vs gs 2 e
    return { val := intFn op (fmtSew c.fmt) a b })

/-! ### Floating-point arithmetic (R180, R181) -/

/-- A floating-point operation: `a`, `b` and the old destination `d` as encodings. -/
def fpFn (op : FpOp) (f : FFmt) (m : Rm) (r a b d : Nat) : Nat × Flags :=
  let x := fdecode f a
  let y := fdecode f b
  match op with
  | .add => faddV f m r x y
  | .sub => faddV f m r x y.neg
  | .subr => faddV f m r y x.neg
  | .mul => fmulV f m r x y
  | .div => fdivV f m r x y
  | .min => fminmax f false a b
  | .max => fminmax f true a b
  | .fma => ffmaV f m r x y (fdecode f d)
  | .fnma => ffmaV f m r x.neg y (fdecode f d)
  | .fms => ffmaV f m r x y (fdecode f d).neg
  | .csign => (fsignOp f (fun _ s => s) a b, 0)
  | .nsign => (fsignOp f (fun _ s => !s) a b, 0)
  | .xsign => (fsignOp f (fun t s => t != s) a b, 0)
  | .kind => (2 ^ fkindBit f a, 0)
  | .sqrt => fsqrtV f m r x

/-- Whether an operation only moves or tests bits (R177). -/
def FpOp.bitwise : FpOp → Bool
  | .csign | .nsign | .xsign | .kind => true
  | _ => false

/-- Whether an operation rounds, and so takes an LFSR step under SR (R174). -/
def FpOp.rounds : FpOp → Bool
  | .min | .max | .csign | .nsign | .xsign | .kind => false
  | _ => true

def FpOp.addend : FpOp → Bool
  | .fma | .fnma | .fms => true
  | _ => false

/-- Whether an operation has one source, vb unused. -/
def FpOp.unary64 : FpOp → Bool
  | .kind | .sqrt => true
  | _ => false

/-- One element of a floating-point operation: the signalling-NaN checks, the LFSR step, the result. -/
def fpElem (c : VCtx) (op : FpOp) (ff : FFmt) (d : Grp) (e a b : Nat) (unary : Bool) : M ElemRes := do
  let old ← if op.addend then c.get d e else pure 0
  if !op.bitwise then
    snanCheck c ff 1 a e
    if !unary then snanCheck c ff 2 b e
    if op.addend then snanCheck c ff 3 old e
  let r ← if op.rounds then laneStep c d e else pure 0
  let (v, fl) := fpFn op ff c.rm r a b old
  return { val := v, fl := fl }

/-- VFP and VFPS. -/
def runVfp (en : Entry) (op : FpOp) (vs : Bool) (f : VF) : M Unit := do
  let c ← vctxM en f
  match fmtFp c.fmt with
  | none => c.ill 4
  | some ff =>
    let (gs, L) ← c.groups (threeOps c vs) .elem
    elemLoop c (grp gs 0) L (fun e => do
      let a ← c.get (grp gs 1) e
      let b ← secondOp c vs gs 2 e
      fpElem c op ff (grp gs 0) e a b false)

/-- VFP64: binary64 elements under VTYPE.FMT s64 or z64. DESIGN CHOICE, log 15. -/
def runVfp64 (en : Entry) (op : FpOp) (f : VF) : M Unit := do
  let c ← vctxM en f
  if c.fmt ≠ 3 ∧ c.fmt ≠ 7 then c.ill 4
  let un := op.unary64
  let (gs, L) ← c.groups (threeOps c un) .elem
  elemLoop c (grp gs 0) L (fun e => do
    let a ← c.get (grp gs 1) e
    let b ← if un then pure 0 else c.get (grp gs 2) e
    fpElem c op .f64 (grp gs 0) e a b un)

/-- VSPEC (R182). UNVERIFIED, log 7. -/
def runVspec (en : Entry) (op : SpecOp) (f : VF) : M Unit := do
  let c ← vctxM en f
  match fmtFp c.fmt with
  | none => c.ill 4
  | some ff =>
    let (gs, L) ← c.groups (threeOps c true) .elem
    elemLoop c (grp gs 0) L (fun e => do
      let a ← c.get (grp gs 1) e
      snanCheck c ff 1 a e
      let r ← laneStep c (grp gs 0) e
      let (v, fl) := specFn op ff c.rm r a
      return { val := v, fl := fl })

/-! ### Comparisons (R183) -/

/-- Whether a comparison takes the integer formats. -/
def CmpOp.isInt : CmpOp → Bool
  | .eq | .ne | .lt | .ltu | .le | .leu | .gt | .gtu => true
  | _ => false

/-- An integer comparison. -/
def cmpInt (op : CmpOp) (w a b : Nat) : Bool :=
  let sa := toSigned w a
  let sb := toSigned w b
  match op with
  | .eq => a == b
  | .ne => a != b
  | .lt => decide (sa < sb)
  | .ltu => decide (a < b)
  | .le => decide (sa ≤ sb)
  | .leu => decide (a ≤ b)
  | .gt => decide (sa > sb)
  | .gtu => decide (a > b)
  | _ => false

/-- A floating-point comparison with its flags. -/
def cmpFp (op : CmpOp) (x y : FVal) : Bool × Flags :=
  let un := x.isNan || y.isNan
  let ordered := if un then flagNV else 0
  let quiet := snanFlag x ||| snanFlag y
  match op with
  | .feq => (feqV x y, quiet)
  | .fne => (!feqV x y, quiet)
  | .flt => (fltV x y, ordered)
  | .fle => (fltV x y || feqV x y, ordered)
  | .fgt => (fltV y x, ordered)
  | .fge => (fltV y x || feqV x y, ordered)
  | .fcun => (un, quiet)
  | _ => (false, 0)

/-- VCMP and VCMPS. -/
def runVcmp (en : Entry) (op : CmpOp) (vs : Bool) (f : VF) : M Unit := do
  let c ← vctxM en f
  let ff := fmtFp c.fmt
  if !(if op.isInt then fmtInt c.fmt else ff.isSome) then c.ill 4
  let srcs : List GOpnd := [⟨f.va, c.fmt, false⟩] ++ (if vs then [] else [⟨f.vb, c.fmt, false⟩])
  let (gs, L) ← c.groups srcs .elem (f.x && f.vd == f.ms)
  maskLoop c f.vd L (fun e => do
    let a ← c.get (grp gs 0) e
    let b ← secondOp c vs gs 1 e
    match ff with
    | some ff =>
      if op.isInt then return (false, 0)
      else
        snanCheck c ff 1 a e
        snanCheck c ff 2 b e
        return cmpFp op (fdecode ff a) (fdecode ff b)
    | none => return (cmpInt op (fmtSew c.fmt) a b, 0))

/-! ### Conversions (R184) -/

/-- VCVT FN 0 on one element: source and destination formats, at least one a float. -/
def convert (src dst : Nat) (m : Rm) (r a : Nat) : Nat × Flags :=
  match fmtFloat src, fmtFloat dst with
  | some sf, some df => fcvtV df m r (fdecode sf a)
  | none, some df => fofInt df m r (intValue src a)
  | some sf, none =>
    let (lo, hi) := intRange dst
    let (v, fl) := ftoInt m r lo hi (fdecode sf a)
    (ofInt (fmtSew dst) v, fl)
  | none, none => (a, 0)

/-- Clamps an integer to a format's range, with whether it was clamped. -/
def clampTo (dst : Nat) (v : Int) : Int × Bool :=
  let (lo, hi) := intRange dst
  if v < lo then (lo, true) else if v > hi then (hi, true) else (v, false)

/-- VCVT, VWIDEN, VNARROW and VNARROWS. -/
def runVcvt (en : Entry) (op : CvtOp) (dst : Nat) (f : VF) : M Unit := do
  let c ← vctxM en f
  let src := c.fmt
  let ints := fmtAnyInt src && fmtAnyInt dst
  let ok := match op with
    | .cvt => !fmtIsMx src && !fmtIsMx dst && !ints
    | .widen => ints && decide (fmtSew src < fmtSew dst)
    | .narrow | .narrows => ints && decide (fmtSew dst < fmtSew src)
  if !ok then c.ill 4
  let (gs, L) ← c.groups [⟨f.vd, dst, true⟩, ⟨f.va, src, false⟩] .elem
  elemLoop c (grp gs 0) L (fun e => do
    let a ← c.get (grp gs 1) e
    match op with
    | .cvt =>
      match fmtFloat src with
      | some sf => snanCheck c sf 1 a e
      | none => pure ()
      let r ← laneStep c (grp gs 0) e
      let (v, fl) := convert src dst c.rm r a
      return { val := v, fl := fl }
    | .widen => return { val := ofInt (fmtSew dst) (intValue src a) }
    | .narrow => return { val := a % 2 ^ fmtSew dst }
    | .narrows =>
      let (v, sat) := clampTo dst (intValue src a)
      return { val := ofInt (fmtSew dst) v, sat := sat })

/-! ### MX blocks and quantisation (R185 to R189) -/

/-- The number of fraction bits of an mxint element, and emax of an MX format (R185). -/
def mxFrac (fmt : Nat) : Nat := mxWidth fmt - 2
def mxEmax (fmt : Nat) : Int := if fmt = 17 then 2 else 0

/-- The value of an MX element under a scale code; a code of 0xFF is NaN (R41). -/
def mxValue (fmt code el : Nat) : FVal :=
  if code = 0xFF then .nan false
  else if fmt = 17 then
    match fdecode .e2m1 el with
    | .fin n m x => .fin n m (x + (code : Int) - 127)
    | v => v
  else
    let t := toSigned (mxWidth fmt) el
    .fin (decide (t < 0)) t.natAbs ((code : Int) - 127 - mxFrac fmt)

/-- An element packed under a scale code: Round, then Sat (R185). DEDUCED, log 25. -/
def mxPackElem (fmt : Nat) (m : Rm) (r code : Nat) (x : FVal) : Nat × Flags × Bool :=
  match x with
  | .fin n mant ex =>
    let a : Approx := ⟨n, mant, ex + 127 - (code : Int), false⟩
    if fmt = 17 then
      let (v, fl) := roundTo .e2m1 m r a
      (v, fl, false)
    else
      let w := mxWidth fmt
      let hi : Int := (2 ^ (w - 1) : Nat) - 1
      let lo : Int := -(2 ^ (w - 1) : Nat)
      let (t, inx) := roundIntIn lo hi m r { a with exp := a.exp + mxFrac fmt }
      let fl := if inx then flagNX else 0
      if t > hi then (ofInt w hi, fl ||| flagNX, true)
      else if t < lo then (ofInt w lo, fl ||| flagNX, true)
      else (ofInt w t, fl, false)
  | _ => (0, 0, false)

/-- The scale code of a block (R185): of the largest magnitude among its finite elements. -/
def mxScaleCode (fmt : Nat) (xs : List FVal) : Nat :=
  let lead (x : FVal) : Option Int := match x with
    | .fin _ m ex => if m = 0 then none else some (ex + bitLen m - 1)
    | _ => none
  match (xs.filterMap lead).foldl (fun (acc : Option Int) v => some (match acc with | none => v | some a => max a v)) none with
  | none => 127
  | some l => (max 0 (min 254 (l - mxEmax fmt + 127))).toNat

/-- Reads the active elements of a block's range for the die that holds the block, with the signalling-NaN checks. -/
def readElems (c : VCtx) (g d : Grp) (b : Nat) (ff : FFmt) : List Nat → M (List (Nat × FVal))
  | [] => return []
  | e :: es => do
    c.carry (c.place g e) (c.blockPlace d b)
    let a ← c.get g e
    snanCheck c ff 1 a e
    let r ← readElems c g d b ff es
    return (e, fdecode ff a) :: r

/-- The lane that holds the first byte of element `i` of a block (R175). -/
def mxLane (c : VCtx) (g : Grp) (b i : Nat) : Nat :=
  match c.blockPlace g b with
  | some p => 64 * p.die + (c.dieLanes p.die).getD (p.rank + (8 + mxWidth g.fmt * i) / 8 / 4) 0
  | none => 0

/-- Packs the elements of one block; answers the packed elements, their flags and saturations. DEDUCED, log 25. -/
def packElems (c : VCtx) (d : Grp) (b code : Nat) : List (Nat × FVal) → M (Nat × List (Nat × Flags × Bool))
  | [] => return (0, [])
  | (e, x) :: es => do
    let i := e % 32
    let r ← stepLfsr c (mxLane c d b i)
    let (q, fl, sat) := mxPackElem d.fmt c.rm r code x
    let (acc, rs) ← packElems c d b code es
    return (acc + q * 2 ^ (8 + mxWidth d.fmt * i), (e, fl, sat) :: rs)

/-- VMXPACK (R185). DEDUCED, log 25. -/
def runVmxpack (en : Entry) (dst : Nat) (f : VF) : M Unit := do
  let c ← vctxM en f
  match fmtFp c.fmt with
  | none => c.ill 4
  | some ff =>
    if !fmtIsMx dst then c.ill 4
    let (gs, L) ← c.groups [⟨f.vd, dst, true⟩, ⟨f.va, c.fmt, false⟩] .strict
    let d := grp gs 0
    let n := Nat.min c.vl L
    let nb := (n + 31) / 32
    if c.vl ≠ 0 then
      let p0 ← startIndex en
      beginAt en (p0 / 32 * 32)
      forRange (p0 / 32) (nb - p0 / 32) (fun b => do
        let idx := (List.range 32).map (fun i => 32 * b + i)
        let els ← readElems c (grp gs 1) d b ff (idx.filter (fun e => decide (e < n) && c.active e))
        let bad := els.find? (fun p => match p.2 with | .fin .. => false | _ => true)
        let code := match bad with
          | some _ => 0xFF
          | none => mxScaleCode dst (els.map (·.2))
        let (packed, rs) ← packElems c d b code els
        c.putBlock d b (match bad with | some _ => 0xFF | none => packed + code)
        for e in idx.filter (fun e => decide (e < n)) do
          match bad with
          | some q =>
            -- the lowest NaN or infinity (R185), and with X = 1 each signalling NaN (R177)
            let marked := e == q.1 || els.any (fun p => p.1 == e && p.2.isSnan)
            if marked then record en flagNV e
            setExc c e marked
          | none =>
            match rs.find? (fun r => r.1 = e) with
            | some (_, fl, sat) =>
              record en fl e
              if sat then addSat 1
              setExc c e (excBit fl || sat)
            | none => setExc c e false
        reach (32 * (b + 1)))
      if c.tp then forRange nb (L / 32 - nb) (fun b => c.putBlock d b 0)
    vstart0

/-- VMXUNPACK (R186). -/
def runVmxunpack (en : Entry) (src : Nat) (f : VF) : M Unit := do
  let c ← vctxM en f
  match fmtFp c.fmt with
  | none => c.ill 4
  | some ff =>
    if !fmtIsMx src then c.ill 4
    let (gs, L) ← c.groups [⟨f.vd, c.fmt, true⟩, ⟨f.va, src, false⟩] .elem
    elemLoop c (grp gs 0) L (fun e => do
      c.carry (c.blockPlace (grp gs 1) (e / 32)) (c.place (grp gs 0) e)
      let (code, m) ← c.getMx (grp gs 1) (e / 32) (e % 32) e
      let r ← laneStep c (grp gs 0) e
      let (v, fl) := fcvtV ff c.rm r (mxValue src code m)
      return { val := v, fl := fl })

/-- The formats of VAMAX and VBAMAX (R187). -/
def amaxFmt (c : Nat) : Bool := fmtInt c || (fmtFloat c).isSome

/-- The magnitude of an element: as encoding for a float format, as number for an integer one; none for a NaN (R187). -/
def magnitude (fmt a : Nat) : Option Nat :=
  match fmtFloat fmt with
  | some ff => if (fdecode ff a).isNan then none else some (a % ff.signBit)
  | none => some (intValue fmt a).natAbs

/-- Reads the magnitudes of active elements, with the signalling-NaN checks; `d` is the destination group of VBAMAX, whose
element b is the one being produced (R207). -/
def readMags (c : VCtx) (g : Grp) (d : Option Grp) : List Nat → M (List (Nat × Option Nat))
  | [] => return []
  | e :: es => do
    let a ← match d with
      | some d => (do
        c.carry (c.place g e) (c.place d (e / 32))
        c.getAt g e (e / 32))
      | none => c.get g e
    match fmtFloat c.fmt with
    | some ff => snanCheck c ff 1 a e
    | none => pure ()
    let r ← readMags c g d es
    return (e, magnitude c.fmt a) :: r

/-- NV and the exception mask for the NaNs among elements (R187). -/
def recordNans (c : VCtx) (n : Nat) (ms : List (Nat × Option Nat)) : M Unit :=
  forRange 0 n (fun e => do
    let bad := ms.any (fun p => p.1 == e && p.2.isNone)
    if bad then record c.ent flagNV e
    setExc c e bad)

/-- VAMAX (R187). -/
def runVamax (en : Entry) (f : VF) : M Unit := do
  let c ← vctxM en f
  if !amaxFmt c.fmt then c.ill 4
  let (gs, L) ← c.groups [⟨f.va, c.fmt, false⟩] .strict
  let n := Nat.min c.vl L
  if c.vl = 0 then
    setResult en 0
    vstart0
  else
    wholeBody c (do
      let ms ← readMags c (grp gs 0) none (c.actives n)
      recordNans c n ms
      let best := (ms.filterMap (·.2)).foldl Nat.max 0
      setResult en (match fmtFloat c.fmt with
        | some ff => (fcvtV .f32 .rne 0 (fdecode ff best)).1
        | none => best))

/-- VBAMAX (R187). -/
def runVbamax (en : Entry) (f : VF) : M Unit := do
  let c ← vctxM en f
  if !amaxFmt c.fmt then c.ill 4
  let (gs, L) ← c.groups [⟨f.vd, c.fmt, true⟩, ⟨f.va, c.fmt, false⟩] .strict
  let n := Nat.min c.vl L
  wholeBody c (do
    let ms ← readMags c (grp gs 1) (some (grp gs 0)) (c.actives n)
    recordNans c n ms
    let nb := (n + 31) / 32
    forRange 0 nb (fun b =>
      c.put (grp gs 0) b (((ms.filter (fun p => p.1 / 32 = b)).filterMap (·.2)).foldl Nat.max 0))
    tailFrom c (grp gs 0) nb L)

/-- The largest finite value of a non-MX format (R188), as a value. -/
def largest (fmt : Nat) : FVal :=
  match fmtFloat fmt with
  | some ff => fdecode ff ff.maxCode
  | none => .fin false (intRange fmt).2.toNat 0

/-- VSCALE (R188). DEDUCED, log 24. -/
def runVscale (en : Entry) (fmt : Nat) : M Unit := do
  if fmtIsMx fmt then raise (illegal en.word 4)
  let a := fdecode .f32 (en.opa.toNat % 2 ^ 32)
  let bad := match a with
    | .nan _ => true
    | .inf _ => true
    | .fin n m _ => n && m != 0
  let scale : Nat :=
    if bad then 0x7FC00000
    else if a.isZero then 0x3F800000
    else (fdivV .f32 .rup 0 a (largest fmt)).1
  let x ← meM
  let doubled := if !bad && x.satcnt != 0 then faddV .f32 .rne 0 (fdecode .f32 scale) (fdecode .f32 scale) else (scale, 0)
  if !bad && x.satcnt != 0 then updMeM (fun x => { x with satcnt := 0 })
  let fl : Flags := (if bad then flagNV else 0) ||| (doubled.2 &&& flagOF)
  updMeM (fun x => { x with fflags := x.fflags ||| fl })
  setResult en doubled.1

/-- The scale and format code of the scalar of VQUANT and VDEQUANT (R189); none for an invalid scale. A signalling NaN is one too: R189
gives 0 with NV for a NaN scale, and no FP_TRAP comes of it with X = 0, as R177 would have for an operand. DESIGN CHOICE, log 25. -/
def quantScale (sb : Word) : Option (Nat × Int) :=
  match fdecode .f32 (sb.toNat % 2 ^ 32) with
  | .fin false m ex => if m = 0 then none else some (m, ex)
  | _ => none

/-- VQUANT on one value (R189): the result, its flags, and whether it was clamped. An infinity, which the special inputs do not
name, is clamped as a value beyond the range. DEDUCED, log 25. -/
def quantElem (dst : Nat) (m : Rm) (r : Nat) (scale : Option (Nat × Int)) (x : FVal) : Nat × Flags × Bool :=
  match scale with
  | none => (0, flagNV, false)
  | some (sm, se) =>
    match x with
    | .nan s =>
      let fl : Flags := if s then flagNV else 0
      (match fmtFloat dst with
      | some df => let (v, f) := nanResult df fl; (v, f, false)
      | none => (0, flagNV, false))
    | .inf n =>
      (match fmtFloat dst with
      | some df => ((if n then df.signBit else 0) + df.maxCode, flagNX, true)
      | none => let (lo, hi) := intRange dst; (ofInt (fmtSew dst) (if n then lo else hi), flagNX, true))
    | .fin n mant ex =>
      let q : Approx := if mant = 0 then ⟨n, 0, 0, false⟩ else exactQuot n mant ex sm se
      (match fmtFloat dst with
      | some df =>
        let (v, fl) := roundTo df m r q
        if fl &&& flagOF ≠ 0 then ((if n then df.signBit else 0) + df.maxCode, (fl &&& ~~~flagOF) ||| flagNX, true)
        else (v, fl, false)
      | none =>
        let (t, inx) := roundIntIn (intRange dst).1 (intRange dst).2 m r q
        let (v, sat) := clampTo dst t
        (ofInt (fmtSew dst) v, if inx || sat then flagNX else 0, sat))

/-- VQUANT (R189). DEDUCED, log 25. -/
def runVquant (en : Entry) (f : VF) : M Unit := do
  let c ← vctxM en f
  let dst := (en.opb.extractLsb' 32 5).toNat
  let okDst := fmtAnyInt dst || dst == 11 || dst == 12 || dst == 13
  match fmtFp c.fmt with
  | none => c.ill 4
  | some ff =>
    if !okDst then c.ill 4
    let (gs, L) ← c.groups [⟨f.vd, dst, true⟩, ⟨f.va, c.fmt, false⟩] .elem
    elemLoop c (grp gs 0) L (fun e => do
      let a ← c.get (grp gs 1) e
      snanCheck c ff 1 a e
      let r ← laneStep c (grp gs 0) e
      let (v, fl, sat) := quantElem dst c.rm r (quantScale en.opb) (fdecode ff a)
      return { val := v, fl := fl, sat := sat })

/-- VDEQUANT on one value (R189). -/
def dequantElem (df : FFmt) (m : Rm) (r : Nat) (scale : Option (Nat × Int)) (x : FVal) : Nat × Flags :=
  match scale with
  | none => (0, flagNV)
  | some (sm, se) =>
    match x with
    | .nan s => nanResult df (if s then flagNV else 0)
    | .inf n => infResult df n
    | .fin n mant ex => roundTo df m r ⟨n, mant * sm, ex + se, false⟩

/-- The value of an element of any non-MX format. -/
def anyValue (fmt a : Nat) : FVal :=
  match fmtFloat fmt with
  | some ff => fdecode ff a
  | none => let v := intValue fmt a; .fin (decide (v < 0)) v.natAbs 0

/-- VDEQUANT (R189). -/
def runVdequant (en : Entry) (f : VF) : M Unit := do
  let c ← vctxM en f
  let src := (en.opb.extractLsb' 32 5).toNat
  match fmtFp c.fmt with
  | none => c.ill 4
  | some ff =>
    if !fmtOk src || fmtIsMx src then c.ill 4
    let (gs, L) ← c.groups [⟨f.vd, c.fmt, true⟩, ⟨f.va, src, false⟩] .elem
    elemLoop c (grp gs 0) L (fun e => do
      let a ← c.get (grp gs 1) e
      match fmtFloat src with
      | some sf => snanCheck c sf 1 a e
      | none => pure ()
      let r ← laneStep c (grp gs 0) e
      let (v, fl) := dequantElem ff c.rm r (quantScale en.opb) (anyValue src a)
      return { val := v, fl := fl })

/-! ### Reductions (R190, R191) -/

def RedOp.isFloat : RedOp → Bool
  | .fsum | .fmax | .fmin => true
  | _ => false

/-- One step of an integer reduction. -/
def redFn (op : RedOp) (w a b : Nat) : Nat :=
  match op with
  | .sum => intFn .add w a b
  | .max => intFn .max w a b
  | .min => intFn .min w a b
  | .maxu => intFn .maxu w a b
  | .minu => intFn .minu w a b
  | .and => intFn .and w a b
  | .or => intFn .or w a b
  | .xor => intFn .xor w a b
  | _ => a

/-- An operand of a sum: its f32 encoding and the lowest element it includes, none for the seed alone. -/
structure SumOp where
  bits : Nat
  low : Option Nat

/-- Flags raised, each with the element that records it. -/
abbrev FlagLog := List (Nat × Flags)

/-- One addition in f32 (R190). -/
def sumAdd (m : Rm) (a b : SumOp) : SumOp × FlagLog :=
  let (v, fl) := faddV .f32 m 0 (fdecode .f32 a.bits) (fdecode .f32 b.bits)
  let low := match a.low, b.low with
    | some i, some j => some (Nat.min i j)
    | some i, none => some i
    | none, j => j
  ({ bits := v, low := low }, [(low.getD 0, fl)])

/-- One level of the tree of R191 over positions. -/
def sumLevel (m : Rm) : List (Option SumOp) → List (Option SumOp) × FlagLog
  | a :: b :: rest =>
    let (r, log) := sumLevel m rest
    match a, b with
    | some x, some y => let (z, l) := sumAdd m x y; (some z :: r, l ++ log)
    | some x, none => (some x :: r, log)
    | none, y => (y :: r, log)
  | l => (l, [])

/-- The five levels of one block. -/
def sumTree (m : Rm) : Nat → List (Option SumOp) → List (Option SumOp) × FlagLog
  | 0, l => (l, [])
  | k + 1, l =>
    let (l', log) := sumLevel m l
    let (r, log') := sumTree m k l'
    (r, log ++ log')

/-- VFSUMR with REPRO = 1 (R191): the accumulator over the blocks in ascending order. -/
def sumRepro (m : Rm) (ops : Nat → Option SumOp) : Nat → Nat → SumOp → SumOp × FlagLog
  | 0, _, acc => (acc, [])
  | k + 1, b, acc =>
    let (t, log) := sumTree m 5 ((List.range 32).map (fun i => ops (32 * b + i)))
    let (acc', log') := match t.headD none with
      | some x => sumAdd m acc x
      | none => (acc, [])
    let (r, log'') := sumRepro m ops k (b + 1) acc'
    (r, log ++ log' ++ log'')

/-- VFSUMR with REPRO = 0: an order that the free value chooses. UNVERIFIED, log 8. -/
def sumFree (m : Rm) (free : Nat) : Nat → List SumOp → SumOp × FlagLog
  | k + 1, a :: b :: rest =>
    let l := a :: b :: rest
    let i := Config.sumPick free (2 * k) % l.length
    let x := l.getD i a
    let l1 := l.eraseIdx i
    let j := Config.sumPick free (2 * k + 1) % l1.length
    let y := l1.getD j b
    let (z, log) := sumAdd m x y
    let (r, log') := sumFree m free k (z :: l1.eraseIdx j)
    (r, log ++ log')
  | _, l => (l.headD { bits := 0, low := none }, [])

/-- The encodings of active elements, with the signalling-NaN checks of a float reduction. -/
def readRed (c : VCtx) (g : Grp) (ff : Option FFmt) : List Nat → M (List (Nat × Nat))
  | [] => return []
  | e :: es => do
    let a ← c.get g e
    match ff with
    | some ff => snanCheck c ff 1 a e
    | none => pure ()
    let r ← readRed c g ff es
    return (e, a) :: r

/-- Records a log of flags and writes the exception mask of elements below n (R178, R190). -/
def recordLog (c : VCtx) (n : Nat) (log : FlagLog) : M Unit := do
  for p in log do
    record c.ent p.2 p.1
  forRange 0 n (fun e => setExc c e (c.active e && log.any (fun p => p.1 == e && excBit p.2)))

/-- The sum of VFSUMR over a seed and elements, with its flags. UNVERIFIED, log 8. -/
def fsumOf (c : VCtx) (ff : FFmt) (free : Nat) (seed : Nat) (els : List (Nat × Nat)) : Nat × FlagLog :=
  let m := rmNoSr c.rm
  let first := (els.head?.map (·.1)).getD 0
  let widen (a : Nat) : Nat × Flags := fcvtV .f32 .rne 0 (fdecode ff a)
  let exact : List (SumOp × FlagLog) := els.map (fun (e, a) =>
    let (v, fl) := widen a
    ({ bits := v, low := some e }, [(e, fl)]))
  let s0 : SumOp := { bits := (widen seed).1, low := none }
  let n := (els.getLast?.map (·.1)).getD 0 + 1
  let (acc, log) :=
    if c.repro then
      sumRepro m (fun e => (exact.find? (fun p => p.1.low = some e)).map (·.1)) ((n + 31) / 32) 0 s0
    else sumFree m free els.length (s0 :: exact.map (·.1))
  let (v, fl) := fcvtV ff m 0 (fdecode .f32 acc.bits)
  (v, (exact.map (·.2)).flatten ++ log ++ [(first, fl)])

/-- VRED. -/
def runVred (en : Entry) (op : RedOp) (f : VF) : M Unit := do
  let c ← vctxM en f
  let ff := fmtFp c.fmt
  if !(if op.isFloat then ff.isSome else fmtInt c.fmt) then c.ill 4
  let (gs, L) ← c.groups [⟨f.va, c.fmt, false⟩] .strict
  let w := fmtSew c.fmt
  let n := Nat.min c.vl L
  let seed := en.opb.toNat % 2 ^ w
  let ext (v : Nat) : Nat := if fmtSigned c.fmt then ofInt 64 (toSigned w v) else v
  if (c.actives n).isEmpty then
    wholeBody c (recordLog c n [])
    setResult en (ext seed)
  else
    wholeBody c (do
      match op.isFloat, ff with
      | true, some ff =>
        -- R177: the seed is checked once, before any element
        let bad := (fdecode ff seed).isSnan
        if bad && !c.f.x then
          raise { code := 0x16, i0 := 2, i1 := BitVec.ofNat 64 seed, i2 := 0 }
        let els ← readRed c (grp gs 0) (some ff) (c.actives n)
        let seed := if bad then (nanResult ff 0).1 else seed
        let s ← get
        let (v, log) : Nat × FlagLog := match op with
          | .fsum => fsumOf c ff s.free seed els
          | _ => els.foldl (fun (acc, log) (e, a) =>
              let (v, fl) := fminmax ff (op == .fmax) acc a
              (v, log ++ [(e, fl)])) (seed, [])
        if op == .fsum && !c.repro then set { s with free := s.free + 1 }
        recordLog c n log
        if bad then record en flagNV 0
        setResult en v
      | _, _ =>
        let els ← readRed c (grp gs 0) none (c.actives n)
        setResult en (ext (els.foldl (fun acc p => redFn op w acc p.2) seed)))

end Sys2Proof.Machine
end

