-- ==== Sys2Proof/Machine/StreamRun.lean ====
section
/-!
DEFINITION. What the stream entries and the queue consumers do when they run (06 R225 to R245, 05 R197, R198).
-/

namespace Sys2Proof.Machine

/-- The entry is as it was before it started: a trap leaves VSTART unchanged (R98). -/
def unbegin (e : Entry) : M Unit :=
  updMeM (fun x => x.updEntry e.uid (fun o => { o with st := .waiting, restart := e.restart }))

/-- ILLEGAL of an entry that has not started. -/
def illEntry {α : Type} (e : Entry) (reason : Nat) : M α := do
  unbegin e
  raise (illegal e.word reason)

/-- A cause raised with restart index `p`. -/
def raiseAt {α : Type} (e : Entry) (p : Nat) (t : TrapInfo) : M α := do
  beginAt e p
  raise t

def getQ (n : Nat) : M StreamQ := do return (← meM).q n

def modQ (n : Nat) (f : StreamQ → StreamQ) : M Unit := updMeM (fun x => x.setQ n (f (x.q n)))

/-- The queue's fetches go on in the background while an entry looks at it, unless the schedule holds the hart back. -/
def background (n : Nat) : M Unit := modify fun s =>
  if s.me.lag then s
  else if n < 8 then pumpFetch s.cur n ((s.me.q n).fuel) s
  else pumpStores s.cur n false ((s.me.q n).fuel) s

/-- R230, R242: the cause that a queue's next consumer raises. An ABORT of an index queue counts once it holds back the next index.
`elem` is the trapping instruction's element; a denial names the queue's (02 R68). DEDUCED, log 27. -/
def queueCause (x : Hart) (n elem : Nat) : Option TrapInfo :=
  let q := x.q n
  let fault (seq : BitVec 64) : TrapInfo :=
    { code := 0x11, i0 := seq, i1 := BitVec.ofNat 64 n, i2 := BitVec.ofNat 64 elem }
  match q.abort, q.denied with
  | some seq, _ => some (fault seq)
  | none, some t => some t
  | none, none =>
    if q.src = 2 && (x.q (dIq q.desc)).avail false = 0 then (x.q (dIq q.desc)).abort.map fault else none

/-- The flagged die stream that comes first in queue order, with its element outside the slice (R227, R245). -/
def StreamQ.rangeAt (q : StreamQ) : Option (Nat × Nat) :=
  let n := q.dies.length
  let from' := (q.nextAt.map (·.1)).getD 0
  (((List.range n).map (fun k => (from' + k) % n)).find? q.range.contains).map (fun p => (p, q.fpos.getD p 0))

/-- The SCRATCH_RANGE of a queue whose next element lies outside the slice, or the next of its index queue (R227, R242, R245).
DEDUCED, log 27. For an index queue's element, TINFO0 names the queue, and TINFO1 and TINFO3 give the index queue's element.
DESIGN CHOICE, log 58. -/
def rangeCause (x : Hart) (n elem : Nat) : Option TrapInfo :=
  let q := x.q n
  let z := if q.src = 2 then x.q (dIq q.desc) else q
  if q.src = 2 && z.avail false != 0 then none
  else z.rangeAt.map fun (p, i) =>
    { code := 0x0A, i0 := BitVec.ofNat 64 n, i1 := BitVec.ofNat 64 (i % 2 ^ 40 + p * 2 ^ 40)
      i2 := BitVec.ofNat 64 elem, i3 := BitVec.ofInt 64 (spOffset z.desc i) }

/-! ### SOPEN and STRANS (R218 to R221, R233, R242, R244) -/

/-- The conditions of R221 other than those of R218's sub-byte rule: ILLEGAL reason 4 when false. DEDUCED, log 27. -/
def descOk (x : Hart) (n : Nat) (d : BitVec 512) (dies : List Nat) : Bool :=
  let src := dSrc d
  let fmt := dFmt d
  let w := dWidth d
  let mx := fmtIsMx fmt
  let affine := decide (src ≤ 1)
  let reserved := d.extractLsb' 436 12 == 0 && d.extractLsb' 470 10 == 0 && d.extractLsb' 480 32 == 0 &&
    dGroup d != 3 && fmtOk fmt && decide (src ≤ 4) && (src != 1 || dBase d >>> 22 == 0)
  let store := decide (8 ≤ n)
  let dims := (List.range 4).filter (fun k => decide (1 < dN d k))
  -- R242: an SRC 2 queue ignores its counts and strides
  let aligned := mx || decide (w < 16) ||
    (decide ((dBase d).toNat % (w / 8) = 0) && (src == 2 || dims.all (fun k => decide (dStride d k % w = 0))))
  let swz := !dSwz d ||
    (decide ((dBase d).toNat % 1024 = 0) && decide (dRp d % 64 = 0) && decide (dRp d ≠ 0) && !mx)
  let iq := x.q (dIq d)
  let idx := src != 2 ||
    (decide (dIq d < 8) && dIq d != n && iq.isOpen && decide (iq.src ≤ 1) && fmtInt (dFmt iq.desc) && iq.bound.isNone)
  let rbits := dCount d 0 * w
  let gather := src != 4 ||
    (decide (dStride d 1 % 8 = 0) && decide (dStride d 0 = w) && decide (rbits % 128 = 0) && decide (dSpbase d % 16 = 0) &&
     decide (dSpbase d + dN d 1 * (rbits / 8) ≤ 0x400000))
  reserved && !(store && decide (1 < src)) && !(mx && store) && !(mx && !affine) && (src == 2 || decide (dE d < 2 ^ 40)) &&
  (src == 1 || (!dSwz d && dGroup d == 0)) && aligned && swz && !dies.isEmpty && idx && gather

/-- R218: the first dimension whose stride is illegal below a byte. -/
def subByte (d : BitVec 512) : Option Nat :=
  if dSrc d = 2 then none
  else
    let inner := if dTr d then 1 else 0
    (List.range 4).find? (fun k =>
      decide (1 < dN d k) && decide (dStride d k % 8 ≠ 0) && !(k == inner && decide (dStride d k = dWidth d)))

/-- R220: the first element with a byte outside the named bank group, and the offset of that byte. -/
def groupBreach (d : BitVec 512) : Option (Nat × Int) :=
  if dGroup d = 0 then none
  else
    let bad (o : Int) : Bool := decide (o / 64 % 2 ≠ (dGroup d : Int) - 1)
    let byteOf (i : Nat) : Option Int :=
      ((List.range (dBytes d)).map (fun (k : Nat) => spOffset d i + k)).find? bad
    match (List.range (dE d)).find? (fun i => (byteOf i).isSome) with
    | some i => (byteOf i).map (fun o => (i, o))
    | none => none

/-- The writes of a store queue are made; the entry blocks while some are still to come (R238). -/
def drainQ (n : Nat) : M Unit := do
  modify (fun s => pumpStores s.cur n true ((s.me.q n).fuel) s)
  if !(← getQ n).buf.isEmpty then block

/-- A queue is closed; an index queue that it had bound is released (R234, R242). -/
def closeQ (n : Nat) : M Unit :=
  updMeM (fun x =>
    let q := x.q n
    let x := if q.isOpen && q.src = 2 then x.setQ (dIq q.desc) { x.q (dIq q.desc) with bound := none } else x
    x.setQ n {})

/-- Raises the cause of R230 when there is one. -/
def raiseCause (e : Entry) (n elem : Nat) : M Unit := do
  match queueCause (← meM) n elem with
  | some t => raiseAt e elem t
  | none => return ()

/-- The part of SOPEN and STRANS that starts them (R216, R233): the descriptor and the selector are captured and checked. R233 names no
die that reads the descriptor, and CD does. DESIGN CHOICE, log 58. -/
def captureDesc (e : Entry) (n ds : Nat) (tr : Bool) : M (BitVec 512 × Cap) := do
  beginAt e 0
  alignCheck e.opa 64 0
  let lo ← memRead (some 8) e.qsn e.opa 32 .load 0
  let hi ← memRead (some 8) e.qsn (e.opa + 32) 32 .load 0
  let d0 : BitVec 512 := BitVec.ofNat 512 (lo + 2 ^ 256 * hi)
  let d := if tr then d0 ||| (1#512 <<< 408) else d0
  let s ← get
  let sel := s.me.dsel ds
  let dies := s.dies sel
  if (s.me.q n).bound.isSome || !descOk s.me n d dies then illEntry e 4
  match subByte d with
  | some k =>
    raise { code := 0x0C, i0 := BitVec.ofNat 64 n, i1 := BitVec.ofNat 64 k, i3 := BitVec.ofInt 64 (dStride d k) }
  | none => pure ()
  match groupBreach d with
  | some (i, o) =>
    raise { code := 0x0B, i0 := BitVec.ofNat 64 n, i1 := BitVec.ofNat 64 (i % 2 ^ 40), i3 := BitVec.ofInt 64 o }
  | none => pure ()
  let c : Cap := { vl := s.me.vl.toNat, vtype := s.me.vtype, sel := sel, dies := dies }
  updMeM (fun x => x.updEntry e.uid (fun o => { o with desc := some d, cap := some c }))
  return (d, c)

/-- The state of a queue opened on a descriptor (R212, R213, R240). -/
def openQueue (d : BitVec 512) (c : Cap) (qsn : BitVec 16) : StreamQ :=
  let zero := c.dies.map (fun _ => 0)
  let q : StreamQ :=
    { isOpen := true, desc := d, dies := c.dies
      dstep := if c.sel.getLsbD 48 then BitVec.ofNat 64 (dFootprint d) else (c.sel.extractLsb' 8 40).signExtend 64
      dpos := if dSrc d = 4 then List.replicate 8 0 else zero
      fpos := zero, left := dDrun d, qsn := qsn }
  { q with window := q.capacity }

/-- The stream queues that an entry uses. -/
def QOp.queuesUsed : QOp → List Nat
  | .tmul qc qr .. => [qc, qr]
  | .tmulsp qc qr sk .. => [qc, qr, sk]
  | .vqsrc _ _ n _ | .venq n _ | .strm _ n .. => [n]
  | _ => []

/-- SOPEN, and STRANS when `tr` (R233). What it captured when it started stands while it waits for the writes of a store queue
that it closes (R216). A cause that one of these writes brings about is cleared with the queue, and not raised (R230 says both).
DESIGN CHOICE, log 58. -/
def runSopen (e : Entry) (n ds : Nat) (tr : Bool) : M Unit := do
  let (d, c) ← match e.desc, e.cap with
    | some d, some c => pure (d, c)
    | _, _ => captureDesc e n ds tr
  -- the index queue is taken in the order of the entries that use it (08 R296): earlier ones are through with it
  if dSrc d = 2 then
    let x ← meM
    if x.queue.any (fun o => o.open && decide (o.uid < e.uid) && o.op.queuesUsed.contains (dIq d)) then block
  if (← getQ n).isOpen && decide (8 ≤ n) then drainQ n
  closeQ n
  if dSrc d = 2 then modQ (dIq d) (fun z => { z with bound := some n })
  modQ n (fun _ => openQueue d c e.qsn)

/-! ### The other stream instructions (R234 to R244) -/

/-- A bound index queue refuses the entry (R242). -/
def refuseBound (e : Entry) (q : StreamQ) : M Unit := if q.bound.isSome then illEntry e 4 else return ()

/-- SCLOSE (R234). -/
def runSclose (e : Entry) (n : Nat) : M Unit := do
  let q ← getQ n
  if q.isOpen then
    refuseBound e q
    if 8 ≤ n then
      raiseCause e n 0
      drainQ n
      raiseCause e n 0
    closeQ n

/-- Requests of an SRC 3 or 4 queue that have not been served. -/
def StreamQ.outstanding (q : StreamQ) : Nat := (q.reqs.filter (fun r => r.2.data.isNone)).length

/-- SWAIT (R236). A RANGE of the index queue ends the wait as one of the queue's own does. DESIGN CHOICE, log 58. -/
def runSwait (e : Entry) (n : Nat) : M Unit := do
  let q ← getQ n
  if q.isOpen then
    refuseBound e q
    raiseCause e n 0
    background n
    raiseCause e n 0
    let x ← meM
    let q := x.q n
    if 8 ≤ n then
      if q.avail true > e.opa.toNat then block
    else
      let enough := decide (q.avail false ≥ Nat.min e.opa.toNat (x.qRest n))
      let ended := x.qExh n || (rangeCause x n 0).isSome || (decide (3 ≤ q.src) && q.outstanding == 0)
      if !enough && !ended then block

/-- The queue `k` elements further; a load queue drops what it skips. -/
def StreamQ.skip : Nat → StreamQ → StreamQ
  | 0, q => q
  | k + 1, q => StreamQ.skip k q.stepOn

/-- The die streams of a load queue stand at least at the elements not yet taken; buffered elements before them go, a held request
of one is dropped, and a die stream that moved is looked at afresh for R212's range. -/
def StreamQ.dropTaken (q : StreamQ) : StreamQ :=
  let fpos := q.fpos.zipIdx.map (fun (f, p) => Nat.max f (q.dpos.getD p 0))
  let still (key : Nat) : Bool := decide (q.dpos.getD (key % 8) 0 ≤ key / 8)
  { q with
    fpos := fpos
    range := q.range.filter (fun p => fpos.getD p 0 = q.fpos.getD p 0)
    held := q.held.filter (fun r => still r.unit)
    buf := q.buf.filter (fun b => still b.1) }

/-- SSKIP of a load queue (R237): a skipped element of an SRC 2 queue takes its index. DEDUCED, log 27. -/
def skipLoad (x : Hart) (n k : Nat) : Hart :=
  let q := x.q n
  if q.src = 2 then
    let p1 := q.pos + k
    let n1 := Nat.max q.nreqs p1
    let x := x.setQ (dIq q.desc) ((StreamQ.skip (n1 - q.nreqs) (x.q (dIq q.desc))).dropTaken)
    x.setQ n { q with
      pos := p1, nreqs := n1
      reqs := q.reqs.filter (fun r => decide (p1 ≤ r.1))
      held := q.held.filter (fun r => decide (p1 ≤ r.unit))
      buf := q.buf.filter (fun b => decide (p1 ≤ b.1)) }
  else x.setQ n ((StreamQ.skip k q).dropTaken)

/-- SSKIP. -/
def runSskip (e : Entry) (n : Nat) : M Unit := do
  let x ← meM
  let q := x.q n
  if q.isOpen then
    refuseBound e q
    if 3 ≤ q.src then illEntry e 4
    raiseCause e n 0
    let k := Nat.min e.opa.toNat (x.qRest n)
    if 8 ≤ n then modQ n (StreamQ.skip k) else updMeM (fun x => skipLoad x n k)

/-- SDRAIN (R238). -/
def runSdrain (e : Entry) (n : Nat) : M Unit := do
  if (← getQ n).isOpen then
    raiseCause e n 0
    drainQ n
    raiseCause e n 0

/-- SREWIND (R239). -/
def runSrewind (e : Entry) (n : Nat) : M Unit := do
  let q ← getQ n
  if q.isOpen then
    refuseBound e q
    if 2 ≤ q.src then illEntry e 4
    if 8 ≤ n then
      raiseCause e n 0
      drainQ n
      raiseCause e n 0
    modQ n (fun q =>
      let zero := q.dies.map (fun _ => 0)
      { q with pos := 0, dpos := zero, fpos := zero, cur := 0, left := dDrun q.desc, buf := [], stale := []
               held := none, range := [] })

/-- SPREF (R240). -/
def runSpref (e : Entry) (n : Nat) : M Unit :=
  modQ n (fun q =>
    if q.isOpen && q.src != 4 then
      let t := e.opa.toNat
      { q with window := if t = 0 then q.capacity else Nat.min t q.capacity }
    else q)

/-- The value of SAVAIL (R235). -/
def savailWord (x : Hart) (n : Nat) : Nat :=
  ((x.q n).avail (decide (8 ≤ n))) % 2 ^ 32 + (if x.qExh n then 2 ^ 63 else 0)

/-- The status word of SSTAT (R235). -/
def sstatWord (x : Hart) (n : Nat) : Nat :=
  let q := x.q n
  if !q.isOpen then 0
  else
    let b (k : Nat) (v : Bool) : Nat := if v then 2 ^ k else 0
    2 ^ 63 + b 62 (decide (8 ≤ n)) + b 61 (x.qExh n) + b 60 q.held.isSome + b 59 q.abort.isSome +
    b 58 q.denied.isSome + b 57 q.bound.isSome + b 56 (!q.range.isEmpty) + q.src * 2 ^ 53 + dFmt q.desc * 2 ^ 48 +
    (q.dies.map (fun d => 2 ^ d)).sum * 2 ^ 40 + q.pos % 2 ^ 32

/-- Elements of a group read in full, e ascending. -/
def readGroup (c : VCtx) (g : Grp) : List Nat → M (List Nat)
  | [] => return []
  | e :: es => do
    let v ← c.get g e
    let r ← readGroup c g es
    return v :: r

/-- The number of requests that an SRC 3 or 4 queue may have outstanding (R243, R244). -/
def maxRequests : Nat := 65536

/-- SLDX.BG (R243). With ABORT set on its queue it raises ENGINE_FAULT, as SGATHER does, where R230 names the consumers, SWAIT and
SSKIP. DESIGN CHOICE, log 58. -/
def runSldx (e : Entry) (n va md ds : Nat) : M Unit := do
  let c ← vctxM e { vd := 0, va := va, ds := ds }
  let (gs, L) ← c.groups [⟨va, c.fmt, false⟩] .strict
  let q ← getQ n
  if !q.isOpen || q.src ≠ 3 || !fmtInt c.fmt then illEntry e 4
  let k := Nat.min c.vl L
  beginAt e 0
  let idx ← readGroup c (grp gs 0) (List.range k)
  raiseCause e n 0
  if q.outstanding + k > maxRequests then
    background n
    block
  modQ n (fun q =>
    { q with
      nreqs := q.nreqs + k
      reqs := idx.zipIdx.foldl (fun m (v, i) =>
        let j := q.nreqs + i
        smPut m j { addr := dBase q.desc + (BitVec.ofNat 64 v <<< dIsh q.desc), die := q.dies.getD (q.posOf j) 0
                    qsn := e.qsn, slot := 0, data := none }) q.reqs })
  if k ≠ 0 then
    updMeM (fun x => x.setMask md (idx.zipIdx.foldl (fun m (v, i) => setBit m i ((idx.take i).contains v)) (x.mask md)))

/-- SGATHER (R244). -/
def runSgather (e : Entry) (n va ds : Nat) : M Unit := do
  let c ← vctxM e { vd := 0, va := va, ds := ds }
  let (gs, L) ← c.groups [⟨va, c.fmt, false⟩] .strict
  let q ← getQ n
  if !q.isOpen || q.src ≠ 4 || !fmtInt c.fmt then illEntry e 4
  let k := Nat.min c.vl L
  beginAt e 0
  let rows ← readGroup c (grp gs 0) (List.range k)
  raiseCause e n 0
  if q.outstanding + k > maxRequests then
    background n
    block
  modQ n (fun q => rows.zipIdx.foldl (fun q (r, i) =>
    let die := ((c.place (grp gs 0) i).map (·.die)).getD 0
    let kd := q.dpos.getD die 0
    { q with
      nreqs := q.nreqs + 1
      dpos := q.dpos.set die (kd + 1)
      reqs := smPut q.reqs q.nreqs
        { addr := dBase q.desc + BitVec.ofInt 64 ((r : Int) * dStride q.desc 1 / 8), die := die, qsn := e.qsn, slot := kd
          data := none } }) q)

/-- STRM. -/
def runStrm (e : Entry) (op : StrmOp) (n ra rb ds : Nat) : M Unit :=
  match op with
  | .sopen => runSopen e n ds false
  | .strans => runSopen e n ds true
  | .sclose => runSclose e n
  | .savail => do
    background n
    setResult e (savailWord (← meM) n)
  | .sstat => do
    background n
    setResult e (sstatWord (← meM) n)
  | .swait => runSwait e n
  | .sskip => runSskip e n
  | .sdrain => runSdrain e n
  | .srewind => runSrewind e n
  | .spref => runSpref e n
  | .sgather => runSgather e n ra ds
  | .sldxBg => runSldx e n ra rb ds

/-! ### Taking elements (R225, R226) -/

/-- The die that supplies the next element of a queue. -/
def StreamQ.headDie (q : StreamQ) : Option Nat :=
  match q.src with
  | 4 => (q.slotOf q.pos).map (·.1)
  | 2 | 3 => q.dies[q.posOf q.pos]?
  | _ => q.nextAt.bind (fun p => q.dies[p.1]?)

/-- The granule that the next take of a queue waits on, if it waits for a fill: the first of its element's that is empty. -/
def State.emptyHead (s : State) (q : StreamQ) : Option Nat :=
  let core := coreOf s.cur
  match q.nextKey.bind q.spOf with
  | some (die, off) =>
    ((granules off (dBytes q.desc)).find? (fun g => !s.isFull core die g)).map (fun g => spKey core die g / 16)
  | none => none

/-- The take of an entry waits, as a consuming read for a fill of its granule (02 R86). -/
def awaitHead {α : Type} (e : Entry) (n : Nat) (consume : Bool) : M α := do
  let s ← get
  let g := if consume then s.emptyHead (s.me.q n) else none
  set (s.updMe (fun x => x.updEntry e.uid (fun o => { o with waitsOn := g })))
  block

/-- Whether a consuming read that issued before an entry of the running hart waits for a fill of one of some granules of its core
(02 R86). -/
def State.olderReader (s : State) (e : Entry) (die : Nat) (gs : List Nat) : Bool :=
  let core := coreOf s.cur
  (List.range 4).any fun k =>
    let h := 4 * core + k
    h != s.cur && (s.hart h).run == .running && (s.hart h).queue.any (fun o =>
      o.open && decide (o.issued < e.issued) && o.waitsOn.any (fun g => gs.any (fun a => spKey core die a / 16 == g)))

/-- What a consumer of a queue raises at element `i` when the queue delivers no more (R227, R230). -/
def noDelivery (x : Hart) (n i : Nat) : Option TrapInfo :=
  match queueCause x n i with
  | some t => some t
  | none => if (x.q n).avail false = 0 then rangeCause x n i else none

/-- The value of the next element for element `i` of an entry, `consume` telling whether its take will be consuming: fetched again
when a granule that it touches was emptied since the fetch (R226). Blocks when it is not there, or when an older consuming read
waits for the fill (02 R86). DEDUCED, log 27. A VQSRC that starts past element 0, for which R197 trims no VL, so waits for ever on a queue that can
deliver no more. DESIGN CHOICE, log 58. -/
def headValue (e : Entry) (n i : Nat) (consume : Bool) : M Nat := do
  let q ← getQ n
  if q.nextKey.any (fun key => (smFind q.buf key).isNone) then background n
  let q ← getQ n
  match q.nextKey with
  | none => block
  | some key =>
    match smFind q.buf key with
    | none =>
      match noDelivery (← meM) n i with
      | some t => raise t
      | none => awaitHead e n consume
    | some v =>
      match (if consume then q.spOf key else none) with
      | none => return v.toNat
      | some (die, off) =>
        let s ← get
        let core := coreOf s.cur
        let gs := granules off (dBytes q.desc)
        if s.olderReader e die gs then block
        if (q.marks key gs).any (fun m => q.stale.contains m) then
          if s.allFull core die off (dBytes q.desc) then
            let v := q.spElem key (s.spRead core die off (dBytes q.desc))
            modQ n (fun q => { q with
              buf := smPut q.buf key (BitVec.ofNat 272 v), stale := q.stale.filter (fun m => m / 4 ≠ key) })
            return v
          else awaitHead e n consume
        else return v.toNat

/-- The next element is taken (R225); a consuming take empties its granules. -/
def commitTake (n : Nat) (consume : Bool) : M Unit := do
  let q ← getQ n
  match q.nextKey with
  | none => return ()
  | some key =>
    if consume then
      match q.spOf key with
      | some (die, _) =>
        modify (fun s => (q.emptied key).foldl (fun s g => s.emptyGranule (coreOf s.cur) die g) s)
      | none => pure ()
    modQ n (fun q =>
      let q := { q.stepOn with buf := smErase q.buf key, stale := q.stale.filter (fun m => m / 4 ≠ key) }
      -- a request is forgotten once its element, or the last element of its row, is taken
      if q.src = 2 || q.src = 3 then { q with reqs := smErase q.reqs (q.pos - 1) }
      else if q.src = 4 && decide (q.pos % dCount q.desc 0 = 0) then
        { q with reqs := smErase q.reqs (q.pos / dCount q.desc 0 - 1) }
      else q)

/-- The operation of VQSRC as that of VINT or VFP. -/
def QsrcOp.intOp : QsrcOp → Option IntOp
  | .add => some .add | .sub => some .sub | .mul => some .mul | .and => some .and | .or => some .or | .xor => some .xor
  | _ => none

def QsrcOp.fpOp : QsrcOp → Option FpOp
  | .fadd => some .add | .fsub => some .sub | .fmul => some .mul | .fma => some .fma
  | _ => none

/-- The checks of a VQSRC that starts at element `p0`, and at 0 the trim of R197: the wait for an available element, then
VL := Min(VL, QAVAIL). -/
def startTakes (e : Entry) (n p0 : Nat) (consume : Bool) : M Unit := do
  let x ← meM
  if !(x.q n).isOpen then
    if p0 = 0 then updMeM (fun x => { x with vl := 0 })
  else if x.vl ≠ 0 then
    background n
    raiseCause e n p0
    let x ← meM
    if (x.q n).avail false = 0 && x.qRest n ≠ 0 then
      match rangeCause x n p0 with
      | some t => raise t
      | none => if p0 = 0 then awaitHead e n consume
    if p0 = 0 then
      updMeM (fun x => { x with vl := BitVec.ofNat 15 (Nat.min x.vl.toNat ((x.q n).avail false)) })

/-- VQSRC (R197). Under SR its functions 4 to 7 take an LFSR step, as the VFP functions that R197 names do; R174's list leaves
VQSRC out. DEDUCED, log 25 and 27. -/
def runVqsrc (e : Entry) (op : QsrcOp) (peek : Bool) (n : Nat) (f : VF) : M Unit := do
  let c ← vctxM e f
  let q := (← meM).q n
  let ok := match op.intOp, op.fpOp with
    | some _, _ => fmtInt c.fmt
    | none, some _ => (fmtFp c.fmt).isSome
    | none, none => !fmtIsMx c.fmt && fmtOk c.fmt
  if !ok || (q.isOpen && dFmt q.desc ≠ c.fmt) then c.ill 4
  let (gs, L) ← c.groups ([⟨f.vd, c.fmt, true⟩] ++ (if op == .mv then [] else [⟨f.va, c.fmt, false⟩])) .elem
  if q.bound.isSome then c.ill 4
  let p0 ← startIndex e
  let consume := q.src == 4 || (q.src == 1 && !peek)
  if !e.began then
    startTakes e n p0 consume
    updMeM (fun x => x.updEntry e.uid (fun e => { e with began := true, waitsOn := none }))
  let x ← meM
  let c := { c with vl := x.vl.toNat }
  let d := grp gs 0
  let cnt := Nat.min c.vl L
  if c.vl ≠ 0 then
    beginAt e p0
    forRange p0 (cnt - p0) (fun i => do
      let head ← headValue e n i consume
      if c.active i then
        match (← getQ n).headDie, c.place d i with
        | some a, some b => crossDies e.qsn a b.die
        | _, _ => pure ()
        let r : ElemRes ← match op.intOp, op.fpOp, fmtFp c.fmt with
          | some o, _, _ => do
            let a ← c.get (grp gs 1) i
            pure { val := intFn o (fmtSew c.fmt) a head }
          | none, some o, some ff => do
            let a ← c.get (grp gs 1) i
            fpElem c o ff d i a head false
          | _, _, _ => pure { val := head }
        c.put d i r.val
        record e r.fl i
        setExc c i (excBit r.fl)
      else
        if c.mp then c.put d i 0
        setExc c i false
      commitTake n consume
      updMeM (fun x => x.updEntry e.uid (fun o => { o with waitsOn := none }))
      reach (i + 1))
    tailFrom c d cnt L
  vstart0

/-- The active elements of VENQ enqueued in order (R228). -/
def enqueue (c : VCtx) (g : Grp) (n : Nat) (i : Nat) : M Unit := do
  let q ← getQ n
  match q.nextAt with
  | none => return ()
  | some (p, k) =>
    if q.src = 1 && !inSlice q.desc k then
      raise { code := 0x0A, i0 := BitVec.ofNat 64 n, i1 := BitVec.ofNat 64 (k % 2 ^ 40 + p * 2 ^ 40)
              i2 := BitVec.ofNat 64 i, i3 := BitVec.ofInt 64 (spOffset q.desc k) }
    if q.capacity ≤ q.queuedOf p then background n
    let q ← getQ n
    if q.capacity ≤ q.queuedOf p then block
    let v ← c.get g i
    match c.place g i with
    | some a => crossDies c.ent.qsn a.die (q.dies.getD p 0)
    | none => pure ()
    modQ n (fun q =>
      let w : BitVec 272 := BitVec.ofNat 272 v ||| ((c.ent.qsn.setWidth 272) <<< 256)
      { q.stepOn with buf := smPut q.buf (elemKey p k) w })

/-- VENQ (R198, R228). -/
def runVenq (e : Entry) (n : Nat) (f : VF) : M Unit := do
  let c ← vctxM e f
  let q := (← meM).q n
  if q.isOpen && dFmt q.desc ≠ c.fmt then c.ill 4
  let (gs, L) ← c.groups [⟨f.va, c.fmt, false⟩] .elem
  let p0 ← startIndex e
  let cnt := Nat.min c.vl L
  let act := (c.actives cnt).filter (fun i => decide (p0 ≤ i))
  if !q.isOpen || act.length > q.restAffine then c.ill 4
  raiseCause e n p0
  if c.vl ≠ 0 then
    beginAt e p0
    forRange p0 (cnt - p0) (fun i => do
      if c.active i then enqueue c (grp gs 0) n i
      reach (i + 1))
    background n
  vstart0

end Sys2Proof.Machine
end

