-- ==== Sys2Proof/Machine/LinkRun.lean ====
section
/-!
DEFINITION. What the link entries do when they run (10 R346 to R358), and the replays that end in a group's failure (R345).
-/

namespace Sys2Proof.Machine

/-- A link fault (R358): the entry is complete. -/
def linkFault {α : Type} (status operand info3 : Nat) : M α :=
  raiseEnd { code := 0x11, i0 := BitVec.ofNat 64 (2 ^ 61 + status), i1 := BitVec.ofNat 64 operand
             i3 := BitVec.ofNat 64 info3 }

/-- The link named by an operand (R347). -/
def linkNamed (e : Entry) (x : Word) : M Nat := do
  if x.toNat > 13 then illEntry e 4
  return x.toNat

def getLink (l : Nat) : M Link := do return (← get).link l

def modLink (l : Nat) (f : Link → Link) : M Unit := modify (fun s => s.setLink l (f (s.link l)))

/-- Whether the entry has already begun its effect on the link. -/
def hasBegun (e : Entry) : M Bool := do
  return (← meM).queue.any (fun o => o.uid == e.uid && o.began)

/-- Marks that it has. -/
def markBegun (e : Entry) : M Unit := updMeM (fun x => x.updEntry e.uid (fun o => { o with began := true }))

/-- Who a hart is to the link controllers (R339). -/
def linkUser (x : Hart) : LinkUser := if x.super then .supervisor else .tenant x.tenant

/-- LTURN (R348). DEDUCED, log 32. -/
def runLturn (e : Entry) : M Unit := do
  let l ← linkNamed e e.opa
  if e.opb.toNat > 8 then illEntry e 4
  modify (fun s => s.beginDue l)
  let s ← get
  let x := s.me
  let k := (s.link l).accept (linkUser x)
  let w := if x.super then 256 else (smGet 0 (s.tenant x.tenant).weights l).toNat
  let k :=
    if s.linkDead l || k.state == 4 then k.ends k.serial (outcome 6 0 0)
    else if w = 0 then k.ends k.serial (outcome 5 0 0)
    else k.offer { serial := k.serial, n := e.opb.toNat, weight := w, who := linkUser x }
  modLink l (fun _ => k)
  setResult e (k.serial * 2 ^ 16 + l)

/-- LWAIT (R349). -/
def runLwait (e : Entry) : M Unit := do
  let t := e.opa.toNat
  if t ≥ 2 ^ 32 || t / 16 % 4096 ≠ 0 || t % 16 > 13 then illEntry e 4
  let x ← meM
  let k ← getLink (t % 16)
  match k.recent.find? (fun r => r.1 = t / 2 ^ 16) with
  | some (_, who, o) =>
    if who ≠ linkUser x then setResult e 7
    else match o with
      | some w => setResult e w.toNat
      | none =>
        beginAt e 0
        block
  | none => setResult e 7

/-- The code of a group's width (R351, R352): off while it is out of service. DEDUCED, log 33. -/
def LGroup.widthCode (g : LGroup) : Nat := if g.inService then g.width else 2

/-- The link word (R351). DEDUCED, log 32. -/
def linkWord (k : Link) : Nat :=
  let sum (f : Nat → Nat) : Nat := (List.range 8).foldl (fun a g => a + f g) 0
  k.state * 2 ^ 61 + (if k.turn.isSome then 2 ^ 60 else 0) + k.nab * 2 ^ 56 +
  ((k.winner.map (·.n)).getD 15) * 2 ^ 52 + k.serial * 2 ^ 32 +
  sum (fun g => (k.group g).widthCode * 2 ^ (16 + 2 * g)) +
  sum (fun g => if (k.group g).inService then 2 ^ (8 + g) else 0) +
  sum (fun g => if (k.group g).inService && (k.group g).dirB then 2 ^ g else 0)

/-- The group word (R352). A group out of service has no direction (R335). DEDUCED, log 32. -/
def groupWord (g : LGroup) (now : Nat) : Nat :=
  g.widthCode * 2 ^ 62 + (if g.inService && g.dirB then 2 ^ 61 else 0) + (if g.untrained then 2 ^ 60 else 0) +
  g.spused.toNat * 2 ^ 56 + g.spbad.toNat * 2 ^ 52 + Nat.min (g.dwellEnd - now) 4095 * 2 ^ 32 + g.retry.toNat

/-- LSTAT (R350 to R353). -/
def runLstat (e : Entry) : M Unit := do
  let v := e.opa.toNat
  let sel := v / 2 ^ 8 % 8
  if v % 16 > 13 || v / 16 % 16 ≠ 0 || sel > 4 || v ≥ 2 ^ 14 then illEntry e 4
  let k ← getLink (v % 16)
  let g := k.group (v / 2 ^ 11 % 8)
  let s ← get
  if sel = 0 then setResult e (linkWord k)
  else if sel = 1 then setResult e (groupWord g s.cycle)
  else if sel = 2 then setResult e g.laneErr.toNat
  else setResult e (s.permitWord (v % 16) (sel == 4))

/-- LPAUSE (R354). DEDUCED, log 32. -/
def runLpause (e : Entry) : M Unit := do
  let l ← linkNamed e e.opd
  let k ← getLink l
  if k.state = 4 then linkFault 1 e.opd.toNat 4
  let begun ← hasBegun e
  if k.state = 2 || (begun && k.state == 0) then return ()
  beginAt e 0
  if k.state = 0 then
    -- a winner whose turn could begin is fixed before the pause (R339)
    modify (fun s => s.beginDue l)
    modLink l (fun k => { k with state := 1 })
  -- a link that LRESUME of another hart makes ACTIVE again before this entry runs has been PAUSED
  if k.state ≤ 1 then markBegun e
  block

/-- LRESUME (R355). DEDUCED, log 32. -/
def runLresume (e : Entry) : M Unit := do
  let l ← linkNamed e e.opd
  let k ← getLink l
  if k.state = 0 then return ()
  if k.state = 1 then
    beginAt e 0
    block
  if k.state ≠ 2 || k.ins.isEmpty then linkFault 1 e.opd.toNat k.state
  modify (resumeLink l)

/-- LREMAP (R356). DEDUCED, log 33. -/
def runLremap (e : Entry) : M Unit := do
  let l ← linkNamed e e.opd
  let w := e.opa
  let lanes := ((List.range 4).filter (fun i => w.getLsbD (8 + i))).map (fun i => (w.extractLsb' (12 + 6 * i) 6).toNat)
  if w.extractLsb' 3 5 ≠ 0 || w.extractLsb' 36 28 ≠ 0 || lanes.eraseDups != lanes then illEntry e 4
  let k ← getLink l
  if k.state ≠ 2 then linkFault 1 e.opd.toNat k.state
  let g := (w.extractLsb' 0 3).toNat
  let x := k.group g
  let valid := w.extractLsb' 8 4
  if valid &&& x.spbad ≠ 0 then linkFault 3 e.opd.toNat x.spbad.toNat
  modLink l (fun k => k.setGroup g { x with remap := w, spused := valid, untrained := true })

/-- LTRAIN (R357). DEDUCED, log 33. -/
def runLtrain (e : Entry) : M Unit := do
  let l ← linkNamed e e.opd
  let w := e.opa
  if w.extractLsb' 0 8 = 0 || w.extractLsb' 8 2 = 3 || w.extractLsb' 10 54 ≠ 0 then illEntry e 4
  let s ← get
  let k := s.link l
  let me := s.cur * 2 ^ 32 + e.uid
  if k.state = 3 && k.trainer == me then
    beginAt e 0
    block
  match smFind k.trained me with
  | some lost =>
    modLink l (fun k => { k with trained := smErase k.trained me })
    if lost ≠ 0 then linkFault 2 e.opd.toNat lost.toNat
  | none =>
    if k.state ≠ 2 then linkFault 1 e.opd.toNat k.state
    if w.extractLsb' 8 2 = 2 then
      modLink l (fun k => ((List.range 8).filter (fun g => w.getLsbD g)).foldl
        (fun k g => k.setGroup g { k.group g with width := 2 }) k)
    else
      modLink l (fun k => { k with state := 3, trainWord := w, trainer := me })
      beginAt e 0
      block

/-- LINK. -/
def runLink (e : Entry) (op : LinkOp) : M Unit :=
  match op with
  | .lturn => runLturn e
  | .lstat => runLstat e
  | .lpause => runLpause e
  | .lresume => runLresume e
  | .lremap => runLremap e
  | .ltrain => runLtrain e
  | .lwait => runLwait e

/-- The unacknowledged flit of a failed group waits where no group of its direction takes it (R345). Its class is a free value.
UNVERIFIED, log 21. -/
def resend (l : Nat) (toB : Bool) (s : State) : State :=
  if (s.link l).carries toB || !(s.flitsOn l toB).isEmpty then s
  else
    let (n, s) := s.nextFree
    let cls := [FlitClass.mreq, .mrsp, .eng, .ctl, .swp].getD ((Config.freeByte n l).toNat % 5) .mreq
    s.noteFlit ({ owner := resentFlit l toB, payer := none, cls := cls }, l, toB)

/-- FLIT_REPLAY (R345): a flit of a group fails its CRC with an error at a data position and is replayed; `again` says that
it is the flit whose replay failed last. RETRY counts the replays. A flit whose 16 replays all failed is replayed no more: the
group leaves service, and where no other group of its direction takes the flit, it waits there for the group that R340 supplies; with no
group left the link is DOWN, a fatal error. DEDUCED, log 32. -/
def flitReplay (l g lane : Nat) (again : Bool) (s : State) : State :=
  let k := s.link l
  let x := k.group g
  if !x.inService || decide (14 ≤ l) || decide (8 ≤ g) || s.linkDead l then s
  else
    let n := (if again then x.fails else 0) + 1
    let x := { x with
      retry := if 16 < n || x.retry == 0xFFFFFFFF then x.retry else x.retry + 1
      laneErr := x.laneErr ||| (1#64 <<< (lane % 64))
      fails := n }
    if n ≤ 16 then s.setLink l (k.setGroup g x)
    else
      let s := s.beginDue l
      let k := (s.link l).setGroup g { x with width := 2, fails := 0 }
      let k := match k.turn with
        | some t => { k with turn := some { t with groups := t.groups.filter (· ≠ g) } }
        | none => k
      if k.ins.isEmpty then
        let k := match k.winner with
          | some w => { k.ends w.serial (outcome 6 0 0) with winner := none }
          | none => k
        (s.setLink l { k with state := 4, turn := none }).fatalFreeze 1 (linkA l)
      else resend l (!x.dirB) (s.setLink l k)

end Sys2Proof.Machine
end

