-- ==== Sys2Proof/Machine/LoadStore.lean ====
section
/-!
DEFINITION. Loads and stores (04 R144) and atomics (R145).
-/

namespace Sys2Proof.Machine

/-! ### Loads and stores -/

/-- The agent-side check that a scalar access may issue: registers ready and no FENCE holding its kinds. -/
def memInstr (regs : List Nat) (kinds : BitVec 5) (m : M Unit) (s : State) : Out :=
  if s.fenced kinds then .next s else scalarRun regs m s

/-- A load of `n` bytes at s[ra] + off (R144); `ext` extends the bytes to 64 bits. -/
def loadOp (rd ra : BitVec 5) (off : BitVec 13) (n : Nat) (ext : Nat → Word) (s : State) : Out :=
  memInstr [rd.toNat, ra.toNat] 0b00001 (do
    let x ← meM
    let va := x.s ra.toNat + off.signExtend 64
    alignCheck va n 0
    let v ← memRead none 0 va n .load 0
    updMeM (fun x => x.setS rd.toNat (ext v))) s

/-- A store of the low `n` bytes of s[rd] at s[ra] + off (R144). -/
def storeOp (rd ra : BitVec 5) (off : BitVec 13) (n : Nat) (s : State) : Out :=
  memInstr [rd.toNat, ra.toNat] 0b00010 (do
    let x ← meM
    let va := x.s ra.toNat + off.signExtend 64
    alignCheck va n 0
    memWrite none 0 va n ((x.s rd.toNat).toNat % 2 ^ (8 * n)) .store 0) s

def signBytes (n : Nat) (v : Nat) : Word := (BitVec.ofNat (8 * n) v).signExtend 64
def zeroBytes (v : Nat) : Word := BitVec.ofNat 64 v

/-! ### Atomics -/

/-- The width of an atomic (R92): 4 bytes when W = 0, 8 when W = 1. -/
def rmwBytes (w : BitVec 1) : Nat := if w = 0 then 4 else 8

/-- The value of `n` bytes as a signed number. -/
def signedOf (n v : Nat) : Int := if v ≥ 2 ^ (8 * n - 1) then (v : Int) - 2 ^ (8 * n) else v

/-- One indivisible read-modify-write (R145): `f` gives the new value from the old one, the data register and the old
destination, or none when nothing is written. It is translated as a write whatever it does (02 R58). -/
def rmwBody (rd ra rb : BitVec 5) (n : Nat) (f : Nat → Nat → Nat → Option Nat) (writeRd : Bool) : M Unit := do
  let x ← meM
  let va := x.s ra.toNat
  alignCheck va n 0
  let s ← get
  let wrap := 2 ^ (8 * n)
  let b := (x.s rb.toNat).toNat % wrap
  let d := (x.s rd.toNat).toNat % wrap
  if s.cur = supvHart then
    let old ← memRead none 0 va n .atomic 0
    match f old b d with
    | some v => memWrite none 0 va n (v % wrap) .atomic 0
    | none => pure ()
    if writeRd then updMeM (fun x => x.setS rd.toNat (signBytes n old))
  else
    let pa ← writeCheck none 0 va n .atomic 0
    let old := (← get).bytesAt pa n
    match f old b d with
    | some v =>
      watchCheck none 0 va pa n 0
      modify (fun s => s.setBytes pa n (v % wrap))
    | none => passUnused none 0 0
    if writeRd then updMeM (fun x => x.setS rd.toNat (signBytes n old))

/-- An atomic of R145 other than LDA. -/
def rmwOp (rd ra rb : BitVec 5) (w : BitVec 1) (f : Nat → Nat → Nat → Nat → Option Nat) (writeRd : Bool) (s : State) : Out :=
  memInstr [rd.toNat, ra.toNat, rb.toNat] 0b00011 (rmwBody rd ra rb (rmwBytes w) (f (rmwBytes w)) writeRd) s

def rmwSwap : Nat → Nat → Nat → Nat → Option Nat := fun _ _ b _ => some b
def rmwAdd : Nat → Nat → Nat → Nat → Option Nat := fun _ o b _ => some (o + b)
def rmwAnd : Nat → Nat → Nat → Nat → Option Nat := fun _ o b _ => some (Nat.land o b)
def rmwOr : Nat → Nat → Nat → Nat → Option Nat := fun _ o b _ => some (Nat.lor o b)
def rmwXor : Nat → Nat → Nat → Nat → Option Nat := fun _ o b _ => some (Nat.xor o b)
def rmwMin : Nat → Nat → Nat → Nat → Option Nat := fun n o b _ => some (if signedOf n o < signedOf n b then o else b)
def rmwMax : Nat → Nat → Nat → Nat → Option Nat := fun n o b _ => some (if signedOf n o < signedOf n b then b else o)
def rmwMinu : Nat → Nat → Nat → Nat → Option Nat := fun _ o b _ => some (Nat.min o b)
def rmwMaxu : Nat → Nat → Nat → Nat → Option Nat := fun _ o b _ => some (Nat.max o b)
/-- CAS: the new value is written when the old one equals the expected value in s[rd]; a failed compare only reads. -/
def rmwCas : Nat → Nat → Nat → Nat → Option Nat := fun _ o b d => if o = d then some b else none

/-- LDA (R145): an atomic load, checked as a read and reported as LOAD_PAGE. Its fault carries the kind of a load, 1, and it reads a
host page as a load does, without ATOMIC_ATTR. DESIGN CHOICE, log 56. -/
def ldaOp (rd ra : BitVec 5) (w : BitVec 1) (s : State) : Out :=
  memInstr [rd.toNat, ra.toNat] 0b00001 (do
    let x ← meM
    let va := x.s ra.toNat
    let n := rmwBytes w
    alignCheck va n 0
    let v ← memRead none 0 va n .load 0
    updMeM (fun x => x.setS rd.toNat (signBytes n v))) s

/-! ### The instructions -/

/-- LDB (R144). -/
def execLdb (rd : BitVec 5) (ra : BitVec 5) (off : BitVec 13) (s : State) : Out :=
  loadOp rd ra off 1 (signBytes 1) s

/-- LDH (R144). -/
def execLdh (rd : BitVec 5) (ra : BitVec 5) (off : BitVec 13) (s : State) : Out :=
  loadOp rd ra off 2 (signBytes 2) s

/-- LDW (R144). -/
def execLdw (rd : BitVec 5) (ra : BitVec 5) (off : BitVec 13) (s : State) : Out :=
  loadOp rd ra off 4 (signBytes 4) s

/-- LDD (R144). -/
def execLdd (rd : BitVec 5) (ra : BitVec 5) (off : BitVec 13) (s : State) : Out :=
  loadOp rd ra off 8 (signBytes 8) s

/-- LDBU (R144). -/
def execLdbu (rd : BitVec 5) (ra : BitVec 5) (off : BitVec 13) (s : State) : Out :=
  loadOp rd ra off 1 (zeroBytes) s

/-- LDHU (R144). -/
def execLdhu (rd : BitVec 5) (ra : BitVec 5) (off : BitVec 13) (s : State) : Out :=
  loadOp rd ra off 2 (zeroBytes) s

/-- LDWU (R144). -/
def execLdwu (rd : BitVec 5) (ra : BitVec 5) (off : BitVec 13) (s : State) : Out :=
  loadOp rd ra off 4 (zeroBytes) s

/-- STB (R144). -/
def execStb (rd : BitVec 5) (ra : BitVec 5) (off : BitVec 13) (s : State) : Out :=
  storeOp rd ra off 1 s

/-- STH (R144). -/
def execSth (rd : BitVec 5) (ra : BitVec 5) (off : BitVec 13) (s : State) : Out :=
  storeOp rd ra off 2 s

/-- STW (R144). -/
def execStw (rd : BitVec 5) (ra : BitVec 5) (off : BitVec 13) (s : State) : Out :=
  storeOp rd ra off 4 s

/-- STD (R144). -/
def execStd (rd : BitVec 5) (ra : BitVec 5) (off : BitVec 13) (s : State) : Out :=
  storeOp rd ra off 8 s

/-- RMSWAP (R145). -/
def execRmswap (rd : BitVec 5) (ra : BitVec 5) (rb : BitVec 5) (_sc : BitVec 2) (_aq : BitVec 1) (_rl : BitVec 1) (w : BitVec 1) (s : State) : Out :=
  rmwOp rd ra rb w rmwSwap true s

/-- RMADD (R145). -/
def execRmadd (rd : BitVec 5) (ra : BitVec 5) (rb : BitVec 5) (_sc : BitVec 2) (_aq : BitVec 1) (_rl : BitVec 1) (w : BitVec 1) (s : State) : Out :=
  rmwOp rd ra rb w rmwAdd true s

/-- RMAND (R145). -/
def execRmand (rd : BitVec 5) (ra : BitVec 5) (rb : BitVec 5) (_sc : BitVec 2) (_aq : BitVec 1) (_rl : BitVec 1) (w : BitVec 1) (s : State) : Out :=
  rmwOp rd ra rb w rmwAnd true s

/-- RMOR (R145). -/
def execRmor (rd : BitVec 5) (ra : BitVec 5) (rb : BitVec 5) (_sc : BitVec 2) (_aq : BitVec 1) (_rl : BitVec 1) (w : BitVec 1) (s : State) : Out :=
  rmwOp rd ra rb w rmwOr true s

/-- RMXOR (R145). -/
def execRmxor (rd : BitVec 5) (ra : BitVec 5) (rb : BitVec 5) (_sc : BitVec 2) (_aq : BitVec 1) (_rl : BitVec 1) (w : BitVec 1) (s : State) : Out :=
  rmwOp rd ra rb w rmwXor true s

/-- RMMIN (R145). -/
def execRmmin (rd : BitVec 5) (ra : BitVec 5) (rb : BitVec 5) (_sc : BitVec 2) (_aq : BitVec 1) (_rl : BitVec 1) (w : BitVec 1) (s : State) : Out :=
  rmwOp rd ra rb w rmwMin true s

/-- RMMAX (R145). -/
def execRmmax (rd : BitVec 5) (ra : BitVec 5) (rb : BitVec 5) (_sc : BitVec 2) (_aq : BitVec 1) (_rl : BitVec 1) (w : BitVec 1) (s : State) : Out :=
  rmwOp rd ra rb w rmwMax true s

/-- RMMINU (R145). -/
def execRmminu (rd : BitVec 5) (ra : BitVec 5) (rb : BitVec 5) (_sc : BitVec 2) (_aq : BitVec 1) (_rl : BitVec 1) (w : BitVec 1) (s : State) : Out :=
  rmwOp rd ra rb w rmwMinu true s

/-- RMMAXU (R145). -/
def execRmmaxu (rd : BitVec 5) (ra : BitVec 5) (rb : BitVec 5) (_sc : BitVec 2) (_aq : BitVec 1) (_rl : BitVec 1) (w : BitVec 1) (s : State) : Out :=
  rmwOp rd ra rb w rmwMaxu true s

/-- CAS (R145). -/
def execCas (rd : BitVec 5) (ra : BitVec 5) (rb : BitVec 5) (_sc : BitVec 2) (_aq : BitVec 1) (_rl : BitVec 1) (w : BitVec 1) (s : State) : Out :=
  rmwOp rd ra rb w rmwCas true s

/-- LDA (R145). -/
def execLda (rd : BitVec 5) (ra : BitVec 5) (_sc : BitVec 2) (w : BitVec 1) (s : State) : Out :=
  ldaOp rd ra w s

/-- STL (R145). -/
def execStl (ra : BitVec 5) (rb : BitVec 5) (_sc : BitVec 2) (w : BitVec 1) (s : State) : Out :=
  rmwOp 0 ra rb w rmwSwap false s

end Sys2Proof.Machine
end

