-- ==== Sys2Proof/Machine/Beacon.lean ====
section
/-!
DEFINITION. The Beacon fabric (11 R359 to R373): ports, partitions and routing, what a packet does at its target and a
response at its source, and the fabric entries.
-/

namespace Sys2Proof.Machine

/-! ### Partitions (R361) -/

def Partition.gpn (p : Partition) : BitVec 12 := p.desc.extractLsb' 0 12
def Partition.rank (p : Partition) : Nat := (p.desc.extractLsb' 16 12).toNat
def Partition.gsize (p : Partition) : Nat := (p.desc.extractLsb' 32 13).toNat
def Partition.tenant (p : Partition) : Nat := (p.desc.extractLsb' 48 4).toNat
def Partition.cbase (p : Partition) : Word := p.desc.extractLsb' 64 64
def Partition.pmap (p : Partition) (k : Nat) : BitVec 8 := if k < 16 then p.desc.extractLsb' (128 + 8 * k) 8 else 0
def Partition.quota (p : Partition) : Nat := (p.desc.extractLsb' 256 32).toNat

/-- The physical port of a valid logical port. -/
def Partition.phys (p : Partition) (k : Nat) : Option Nat :=
  if (p.pmap k).getLsbD 7 then some ((p.pmap k).extractLsb' 0 4).toNat else none

/-- The logical port that maps to a physical port. -/
def Partition.lport (p : Partition) (phys : Nat) : Option Nat := (List.range 16).find? (fun k => p.phys k == some phys)

/-- The valid logical ports, ascending. -/
def Partition.lports (p : Partition) : List Nat := (List.range 16).filter (fun k => (p.phys k).isSome)

/-- The route entry of a destination rank (R361, R362): 16 is local delivery; none when it is not valid. -/
def Partition.routeTo (p : Partition) (dst : Nat) : Option Nat :=
  if dst = p.rank then some 16
  else
    let b := p.routes.getD dst 0
    if dst < p.gsize && b.getLsbD 7 then some (b.extractLsb' 0 5).toNat else none

def State.part (s : State) (t : Nat) : Option Partition := smFind s.parts t

def State.setPart (s : State) (t : Nat) (p : Partition) : State := { s with parts := smPut s.parts t p }

def State.updPart (s : State) (t : Nat) (f : Partition → Partition) : State :=
  match s.part t with
  | some p => s.setPart t (f p)
  | none => s

/-- The tenant whose partition has a number and maps a valid logical port to a physical port (R362). -/
def State.partOn (s : State) (gpn : BitVec 12) (phys : Nat) : Option (Nat × Partition × Nat) :=
  s.parts.findSome? (fun (t, p) => if p.gpn = gpn then (p.lport phys).map (fun k => (t, p, k)) else none)

/-- The bytes of the router's buffer that a packet takes up: those of its record (R378), so that the records of a full buffer keep the
bound of the save section. DEDUCED, log 35. -/
def pktSize (k : Packet) : Nat := (48 + k.plen.toNat + 15) / 16 * 16

/-- The payload, as many bytes as PLEN says. -/
def pktData (k : Packet) : List (BitVec 8) := k.payload.take k.plen.toNat

/-- BELL and RBELL are markers (R360). -/
def pktMarker (k : Packet) : Bool := k.typ == 14 || k.typ == 15

/-- The bytes of a partition's job packets in the router. -/
def Partition.used (p : Partition) : Nat := (p.out.map (fun q => (q.2.map (fun e => pktSize e.2)).sum)).sum

/-- The bytes of buffer that a partition has left (R361, R362): of its QUOTA, and while it resumes of twice that and the late section
(R379). -/
def Partition.room (p : Partition) : Nat := (if p.state = 4 then 2 * p.quota + 68608 else p.quota) - p.used

/-- The largest answer that a request asks for at a time: a piece of GETDATA and an ACK. -/
def answerRoom : Nat := 1072 + 48

/-- Whether the buffer takes a packet now: a request leaves room for an answer, so that answers always get on.
DESIGN CHOICE, log 35. -/
def Partition.takes (p : Partition) (k : Packet) : Bool :=
  decide (pktSize k + (if k.vc = 0 then answerRoom else 0) ≤ p.room)

/-- Whether no response waits in the router. -/
def Partition.noResponses (p : Partition) : Bool := p.out.all (fun q => q.1 % 2 == 0 || q.2.all (fun e => pktMarker e.2))

/-- A packet placed in an output queue (R362). DEDUCED, log 35. -/
def Partition.enqueue (p : Partition) (key lin : Nat) (k : Packet) : Partition :=
  { p with out := smPut p.out key (smGet [] p.out key ++ [(lin, k)]) }

/-- R362: a packet placed in the output queue of its route entry; one with no valid route is dropped. -/
def Partition.place (p : Partition) (lin : Nat) (k : Packet) : Partition :=
  match p.routeTo k.dst.toNat with
  | some l => p.enqueue (2 * l + k.vc.toNat) lin k
  | none => p

/-- The 32-byte header of a packet (R360). -/
def pktHeader (k : Packet) : BitVec 256 :=
  BitVec.ofNat 256
    (k.gpn.toNat + k.typ.toNat * 2 ^ 12 + (k.dst.toNat + k.vc.toNat * 2 ^ 12 + k.last.toNat * 2 ^ 13) * 2 ^ 16 +
     k.src.toNat * 2 ^ 32 + k.role.toNat * 2 ^ 48 + k.slot.toNat * 2 ^ 56 + k.addr.toNat * 2 ^ 64 +
     k.plen.toNat * 2 ^ 128 + k.rcnt.toNat * 2 ^ 144 + k.opw.toNat * 2 ^ 160 + k.xlen.toNat * 2 ^ 192)

/-- A packet with a header and payload; the inverse of `pktHeader`. -/
def packetOf (h : BitVec 256) (payload : List (BitVec 8)) : Packet where
  gpn := h.extractLsb' 0 12
  typ := h.extractLsb' 12 4
  dst := h.extractLsb' 16 12
  vc := h.extractLsb' 28 1
  last := h.extractLsb' 29 1
  src := h.extractLsb' 32 12
  role := h.extractLsb' 48 7
  slot := h.extractLsb' 56 8
  addr := h.extractLsb' 64 64
  plen := h.extractLsb' 128 11
  rcnt := h.extractLsb' 144 12
  opw := h.extractLsb' 160 16
  xlen := h.extractLsb' 192 64
  payload := payload

/-- The header of a discarded packet recorded in the supervisor's Beacon log (R360, 13 R406), which has 64 slots.
DEDUCED, log 35. -/
def State.logHeader (s : State) (h : BitVec 256) : State :=
  let n := s.supv.beaconCount
  { s with supv := { s.supv with beaconLog := ringPut 64 n s.supv.beaconLog h, beaconCount := n + 1 } }

def State.logPacket (s : State) (k : Packet) : State := s.logHeader (pktHeader k)

/-! ### Accesses for a partition (R368) -/

/-- The agent of a partition's accesses for a source rank (13 R421). -/
def fabricAgent (t src : Nat) : Agent := { tenant := t, source := 0x4000 + src, at' := 8 }

/-- What an access error means to an operation (R370). Work that waits for a link is not made (10 R354), so what it would answer does
not matter. -/
def fabFail (va : Word) (e : AccErr) (cnt : Bool) : FabFail :=
  match e with
  | .xlat r _ => { status := 3, reason := r, va := va, cnt := cnt }
  | .denied _ => { status := 4, reason := 0x0B, va := va, cnt := cnt }
  | .paused _ => { status := 0, reason := 0, va := va, cnt := cnt }

/-- The failure of an operation whose data met an uncorrectable error (R370). -/
def dataFail (va : Word) : FabFail := { status := 5, reason := 0, va := va, cnt := false }

/-- Whether what a read of the byte at offset `o` of a compressed page needs holds an uncorrectable error: its map entry, or the data of
its block (07 R264). -/
def State.badBlock (s : State) (p : Page) (o : Nat) : Bool :=
  s.badWord p.pa || (match mapEntry (BitVec.ofNat 64 (s.bytesAt p.pa 8)) with
    | some (.raw off) => s.badWord (p.map + 64 * off + o)
    | some (.lz len off) => (List.range (8 * len)).any (fun i => s.badWord (p.map + 64 * off + 8 * i))
    | _ => false)

/-- The first of `n` bytes at a virtual address whose memory holds an uncorrectable error. -/
def badByte (ag : Agent) (va : Word) (n : Nat) (s : State) : Option Word :=
  if s.memBad.isEmpty then none
  else ((List.range n).map (fun i => va + BitVec.ofNat 64 i)).find? (fun a =>
    match (resolve ag false a 1 .load s).1 with
    | .ok p => if p.attr = 2 then s.badBlock p (a.toNat % 4096) else s.badWord p.pa
    | .error _ => false)

/-- Bytes as a number, the first the least. -/
def numOf (bs : List Byte) : Nat := bs.foldr (fun b acc => b.toNat + 256 * acc) 0

/-- The last bytes of a packet that an 8-byte unit shares with the operation's next packet; they are written with those of the next, so
that the unit is single-copy atomic (R368). -/
def sharedBytes (va : Word) (n : Nat) (last : Bool) : Nat :=
  if last then 0 else Nat.min n ((va + BitVec.ofNat 64 n).toNat % 8)

/-- The bytes held back of the packet before, written, unless a link holds the write up (10 R354). -/
def releaseTail (t src key : Nat) (s : State) : State :=
  match (s.part t).bind (fun p => smFind p.tails key) with
  | none => s
  | some (_, pa, bs) =>
    let ag := fabricAgent t src
    match s.shutHops ag.sender 8 (servedAt pa) with
    | hop :: _ => s.noteFlit hop
    | [] => (putParts ag .remote ag.source [(pa, bs.length)] (numOf bs) s).updPart t (fun p => { p with tails := smErase p.tails key })

/-- Bytes written for a packet, every check first (R368). `key` names its operation and `last` says whether no packet of it follows. -/
def fabricWrite (t src key : Nat) (va : Word) (bs : List Byte) (last : Bool) (s : State) : Except FabFail Unit × State :=
  let ag := fabricAgent t src
  match resolveParts ag (pageParts va bs.length) s with
  | (.error (a, .paused h), s) => (.error (fabFail a (.paused h) false), s)
  | (.error (a, e), s) => (.error (fabFail a e false), releaseTail t src key s)
  | (.ok ps, s) =>
    let n := sharedBytes va bs.length last
    let now := bs.take (bs.length - n)
    let cut (q : Nat × Nat) (r : List (Nat × Nat) × Nat) : List (Nat × Nat) × Nat :=
      let k := Nat.min r.2 q.2
      ((if q.2 = k then r.1 else (q.1, q.2 - k) :: r.1), r.2 - k)
    let whole := ps.getLastD (0, 0)
    let s := putParts ag .remote ag.source (ps.foldr cut ([], n)).1 (numOf now) (releaseTail t src key s)
    (.ok (), if n = 0 then s
      else s.updPart t (fun p =>
        { p with tails := smPut p.tails key (va + BitVec.ofNat 64 (bs.length - n), whole.1 + whole.2 - n, bs.drop (bs.length - n)) }))

/-- Bytes read by an agent for a packet whose operation has `rest` bytes more to read after it: those of the packet, of which the first
were read with the packet before, and those read ahead of the packet after, which share an 8-byte unit with its last (R368). -/
def readShared (ag : Agent) (va : Word) (n rest : Nat) (ahead : List Byte) (s : State) :
    Except (Word × AccErr) (List Byte × List Byte) × State :=
  let more := Nat.min rest ((8 - (va + BitVec.ofNat 64 n).toNat % 8) % 8)
  let old := ahead.take n
  match engineRead ag (va + BitVec.ofNat 64 old.length) (n + more - old.length) s with
  | (.error e, s) => (.error e, s)
  | (.ok v, s) =>
    let bs := old ++ (List.range (n + more - old.length)).map (fun i => BitVec.ofNat 8 (v / 256 ^ i))
    (.ok (bs.take n, bs.drop n), s)

/-- Bytes read for a packet. -/
def fabricRead (t src key : Nat) (va : Word) (n rest : Nat) (s : State) : Except FabFail (List Byte) × State :=
  let ag := fabricAgent t src
  let ahead := ((s.part t).map (fun p => smGet [] p.ahead key)).getD []
  match readShared ag va n rest ahead s with
  | (.error (a, e), s) => (.error (fabFail a e false), s.updPart t (fun p => { p with ahead := smSet [] p.ahead key [] }))
  | (.ok (bs, more), s) =>
    let s := s.updPart t (fun p => { p with ahead := smSet [] p.ahead key more })
    match badByte ag va n s with
    | some a => (.error (dataFail a), s)
    | none => (.ok bs, s)

/-- R364, R368: a completion counter incremented; index 0 names none. -/
def bump (t : Nat) (cbase : Word) (idx : Nat) (s : State) : Except FabFail Unit × State :=
  if idx = 0 then (.ok (), s)
  else
    let va := cbase + BitVec.ofNat 64 (8 * idx)
    let ag := fabricAgent t 0
    match resolve ag false va 8 .atomic s with
    | (.error e, s) => (.error (fabFail va e true), s)
    | (.ok p, s) =>
      if (badByte ag va 8 s).isSome then (.error { dataFail va with cnt := true }, s)
      else (.ok (), s.setBytes p.pa 8 (s.bytesAt p.pa 8 + 1))

/-! ### At the source: local completion (R364, R366, R370) -/

/-- BERR of a failure (R371). -/
def berrWord (o : FabOp) : BitVec 64 :=
  BitVec.ofNat 64 (2 ^ 63 + o.status * 2 ^ 48 + o.reason * 2 ^ 40 + o.dest * 2 ^ 28 +
    (if o.loc then 2 ^ 17 else 0) + (if o.cnt then 2 ^ 16 else 0) + o.qsn.toNat)

/-- An operation completes locally: LCNT when it succeeded, BERR when it failed and none is recorded; BATOM's slot stays until
its entry takes the result. DEDUCED, log 34. -/
def fabComplete (t key : Nat) (o : FabOp) (s : State) : State :=
  match s.part t with
  | none => s
  | some p =>
    let (r, s) := if o.status = 0 then bump t p.cbase o.lcnt s else (.ok (), s)
    let o := match r with
      | .error f => { o with status := f.status, reason := f.reason, va := f.va, cnt := true, loc := true }
      | .ok () => o
    s.updPart t (fun p =>
      if o.typ = 3 then { p with ops := smPut p.ops key { o with done := true } }
      else
        let p := { p with ops := smErase p.ops key }
        if o.status ≠ 0 ∧ smFind p.berr (key / 256) = none then
          { p with berr := smPut p.berr (key / 256) (berrWord o, o.va) }
        else p)

/-- The operation that a response names by ROLE and SLOT: of several, one sent to the rank that responds. DEDUCED, log 34. -/
def Partition.opOf (p : Partition) (k : Packet) : Option (Nat × FabOp) :=
  let named := p.ops.filter (fun o => o.1 / 256 % 128 = k.role.toNat && o.1 % 256 = k.slot.toNat && !o.2.done)
  (named.find? (fun o => o.2.dest = k.src.toNat)).or named.head?

/-- A failure recorded in its operation; one already recorded stays. -/
def FabOp.fails (o : FabOp) (f : FabFail) : FabOp :=
  if o.status ≠ 0 then o else { o with status := f.status, reason := f.reason, va := f.va, cnt := f.cnt }

/-- STATUS and REASON of an ACK or ATOMRSP recorded in its operation. -/
def FabOp.told (o : FabOp) (k : Packet) : FabOp :=
  let st := (k.opw.extractLsb' 0 8).toNat
  if st = 0 then o
  else o.fails { status := st, reason := (k.opw.extractLsb' 8 8).toNat, va := k.addr, cnt := decide (k.rcnt ≠ 0) }

/-- A response of a target at its source (R365 to R368). One whose data a router lost fails the operation (R370). The source of a
response is the target of its operation. DEDUCED, log 34. -/
def fabResponse (t : Nat) (p : Partition) (k : Packet) (s : State) : State :=
  match p.opOf k with
  | none => s
  | some (key, o) =>
    let o := { o with dest := k.src.toNat }
    if k.typ = 9 then
      let remote (a : Word) : Word := o.raddr + (a - o.laddr)
      let (r, s) := if k.bad then (.error (dataFail k.addr), releaseTail t k.src.toNat (2 * key) s)
        else fabricWrite t k.src.toNat (2 * key) k.addr (pktData k) (k.last == 1) s
      let o := match r with
        | .error f => o.fails { f with va := remote f.va }
        | .ok () => o
      if k.last = 1 then fabComplete t key o s
      else s.updPart t (fun p => { p with ops := smPut p.ops key o })
    else
      let v := numOf (pktData k)
      let s := releaseTail t k.src.toNat (2 * key) s
      let o := if k.bad then o.fails (dataFail o.raddr) else o.told k
      fabComplete t key { o with result := if k.typ = 10 then BitVec.ofNat 64 v else o.result } s

/-! ### At the target (R365 to R368) -/

/-- A response to a packet, with the status of its operation. -/
def pktReply (k : Packet) (p : Partition) (typ : BitVec 4) (f : Option FabFail) (data : List Byte) : Packet where
  gpn := p.gpn
  typ := typ
  dst := k.src
  vc := 1
  last := 1
  src := BitVec.ofNat 12 p.rank
  role := k.role
  slot := k.slot
  addr := (f.map (·.va)).getD 0
  plen := BitVec.ofNat 11 data.length
  rcnt := if f.any (·.cnt) then 1 else 0
  opw := BitVec.ofNat 16 ((f.map (fun f => f.status + 256 * f.reason)).getD 0)
  xlen := 0
  payload := data

/-- The key of an operation at its target. -/
def pktKey (k : Packet) : Nat := (k.src.toNat * 128 + k.role.toNat) * 256 + k.slot.toNat

/-- RCNT incremented when the operation has not failed; the failure it then has. -/
def targetCount (t : Nat) (p : Partition) (k : Packet) (f : Option FabFail) (s : State) : Option FabFail × State :=
  match f with
  | some f => (some f, s)
  | none =>
    match bump t p.cbase k.rcnt.toNat s with
    | (.error f, s) => (some f, s)
    | (.ok (), s) => (none, s)

/-- PUT and NOTIFY at the target. DEDUCED, log 34. -/
def fabPut (t : Nat) (p : Partition) (k : Packet) (s : State) : State :=
  let tail := 2 * pktKey k + 1
  let (r, s) := if k.bad then (.error (dataFail k.addr), releaseTail t k.src.toNat tail s)
    else fabricWrite t k.src.toNat tail k.addr (pktData k) (k.last == 1) s
  let old := smFind p.tfail (pktKey k)
  let f := match old, r with
    | some f, _ => some f
    | none, .error f => some f
    | none, _ => none
  if k.last = 0 then
    s.updPart t (fun p => { p with tfail := match f with | some f => smPut p.tfail (pktKey k) f | none => p.tfail })
  else
    let (f, s) := targetCount t p k f s
    s.updPart t (fun p => { p with tfail := smErase p.tfail (pktKey k) }.place 16 (pktReply k p 8 f []))

/-- What is left of a GETREQ once its first piece is read: a request for the rest. -/
def pktRest (k : Packet) : Option Packet :=
  let len := k.xlen.toNat % 2 ^ 24
  let dst := numOf (pktData k) + 1024
  if k.typ = 2 && !k.bad && decide (1024 < len) then
    some { k with
      addr := k.addr + 1024, xlen := BitVec.ofNat 64 (len - 1024), payload := (List.range 8).map (fun i => BitVec.ofNat 8 (dst / 256 ^ i)) }
  else none

/-- A piece of a GETREQ read at the target: GETDATA if it is read, and after the last piece an ACK with the first failure (R368). RCNT
advances after the last piece is read, before its GETDATA leaves. DEDUCED, log 34. -/
def fabGet (t : Nat) (p : Partition) (k : Packet) (s : State) : State :=
  let len := k.xlen.toNat % 2 ^ 24
  let size := Nat.min 1024 len
  let (r, s) : Except FabFail (List Byte) × State := if k.bad then (.error (dataFail k.addr), s)
    else fabricRead t k.src.toNat (pktKey k) k.addr size (len - size) s
  let f := (smFind p.tfail (pktKey k)).or (match r with | .error f => some f | .ok _ => none)
  let last := (pktRest k).isNone
  let (f, s) := if last then targetCount t p k f s else (f, s)
  s.updPart t fun p =>
    let p := match r with
      | .ok bs => p.place 16 { pktReply k p 9 none bs with
          addr := BitVec.ofNat 64 (numOf (pktData k)), last := if last && f.isNone then 1 else 0 }
      | .error _ => p
    match f with
    | none => p
    | some g =>
      if last then { p with tfail := smErase p.tfail (pktKey k) }.place 16 (pktReply k p 8 f [])
      else { p with tfail := smPut p.tfail (pktKey k) g }

/-- The operations of BATOM by OP (R366), each that of its RMW instruction (04 R145). -/
def fabRmw (op n old b d : Nat) : Option Nat :=
  match op with
  | 0 => rmwSwap n old b d | 1 => rmwAdd n old b d | 2 => rmwAnd n old b d | 3 => rmwOr n old b d
  | 4 => rmwXor n old b d | 5 => rmwMin n old b d | 6 => rmwMax n old b d | 7 => rmwMinu n old b d
  | 8 => rmwMaxu n old b d | 9 => rmwCas n old b d | _ => none

/-- ATOM at the target (R366). DEDUCED, log 34. -/
def fabAtom (t : Nat) (p : Partition) (k : Packet) (s : State) : State :=
  let n := if k.opw.getLsbD 4 then 8 else 4
  let v := numOf (pktData k)
  let b := v % 2 ^ 64 % 2 ^ (8 * n)
  let d := v / 2 ^ 64 % 2 ^ (8 * n)
  let ag := fabricAgent t k.src.toNat
  let (r, s) : Except FabFail Page × State :=
    if k.bad then (.error (dataFail k.addr), s)
    else match resolve ag false k.addr n .atomic s with
      | (.error e, s) => (.error (fabFail k.addr e false), s)
      | (.ok pg, s) => ((match badByte ag k.addr n s with | some a => .error (dataFail a) | none => .ok pg), s)
  match r with
  | .error f => s.updPart t (fun p => p.place 16 (pktReply k p 10 (some f) []))
  | .ok pg =>
    let old := s.bytesAt pg.pa n
    let s := match fabRmw (k.opw.extractLsb' 0 4).toNat n old b d with
      | some v => putParts ag .remote ag.source [(pg.pa, n)] (v % 2 ^ (8 * n)) s
      | none => s
    let (f, s) := targetCount t p k none s
    s.updPart t (fun p => p.place 16 (pktReply k p 10 f ((List.range 8).map (fun i => BitVec.ofNat 8 (old / 256 ^ i)))))

/-- What a SAVE finds of operations that are between two of their packets here, as packets of local delivery (R376): the failure that an
operation has met, as a PUT whose OPW, ADDR and RCNT report it as those of an ACK do and whose XLEN is 1; the bytes that a GETREQ has read
ahead for its next piece, as a PUT of these bytes whose XLEN is 2; and the bytes of a packet that are to be written with those of the next
(R368). DESIGN CHOICE, log 43. -/
def Partition.between (p : Partition) : List (Nat × Packet) :=
  let k (typ : BitVec 4) (src key : Nat) (va : Word) (bs : List Byte) : Packet :=
    { gpn := p.gpn, typ := typ, dst := BitVec.ofNat 12 p.rank, vc := if typ = 9 then 1 else 0, last := 0, src := BitVec.ofNat 12 src
      role := BitVec.ofNat 7 (key / 256), slot := BitVec.ofNat 8 key, addr := va, plen := BitVec.ofNat 11 bs.length, rcnt := 0, opw := 0
      xlen := 0, payload := bs }
  p.tfail.map (fun ((key, f) : Nat × FabFail) =>
    (32, { k 1 (key / 2 ^ 15) key f.va [] with
      opw := BitVec.ofNat 16 (f.status + 256 * f.reason), rcnt := if f.cnt then 1 else 0, xlen := 1 })) ++
  p.ahead.map (fun ((key, bs) : Nat × List Byte) =>
    let va := ((smGet [] p.out 32).find? (fun e => pktKey e.2 == key)).map (·.2.addr)
    (32, { k 1 (key / 2 ^ 15) key (va.getD 0) bs with xlen := 2 })) ++
  p.tails.map (fun ((key, va, _, bs) : Nat × Word × Nat × List Byte) =>
    if key % 2 = 1 then (32, k 1 (key / 2 / 2 ^ 15) (key / 2) va bs)
    else (33, k 9 (((smFind p.ops (key / 2)).map (·.dest)).getD 0) (key / 2) va bs))

/-- The failure of an operation that a SAVE found between two of its packets, back at its target. DESIGN CHOICE, log 43. -/
def fabFailed (t : Nat) (k : Packet) (s : State) : State :=
  let v := k.opw.toNat
  let f : FabFail := { status := v % 256, reason := v / 256, va := k.addr, cnt := decide (k.rcnt ≠ 0) }
  s.updPart t (fun p => { p with tfail := smPut p.tfail (pktKey k) (smGet f p.tfail (pktKey k)) })

/-- The bytes that a GETREQ had read ahead when a SAVE found it, back at its target. DESIGN CHOICE, log 43. -/
def fabAhead (t : Nat) (k : Packet) (s : State) : State :=
  s.updPart t (fun p =>
    if k.bad then { p with tfail := smPut p.tfail (pktKey k) (smGet (dataFail k.addr) p.tfail (pktKey k)) }
    else { p with ahead := smSet [] p.ahead (pktKey k) (pktData k) })

/-- A packet of local delivery executed. DEDUCED, log 34. -/
def deliver (t : Nat) (p : Partition) (k : Packet) (s : State) : State :=
  match k.typ.toNat with
  | 1 => if k.xlen = 0 then fabPut t p k s else if k.xlen = 1 then fabFailed t k s else fabAhead t k s
  | 4 => fabPut t p k s
  | 2 => fabGet t p k s
  | 3 => fabAtom t p k s
  | 8 | 9 | 10 => fabResponse t p k s
  | _ => s

/-! ### The router (R362, R376) -/

/-- Whether a packet may leave an output queue: job packets while the partition runs or resumes, markers always; the port up
and taking packets. Queue 16 is the local memory path, which serves no job packet while the partition is saved, and a GETREQ only as
the buffer takes its data, or no response waits in it. DEDUCED, log 35. -/
def State.mayLeave (s : State) (p : Partition) (l : Nat) (k : Packet) : Bool :=
  if l = 16 then
    (p.state == 1 || p.state == 4) && !(smGet {} s.ports 16).stalled &&
    (k.typ != 2 || decide (answerRoom ≤ p.room) || p.noResponses)
  else match p.phys l with
    | none => false
    | some ph =>
      let q := smGet {} s.ports ph
      q.up && !s.boot.fatal && (pktMarker k || ((p.state == 1 || p.state == 4) && !q.stalled))

/-- An output queue left with some packets. -/
def Partition.leave (p : Partition) (key : Nat) (rest : List (Nat × Packet)) : Partition :=
  { p with out := if rest.isEmpty then smErase p.out key else smPut p.out key rest }

/-- The oldest packet of a local queue served. The rest of a GETREQ stays at the head of its queue. DEDUCED, log 34. -/
def serveLocal (t key : Nat) (s : State) : State :=
  match s.part t with
  | none => s
  | some p =>
    match smGet [] p.out key with
    | [] => s
    | (lin, k) :: rest =>
      deliver t p k (s.updPart t (fun p =>
        match pktRest k with
        | some r => { p.leave key ((lin, r) :: rest) with serving := true }
        | none => { p.leave key rest with serving := p.serving && key != 32 }))

/-- One packet leaves an output queue of a partition, if one may. DEDUCED, log 35. -/
def routeOne (t key : Nat) (s : State) : State :=
  match s.part t with
  | none => s
  | some p =>
    match smGet [] p.out key with
    | [] => s
    | (_, k) :: rest =>
      if !s.mayLeave p (key / 2) k then s
      else if key / 2 = 16 then s.attempts (routerFlit t key) (serveLocal t key)
      else { s with wire := s.wire ++ [((p.phys (key / 2)).getD 0, k)] }.updPart t (·.leave key rest)

/-- R376: a request in service completes before the sweep, as far as the responses find room below `limit` bytes of buffer; `n` bounds
its pieces. DESIGN CHOICE, log 43. -/
def finishService (t limit : Nat) : Nat → State → State
  | 0, s => s
  | n + 1, s =>
    match s.part t with
    | none => s
    | some p => if p.serving && decide (p.used + answerRoom ≤ limit) then finishService t limit n (serveLocal t 32 s) else s

/-- Packets leave the output queues of every partition as far as they can. DEDUCED, log 35. -/
def pumpFabric : Nat → State → State
  | 0, s => s
  | n + 1, s =>
    let s' := s.parts.foldl (fun s (t, _) => (List.range 34).foldl (fun s key => routeOne t key s) s) s
    if s' = s then s else pumpFabric n s'

/-- A late packet (R377). -/
def Partition.takeLate (p : Partition) (lin : Nat) (k : Packet) : Partition :=
  if p.late.length < 64 then { p with late := p.late ++ [(lin, k)] }
  else { p with lost := Nat.min (p.lost + 1) 65535, netLost := true }

/-- A packet record (R378): prefix, header, payload, padded to a multiple of 16: its size and bytes. -/
def pktRecord (p : Partition) (sect lin : Nat) (k : Packet) : Nat × Nat :=
  let size := pktSize k
  let lout := (p.routeTo k.dst.toNat).getD 16
  let data := numOf (pktData k)
  (size, lin + lout * 2 ^ 8 + (k.vc.toNat + 2 * sect) * 2 ^ 16 + size * 2 ^ 32 + (pktHeader k).toNat * 2 ^ 128 + data * 2 ^ 384)

/-- The error of a packet that met one in a router's buffer goes with it into its record: it stands in the reserved word of the prefix,
where the record is read back (R370). DESIGN CHOICE, log 34. -/
def State.markRecord (s : State) (pa : Nat) (bad : Bool) : State :=
  let w := memKey (pa + 8) / 8
  let rest := s.memBad.filter (· ≠ w)
  { s with memBad := if bad then w :: rest else rest }

/-- Records written one after another from an offset of the save section; the offset after them. -/
def writePkts (p : Partition) (sect : Nat) : List (Nat × Packet) → Nat → State → Nat × State
  | [], off, s => (off, s)
  | (lin, k) :: rest, off, s =>
    let (n, v) := pktRecord p sect lin k
    writePkts p sect rest (off + n) ((s.setBytes (p.saveBase + off) n v).markRecord (p.saveBase + off) k.bad)

/-- The save engine as the sender of the flits of a gang switch, which count against no tenant (10 R342, R343). -/
def sweepSender : Sender := { owner := acting, payer := none, cls := .swp }

/-- The links that hold up the router's accesses to a save section (10 R354). -/
def State.sweepHops (s : State) : List (Sender × Nat × Bool) := (s.dies 0xFF).flatMap (s.shutHops sweepSender 8 ·)

/-- The header fields that late packets change (R377, R378), and the late records, written unless a link holds them up. -/
def putLate (t : Nat) (s : State) : State :=
  match s.part t with
  | none => s
  | some p =>
    match s.sweepHops with
    | hop :: _ => s.noteFlit hop
    | [] =>
      let s := s.setPart t { p with lateDue := false }
      let lateOff := s.bytesAt (p.saveBase + 36) 4
      let (_, s) := writePkts p 2 p.late lateOff s
      let s := s.setBytes (p.saveBase + 2) 1 (if p.netLost then 2 else 1)
      let s := s.setBytes (p.saveBase + 24) 1 p.late.length
      let s := s.setBytes (p.saveBase + 25) 1 ((p.late.head?.map (·.1)).getD 0)
      s.setBytes (p.saveBase + 26) 2 p.lost

/-- The late records written, at once or later (10 R354). -/
def writeLate (t : Nat) (s : State) : State :=
  match s.attempt (switchFlit t) (fun s => ((), putLate t s)) with
  | (some _, s) => s
  | (none, s) => s.updPart t (fun p => { p with lateDue := true })

/-- Whether the buffer takes the captured packet: the credits given out before the switch stand for QUOTA, and the swept and captured
records for twice that (R376, R378). -/
def Partition.captures (p : Partition) (k : Packet) : Bool :=
  let n := (p.captured.map (fun e => pktSize e.2)).sum + pktSize k
  decide (n ≤ p.quota) && decide (p.captOff - 64 + n ≤ 2 * p.quota)

/-- A job packet of a type arrives on a physical port (R362, R376, R377): it is routed, captured, late, or discarded and
logged; one for which the partition has no buffer, and so no credit, stays with its sender. DEDUCED, log 35. -/
def packetArrives (typ : BitVec 4) (port : Nat) (k : Packet) (s : State) : State :=
  let k := { k with typ := typ }
  if k.vc ≠ (if typ.getLsbD 3 then 1 else 0) ∨ (typ ≠ 2 ∧ k.xlen ≠ 0) ∨ 1024 < k.plen.toNat then s.logPacket k
  else match s.partOn k.gpn port with
    | none => s.logPacket k
    | some (t, p, lin) =>
      if p.state = 2 ∧ !p.belled.contains (2 * lin + k.vc.toNat) then
        if p.captures k then s.setPart t { p with captured := p.captured ++ [(lin, k)] } else s
      else if p.state = 2 ∨ p.state = 3 then
        if p.hasSave then
          let p := p.takeLate lin k
          let s := s.setPart t p
          if p.state = 3 then writeLate t s else s
        else s.logPacket k
      else if p.takes k then s.setPart t (p.place lin k)
      else s

/-- A packet meets an uncorrectable error in a router's buffer: the oldest of an output queue of a partition (R370).
DESIGN CHOICE, log 34. -/
def packetUpset (t key : Nat) (s : State) : State :=
  s.updPart t (fun p => match smGet [] p.out key with
    | (lin, k) :: rest => { p with out := smPut p.out key ((lin, if pktMarker k then k else { k with bad := true }) :: rest) }
    | [] => p)

/-- PORT_UP (R362). -/
def portUp (port : Nat) (s : State) : State :=
  if 16 ≤ port then s
  else { s with ports := smPut s.ports port { smGet {} s.ports port with up := true, failed := false, fails := 0 } }

/-- BEACON_FLIT_REPLAY (R359, R377): a flit is replayed; `again` says that it is the flit whose replay failed last. After 16
failed replays in a row the port goes down and reports to the supervisor: an input of a partition that is saving counts as belled, and its context as
NET_LOST. -/
def beaconFlitReplay (port : Nat) (again : Bool) (s : State) : State :=
  let q := smGet {} s.ports port
  if 16 ≤ port ∨ q.up = false then s
  else
    let n := (if again then q.fails else 0) + 1
    if n ≤ 16 then { s with ports := smPut s.ports port { q with fails := n } }
    else
      let s := { s with ports := smPut s.ports port { q with up := false, failed := true, fails := 0 } }
      { s with
        supv := { s.supv with portReports := s.supv.portReports ++ [port] }
        parts := s.parts.map (fun (t, p) =>
          match p.lport port with
          | some l =>
            if p.state = 2 ∧ !(p.belled.contains (2 * l) && p.belled.contains (2 * l + 1)) then
              (t, { p with belled := [2 * l, 2 * l + 1] ++ p.belled, netLost := true })
            else (t, p)
          | none => (t, p)) }

/-! ### The fabric entries (R363 to R371) -/

/-- A fabric fault (R370): the entry is complete. -/
def fabFault {α : Type} (status : Nat) (ctl va : Word) (reason : Nat) : M α :=
  raiseEnd { code := 0x11, i0 := BitVec.ofNat 64 (2 ^ 60 + status), i1 := ctl, i2 := va, i3 := BitVec.ofNat 64 reason }

/-- The partition of the running hart's tenant. -/
def myPart : M (Option Partition) := do
  let s ← get
  return s.part s.me.tenant

def modPart (f : Partition → Partition) : M Unit := modify (fun s => s.updPart s.me.tenant f)

/-- What a fabric operation asks for, from its captured operands. -/
structure FabReq where
  typ : Nat
  ctl : Word
  raddr : Word
  laddr : Word
  len : Nat
  dest : Nat
  rcnt : Nat
  lcnt : Nat

/-- The request of an entry; BATOM's control has a layout of its own (R366). -/
def fabReq (e : Entry) (op : BeaconOp) : FabReq :=
  match op with
  | .batom =>
    { typ := 3, ctl := e.opd, raddr := e.opa, laddr := e.opb, len := 0, dest := (e.opd.extractLsb' 8 12).toNat
      rcnt := (e.opd.extractLsb' 20 12).toNat, lcnt := (e.opd.extractLsb' 32 12).toNat }
  | _ =>
    let c := e.opb
    { typ := match op with | .bput => 1 | .bget => 2 | _ => 4
      ctl := c
      raddr := match op with | .bput => e.opd | _ => e.opa
      laddr := match op with | .bput => e.opa | _ => e.opd
      len := (c.extractLsb' 0 24).toNat, dest := (c.extractLsb' 24 12).toNat
      rcnt := (c.extractLsb' 36 12).toNat, lcnt := (c.extractLsb' 48 12).toNat }

/-- Whether the control operand is in order (R364, check 2). -/
def FabReq.ok (r : FabReq) (word : BitVec 32) : Bool :=
  if r.typ = 3 then
    let op := (r.ctl.extractLsb' 0 4).toNat
    r.ctl.extractLsb' 44 20 == 0 && r.ctl.extractLsb' 5 3 == 0 && decide (op < 10) &&
    (op != 9 || decide ((word.extractLsb' 11 5).toNat ≤ 30))
  else r.ctl.extractLsb' 60 4 == 0 && (r.typ != 4 || r.len == 0)

/-- R364, check 4: the local range translated whole; the byte offset of the lowest byte that fails. -/
def checkRange (ag : Agent) (k : Acc) (base : Word) : List (Word × Nat) → M Unit
  | [] => return ()
  | (va, n) :: rest => do
    let s ← get
    match resolve ag false va n k s with
    | (.ok _, s) =>
      set s
      checkRange ag k base rest
    | (.error (.paused _), s) =>
      set s
      block
    | (.error er, s) =>
      set s
      raiseEnd (faultTrap va k (va - base).toNat er)

/-- The checks of R364 at restart index 0. DEDUCED, log 34. -/
def fabChecks (e : Entry) (r : FabReq) : M Unit := do
  let s ← get
  match s.part s.me.tenant with
  | none => fabFault 1 r.ctl r.raddr 0
  | some p =>
    if p.state ≠ 1 then fabFault 1 r.ctl r.raddr 0
    if !r.ok e.word then raiseEnd (illegal e.word 4)
    if r.dest ≥ p.gsize || (p.routeTo r.dest).isNone then fabFault 2 r.ctl r.raddr 0
    let al := if r.typ = 4 || (r.typ = 3 && r.ctl.getLsbD 4) then 8 else if r.typ = 3 then 4 else 1
    if r.raddr.toNat % al ≠ 0 then do
      unbegin e
      raise (misalign r.raddr 0)
    let k : Acc := if r.typ = 1 then .load else .store
    if r.typ ≤ 2 then
      checkRange { s.agent s.cur e.qsn with at' := 8 } k r.laddr (allParts 4098 r.laddr r.len)

/-- The payload of packet `j` (R360, R365), of which the bytes `ahead` were read with the packet before, and the bytes read ahead for the
next. DEDUCED, log 34. -/
def fabPayload (e : Entry) (r : FabReq) (exp : Word) (j : Nat) (ahead : List Byte) : M (List Byte × List Byte) := do
  let bytes (w : Word) : List Byte := (List.range 8).map (fun i => w.extractLsb' (8 * i) 8)
  match r.typ with
  | 1 =>
    let n := Nat.min 1024 (r.len - 1024 * j)
    let s ← get
    match readShared { s.agent s.cur e.qsn with at' := 8 } (r.laddr + BitVec.ofNat 64 (1024 * j)) n (r.len - 1024 * j - n)
        ahead s with
    | (.ok p, s) =>
      set s
      return p
    | (.error (_, .paused _), s) =>
      set s
      block
    | (.error (a, er), s) =>
      set s
      raise (faultTrap a .load (a - r.laddr).toNat er)
  | 2 => return (bytes r.laddr, [])
  | 3 => return (bytes r.laddr ++ bytes exp, [])
  | _ => return (bytes e.opd, [])

/-- The slot of an operation's packet `j`: for its first the lowest free one, with the operation that is to stand there (R364). -/
def fabSlot (e : Entry) (r : FabReq) (j : Nat) : M (Nat × FabOp) := do
  let s ← get
  let mine := s.fabricOps s.cur
  match if j = 0 then none else mine.find? (fun o => o.2.qsn == e.qsn && o.2.typ == r.typ) with
  | some o => return o
  | none =>
    match (List.range 256).find? (fun i => (smFind mine (s.me.fkey * 256 + i)).isNone) with
    | none => block
    | some i =>
      return (s.me.fkey * 256 + i,
        { typ := r.typ, lcnt := r.lcnt, qsn := e.qsn, uid := e.uid, dest := r.dest, raddr := r.raddr, laddr := r.laddr })

/-- The packets of an operation injected, from packet `j` on; the partition's quota holds injection back (R361, R362), and the first
takes the operation's slot (R364). DEDUCED, log 34. -/
def inject (e : Entry) (r : FabReq) (exp : Word) (count : Nat) : Nat → Nat → M Unit
  | 0, _ => return ()
  | n + 1, j => do
    let x ← meM
    match ← myPart with
    | none => block
    | some p =>
      if p.state ≠ 1 then block
      let (key, o) ← fabSlot e r j
      let (bs, more) ← fabPayload e r exp j o.ahead
      let k : Packet :=
        { gpn := p.gpn, typ := BitVec.ofNat 4 r.typ, dst := BitVec.ofNat 12 r.dest, vc := 0
          last := if j + 1 = count then 1 else 0, src := BitVec.ofNat 12 p.rank, role := BitVec.ofNat 7 x.role
          slot := BitVec.ofNat 8 (key % 256), addr := r.raddr + BitVec.ofNat 64 (1024 * j)
          plen := BitVec.ofNat 11 bs.length, rcnt := BitVec.ofNat 12 r.rcnt
          opw := if r.typ = 3 then r.ctl.setWidth 16 &&& 0x1F else 0
          xlen := if r.typ = 2 then BitVec.ofNat 64 r.len else 0, payload := bs }
      if !p.takes k then block
      modPart (fun p => { p with ops := smPut p.ops key { o with ahead := more } }.place 16 k)
      modify (pumpFabric 4096)
      reach (j + 1)
      inject e r exp count n (j + 1)

/-- BPUT, BGET, BATOM and BNOTIFY up to the injection of their last packet. An entry makes the checks of R364 when it starts, and not
again while it waits. DEDUCED, log 34. -/
def runFabric (e : Entry) (r : FabReq) (exp : Word) : M Unit := do
  let p0 ← startIndex e
  if p0 = 0 && !(← hasBegun e) then
    fabChecks e r
    markBegun e
  beginAt e p0
  -- a FENCE holds the operation back while its local range reaches host pages (02 R82)
  let s ← get
  if r.typ ≤ 2 && s.rangeHeld { s.agent s.cur e.qsn with at' := 8 } s.cur e.qsn r.laddr r.len (if r.typ = 1 then .load else .store) then
    block
  let count := if r.typ = 1 then Nat.max 1 ((r.len + 1023) / 1024) else 1
  inject e r exp count (count - p0) p0

/-- BATOM waits for its response (R366). DEDUCED, log 34. -/
def awaitAtom (e : Entry) (r : FabReq) : M Unit := do
  let s ← get
  match (s.fabricOps s.cur).find? (fun o => o.2.typ = 3 && o.2.qsn = e.qsn) with
  | none => block
  | some (key, o) =>
    if !o.done then block
    modPart (fun p => { p with ops := smErase p.ops key })
    vstart0
    if o.status ≠ 0 then fabFault o.status r.ctl r.raddr o.reason
    setResult e (if r.ctl.getLsbD 4 then o.result else (o.result.setWidth 32).signExtend 64).toNat

/-- Reads a completion counter for BWAIT and BPOLL (R369). -/
def readCounter (e : Entry) (p : Partition) (idx : Nat) : M Nat := do
  let s ← get
  let va := p.cbase + BitVec.ofNat 64 (8 * idx)
  accM (loadVirt { s.agent s.cur e.qsn with at' := 8 } false va 8 .load) (faultTrap va .load 0)

/-- BWAIT (R369). DEDUCED, log 36. -/
def runBwait (e : Entry) : M Unit := do
  let idx := (e.opa.extractLsb' 0 12).toNat
  if idx = 0 || e.opa.extractLsb' 12 4 ≠ 0 then illEntry e 4
  match ← myPart with
  | none => fabFault 1 e.opa 0 0
  | some p =>
    let v ← readCounter e p idx
    if v < (e.opa.extractLsb' 16 48).toNat then
      beginAt e 0
      block
    setResult e v

/-- BPOLL (R369). DEDUCED, log 36. -/
def runBpoll (e : Entry) : M Unit := do
  let idx := (e.opa.extractLsb' 0 12).toNat
  if idx = 0 || e.opa.extractLsb' 12 52 ≠ 0 then illEntry e 4
  match ← myPart with
  | none => fabFault 1 e.opa 0 0
  | some p => setResult e (← readCounter e p idx)

/-- BFENCE (R370). -/
def runBfence (e : Entry) : M Unit := do
  let s ← get
  if (s.fabricOps s.cur).any (fun o => !o.2.done) then
    beginAt e 0
    block
  match s.part s.me.tenant with
  | none => return ()
  | some p =>
    match smFind p.berr s.me.fkey with
    | none => return ()
    | some (w, va) =>
      modPart (fun p => { p with berr := smErase p.berr s.me.fkey })
      fabFault (w.extractLsb' 48 8).toNat w va (w.extractLsb' 40 8).toNat

/-- The gang word (R371). -/
def gangWord (p : Partition) (out : Nat) : Nat :=
  p.state * 2 ^ 60 + out * 2 ^ 48 + p.gpn.toNat * 2 ^ 32 + p.gsize * 2 ^ 16 + p.rank

/-- BSTAT (R371). -/
def runBstat (e : Entry) : M Unit := do
  let sel := e.opa.toNat
  if 4 ≤ sel then illEntry e 4
  let s ← get
  match s.part s.me.tenant with
  | none => setResult e 0
  | some p =>
    let (w, va) := smGet (0, 0) p.berr s.me.fkey
    if sel = 0 then setResult e (gangWord p (s.fabricOps s.cur).length)
    else if sel = 1 then setResult e p.cbase.toNat
    else if sel = 2 then
      modPart (fun p => { p with berr := smErase p.berr s.me.fkey })
      setResult e w.toNat
    else setResult e va.toNat

/-- The BLPORT word (R371). -/
def portWord (s : State) (b : BitVec 8) : Nat :=
  (if (smGet {} s.ports (b.extractLsb' 0 4).toNat).up then 32 else 0) + (if b.getLsbD 7 then 16 else 0) +
  (b.extractLsb' 0 4).toNat

/-- BLPORT (R371). -/
def runBlport (e : Entry) : M Unit := do
  if 16 ≤ e.opa.toNat then illEntry e 4
  let s ← get
  match s.part s.me.tenant with
  | none => setResult e 0
  | some p => setResult e (portWord s (p.pmap e.opa.toNat))

/-- BEACON. -/
def runBeacon (e : Entry) (op : BeaconOp) : M Unit :=
  match op with
  | .bput | .bget | .bnotify => do
    runFabric e (fabReq e op) e.opc
    vstart0
  | .batom => do
    runFabric e (fabReq e op) e.opc
    awaitAtom e (fabReq e op)
  | .bwait => runBwait e
  | .bpoll => runBpoll e
  | .bfence => runBfence e
  | .bstat => runBstat e
  | .blport => runBlport e

end Sys2Proof.Machine
end

