-- ==== Sys2Proof/Machine/Copy.lean ====
section
/-!
DEFINITION. The copy engines (07 R249 to R281): the start checks of a command, its chunks, and its completion; publish
regions and their shadows.
-/

namespace Sys2Proof.Machine

/-! ### Operands (R251) -/

/-- Whether an operation runs in the background, letting later entries start (R84, R276). -/
def CopyOp.background : CopyOp → Bool
  | .cpshad | .cpbl | .cpwait => false
  | _ => true

/-- A copy command as its chunks see it: hart, entry, operation, sides, and what it captured. -/
structure CCtx where
  h : Nat
  ent : Entry
  op : CopyOp
  spd : Bool
  sps : Bool
  cap : Cap
  deriving DecidableEq, Repr

def CCtx.fmt (c : CCtx) : Nat := vtypeFmt c.cap.vtype
/-- eb (R251). -/
def CCtx.eb (c : CCtx) : Nat := fmtSew c.fmt / 8
/-- The destination format, SEED and rounding mode of CPCVT (R257). -/
def CCtx.dfmt (c : CCtx) : Nat := (c.ent.opb.extractLsb' 0 5).toNat
def CCtx.seed (c : CCtx) : BitVec 32 := c.ent.opb.extractLsb' 32 32
def CCtx.rm (c : CCtx) : Rm := if c.ent.opb.getLsbD 11 then rmOf (c.ent.opb.extractLsb' 8 3).toNat else vtypeRm c.cap.vtype

/-- The operand footprints: destination and source; 0 for an operand that is single or absent. -/
def CCtx.foot (c : CCtx) : Nat × Nat :=
  let n := c.cap.vl
  match c.op with
  | .cpy => (n * c.eb, n * c.eb)
  | .cpfill => (n * c.eb, 0)
  | .cpcvt => ((n * fmtSew c.dfmt + 7) / 8, (n * fmtSew c.fmt + 7) / 8)
  | .cplz => (n * 4096, n * 4096)
  | .cpxp => (n * 4096, 0)
  | .cpcrc | .cpcrc64 => (0, n * c.eb)
  | _ => (0, 0)

/-- DSTEP for an operand of footprint `f`. -/
def CCtx.step (c : CCtx) (f : Nat) : Word :=
  if c.cap.sel.getLsbD 48 then BitVec.ofNat 64 f else (c.cap.sel.extractLsb' 8 40).signExtend 64

/-- The die base of the destination and of the source at position `p`. -/
def CCtx.dst (c : CCtx) (p : Nat) : Word :=
  if c.spd then c.ent.opd else c.ent.opd + BitVec.ofNat 64 p * c.step c.foot.1
def CCtx.src (c : CCtx) (p : Nat) : Word :=
  if c.sps then c.ent.opa else c.ent.opa + BitVec.ofNat 64 p * c.step c.foot.2

/-- The units of one chunk (R252). -/
def CCtx.chunk (c : CCtx) : Nat :=
  match c.op with
  | .cpy | .cpfill | .cpcrc | .cpcrc64 => 4096 / c.eb
  | .cpcvt => 32768 / Nat.max (fmtSew c.fmt) (fmtSew c.dfmt)
  | _ => 1

/-- Whether two ranges of a space of 2^64 bytes overlap. -/
def rangesMeet (a : Word) (n : Nat) (b : Word) (m : Nat) : Bool :=
  decide (n ≠ 0) && decide (m ≠ 0) && (decide ((b - a).toNat < n) || decide ((a - b).toNat < m))

/-- Whether any of some ranges of `n` bytes meets any of some of `m` bytes. -/
def anyMeet (as : List Word) (n : Nat) (bs : List Word) (m : Nat) : Bool :=
  as.any (fun a => bs.any (fun b => rangesMeet a n b m))

/-- The conditions of R254, and of R262's OFF at its largest: ILLEGAL reason 4 when false. -/
def CCtx.ok (c : CCtx) : Bool :=
  let ps := List.range c.cap.dies.length
  let (fd, fs) := c.foot
  let ds := ps.map c.dst
  let ss := ps.map c.src
  let inSp (sp : Bool) (a : Word) (f : Nat) : Bool := !sp || decide (f = 0) || decide (a.toNat + f ≤ 0x400000)
  let sp := inSp c.spd c.ent.opd fd && inSp c.sps c.ent.opa fs
  let plain := !fmtIsMx c.fmt && fmtSew c.fmt != 4
  let apart := c.spd != c.sps ||
    (if c.spd then !rangesMeet c.ent.opd fd c.ent.opa fs else !anyMeet ds fd ss fs)
  sp && (match c.op with
    | .cpy => plain && apart
    | .cpfill | .cpcrc | .cpcrc64 => plain
    | .cpcvt =>
      !fmtIsMx c.fmt && !fmtIsMx c.dfmt && fmtOk c.dfmt && c.ent.opb.extractLsb' 12 20 == 0 &&
      c.ent.opb.extractLsb' 5 3 == 0 &&
      (!c.ent.opb.getLsbD 11 || decide ((c.ent.opb.extractLsb' 8 3).toNat < 6)) && apart
    | .cplz =>
      let maps := 8 * (ps.length * c.cap.vl)
      c.ent.opb.toNat % 4096 == 0 && decide (c.ent.opb.toNat ≤ c.ent.opd.toNat) &&
      ds.all (fun d => decide (d.toNat % 4096 = 0) && decide (c.ent.opb.toNat ≤ d.toNat) &&
        decide ((d.toNat - c.ent.opb.toNat) / 64 + 64 * c.cap.vl ≤ 2 ^ 40)) &&
      apart && !anyMeet ds fd [c.ent.opb] maps && (c.sps || !anyMeet ss fs [c.ent.opb] maps)
    | .cpxp =>
      c.ent.opa.toNat % 4096 == 0 &&
      (c.spd || !anyMeet ds fd [c.ent.opa + 8 * c.ent.opb] (8 * (ps.length * c.cap.vl)))
    | .cprel => c.ent.opa.toNat % 16 == 0
    | .cpshad => c.ent.opa.extractLsb' 1 63 == 0
    | .cpbl | .cpwait => true)

/-! ### Accesses of an engine (R255, R270) -/

/-- Why a chunk does not complete: it waits for a granule or an earlier die; it waits for the host's reply; the command has
failed. -/
inductive CopyStop where
  | blocked
  | held
  | failed (t : TrapInfo)
  deriving DecidableEq, Repr

/-- The work of a chunk. -/
abbrev CM := ExceptT CopyStop (StateM State)

/-- The publish regions of a hart's tenant that are open for it (R270, R271). -/
def State.openRegions (s : State) (h : Nat) : List Nat :=
  ((s.tenant (s.hart h).tenant).regions.filter (fun r => r.2.owner == some h)).map (·.1)

/-- The regions among `rs` that a range touches. -/
def State.regionsIn (s : State) (t : Nat) (rs : List Nat) (va : Word) (n : Nat) : List Nat :=
  ((s.tenant t).regions.filter (fun r => rs.contains r.1 &&
    rangesMeet va n (BitVec.ofNat 64 r.2.vbase) (4096 * r.2.pages))).map (·.1)

/-- Where a chunk runs: the die, its position, the engine, the unit it concerns, and whether shadow sides are used. -/
structure CDie where
  die : Nat
  pos : Nat
  engine : Nat
  unit : Nat
  shadow : Bool := true

/-- The progress of a command. -/
def CCtx.prog (c : CCtx) (s : State) : CopyProg :=
  (((s.hart c.h).queue.find? (fun e => e.uid = c.ent.uid)).map (·.prog)).getD {}

/-- The agent of a chunk's accesses; the shadow sides that it uses are fixed when its command starts (R270). -/
def copyAgent (c : CCtx) (d : CDie) (s : State) : Agent :=
  { s.agent c.h c.ent.qsn with
    source := 0x8000 + 16 * d.die + d.engine
    at' := d.die
    owner := .copy c.h c.ent.uid d.pos
    cls := .eng
    shadow := if d.shadow then (c.prog s).openAt else [] }

/-- The progress of the command, replaced. -/
def modProg (c : CCtx) (f : CopyProg → CopyProg) : CM Unit :=
  modify (fun s => s.updHart c.h (fun x => x.updEntry c.ent.uid (fun e => { e with prog := f e.prog })))

/-- Notes the shadows that an access touches (R271). -/
def touch (c : CCtx) (va : Word) (n : Nat) : CM Unit := do
  let s ← get
  let rs := s.regionsIn (s.hart c.h).tenant (c.prog s).openAt va n
  if !rs.isEmpty then
    modProg c (fun p => { p with shadow := rs.filter (fun r => !p.shadow.contains r) ++ p.shadow })

/-- ENGINE_FAULT of a copy command (R277). -/
def engineFault (i0 : Word) (die unit : Nat) (detail : Word) : TrapInfo :=
  { code := 0x11, i0 := i0, i1 := BitVec.ofNat 64 die, i2 := BitVec.ofNat 64 unit, i3 := detail }

/-- The failure of a unit with a status of R278. -/
def copyFail {α : Type} (d : CDie) (unit status : Nat) (detail : Word) : CM α :=
  throw (.failed (engineFault (BitVec.ofNat 64 (2 ^ 63 + status)) d.die unit detail))

/-- A request of a chunk posted in the fault queue, or kept until a slot is free (02 R65). -/
def copyPost {α : Type} (c : CCtx) (pos : Nat) (r : HeldReq) : CM α := do
  let s ← get
  let hold (seq : Option (BitVec 64)) : CM Unit :=
    modProg c (fun p => { p with held := some { r with seq := seq }, heldPos := pos })
  match r.post (s.hart c.h).tenant c.h c.ent.qsn (.copy c.h c.ent.uid) s with
  | (.held seq, s) =>
    set s
    hold (some (BitVec.ofNat 64 seq))
    throw .held
  | (.aborted seq, s) =>
    set s
    throw (.failed (engineFault (BitVec.ofNat 64 seq) r.die r.unit 0))
  | (.full, s) =>
    set s
    hold none
    throw .held

/-- A replayable fault of a unit (02 R65). A command has one request held at a time: another die's waits.
DEDUCED, log 30 and 31. -/
def copyHold {α : Type} (c : CCtx) (d : CDie) (kind : Nat) (va : Word) (unit : Nat) (e : AccErr) : CM α := do
  if (c.prog (← get)).held.isSome then throw .blocked
  copyPost c d.pos
    { seq := none, va := va, reason := BitVec.ofNat 8 e.reason, kind := kind, die := d.die, source := d.engine, unit := unit }

/-- `n` bytes read from memory; `unitAt` gives the unit of an address. -/
def copyReadMem (c : CCtx) (d : CDie) (va : Word) (n : Nat) (unitAt : Word → Nat) : CM Nat := do
  touch c va n
  let s ← get
  if s.rangeHeld (copyAgent c d s) c.h c.ent.qsn va n .load then throw .blocked
  match engineRead (copyAgent c d s) va n s with
  | (.ok v, s) =>
    set s
    return v
  | (.error (_, .paused _), s) =>
    set s
    throw .blocked
  | (.error (a, e), s) =>
    set s
    copyHold c d 1 a (unitAt a) e

/-- `n` bytes, at most 4 KiB, written to memory; `unitAt` gives the unit of an address. -/
def copyWriteMem (c : CCtx) (d : CDie) (va : Word) (n v : Nat) (unitAt : Word → Nat) : CM Unit := do
  touch c va n
  let s ← get
  let ag := copyAgent c d s
  if s.rangeHeld ag c.h c.ent.qsn va n .store then throw .blocked
  match engineWrite ag ag.source va n v s with
  | (.ok (), s) => set s
  | (.error (_, .paused _), s) =>
    set s
    throw .blocked
  | (.error (a, .denied w), s) =>
    set s
    throw (.failed (faultTrap a .store (unitAt a) (.denied w)))
  | (.error (a, e), s) =>
    set s
    copyHold c d 2 a (unitAt a) e

/-- `n` bytes of an operand read: a scratchpad read waits until its granules are full. -/
def copyRead (c : CCtx) (d : CDie) (sp : Bool) (va : Word) (n : Nat) (unitAt : Word → Nat) : CM Nat := do
  if sp then
    let s ← get
    if s.allFull (coreOf c.h) d.die va.toNat n then return s.spRead (coreOf c.h) d.die va.toNat n
    else throw .blocked
  else copyReadMem c d va n unitAt

/-- `n` bytes of an operand written. The write of a chunk is what sets the granules it covers or crosses into (02 R85): with an
unaligned scratchpad destination a granule across two chunks is full after the first. DESIGN CHOICE, log 30. -/
def copyWrite (c : CCtx) (d : CDie) (sp : Bool) (va : Word) (n v : Nat) (unitAt : Word → Nat) : CM Unit := do
  if sp then modify (fun s => s.spWrite (coreOf c.h) d.die va.toNat n v)
  else copyWriteMem c d va n v unitAt

/-! ### Conversion (R258, R259) -/

/-- An LFSR after `n` steps (05 R175). -/
def lfsrSteps : Nat → BitVec 32 → BitVec 32
  | 0, v => v
  | n + 1, v => lfsrSteps n (lfsrNext v)

/-- r of unit `u` on a die: 0 under every mode but SR. -/
def copyRand (x : Hart) (m : Rm) (die u : Nat) : Nat :=
  match m with
  | .sr => (lfsrSteps (u / 16 + 1) (x.copyLfsrAt die (u % 16))).toNat
  | _ => 0

/-- One element converted: its bits, its flags, and whether it was clamped. -/
def copyConvert (src dst : Nat) (m : Rm) (r a : Nat) : Nat × Flags × Bool :=
  if fmtAnyInt src && fmtAnyInt dst then
    if fmtSew src = fmtSew dst then (a, 0, false)
    else
      let (v, sat) := if fmtSew src < fmtSew dst then (intValue src a, false) else clampTo dst (intValue src a)
      (ofInt (fmtSew dst) v, 0, sat)
  else if src = dst then (a, 0, false)
  else
    let (v, fl) := convert src dst m r a
    (v, fl, false)

/-- Elements `u` to `u + n − 1`, packed: `word` holds the sources from bit 0 on. -/
def convertUnits (x : Hart) (c : CCtx) (die : Nat) : Nat → Nat → Nat → Nat × Flags × Nat
  | 0, _, _ => (0, 0, 0)
  | n + 1, u, word =>
    let ws := fmtSew c.fmt
    let (v, fl, sat) := copyConvert c.fmt c.dfmt c.rm (copyRand x c.rm die u) (word % 2 ^ ws)
    let (rv, rf, rsat) := convertUnits x c die n (u + 1) (word / 2 ^ ws)
    (v + 2 ^ fmtSew c.dfmt * rv, fl ||| rf, (if sat then 1 else 0) + rsat)

/-! ### Checksums (R265) -/

/-- One byte folded into a reflected CRC. -/
def crcBits (poly : BitVec 64) : Nat → BitVec 64 → BitVec 64
  | 0, v => v
  | n + 1, v => crcBits poly n (if v.getLsbD 0 then (v >>> 1) ^^^ poly else v >>> 1)

/-- `n` bytes folded in ascending address. -/
def crcFold (poly : BitVec 64) : Nat → Nat → BitVec 64 → BitVec 64
  | 0, _, v => v
  | n + 1, bytes, v => crcFold poly n (bytes / 256) (crcBits poly 8 (v ^^^ BitVec.ofNat 64 (bytes % 256)))

/-- POLYR and the width of a checksum instruction. -/
def crcPoly (op : CopyOp) : BitVec 64 := match op with | .cpcrc => 0x82F63B78 | _ => 0x9A6C9329AC4BC9B5
def crcWidth (op : CopyOp) : Nat := match op with | .cpcrc => 32 | _ => 64

/-- The complement of a seed or state in the width of the CRC. -/
def crcNot (op : CopyOp) (v : BitVec 64) : BitVec 64 := (~~~v) &&& BitVec.ofNat 64 (2 ^ crcWidth op - 1)

/-! ### Relocation (R266, R267; 03 R131) -/

/-- The CRC state that the bytes of the die at position `p` are folded into: its own, or that after the dies before it; the
complement of the seed for the first (R265). -/
def CopyProg.crcAt (q : CopyProg) (op : CopyOp) (seed : Word) : Nat → BitVec 64
  | 0 => (smFind q.part 0).getD (crcNot op seed)
  | p + 1 => match smFind q.part (p + 1) with
    | some v => v
    | none => q.crcAt op seed p

/-- The value t that R131 tests, whether it fits, and v; none for types without a test. -/
def relocValue (type : Nat) (sv a p : Int) : Int × Bool × Int :=
  let abs := sv + a
  let rel := sv + a - p
  let words (lim : Int) : Int × Bool × Int := (rel, decide (rel % 4 = 0) && decide (-lim ≤ rel) && decide (rel < lim), rel / 4)
  let hi := (abs + 0x8000) / 0x10000
  match type with
  | 2 => (abs, decide (-(2 ^ 31) ≤ abs) && decide (abs < 2 ^ 32), abs)
  | 3 => (rel, decide (-(2 ^ 31) ≤ rel) && decide (rel < 2 ^ 31), rel)
  | 4 => (abs, decide (-(2 ^ 31) ≤ abs) && decide (abs < 2 ^ 31 - 0x8000), hi)
  | 5 => (abs, true, abs)
  | 6 => words 16384
  | 7 | 9 => words (2 ^ 22)
  | 8 => words 8192
  | _ => (abs, true, abs)

/-- The bytes that a type writes, and the bits of its field. -/
def relocField (type : Nat) : Nat × Nat :=
  match type with
  | 0 => (0, 0) | 1 => (8, 64) | 2 | 3 => (4, 32) | 4 | 5 => (4, 16) | 6 => (4, 13) | 8 => (4, 12) | _ => (4, 21)

/-- One record (R267). DEDUCED, log 30. -/
def relocRecord (c : CCtx) (d : CDie) (i : Nat) : CM Unit := do
  let rec' ← copyReadMem c d (c.ent.opa + BitVec.ofNat 64 (16 * i)) 16 (fun _ => i)
  let type := rec' / 2 ^ 48 % 256
  let p : Word := c.ent.opd + BitVec.ofNat 64 (rec' % 2 ^ 48)
  let a : Word := BitVec.ofNat 64 (rec' / 2 ^ 64)
  if type ≥ 10 || rec' / 2 ^ 56 % 256 ≠ 0 || (decide (4 ≤ type) && decide (p.toNat % 4 ≠ 0)) then
    copyFail d i 7 (BitVec.ofNat 64 rec')
  let (t, fits, v) := relocValue type c.ent.opb.toInt a.toInt p.toInt
  if !fits then copyFail d i 6 (BitVec.ofInt 64 t)
  let (n, w) := relocField type
  if n ≠ 0 then
    let old ← if w = 8 * n then pure 0 else copyReadMem c d p n (fun _ => i)
    copyWriteMem c d p n (old / 2 ^ w * 2 ^ w + (v % (2 ^ w : Nat)).toNat) (fun _ => i)

/-! ### Compressed blocks (R262, R263) -/

/-- Bytes of a number, the lowest first. -/
def bytesOf : Nat → Nat → List Byte
  | 0, _ => []
  | n + 1, v => BitVec.ofNat 8 v :: bytesOf n (v / 256)

/-- The number that bytes form, little-endian. -/
def ofBytes (bs : List Byte) : Nat := bs.foldr (fun b acc => b.toNat + 256 * acc) 0

/-- LZ data for a block: the device's choice of tokens where they decode to the block, else all literals (R262).
UNVERIFIED, log 10. -/
def lzEncode (blk : List Byte) : List Byte :=
  let c := Config.lzTokens blk
  let padded := c ++ List.replicate ((64 - c.length % 64) % 64) 0
  match lzDecode padded with
  | .ok b => if b = blk then c else lzLiterals 32 blk
  | .error _ => lzLiterals 32 blk

/-- One block of CPLZ: the bytes it writes at its cursor, and its entry; `cur` is the cursor, `base` the region's offset from
the map base, both in units of 64 bytes. DEDUCED, log 30. -/
def lzPlace (blk : List Byte) (cur base : Nat) : MapEntry × Nat × List Byte :=
  if blk.all (· = 0) then (.zero, cur, [])
  else
    let c := lzEncode blk
    let len := (c.length + 63) / 64
    if len ≥ 64 then
      let at' := 64 * ((cur + 63) / 64)
      (.raw (base + at'), at', blk)
    else
      let at' := if cur % 64 + len > 64 then 64 * ((cur + 63) / 64) else cur
      (.lz len (base + at'), at', c ++ List.replicate (64 * len - c.length) 0)

/-- One block of CPXP. -/
def expandBlock (c : CCtx) (d : CDie) (k : Nat) (u : Nat) : CM Nat := do
  let w ← copyReadMem c d (c.ent.opa + 8 * (c.ent.opb + BitVec.ofNat 64 k)) 8 (fun _ => u)
  let data (off n : Nat) : CM Nat := copyReadMem c d (c.ent.opa + BitVec.ofNat 64 (64 * off)) n (fun _ => u)
  match mapEntry (BitVec.ofNat 64 w) with
  | none => copyFail d u 5 (BitVec.ofNat 64 w)
  | some .zero => return 0
  | some (.raw off) => data off 4096
  | some (.lz len off) => do
    let v ← data off (64 * len)
    match lzDecode (bytesOf (64 * len) v) with
    | .error e => copyFail d u e.code (BitVec.ofNat 64 e.detail)
    | .ok bs => return ofBytes bs

/-! ### Chunks (R252) -/

/-- The unit of an address of a destination. -/
def unitOf (base : Word) (bits : Nat) (a : Word) : Nat := if bits = 0 then 0 else (a - base).toNat * 8 / bits

/-- Records from `i` on, each completing before the next begins (R267). -/
def relocFrom (c : CCtx) (d : CDie) (i : Nat) : Nat → CM Unit
  | 0 => return ()
  | n + 1 => do
    relocRecord c { d with unit := i } i
    modProg c (fun q => { q with done := smSet 0 q.done d.pos (i + 1) })
    relocFrom c d (i + 1) n

/-- One chunk of a command on the die at position `pos`, from unit `u`; it answers the units done. DEDUCED, log 30. The unit of a CPSHAD,
whose pages are in no die's block (R277), is the number of the page in its region. DESIGN CHOICE, log 58. -/
def copyWork (c : CCtx) (d : CDie) (u : Nat) : CM Nat := do
  let p := d.pos
  let n := Nat.min c.chunk (c.cap.vl - u)
  let eb := c.eb
  let at' (base : Word) (k : Nat) : Word := base + BitVec.ofNat 64 k
  let un := unitOf (c.dst p)
  match c.op with
  | .cpy =>
    let v ← copyRead c d c.sps (at' (c.src p) (u * eb)) (n * eb) (unitOf (c.src p) (8 * eb))
    copyWrite c d c.spd (at' (c.dst p) (u * eb)) (n * eb) v (un (8 * eb))
    return n
  | .cpfill =>
    let v := c.ent.opb.toNat % 2 ^ (8 * eb)
    let fill := (List.range n).foldl (fun acc _ => acc * 2 ^ (8 * eb) + v) 0
    copyWrite c d c.spd (at' (c.dst p) (u * eb)) (n * eb) fill (un (8 * eb))
    return n
  | .cpcvt =>
    let ws := fmtSew c.fmt
    let wd := fmtSew c.dfmt
    let v ← copyRead c d c.sps (at' (c.src p) (u * ws / 8)) ((n * ws + 7) / 8) (unitOf (c.src p) ws)
    let (r, fl, sat) := convertUnits ((← get).hart c.h) c d.die n u v
    let dn := (n * wd + 7) / 8
    let da := at' (c.dst p) (u * wd / 8)
    -- the last byte of an odd number of 4-bit elements is read and rewritten, once its granule is full: as it is when the bytes
    -- before it in the granule are written
    let r ← if n * wd % 8 = 0 then pure r else do
      let la := at' da (dn - 1)
      let old ← if c.spd then (do
          let s ← get
          if !s.isFull (coreOf c.h) d.die la.toNat && (la.toNat % 16 == 0 || decide (dn < 2)) then throw .blocked
          return (s.spByte (coreOf c.h) d.die la.toNat).toNat)
        else copyReadMem c d la 1 (un wd)
      pure (r + old / 16 * 16 * 256 ^ (dn - 1))
    copyWrite c d c.spd da dn r (un wd)
    modProg c (fun q => { q with flags := q.flags ||| fl, sat := q.sat + sat })
    return n
  | .cplz =>
    let v ← copyRead c d c.sps (at' (c.src p) (4096 * u)) 4096 (fun _ => u)
    let cur := smGet 0 (c.prog (← get)).cur p
    let (entry, start, data) := lzPlace (bytesOf 4096 v) cur ((c.dst p - c.ent.opb).toNat / 64)
    if !data.isEmpty then
      copyWriteMem c d (at' (c.dst p) (64 * start)) data.length (ofBytes data) (fun _ => u)
    copyWriteMem c d (at' c.ent.opb (8 * (p * c.cap.vl + u))) 8 (mapWord entry).toNat (fun _ => u)
    modProg c (fun q => { q with cur := smSet 0 q.cur p (start + data.length / 64) })
    return 1
  | .cpxp =>
    let v ← expandBlock c d (p * c.cap.vl + u) u
    copyWrite c d c.spd (at' (c.dst p) (4096 * u)) 4096 v (fun _ => u)
    return 1
  | .cpcrc | .cpcrc64 =>
    let v ← copyRead c d c.sps (at' (c.src p) (u * eb)) (n * eb) (unitOf (c.src p) (8 * eb))
    modProg c (fun q => { q with part := smPut q.part p (crcFold (crcPoly c.op) (n * eb) v (q.crcAt c.op c.ent.opb p)) })
    return n
  | .cprel =>
    relocFrom c d u (c.cap.vl - u)
    return c.cap.vl - u
  | .cpshad =>
    let page : Word := at' c.ent.opd (4096 * (u * c.cap.dies.length + p))
    let k := u * c.cap.dies.length + p
    let v ← copyReadMem c { d with shadow := false, unit := k } page 4096 (fun _ => k)
    copyWriteMem c { d with unit := k } page 4096 v (fun _ => k)
    return 1
  | .cpbl | .cpwait => return 0

/-- The units that the die at a position has to do: of CPSHAD none without a preload (R272). -/
def CCtx.total (c : CCtx) (s : State) (p : Nat) : Nat :=
  match c.op with
  | .cprel => if p = 0 then c.cap.vl else 0
  | .cpshad =>
    if !c.ent.opa.getLsbD 0 then 0
    else match (s.tenant (s.hart c.h).tenant).regions.find? (fun r => r.2.vbase = c.ent.opd.toNat) with
    | some r => (r.2.pages + c.cap.dies.length - 1 - p) / c.cap.dies.length
    | none => 0
  | .cpbl | .cpwait => 0
  | _ => c.cap.vl

/-- Whether the die at a position may take its next chunk: a CRC folds the die blocks in position order (R265). -/
def CCtx.turn (c : CCtx) (s : State) (prog : CopyProg) (p : Nat) : Bool :=
  decide (smGet 0 prog.done p < c.total s p) &&
  (match c.op with
   | .cpcrc | .cpcrc64 => (List.range p).all (fun i => decide (c.total s i ≤ smGet 0 prog.done i))
   | _ => true)

/-- The context of a started copy entry. -/
def copyCtx (h : Nat) (e : Entry) : Option CCtx :=
  match e.op, e.cap with
  | .copy op spd sps _ _, some cap => some { h := h, ent := e, op := op, spd := spd, sps := sps, cap := cap }
  | _, _ => none

/-- Whether an engine, one of the 16 of a die (R249), may take the chunk: all of a CPREL runs on one (R252). -/
def CopyProg.engineOk (q : CopyProg) (engine : Nat) : Bool := decide (engine < 16) && q.engine.all (· == engine)

/-- R252: an engine of the die at a position takes the next chunk of a command. A request that waits for a slot of the fault
queue is posted again (02 R65). DEDUCED, log 30. -/
def copyChunk (h uid pos engine : Nat) (s : State) : State :=
  match (s.hart h).queue.find? (fun e => e.uid = uid && e.st == .started) with
  | none => s
  | some e =>
    match copyCtx h e with
    | none => s
    | some c =>
      let waits := e.prog.held.any (fun r => e.prog.heldPos == pos && r.seq.isSome)
      if waits || e.prog.fail.isSome || !e.prog.engineOk engine || !(decide (pos < c.cap.dies.length)) || !c.turn s e.prog pos then s
      else
        let u := smGet 0 e.prog.done pos
        let d : CDie := { die := c.cap.dies.getD pos 0, pos := pos, engine := engine, unit := u }
        let put (s : State) (f : CopyProg → CopyProg) : State :=
          s.updHart h (fun x => x.updEntry uid (fun e => { e with prog := f e.prog }))
        let fixed (s : State) : State := if c.op == .cprel then put s (fun q => { q with engine := some engine }) else s
        let work : CM Nat := match e.prog.held with
          | some r => if e.prog.heldPos = pos then copyPost c pos r else copyWork c d u
          | none => copyWork c d u
        match work.run (fixed s) with
        | (.ok n, s) =>
          put s (fun q => { q with done := smSet 0 q.done pos (u + n), held := if q.heldPos = pos then none else q.held })
        | (.error .blocked, t) => { s with flits := t.flits }
        | (.error .held, s) => s
        | (.error (.failed t), s) => put s (fun q => { q with fail := some t, held := none })

/-- An uncorrectable error in the buffer of the engine that serves a die's next chunk ends the command with ENGINE_DATA (R278).
DESIGN CHOICE, log 18. -/
def copyUpset (h uid pos : Nat) (s : State) : State :=
  match (s.hart h).queue.find? (fun e => e.uid = uid && e.st == .started) with
  | none => s
  | some e =>
    match copyCtx h e with
    | none => s
    | some c =>
      if e.prog.fail.isSome || !(decide (pos < c.cap.dies.length)) || !c.turn s e.prog pos then s
      else
        let u := smGet 0 e.prog.done pos
        let u := if c.op == .cpshad then u * c.cap.dies.length + pos else u
        s.updHart h (fun x => x.updEntry uid (fun e => { e with prog := { e.prog with
          held := none, fail := some (engineFault (BitVec.ofNat 64 (2 ^ 63 + 0x0C)) (c.cap.dies.getD pos 0) u 0) } }))

/-- Every die takes chunks as far as it can: `fuel` rounds. -/
def pumpCopy (h uid n : Nat) : Nat → State → State
  | 0, s => s
  | k + 1, s =>
    let s' := (List.range n).foldl (fun s p => copyChunk h uid p 0 s) s
    if s' = s then s else pumpCopy h uid n k s'

/-! ### Commands -/

/-- Waits until every earlier copy command of the hart has completed (R272, R273, R275). -/
def waitCopies (e : Entry) : M Unit := do
  let x ← meM
  if x.queue.any (fun o => decide (o.uid < e.uid) && o.st != .complete &&
      (match o.op with | .copy .. => true | _ => false)) then block

/-- A region of the tenant, replaced. -/
def State.setRegion (s : State) (t i : Nat) (r : Region) : State :=
  let x := s.tenant t
  s.setTenant t { x with regions := smPut x.regions i r }

/-- A shadow status (R277). -/
def shadowFault {α : Type} (status : Nat) (detail : Word) : M α :=
  raiseEnd (engineFault (BitVec.ofNat 64 (2 ^ 63 + status)) 0 0 detail)

/-- The region whose VBASE an operand names. -/
def regionNamed (e : Entry) : M (Nat × Region) := do
  let s ← get
  match (s.tenant s.me.tenant).regions.find? (fun r => r.2.vbase = e.opd.toNat) with
  | some r => return r
  | none => shadowFault 8 e.opd

/-- CPBL (R271, R273). DEDUCED, log 30. -/
def runCpbl (e : Entry) : M Unit := do
  waitCopies e
  let (i, r) ← regionNamed e
  let s ← get
  if r.owner ≠ some s.cur then
    shadowFault 10 (match r.owner with | some h => BitVec.ofNat 64 (0x100 + h % 2 ^ 16) | none => 0)
  if r.spoiled then shadowFault 11 0
  modify (fun s => s.setRegion s.me.tenant i { r with side := !r.side, owner := none })

/-- The state change of CPSHAD (R271). DEDUCED, log 30. -/
def openShadow (e : Entry) : M Unit := do
  let (i, r) ← regionNamed e
  let s ← get
  match r.owner with
  | some h => if h ≠ s.cur then shadowFault 9 (BitVec.ofNat 64 (h % 2 ^ 16))
  | none => pure ()
  modify (fun s => s.setRegion s.me.tenant i { r with owner := some s.cur, spoiled := false })

/-- Marks shadows of the hart as spoiled (R271). -/
def spoil (rs : List Nat) : M Unit :=
  modify (fun s =>
    let t := s.me.tenant
    let x := s.tenant t
    s.setTenant t { x with
      regions := x.regions.map (fun (i, r) =>
        if rs.contains i && r.owner == some s.cur then (i, { r with spoiled := true }) else (i, r)) })

/-- The ranges of memory that a command has still to write: the rest of each die's block, the block map of a CPLZ, and of a CPREL, whose
records say what it writes, the base of the image. -/
def CCtx.unwritten (c : CCtx) (q : CopyProg) : List (Word × Nat) :=
  let block (p : Nat) : Word × Nat :=
    let u := smGet 0 q.done p
    let o := match c.op with
      | .cpcvt => u * fmtSew c.dfmt / 8
      | .cplz => 64 * smGet 0 q.cur p
      | .cpxp => 4096 * u
      | _ => u * c.eb
    (c.dst p + BitVec.ofNat 64 o, if c.cap.vl ≤ u then 0 else c.foot.1 - o)
  let blocks := if c.spd then [] else (List.range c.cap.dies.length).map block
  match c.op with
  | .cplz => (c.ent.opb, 8 * (c.cap.dies.length * c.cap.vl)) :: blocks
  | .cprel => [(c.ent.opd, 1)]
  | _ => blocks

/-- The shadows that a failed command spoils (R271): those that it accessed, and its shadow destination, which an aborted copy does not
publish though it had written nothing of it (02 R66, R68). DEDUCED, log 30. -/
def CCtx.spoils (c : CCtx) (q : CopyProg) (s : State) : List Nat :=
  match c.op with
  | .cpshad => ((s.tenant s.me.tenant).regions.filter (fun r => r.2.vbase = c.ent.opd.toNat)).map (·.1)
  | _ => q.shadow ++ (c.unwritten q).flatMap (fun r => s.regionsIn s.me.tenant q.openAt r.1 r.2)

/-- The LFSRs reseeded by a SEED that is not zero (R259). -/
def seedLfsrs (seed : BitVec 32) (dies : List Nat) (x : Hart) : Hart :=
  if seed = 0 then x
  else dies.foldl (fun x d => (List.range 16).foldl (fun x j =>
    let v := seed ^^^ BitVec.ofNat 32 (16 * d + j)
    x.setCopyLfsr d j (if v = 0 then 1 else v)) x) x

/-- The LFSRs advanced by a completed command under SR (R259). -/
def advanceLfsrs (vl : Nat) (dies : List Nat) (x : Hart) : Hart :=
  dies.foldl (fun x d => (List.range (Nat.min 16 vl)).foldl (fun x j =>
    x.setCopyLfsr d j (lfsrSteps ((vl - j + 15) / 16) (x.copyLfsrAt d j))) x) x

/-- What a completed command leaves: flags and saturations, LFSRs, the CRC (R258, R259, R265). DEDUCED, log 30. -/
def copyFinish (c : CCtx) (prog : CopyProg) : M Unit := do
  match c.op with
  | .cpcvt =>
    addSat prog.sat
    updMeM (fun x =>
      let x := { x with fflags := x.fflags ||| prog.flags }
      match c.rm with
      | .sr => advanceLfsrs c.cap.vl c.cap.dies x
      | _ => x)
  | .cpcrc | .cpcrc64 =>
    setResult c.ent (crcNot c.op (prog.crcAt c.op c.ent.opb (c.cap.dies.length - 1))).toNat
  | _ => pure ()

/-- The slots of a lane die that started copy commands hold; each die has 512 (R252). -/
def State.copySlots (s : State) (d : Nat) : Nat :=
  s.harts.foldl (fun n (p : Nat × Hart) => n + p.2.queue.countP (fun e =>
    e.st == .started && (match e.op with | .copy .. => true | _ => false) && e.cap.any (fun c => c.dies.contains d))) 0

/-- The wait for a slot on each of a command's dies (R252); with VL = 0 a command completes at once (R250), but for CPSHAD, which has
no use for VL. -/
def slotWait (op : CopyOp) (cap : Cap) : M Unit := do
  let s ← get
  if (cap.vl ≠ 0 || op == .cpshad) && cap.dies.any (fun d => decide (512 ≤ s.copySlots d)) then block

/-- A command that a trap stopped takes its slots again and goes on (R279, R252). -/
def copyRestart (e : Entry) (op : CopyOp) (cap : Cap) : M Unit := do
  slotWait op cap
  updMeM (fun x => x.updEntry e.uid (fun e => { e with st := .started }))

/-- The start of a copy command: its captures and checks (R250, R254), and a slot on each of its dies (R252). The checks of R254 are made
with VL = 0 too; CPXP and CPREL zero VSTART as R256 says of CPY and CPFILL, and the other commands leave it; a SEED that is not
zero reseeds the LFSRs whatever the rounding mode; CPSHAD, whose word names no selector, captures 0xFF, every enabled die. DEDUCED, log
30; DESIGN CHOICE, log 58. -/
def copyStart (e : Entry) (op : CopyOp) (spd sps : Bool) (ds : Nat) : M Unit := do
  let s ← get
  let x := s.me
  let sel : Word := match op with | .cpshad => 0xFF | _ => x.dsel ds
  let cap : Cap := { vl := x.vl.toNat, vtype := x.vtype, sel := sel, dies := s.dies sel }
  let c : CCtx := { h := s.cur, ent := e, op := op, spd := spd, sps := sps, cap := cap }
  if !c.ok then raise (illegal e.word 4)
  slotWait op cap
  match op with
  | .cpcvt =>
    -- commands of one hart consume the steps of the LFSRs in QSN order
    if c.rm == .sr || c.seed != 0 then
      if x.queue.any (fun o => decide (o.uid < e.uid) && o.st != .complete &&
          (match o.op with | .copy .cpcvt .. => true | _ => false)) then block
      updMeM (seedLfsrs c.seed cap.dies)
  | .cpshad =>
    waitCopies e
    openShadow e
  | _ => pure ()
  let p0 ← if op.fromVstart then startIndex e else pure 0
  if op.fromVstart then vstart0
  beginAt e p0
  let regions := (← get).openRegions s.cur
  updMeM (fun x => x.updEntry e.uid (fun e => { e with
    cap := some cap
    prog := { openAt := regions, done := (List.range cap.dies.length).foldl (fun m p => smSet 0 m p p0) [] } }))

/-- The completion of a command, or its failure, crosses from its dies to CD, and waits while a link holds it up (10 R354). -/
def reportBack (c : CCtx) : M Unit := do
  let s ← get
  let w : Sender := { owner := .entry c.h c.ent.qsn, payer := s.me.ctlPayer, cls := .ctl }
  match c.cap.dies.flatMap (fun d => s.shutHops w d 8) with
  | hop :: _ =>
    set (s.noteFlit hop)
    block
  | [] => return ()

/-- COPY. A command that ends with a fault leaves FFLAGS, SATCNT and the copy LFSRs as they are (R258, R259 speak of the completed
command). DESIGN CHOICE, log 58. -/
def runCopy (e : Entry) (op : CopyOp) (spd sps : Bool) (ds : Nat) : M Unit := do
  match op with
  | .cpwait => waitCopies e
  | .cpbl => runCpbl e
  | _ =>
    if e.st == .waiting then
      match e.cap with
      | some cap => copyRestart e op cap
      | none => copyStart e op spd sps ds
    let s ← get
    if !s.me.lag then
      match s.me.queue.find? (fun o => o.uid = e.uid) with
      | some o =>
        let dies := match o.cap with
          | some c => c.dies.length
          | none => 0
        set (pumpCopy s.cur e.uid dies (2 ^ 21) s)
      | none => pure ()
    let s ← get
    match s.me.queue.find? (fun o => o.uid = e.uid) with
    | none => return ()
    | some o =>
      match copyCtx s.cur o with
      | none => return ()
      | some c =>
        let doing := (List.range c.cap.dies.length).any (fun p => decide (smGet 0 o.prog.done p < c.total s p))
        if o.prog.fail.isNone && doing then block
        reportBack c
        match o.prog.fail with
        | some t =>
          spoil (c.spoils o.prog s)
          raiseEnd t
        | none => copyFinish c o.prog

end Sys2Proof.Machine
end

