-- ==== Sys2Proof/Machine/Storage.lean ====
section
/-!
DEFINITION. The storage engine (09 R314 to R333): queue pairs, the storage instructions, requests of the drives, protection
information, and the creation and deletion of pairs.
-/

namespace Sys2Proof.Machine

/-! ### Pairs (R316) -/

def Pair.field (p : Pair) (byte n : Nat) : Nat := (p.desc.extractLsb' (8 * byte) (8 * n)).toNat
def Pair.tenant (p : Pair) : Nat := p.field 2 1 % 16
def Pair.port (p : Pair) : Nat := p.field 2 1 / 16 % 4
def Pair.pimode (p : Pair) : Nat := p.field 3 1 % 4
def Pair.pigen (p : Pair) : Bool := p.desc.getLsbD 26
def Pair.pichk (p : Pair) : Bool := p.desc.getLsbD 27
def Pair.rid (p : Pair) : Nat := p.field 4 2
def Pair.nsid (p : Pair) : Nat := p.field 8 4
/-- The number of submission and of completion entries. -/
def Pair.sqn (p : Pair) : Nat := p.field 12 2 + 1
def Pair.cqn (p : Pair) : Nat := p.field 14 2 + 1
def Pair.sqbase (p : Pair) : Word := p.desc.extractLsb' 128 64
def Pair.cqbase (p : Pair) : Word := p.desc.extractLsb' 192 64
def Pair.wbase (p : Pair) : Word := p.desc.extractLsb' 256 64
def Pair.wsize (p : Pair) : Nat := p.field 40 8
def Pair.lbs (p : Pair) : Nat := 2 ^ p.field 48 1
/-- The bytes of a protection tuple. -/
def Pair.tuple (p : Pair) : Nat := if p.pimode = 2 then 16 else 8

def State.setPair (s : State) (h : Nat) (p : Pair) : State := { s with pairs := smPut s.pairs h p }

/-- A storage event of a tenant raises the interrupt that its EVVEC names (R318, R333). -/
def State.pairEvent (s : State) (t h : Nat) : State := s.raiseIrq (s.tenant t).evvec.toNat h

/-! ### Submission entries (R315, R323) PRESUMED, log 20. -/

def sqeField (e : BitVec 512) (byte n : Nat) : Nat := (e.extractLsb' (8 * byte) (8 * n)).toNat
def sqeOpcode (e : BitVec 512) : Nat := sqeField e 0 1
def sqeFuse (e : BitVec 512) : Nat := sqeField e 1 1 % 4
def sqePsdt (e : BitVec 512) : Nat := sqeField e 1 1 / 64
def sqeCid (e : BitVec 512) : Nat := sqeField e 2 2
def sqeMptr (e : BitVec 512) : Nat := sqeField e 16 8
def sqePrp1 (e : BitVec 512) : Nat := sqeField e 24 8
def sqePrp2 (e : BitVec 512) : Nat := sqeField e 32 8
def sqeBlocks (e : BitVec 512) : Nat := sqeField e 48 2 + 1
def sqePract (e : BitVec 512) : Bool := e.getLsbD 413

/-- The bytes that a command transfers between memory and the drive. -/
def sqeBytes (p : Pair) (e : BitVec 512) : Nat :=
  match sqeOpcode e with
  | 0x01 | 0x02 | 0x05 => sqeBlocks e * p.lbs
  | 0x09 => (sqeField e 40 1 + 1) * 16
  | _ => 0

/-- The window offset of a bus address of a pair, when `n` bytes from it lie in the window (R317, R323). -/
def windowOff (h : Nat) (p : Pair) (b n : Nat) : Option Nat :=
  let off := b % 2 ^ 40
  if b / 2 ^ 60 = 0xD ∧ b / 2 ^ 50 % 1024 = h ∧ b / 2 ^ 40 % 1024 = 0 ∧ off + n ≤ p.wsize then some off else none

/-- Whether protection information is to be generated for an entry (R327). -/
def piDue (p : Pair) (e : BitVec 512) : Bool :=
  p.pimode != 0 && p.pigen && sqeOpcode e == 0x01 && !sqePract e

/-- R323: the reason for which an entry is rejected; `cids` are those outstanding. PRESUMED, log 20. -/
def sqeReject (h : Nat) (p : Pair) (cids : List Nat) (e : BitVec 512) : Option Nat :=
  let n := sqeBytes p e
  let off1 := sqePrp1 e % 4096
  let bad3 :=
    if n = 0 then false
    else match sqePsdt e with
      | 0 =>
        (windowOff h p (sqePrp1 e) 1).isNone || decide (sqePrp1 e % 4 ≠ 0) ||
        (decide (off1 + n > 4096) && (windowOff h p (sqePrp2 e) 1).isNone)
      | 1 => (windowOff h p (sqePrp1 e) (sqeField e 32 4)).isNone
      | _ => false
  let type := sqeField e 39 1 / 16
  if !([0x00, 0x01, 0x02, 0x05, 0x08, 0x09].contains (sqeOpcode e)) then some 1
  else if sqeField e 4 4 ≠ p.nsid then some 2
  else if bad3 then some 3
  else if decide (2 ≤ sqePsdt e) || (sqePsdt e == 1 && !(type == 0 || type == 2 || type == 3)) || sqeFuse e != 0 then some 4
  else if cids.contains (sqeCid e) then some 5
  else if piDue p e && (sqePsdt e != 0 || (windowOff h p (sqeMptr e) (sqeBlocks e * p.tuple)).isNone) then some 6
  else none

/-! ### Memory as the engine reads it -/

/-- The agent of the engine's accesses for a pair. The SOURCE of the denial log (02 R69), which names harts and copy engines alone, is 0 for
it. DESIGN CHOICE, log 19. -/
def pairAgent (p : Pair) : Agent := { tenant := p.tenant }

/-- The pages of a PRP list that cover `n` bytes: bus address and length of each part. `rd` reads bytes at a bus address.
PRESUMED, log 20. -/
def prpList {m : Type → Type} [Monad m] (rd : Nat → Nat → m Nat) : Nat → Nat → Nat → m (List (Nat × Nat))
  | 0, _, _ => return []
  | fuel + 1, at', n =>
    if n = 0 then return []
    else do
      let e ← rd at' 8
      -- the last entry of a page of a list points to the next list while more follow
      if at' % 4096 = 4088 ∧ n > 4096 then prpList rd fuel e n
      else return (e, Nat.min n 4096) :: (← prpList rd fuel (at' + 8) (n - 4096))

/-- The data parts of an SGL: descriptors at a bus address, `len` bytes of them, for `n` bytes of data. PRESUMED, log 20. -/
def sglParts {m : Type → Type} [Monad m] (rd : Nat → Nat → m Nat) : Nat → Nat → Nat → Nat → m (List (Nat × Nat))
  | 0, _, _, _ => return []
  | fuel + 1, at', len, n =>
    if n = 0 ∨ len < 16 then return []
    else do
      let a ← rd at' 8
      let l ← rd (at' + 8) 4
      let type := (← rd (at' + 15) 1) / 16
      if type = 2 ∨ type = 3 then sglParts rd fuel a l n
      else return (a, Nat.min l n) :: (← sglParts rd fuel (at' + 16) (len - 16) (n - l))

/-- The parts of a command's data in memory, in order (R315). -/
def dataParts {m : Type → Type} [Monad m] (rd : Nat → Nat → m Nat) (p : Pair) (e : BitVec 512) : m (List (Nat × Nat)) :=
  let n := sqeBytes p e
  if sqePsdt e = 1 then
    let type := sqeField e 39 1 / 16
    if type = 0 then return [(sqePrp1 e, Nat.min (sqeField e 32 4) n)]
    else sglParts rd (2 ^ 20) (sqePrp1 e) (sqeField e 32 4) n
  else
    let first := Nat.min n (4096 - sqePrp1 e % 4096)
    let rest := n - first
    if rest = 0 then return [(sqePrp1 e, first)]
    else if rest ≤ 4096 then return [(sqePrp1 e, first), (sqePrp2 e, rest)]
    else do return (sqePrp1 e, first) :: (← prpList rd (2 ^ 20) (sqePrp2 e) rest)

/-- The bus addresses of the data, byte by byte. -/
def dataBytes (parts : List (Nat × Nat)) : List Nat :=
  parts.flatMap (fun p => (List.range p.2).map (fun i => p.1 + i))

/-! ### Guards (R327, R328) -/

/-- The 16-bit guard: polynomial 0x8BB7, initial value 0, unreflected. PRESUMED, log 20. -/
def guard16 : List Nat → BitVec 16 → BitVec 16
  | [], v => v
  | b :: bs, v =>
    let v := v ^^^ (BitVec.ofNat 16 b <<< 8)
    guard16 bs ((List.range 8).foldl (fun v _ => if v.getLsbD 15 then (v <<< 1) ^^^ 0x8BB7 else v <<< 1) v)

/-- The 64-bit guard: CPCRC64 with seed 0. PRESUMED, log 20. -/
def guard64 (bytes : List Nat) : BitVec 64 :=
  crcNot .cpcrc64 (bytes.foldl (fun v b => crcFold (crcPoly .cpcrc64) 1 b v) (crcNot .cpcrc64 0))

/-- The guard field of a block's tuple: its bytes, big-endian, as the number that memory holds little-endian. -/
def guardOf (p : Pair) (bytes : List Nat) : Nat × Nat :=
  let (n, v) := if p.pimode = 2 then (8, (guard64 bytes).toNat) else (2, (guard16 bytes 0).toNat)
  (n, (List.range n).foldl (fun acc i => acc * 256 + v / 256 ^ i % 256) 0)

/-! ### The instructions (R319 to R326) -/

/-- A storage fault (R329): the entry is complete. -/
def storFault {α : Type} (status : Nat) (operand slot detail : Nat) : M α :=
  raiseEnd { code := 0x11, i0 := BitVec.ofNat 64 (2 ^ 62 + status), i1 := BitVec.ofNat 64 operand
             i2 := BitVec.ofNat 64 slot, i3 := BitVec.ofNat 64 detail }

/-- R320: the checks of the handle operand; the pair. -/
def checkPair (x : Nat) (selector active : Bool) : M (Nat × Pair) := do
  let s ← get
  let sel := x / 2 ^ 16 % 4
  if x ≥ 2 ^ 18 || x / 2 ^ 10 % 64 ≠ 0 || (!selector && sel != 0) || decide (2 ≤ sel) then storFault 1 x 0 x
  match smFind s.pairs (x % 1024) with
  | none => storFault 2 x 0 0xFF
  | some p =>
    if p.tenant ≠ s.me.tenant then storFault 2 x 0 p.tenant
    if active && p.state ≠ 1 then storFault 3 x 0 p.state
    return (x % 1024, p)

/-- Bytes read at a virtual address for a storage entry, with precise faults whose TINFO2 is a slot (R321). -/
def storRead (e : Entry) (va : Word) (n slot : Nat) : M Nat := do
  let s ← get
  let ag := { s.agent s.cur e.qsn with at' := 8 }
  if s.rangeHeld ag s.cur e.qsn va n .load then block
  match engineRead ag va n s with
  | (.ok v, s) =>
    set s
    return v
  | (.error (_, .paused _), s) =>
    set s
    block
  | (.error (a, err), s) =>
    set s
    raise (faultTrap a .load slot err)

/-- The entries of an NRING captured and checked: slot and bytes of each. -/
def captureEntries (e : Entry) (h : Nat) (p : Pair) : Nat → Nat → List Nat → M (List (Nat × BitVec 512))
  | 0, _, _ => return []
  | n + 1, j, cids => do
    let i := (p.sqtail + j) % p.sqn
    let v ← storRead e (p.sqbase + BitVec.ofNat 64 (64 * i)) 64 i
    let q : BitVec 512 := BitVec.ofNat 512 v
    match sqeReject h p cids q with
    | some r => storFault 6 e.opd.toNat i r
    | none =>
      let rest ← captureEntries e h p n (j + 1) (sqeCid q :: cids)
      return (i, q) :: rest

/-- `n` bytes at a bus address, read through the window for a storage entry, with precise faults (R321); a free value for an address that
is none of the window, of which only the drive's own request is refused (R323). DEDUCED, log 20. -/
def windowRead (e : Entry) (h : Nat) (p : Pair) (slot b n : Nat) : M Nat :=
  match windowOff h p b n with
  | some o => storRead e (p.wbase + BitVec.ofNat 64 o) n slot
  | none => return (List.range n).foldr (fun i acc => (Config.freeByte h (b + i)).toNat + 256 * acc) 0

/-- Whether the engine checks the guards of a pair's Reads (R328), and those of an entry. -/
def Pair.checksPi (p : Pair) : Bool := p.pimode != 0 && p.pichk
def Pair.checks (p : Pair) (q : BitVec 512) : Bool := p.checksPi && sqeOpcode q == 0x02 && !sqePract q

/-- R321: the NRINGs of a pair are processed one at a time, in the order in which they reach the engine. One that was stopped has left. -/
def ringTurn (e : Entry) (h : Nat) (p : Pair) : M Unit := do
  let s ← get
  let at' (r : Nat × Nat) : Bool :=
    (s.hart r.1).run == .running && (s.hart r.1).queue.any (fun o => o.uid == r.2 && o.st == .started)
  let me := (s.cur, e.uid)
  let rs := p.ringers.filter at'
  let rs := if rs.contains me then rs else rs ++ [me]
  modify (fun s => s.setPair h { p with ringers := rs })
  if rs.head? ≠ some me then block

/-- R327: the guards of one captured Write, block by block. -/
def generateGuards (e : Entry) (h : Nat) (p : Pair) (slot : Nat) (q : BitVec 512) : M Unit := do
  let bytes := dataBytes (← dataParts (windowRead e h p slot) p q)
  for k in List.range (sqeBlocks q) do
    let blk := (bytes.drop (k * p.lbs)).take p.lbs
    let data ← blk.mapM (fun b => windowRead e h p slot b 1)
    let (n, v) := guardOf p data
    let va := p.wbase + BitVec.ofNat 64 (sqeMptr q % 2 ^ 40 + k * p.tuple)
    let s ← get
    match deviceWrite { s.agent s.cur e.qsn with at' := 8 } va n v s with
    | (.ok (), s) => set s
    | (.error (_, .paused _), s) =>
      set s
      block
    | (.error (a, err), s) =>
      set s
      raise (faultTrap a .store slot err)

/-- NRING (R321). -/
def runNring (e : Entry) : M Unit := do
  let (h, p) ← checkPair e.opd.toNat false true
  ringTurn e h p
  let t := e.opa.toNat
  if t ≥ p.sqn then storFault 4 e.opd.toNat 0 t
  let n := (t + p.sqn - p.sqtail) % p.sqn
  let out := (((p.sqtail : Int) - p.sqhead) % p.sqn).toNat
  if out + n ≥ p.sqn then storFault 5 e.opd.toNat 0 t
  let es ← captureEntries e h p n 0 (p.cmds.map (·.1))
  for q in es do
    if piDue p q.2 then generateGuards e h p q.1 q.2
  modify (fun s => { s.setPair h { p with
      sqtail := t
      captured := es.foldl (fun m q => smPut m q.1 q.2) p.captured
      cmds := es.foldl (fun m q => smPut m (sqeCid q.2) q.2) p.cmds
      rang := es.foldl (fun m q => smPut m (sqeCid q.2) (s.me.fkey, e.uid)) p.rang
      lists := es.foldl (fun m q => if p.checks q.2 then smPut m (sqeCid q.2) [] else m) p.lists
      ringers := p.ringers.filter (· ≠ (s.cur, e.uid)) } with
    doorbells := s.doorbells ++ [{ pair := h, cq := false, value := t }] })

/-- NCQHD (R325). -/
def runNcqhd (e : Entry) : M Unit := do
  let (h, p) ← checkPair e.opd.toNat false true
  let v := e.opa.toNat
  if v ≥ p.cqn then storFault 7 e.opd.toNat 0 v
  let r := (v + p.cqn - p.cqhead) % p.cqn
  if r > p.written then storFault 7 e.opd.toNat 0 v
  modify (fun s => { s.setPair h { p with
      cqhead := v, written := p.written - r, phase := if v < p.cqhead then !p.phase else p.phase } with
    doorbells := s.doorbells ++ [{ pair := h, cq := true, value := v }] })

/-- The status word of NQSTAT (R322). -/
def nqWord (p : Pair) : Nat :=
  p.state * 2 ^ 62 + (if p.wfault then 2 ^ 61 else 0) + (if p.phase then 2 ^ 60 else 0) +
  p.cqhead * 2 ^ 32 + p.sqhead * 2 ^ 16 + p.sqtail

/-- NQSTAT (R322). -/
def runNqstat (e : Entry) : M Unit := do
  let (h, p) ← checkPair e.opa.toNat true false
  if e.opa.toNat / 2 ^ 16 % 4 = 1 then
    modify (fun s => s.setPair h { p with fault := 0 })
    setResult e p.fault.toNat
  else setResult e (nqWord p)

/-- NCQPOLL (R326). DEDUCED, log 36. -/
def runNcqpoll (e : Entry) : M Unit := do
  let (_, p) ← checkPair e.opa.toNat false true
  let v ← storRead e (p.cqbase + BitVec.ofNat 64 (16 * p.cqhead + 8)) 8 0
  if decide (v / 2 ^ 48 % 2 = 1) != p.phase then block
  setResult e (v % 2 ^ 32 * 2 ^ 32 + v / 2 ^ 32)

/-- STOR. -/
def runStor (e : Entry) (op : StorOp) : M Unit :=
  match op with
  | .nring => runNring e
  | .ncqhd => runNcqhd e
  | .nqstat => runNqstat e
  | .ncqpoll => runNcqpoll e

/-! ### Requests of the drives (R317, R318) -/

/-- Translation, permission and ownership of a drive request; host pages are refused before their owner is asked for (R318). -/
def resolveDrive (ag : Agent) (k : Acc) : List (Word × Nat) → State → Except AccErr (List (Nat × Nat)) × State
  | [], s => (.ok [], s)
  | (va, n) :: rest, s =>
    match translate ag va k s with
    | (.error e, s) => noted (.error e, s)
    | (.ok g, s') =>
      if g.attr = 3 then (.error (.xlat 7 0), s')
      else match resolve ag false va n k s with
        | (.error e, s) => (.error e, s)
        | (.ok p, s) =>
          match resolveDrive ag k rest s with
          | (.error e, s) => (.error e, s)
          | (.ok ps, s) => (.ok ((p.pa, n) :: ps), s)

/-- R318: a failed request: Completer Abort, the fault word and WFAULT of the pair that the address names, the interrupt. -/
def refuseDrive (h : Nat) (addr : BitVec 64) (write : Bool) (reason : Nat) (s : State) : State :=
  let s := { s with driveReplies := s.driveReplies ++ [none] }
  match smFind s.pairs h with
  | some p =>
    if p.state = 1 ∨ p.state = 3 then
      let word := reason * 2 ^ 56 + addr.toNat / 2 ^ 60 * 2 ^ 52 + (if write then 2 ^ 40 else 0) + addr.toNat % 2 ^ 40
      (s.setPair h { p with fault := BitVec.ofNat 64 word, wfault := true }).pairEvent p.tenant h
    else s
  | none => s

/-- A byte behind a bus address as the drive wrote it last: a free value where it wrote none. DEDUCED, log 20. -/
def Pair.wroteByte (h : Nat) (p : Pair) (b : Nat) : Nat :=
  match (windowOff h p b 1).bind (smFind p.wrote) with
  | some v => v.toNat
  | none => (Config.freeByte h b).toNat

/-- Bytes that the drive has read, from a window offset on, noted for the Reads whose guards are to be checked; of a byte read twice since
its NRING the first is a Read's. DEDUCED, log 20. -/
def Pair.noteRead (p : Pair) (off len v : Nat) : Pair :=
  let note (m : SMap (BitVec 8)) : SMap (BitVec 8) :=
    (List.range len).foldl (fun m i => smPut m (off + i) (smGet (BitVec.ofNat 8 (v / 256 ^ i)) m (off + i))) m
  { p with lists := p.lists.map (fun l => (l.1, note l.2)) }

/-- The parts of a Read's data, as the drive read them (R323): a free value where it read no list. DEDUCED, log 20. -/
def readParts (h : Nat) (p : Pair) (q : BitVec 512) : List (Nat × Nat) :=
  let byte (b : Nat) : Nat := match (windowOff h p b 1).bind (smFind (smGet [] p.lists (sqeCid q))) with
    | some v => v.toNat
    | none => (Config.freeByte h b).toNat
  let rd (b n : Nat) : Nat := (List.range n).foldr (fun i acc => byte (b + i) + 256 * acc) 0
  Id.run (dataParts (fun b n => pure (rd b n)) p q)

/-- Whether the guards of a successful Read disagree: over the data and the tuples that the drive wrote (R328). -/
def guardsDiffer (h : Nat) (p : Pair) (q : BitVec 512) : Bool :=
  let bytes := dataBytes (readParts h p q)
  (List.range (sqeBlocks q)).any (fun k =>
    let data := ((bytes.drop (k * p.lbs)).take p.lbs).map (p.wroteByte h)
    let (n, v) := guardOf p data
    decide ((List.range n).foldr (fun i acc => p.wroteByte h (sqeMptr q + k * p.tuple + i) + 256 * acc) 0 ≠ v))

/-- The window offsets of a Read's data and tuples, whose bytes need be kept no longer once its entry is written. -/
def readOffsets (h : Nat) (p : Pair) (q : BitVec 512) : List Nat :=
  (dataBytes (readParts h p q) ++
    (List.range (sqeBlocks q * p.tuple)).map (sqeMptr q + ·)).filterMap (fun b => windowOff h p b 1)

/-- A completion entry as it reaches memory: unchanged, or with the status of a guard error (R328). -/
def checkedEntry (h : Nat) (p : Pair) (v : Nat) : Nat :=
  match smFind p.cmds (v / 2 ^ 96 % 2 ^ 16) with
  | some q =>
    let dw3 := v / 2 ^ 96
    if p.checks q = true ∧ dw3 / 2 ^ 17 % 2 ^ 11 = 0 ∧ guardsDiffer h p q = true then v + (0x82 + 2 * 2 ^ 8) * 2 ^ 113
    else v
  | none => v

/-- A completion entry is noted: SQ head, entries written, the captured entry freed (R322, R324). -/
def noteEntry (p : Pair) (v : Nat) : Pair :=
  let cid := v / 2 ^ 96 % 2 ^ 16
  { p with
    sqhead := v / 2 ^ 64 % 2 ^ 16
    written := p.written + 1
    captured := p.captured.filter (fun c => sqeCid c.2 ≠ cid || (smFind p.cmds cid) != some c.2)
    cmds := smErase p.cmds cid
    rang := smErase p.rang cid
    lists := smErase p.lists cid }

/-- The completion entries of a write to the completion queue, checked and noted. PRESUMED, log 20. -/
def completionEntries (h : Nat) : Nat → Pair → Nat → Pair × Nat
  | 0, p, _ => (p, 0)
  | n + 1, p, v =>
    let w := checkedEntry h p (v % 2 ^ 128)
    let p := match smFind p.cmds (v / 2 ^ 96 % 2 ^ 16) with
      | some q => if p.checks q then
            { p with wrote := (readOffsets h p q).foldl (fun m o => smErase m o) p.wrote }
          else p
      | none => p
    let (p', rest) := completionEntries h n (noteEntry p w) (v / 2 ^ 128)
    (p', w + 2 ^ 128 * rest)

/-- A captured submission entry's bytes for a read of the queue (R324). -/
def capturedBytes (p : Pair) (h : Nat) : Nat → Nat → Nat
  | _, 0 => 0
  | o, n + 1 =>
    let b := match smFind p.captured (o / 64) with
      | some e => sqeField e (o % 64) 1
      | none => (Config.freeByte h o).toNat
    b + 256 * capturedBytes p h (o + 1) n

/-- R318: a request of a drive served, unless a link holds an access of it up. One that comes over another port than the pair's is refused
whatever its requester ID, since RID names a controller on PORT (R316). A write to the completion queue that is not of whole aligned
entries stores its bytes, and counts and frees no entry (R325). DESIGN CHOICE, log 19 and 20. -/
def DriveReq.serve (r : DriveReq) (s : State) : State :=
  let addr := r.addr
  let write := r.write
  let len := r.len
  let a := addr.toNat
  let tag := a / 2 ^ 60
  let h := a / 2 ^ 50 % 1024
  let off := a % 2 ^ 40
  match smFind s.pairs h with
  | none => refuseDrive h addr write 0x10 s
  | some p =>
    let size := if tag = 0xD then p.wsize else if tag = 0xE then 64 * p.sqn else 16 * p.cqn
    let base := if tag = 0xD then p.wbase else if tag = 0xE then p.sqbase else p.cqbase
    if !(p.state == 1 || p.state == 3) || p.rid ≠ r.rid.toNat || p.port ≠ r.port || tag < 0xD || tag > 0xF ||
        a / 2 ^ 40 % 1024 ≠ 0 || off + len > size || (write && tag == 0xE) || (!write && tag == 0xF) ||
        (p.state == 3 && (s.tenant p.tenant).status == .resetting) then
      refuseDrive h addr write 0x10 s
    else
      let va := base + BitVec.ofNat 64 off
      let ag := { pairAgent p with at' := 8 }
      match resolveDrive ag (if write then .store else .load) (allParts (len / 4096 + 2) va len) s with
      | (.error (.paused _), s) => s
      | (.error e, s) => refuseDrive h addr write e.reason s
      | (.ok ps, s) =>
        if write then
          let v := ofBytes (r.data.take len)
          let p := if tag = 0xD ∧ p.checksPi then
              { p with wrote := (r.data.take len).zipIdx.foldl (fun m (b, i) => smPut m (off + i) b) p.wrote }
            else p
          let (p', v') := if tag = 0xF ∧ off % 16 = 0 ∧ len % 16 = 0 then completionEntries h (len / 16) p v else (p, v)
          let s := (putParts ag .drive (0x2000 + h) ps v' s).setPair h p'
          { s with driveReplies := s.driveReplies ++ [some 0] }
        else if tag = 0xE then { s with driveReplies := s.driveReplies ++ [some (capturedBytes p h off len)] }
        else
          match engineRead ag va len s with
          | (.ok v, s) => { s.setPair h (p.noteRead off len v) with driveReplies := s.driveReplies ++ [some v] }
          | (.error (_, .paused _), s) => s
          | (.error (_, e), s) => refuseDrive h addr write e.reason s

/-- The requests of a drive are served in the order in which they arrive: one that a link holds up waits, and those after it
(R330, 10 R354). -/
def serveInTurn (done : List DriveReq) : List DriveReq → State → State
  | [], s => { s with driveWait := done }
  | r :: rs, s =>
    if done.any (fun o => o.port == r.port && o.rid == r.rid) then serveInTurn (done ++ [r]) rs s
    else match s.attempt (driveFlit r.port r.rid.toNat) (fun s => ((), r.serve s)) with
      | (some _, s) => serveInTurn done rs s
      | (none, s) => serveInTurn (done ++ [r]) rs s

/-- DRIVE_REQUEST (R318): a request of a drive of `len` bytes; a write carries `data`. -/
def driveServe (port : Nat) (rid : BitVec 16) (addr : BitVec 64) (write : Bool) (len : Nat) (data : List Byte)
    (s : State) : State :=
  serveInTurn [] (s.driveWait ++ [{ port := port, rid := rid, addr := addr, write := write, len := len, data := data }]) s

/-! ### Creation, errors, deletion (R316, R332, R333) -/

/-- The conditions on the fields of a descriptor (R316). -/
def pairOk (p : Pair) : Bool :=
  decide (p.field 0 2 < 1024) && decide (p.field 2 1 < 64) && decide (p.field 3 1 < 16) && decide (p.pimode < 3) &&
  decide (1 ≤ p.field 6 2) && decide (2 ≤ p.sqn) && decide (2 ≤ p.cqn) &&
  decide (p.sqbase.toNat % 4096 = 0) && decide (p.cqbase.toNat % 4096 = 0) && decide (p.wbase.toNat % 4096 = 0) &&
  decide (p.wsize % 4096 = 0) && decide (4096 ≤ p.wsize) && decide (p.wsize ≤ 2 ^ 40) &&
  decide (9 ≤ p.field 48 1) && decide (p.field 48 1 ≤ 16) && p.desc.extractLsb' 392 120 == 0

/-- Bytes of a queue zeroed page by page; whether every page could be written. -/
def zeroPages (ag : Agent) : List (Word × Nat) → State → Bool × State
  | [], s => (true, s)
  | (va, n) :: rest, s =>
    match deviceWrite ag va n 0 s with
    | (.error _, s) => (false, s)
    | (.ok (), s) => zeroPages ag rest s

/-- PAIR_CREATE (R316): the status of R384. Of several failures the first of these is reported: FORMAT of the descriptor, NOENT, STATE, FORMAT
of the queue memory. DESIGN CHOICE, log 19. -/
def createPair (desc : BitVec 512) (s : State) : Nat × State :=
  let p : Pair := { desc := desc }
  let h := p.field 0 2
  if !pairOk p then (0x82, s)
  else if (s.tenant p.tenant).status ≠ .active then (0x89, s)
  else match smFind s.drives (p.port * 2 ^ 16 + p.rid) with
    | none => (0x89, s)
    | some accepts =>
      if (smFind s.pairs h).isSome || !accepts then (0x8A, s)
      else
        let ag := pairAgent p
        match zeroPages ag (allParts 1025 p.sqbase (64 * p.sqn)) s with
        | (false, s) => (0x82, s)
        | (true, s) =>
          match zeroPages ag (allParts 257 p.cqbase (16 * p.cqn)) s with
          | (false, s) => (0x82, s)
          | (true, s) => (0, s.setPair h p)

/-- PAIR_ERROR (R316, R333), as it also comes about when the drive leaves the link. -/
def pairFails (h : Nat) (s : State) : State :=
  match smFind s.pairs h with
  | some p => if p.state = 1 then (s.setPair h { p with state := 2 }).pairEvent p.tenant h else s
  | none => s

/-- A drive function leaves the link (R316): no function answers there any more, and its pairs are in ERROR. DESIGN CHOICE, log 19. -/
def detachDrive (port rid : Nat) (s : State) : State :=
  let s := { s with drives := smErase s.drives (port * 2 ^ 16 + rid % 2 ^ 16) }
  (s.pairs.filter (fun (q : Nat × Pair) => q.2.port == port && q.2.rid == rid % 2 ^ 16)).foldl (fun s q => pairFails q.1 s) s

end Sys2Proof.Machine
end

