-- ==== Sys2Proof/Machine/VMove.lean ====
section
/-!
DEFINITION. What the entries that move data do when they run (05 R192 to R206): permutes, bit fields and lookup, vector loads
and stores, grid slices and quarter passing, mask instructions, and the register configuration (R165, R169).
-/

namespace Sys2Proof.Machine

/-! ### Permutes (R192 to R195) -/

/-- R194: the element whose cell is that of lane `t` in place of element e's own; none when there is none. -/
def laneSource (c : VCtx) (g : Grp) (e : Nat) (t : Nat → Nat → Option Nat) : Option Nat :=
  match c.place g e with
  | none => none
  | some p =>
    match t (p.lane / 16 * 16) p.lane with
    | none => none
    | some l =>
      if l / 16 ≠ p.lane / 16 then none
      else
        let ls := c.dieLanes p.die
        if ls.contains l then
          let k := if fmtSew g.fmt = 64 then 1 else 32 / fmtSew g.fmt
          let src := e + ls.idxOf l * k - p.rank * k
          if src < g.cap then some src else none
        else none

/-- The source lane of a cross-lane modifier (R194): from the first lane of the cluster and the element's lane. -/
def xLane (op : PermOp) (s first lane : Nat) : Option Nat :=
  match op with
  | .xup => if s ≤ lane then some (lane - s) else none
  | .xdn => if s < 64 then some (lane + s) else none
  | .xbc => if s < 16 then some (first + s) else none
  | .xrev => some (first + 15 - lane % 16)
  | _ => none

/-- A block of `g` read to produce block `b` of `d`, across the links between their dies. -/
def VCtx.blockFor (c : VCtx) (d g : Grp) (i b : Nat) : M Nat := do
  c.carry (c.blockPlace g i) (c.blockPlace d b)
  c.getBlock g i (32 * b)

/-- A permute under an MX format (R195): each block's source, by its number. VSHUP and VSHDN read every block before the first
write. VSTART and the progress of VMERGE and VMOVE count elements, 32 a block. DESIGN CHOICE, log 57. -/
def runPermBlocks (c : VCtx) (op : PermOp) : M Unit := do
  let srcs : List GOpnd := [⟨c.f.vd, c.fmt, true⟩, ⟨c.f.va, c.fmt, false⟩] ++
    (if op == .merge then [⟨c.f.vb, c.fmt, false⟩] else [])
  let whole := op == .shup || op == .shdn
  let (gs, L) ← c.groups srcs (if whole then .strict else .elem)
  let d := grp gs 0
  let n := Nat.min c.vl L
  let nb := (n + 31) / 32
  let s := c.ent.opb.toNat
  if c.vl ≠ 0 then
    let p0 ← if whole then pure 0 else startIndex c.ent
    beginAt c.ent p0
    let value (b : Nat) : M (Option Nat) := do
      let act := c.active (32 * b)
      let zero : Option Nat := if c.mp then some 0 else none
      match op with
      | .shup => if b < s then return none else if act then return some (← c.blockFor d (grp gs 1) (b - s) b) else return zero
      | .shdn =>
        if !act then return zero
        else if b + s < L / 32 then return some (← c.blockFor d (grp gs 1) (b + s) b)
        else return some 0
      | .merge => return some (← c.blockFor d (if act then grp gs 1 else grp gs 2) b b)
      | _ => if act then return some (← c.blockFor d (grp gs 1) b b) else return zero
    let bs := (List.range nb).drop (p0 / 32)
    if whole then
      let vs ← collect value bs
      vs.forM (fun p => c.putBlock d p.1 p.2)
    else
      bs.forM (fun b => do
        match ← value b with
        | some v => c.putBlock d b v
        | none => pure ()
        reach (32 * (b + 1)))
    if c.tp then forRange nb (L / 32 - nb) (fun b => c.putBlock d b 0)
  vstart0

/-- VCOMPRESS (R193): the active elements packed to the bottom, each read before the first is written; answers how many. -/
def compress (c : VCtx) (d a : Grp) (act : List Nat) : M Nat := do
  let vs ← collect (fun k => return some (← c.getFor d a (act.getD k 0) k)) (List.range act.length)
  vs.forM (fun p => c.put d p.1 p.2)
  return act.length

/-- VEXPAND: the number of active elements below e. -/
def VCtx.below (c : VCtx) (e : Nat) : Nat := (c.actives e).length

/-- The result of VHEAD and of a reduction, extended as the format says (R190). -/
def extResult (fmt v : Nat) : Nat := if fmtSigned fmt then ofInt 64 (toSigned (fmtSew fmt) v) else v

/-- VPERM. -/
def runVperm (en : Entry) (op : PermOp) (f : VF) : M Unit := do
  let c ← vctxM en f
  if fmtIsMx c.fmt then
    match op with
    | .shup | .shdn | .merge | .move => runPermBlocks c op
    | _ => c.ill 4
  else
    let w := fmtSew c.fmt
    let d1 : GOpnd := ⟨f.vd, c.fmt, true⟩
    let a1 : GOpnd := ⟨f.va, c.fmt, false⟩
    let b1 : GOpnd := ⟨f.vb, c.fmt, false⟩
    let s := en.opb.toNat
    match op with
    | .shup =>
      let (gs, L) ← c.groups [d1, a1] .strict
      wholeLoop c (grp gs 0) L (fun e => decide (e < s)) (fun e => do
        if s ≤ e then return some (← c.getFor (grp gs 0) (grp gs 1) (e - s) e) else return none)
    | .shdn =>
      let (gs, L) ← c.groups [d1, a1] .strict
      wholeLoop c (grp gs 0) L (fun _ => false) (fun e => do
        if e + s < L then return some (← c.getFor (grp gs 0) (grp gs 1) (e + s) e) else return some 0)
    | .gather =>
      if !fmtAnyInt c.fmt then c.ill 4
      let (gs, L) ← c.groups [d1, a1, b1] .strict
      wholeLoop c (grp gs 0) L (fun _ => false) (fun e => do
        let i ← c.get (grp gs 2) e
        if i < L then return some (← c.getFor (grp gs 0) (grp gs 1) i e) else return some 0)
    | .compress =>
      let (gs, L) ← c.groups [d1, a1] .strict
      if c.vl = 0 then
        setResult en 0
        vstart0
      else
        wholeBody c (do
          let k ← compress c (grp gs 0) (grp gs 1) (c.actives (Nat.min c.vl L))
          tailFrom c (grp gs 0) k L
          setResult en k)
    | .expand =>
      let (gs, L) ← c.groups [d1, a1] .strict
      wholeLoop c (grp gs 0) L (fun _ => false) (fun e =>
        return some (← c.getFor (grp gs 0) (grp gs 1) (c.below e) e))
    | .merge =>
      let (gs, L) ← c.groups [d1, a1, b1] .elem
      everyLoop c (grp gs 0) L (fun e => c.get (if c.active e then grp gs 1 else grp gs 2) e)
    | .move =>
      let (gs, L) ← c.groups [d1, a1] .elem
      elemLoop c (grp gs 0) L (fun e => return { val := ← c.get (grp gs 1) e })
    | .splat =>
      let (gs, L) ← c.groups [d1] .elem
      elemLoop c (grp gs 0) L (fun _ => return { val := en.opa.toNat % 2 ^ w })
    | .head =>
      let (gs, L) ← c.groups [a1] .strict
      beginAt en 0
      let v ← if L = 0 then pure 0 else c.get (grp gs 0) 0
      setResult en (if L = 0 then 0 else extResult c.fmt v)
      vstart0
    | .acnt =>
      if !fmtAnyInt c.fmt then c.ill 4
      let (gs, L) ← c.groups [d1] .elem
      everyLoop c (grp gs 0) L (fun e => return c.below e % 2 ^ w)
    | .xup | .xdn | .xbc | .xrev =>
      let (gs, L) ← c.groups [d1, a1] .strict
      wholeLoop c (grp gs 0) L (fun _ => false) (fun e => do
        match laneSource c (grp gs 1) e (xLane op s) with
        | some i => return some (← c.getAt (grp gs 1) i e)
        | none => return some 0)

/-! ### Bit fields and lookup (R196) -/

/-- Leading zeros, trailing zeros, ones and the reversal of `w` bits. -/
def unaryBits (op : BitOp) (w a : Nat) : Nat :=
  let bits := (List.range w).map (fun i => a.testBit i)
  match op with
  | .clz => (bits.reverse.takeWhile (fun b => !b)).length
  | .ctz => (bits.takeWhile (fun b => !b)).length
  | .popc => bits.count true
  | .brev => bits.foldl (fun acc b => 2 * acc + b.toNat) 0
  | _ => a

/-- VUNPACK: the field of element e of the stream over va's elements (R196). -/
def unpackElem (c : VCtx) (d a : Grp) (L o fw e : Nat) : M Nat := do
  let w := fmtSew c.fmt
  let lo := o + e * fw
  let i := lo / w
  let x ← if i < L then c.getFor d a i e else pure 0
  let y ← if i + 1 < L && decide (w < lo % w + fw) then c.getFor d a (i + 1) e else pure 0
  return (x + 2 ^ w * y) / 2 ^ (lo % w) % 2 ^ fw

/-- VLUT: the first element and the number of elements of va on the die of element e (R196). -/
def dieRange (c : VCtx) (g : Grp) (e : Nat) : Nat × Nat :=
  match c.place g e with
  | none => (0, 0)
  | some p =>
    let n := dieElems (c.dieLanes p.die).length (g.span * c.cpr) (fmtSew g.fmt)
    (e - p.j, Nat.min n (g.cap - (e - p.j)))

/-- VBITS. -/
def runVbits (en : Entry) (op : BitOp) (f : VF) : M Unit := do
  let c ← vctxM en f
  let w := fmtSew c.fmt
  if !fmtInt c.fmt || (op == .bext && w == 8) then c.ill 4
  let d1 : GOpnd := ⟨f.vd, c.fmt, true⟩
  let a1 : GOpnd := ⟨f.va, c.fmt, false⟩
  let b1 : GOpnd := ⟨f.vb, c.fmt, false⟩
  match op with
  | .unpack =>
    let (gs, L) ← c.groups [d1, a1] .strict
    let fw := (en.opb.extractLsb' 0 6).toNat
    if fw = 0 ∨ fw > w then c.ill 4
    let o := (en.opb.extractLsb' 16 48).toNat
    wholeLoop c (grp gs 0) L (fun _ => false) (fun e => do
      let v ← unpackElem c (grp gs 0) (grp gs 1) L o fw e
      return some (if en.opb.getLsbD 6 then ofInt w (toSigned fw v) else v))
  | .lut =>
    let (gs, L) ← c.groups [d1, a1, b1] .strict
    wholeLoop c (grp gs 0) L (fun _ => false) (fun e => do
      let i ← c.get (grp gs 2) e
      let (base, n) := dieRange c (grp gs 1) e
      if i < Nat.min 256 n then return some (← c.getAt (grp gs 1) (base + i) e) else return some 0)
  | .bext =>
    let (gs, L) ← c.groups [d1, a1, b1] .elem
    elemLoop c (grp gs 0) L (fun e => do
      let a ← c.get (grp gs 1) e
      let b ← c.get (grp gs 2) e
      return { val := a / 2 ^ (b % 256) % 2 ^ (Nat.min (b / 256 % 256) w) })
  | .fsl =>
    let (gs, L) ← c.groups [d1, a1, b1] .elem
    elemLoop c (grp gs 0) L (fun e => do
      let pair := (← c.get (grp gs 0) e) * 2 ^ w + (← c.get (grp gs 1) e)
      let b ← c.get (grp gs 2) e
      return { val := pair * 2 ^ (b % (2 * w)) / 2 ^ w % 2 ^ w })
  | .fsr =>
    let (gs, L) ← c.groups [d1, a1, b1] .elem
    elemLoop c (grp gs 0) L (fun e => do
      let pair := (← c.get (grp gs 0) e) * 2 ^ w + (← c.get (grp gs 1) e)
      let b ← c.get (grp gs 2) e
      return { val := pair / 2 ^ (b % (2 * w)) % 2 ^ w })
  | _ =>
    let (gs, L) ← c.groups [d1, a1] .elem
    elemLoop c (grp gs 0) L (fun e => return { val := unaryBits op w (← c.get (grp gs 1) e) })

/-! ### Vector loads and stores (R199 to R201) -/

def MemOp.isStore : MemOp → Bool
  | .st _ | .sts _ | .stx _ => true
  | _ => false

def MemOp.indexed : MemOp → Bool
  | .ldx | .stx _ => true
  | _ => false

/-- Whether a store keeps no element order. -/
def MemOp.unordered : MemOp → Bool
  | .st u | .sts u | .stx u => u
  | _ => false

def VCtx.contig (c : VCtx) : Bool := c.sel.getLsbD 48
def VCtx.stride (c : VCtx) : Word := (c.sel.extractLsb' 8 40).signExtend 64

/-- The address of element e (R199); `idx` is the element of the index group. -/
def vmemAddr (c : VCtx) (g : Grp) (op : MemOp) (e idx : Nat) : Word :=
  let base := c.ent.opa
  let str : Word := match op with
    | .lds | .sts _ => c.ent.opb
    | _ => BitVec.ofNat 64 (fmtSew c.fmt / 8)
  if op.indexed then base + BitVec.ofNat 64 idx
  else if fmtSew c.fmt = 4 then base + BitVec.ofNat 64 (e / 2)
  else if c.contig then base + BitVec.ofNat 64 e * str
  else match c.place g e with
    | some p => base + BitVec.ofNat 64 p.pos * c.stride + BitVec.ofNat 64 p.j * str
    | none => base

/-- The address of element e, its index element read. -/
def elemAddr (c : VCtx) (gs : List Grp) (op : MemOp) (e : Nat) : M Word := do
  let idx ← if op.indexed then c.get (grp gs 1) e else pure 0
  return vmemAddr c (grp gs 0) op e idx

/-- Whether one of some elements of a store without an element order, whose indices were read before, has the same address.
UNVERIFIED, log 9. -/
def repeated (c : VCtx) (gs : List Grp) (op : MemOp) (a : Word) (es : List Nat) (s : State) : Bool :=
  es.any fun e => vmemAddr c (grp gs 0) op e (if op.indexed then c.held s (grp gs 1) e else 0) == a

/-- The bytes of an element width. -/
def elemBytes (fmt : Nat) : Nat := if fmtSew fmt = 4 then 1 else fmtSew fmt / 8

/-- The die that an element's access starts from (R199). -/
def VCtx.elemDie (c : VCtx) (g : Grp) (e : Nat) : Option Nat := some (((c.place g e).map (·.die)).getD 8)

/-- The die that a block's access starts from (R201). -/
def VCtx.blockDie (c : VCtx) (g : Grp) (b : Nat) : Option Nat := some (((c.blockPlace g b).map (·.die)).getD 8)

/-- The checks of R199 on one element's access, without the access: whether it would trap. The state keeps what the checks write,
the denial log among it (02 R68); for an access that is made again as a load, `again`, only what a check that passes writes.
DEDUCED, log 26. -/
def probeLoad (die : Nat) (qsn : BitVec 16) (va : Word) (n : Nat) (again : Bool) : M Bool := do
  if va.toNat % n ≠ 0 then return true
  else
    let s ← get
    match resolve { s.agent s.cur qsn with at' := die } false va n .load s with
    | (.ok _, s') =>
      set s'
      return false
    | (.error (.paused _), s') =>
      set s'
      block
    | (.error _, s') =>
      if !again then set s'
      return true

/-- R200: the first element of a list, which starts at VSTART, whose access would trap. The load of an element at `p0` raises its
fault itself. DEDUCED, log 26. -/
def firstFault (c : VCtx) (gs : List Grp) (p0 : Nat) : List Nat → M (Option Nat)
  | [] => return none
  | e :: es => do
    let a ← elemAddr c gs .ldff e
    if ← probeLoad ((c.elemDie (grp gs 0) e).getD 8) c.ent.qsn a (elemBytes c.fmt) (e == p0) then return some e
    firstFault c gs p0 es

/-- One element loaded. -/
def loadElem (c : VCtx) (gs : List Grp) (op : MemOp) (e : Nat) : M Nat := do
  let a ← elemAddr c gs op e
  let n := elemBytes c.fmt
  alignCheck a n e
  let v ← memRead (c.elemDie (grp gs 0) e) c.ent.qsn a n .load e
  return if fmtSew c.fmt = 4 then v / 2 ^ (4 * (e % 2)) % 16 else v

/-- One element stored. -/
def storeElem (c : VCtx) (gs : List Grp) (op : MemOp) (e : Nat) : M Unit := do
  let a ← elemAddr c gs op e
  let n := elemBytes c.fmt
  alignCheck a n e
  let v ← c.get (grp gs 0) e
  if fmtSew c.fmt = 4 then
    -- the byte is read and rewritten (R201)
    let pa ← writeCheck (c.elemDie (grp gs 0) e) c.ent.qsn a 1 .store e
    watchCheck (c.elemDie (grp gs 0) e) c.ent.qsn a pa 1 e
    modify (fun s =>
      let old := (s.byteAt pa).toNat
      let keep := if e % 2 = 0 then old / 16 * 16 else old % 16
      s.setByte pa (BitVec.ofNat 8 (keep + v * 2 ^ (4 * (e % 2)))))
  else
    let skip ← if op.unordered then do
        let p0 ← startIndex c.ent
        let s ← get
        if repeated c gs op a ((c.actives e).filter (fun i => decide (p0 ≤ i))) s then do
          set { s with free := s.free + 1 }
          pure (Config.storePick s.free e % 2 == 1)
        else pure false
      else pure false
    if skip then
      -- the bytes of an earlier element stay; the checks are made all the same
      let pa ← writeCheck (c.elemDie (grp gs 0) e) c.ent.qsn a n .store e
      watchCheck (c.elemDie (grp gs 0) e) c.ent.qsn a pa n e
    else memWrite (c.elemDie (grp gs 0) e) c.ent.qsn a n v .store e

/-- A block read from memory, the lowest byte first (R201). -/
def blockBytes (c : VCtx) (at' : Option Nat) (va : Word) (e : Nat) : Nat → M Nat
  | 0 => return 0
  | n + 1 => do
    let lo ← memRead at' c.ent.qsn va 1 .load e
    let hi ← blockBytes c at' (va + 1) e n
    return lo + 256 * hi

/-- The physical addresses of the bytes of a block that is stored, each translated and checked for its owner. -/
def blockChecks (c : VCtx) (at' : Option Nat) (va : Word) (e : Nat) : Nat → M (List Nat)
  | 0 => return []
  | n + 1 => do
    let pa ← writeCheck at' c.ent.qsn va 1 .store e
    let rest ← blockChecks c at' (va + 1) e n
    return pa :: rest

/-- The watchpoints that the bytes of a block match, with the bytes of each (13 R422): the block is one access. -/
def State.blockHits (s : State) (ag : Agent) (pas : List Nat) : List (Nat × Nat) :=
  if ag.super then []
  else (s.watch.map (fun (i, w) => (i, (pas.map (fun pa => watchBytes w .hart ag.tenant pa 1)).sum))).filter (fun p => p.2 ≠ 0)

/-- A block stored whole (R201): every byte passes its checks, then the watchpoints, before the first is written. -/
def storeBlock (c : VCtx) (at' : Option Nat) (va : Word) (e v n : Nat) : M Unit := do
  let pas ← blockChecks c at' va e n
  let pass ← takePass true (passKey (← meM) at' c.ent.qsn e)
  let s ← get
  let hits := s.blockHits (s.agent s.cur c.ent.qsn) pas
  if !pass && !hits.isEmpty then
    let low := s.watchLow hits
    set (hits.foldl (fun s w => s.recordWatch .hart (homeDie (s.watchPa w.1)) s.cur c.ent.qsn [w]) s)
    raise (watchTrap s hits (va + BitVec.ofNat 64 (pas.idxOf low)) low e)
  modify (fun s => pas.zipIdx.foldl (fun s p => s.setByte p.1 (BitVec.ofNat 8 (v / 256 ^ p.2))) s)

/-- VLD, VST and VST.U under an MX format (R201). -/
def runVmemMx (c : VCtx) (op : MemOp) : M Unit := do
  let store := op.isStore
  let (gs, L) ← c.groups [⟨c.f.vd, c.fmt, !store⟩] .strict
  let g := grp gs 0
  let n := Nat.min c.vl L
  let nb := (n + 31) / 32
  let size := mxBytes c.fmt
  if c.vl ≠ 0 then
    let p0 ← startIndex c.ent
    beginAt c.ent (p0 / 32 * 32)
    forRange (p0 / 32) (nb - p0 / 32) (fun b => do
      let a : Word :=
        if c.contig then c.ent.opa + BitVec.ofNat 64 (b * size)
        else match c.blockPlace g b with
          | some p => c.ent.opa + BitVec.ofNat 64 p.pos * c.stride + BitVec.ofNat 64 (p.j * size)
          | none => c.ent.opa
      if c.active (32 * b) then
        if store then storeBlock c (c.blockDie g b) a (32 * b) (← c.getBlock g b (32 * b)) size
        else c.putBlock g b (← blockBytes c (c.blockDie g b) a (32 * b) size)
      else if !store && c.mp then c.putBlock g b 0
      reach (32 * (b + 1)))
    if !store && c.tp then forRange nb (L / 32 - nb) (fun b => c.putBlock g b 0)
  vstart0

/-- VMEM. UNVERIFIED, log 9. -/
def runVmem (en : Entry) (op : MemOp) (f : VF) : M Unit := do
  let c ← vctxM en f
  if fmtIsMx c.fmt then
    match op with
    | .ld | .st _ => runVmemMx c op
    | _ => c.ill 4
  else
    if fmtSew c.fmt = 4 && !(c.contig && (op == .ld || op == .st false)) then c.ill 4
    let ops : List GOpnd := [⟨f.vd, c.fmt, !op.isStore⟩] ++ (if op.indexed then [⟨f.vb, c.fmt, false⟩] else [])
    let (gs, L) ← c.groups ops .elem
    if op.isStore then
      let n := Nat.min c.vl L
      if c.vl ≠ 0 then
        let p0 ← startIndex en
        beginAt en p0
        forRange p0 (n - p0) (fun e => do
          if c.active e then storeElem c gs op e
          reach (e + 1))
      vstart0
    else
      let p0 ← startIndex en
      let n := Nat.min c.vl L
      let c ← if op == .ldff then do
          match ← firstFault c gs p0 ((c.actives n).filter (fun e => decide (p0 ≤ e))) with
          | some e =>
            if e ≠ p0 then
              updMeM (fun x => { x with vl := BitVec.ofNat 15 e })
              pure { c with vl := e }
            else pure c
          | none => pure c
        else pure c
      elemLoop c (grp gs 0) L (fun e => return { val := ← loadElem c gs op e })

/-! ### Grid slices (R202) -/

/-- Whether a grid row lies on a present die in a cluster in service. -/
def State.rowOn (s : State) (core row : Nat) : Bool := s.dieOn (row / 64) && (s.lanes core (row / 64)).contains (row % 64)

/-- The cells of a slice in the vector-mode columns of the configuration (R36), in ascending i, a cell that reads as 0 and takes no write as none; or the reason of the trap. -/
def sliceCells (s : State) (c : VCtx) (op : SliceOp) (x : Hart) (v : Word) : Except Nat (List (Option (Nat × Nat))) :=
  let cols := c.cols.filter (fun k => !x.tile.getLsbD (k / 192))
  let colBad (k : Nat) : Option Nat :=
    if k < 768 && x.tile.getLsbD (k / 192) then some 8 else if cols.contains k then none else some 4
  match op with
  | .row =>
    let r := (v.extractLsb' 0 10).toNat
    if r < 512 ∧ s.rowOn c.core r then .ok (cols.map (fun k => some (r, k))) else .error 4
  | .col =>
    let k := (v.extractLsb' 0 10).toNat
    match colBad k with
    | some n => .error n
    | none => .ok ((c.lanes.map (fun p => p.2.map (fun l => some (64 * p.1 + l, k)))).flatten)
  | .diag =>
    let row0 := (v.extractLsb' 10 9).toNat
    let c0 := (v.extractLsb' 0 10).toNat
    match colBad c0 with
    | some n => .error n
    | none =>
      .ok ((List.range (Nat.min (512 - row0) (768 - c0))).map (fun i =>
        if s.rowOn c.core (row0 + i) && cols.contains (c0 + i) then some (row0 + i, c0 + i) else none))

/-- The dirty bit and VHW of the register that a grid cell lies in (R202). -/
def markGridCell (c : VCtx) (row col : Nat) : M Unit := do
  let i := c.cols.idxOf col
  if c.cpr ≠ 0 ∧ i < c.cols.length ∧ i / c.cpr < c.nreg then
    let rank := ((c.allLanes.find? (fun p => p.1 = row / 64)).map (fun p => p.2.idxOf (row % 64))).getD 0
    markCell c (i / c.cpr) (i % c.cpr) (row / 64) rank

/-- The cells of a slice (die, lane and column) read in full by `read`, each to produce its element of `d`; 0 for none. -/
def readSlice (c : VCtx) (d : Grp) (read : Nat → Nat → Nat → Nat → M (BitVec 32)) :
    List (Option (Nat × Nat × Nat)) → Nat → M (List Nat)
  | [], _ => return []
  | o :: os, i => do
    let v ← match o with
      | some (die, l, k) => (do
        match c.place d i with
        | some p => crossDies c.ent.qsn die p.die
        | none => pure ()
        return (← read die l k i).toNat)
      | none => pure 0
    let rest ← readSlice c d read os (i + 1)
    return v :: rest

/-- Elements of a group read in full, each for the die that it goes to. -/
def readForDies (c : VCtx) (g : Grp) (toDie : Nat → Option Nat) : List Nat → M (List Nat)
  | [] => return []
  | e :: es => do
    match toDie e, c.place g e with
    | some d, some p => crossDies c.ent.qsn p.die d
    | _, _ => pure ()
    let v ← c.get g e
    let rest ← readForDies c g toDie es
    return v :: rest

/-- GROW, GCOL, GDIAG and GROWS, GCOLS, GDIAGS (R202). -/
def runGslice (en : Entry) (op : SliceOp) (write : Bool) (f : VF) : M Unit := do
  let c ← vctxM en f
  if !(c.fmt == 2 || c.fmt == 6 || c.fmt == 10) then c.ill 4
  let (gs, L) ← c.groups [⟨if write then f.va else f.vd, c.fmt, !write⟩] .strict
  let s ← get
  match sliceCells s c op s.me (if write then en.opd else en.opa) with
  | .error r => c.ill r
  | .ok cells =>
    let n := Nat.min c.vl L
    let k := Nat.min n cells.length
    wholeBody c (do
      if write then
        let act := c.actives k
        let vs ← readForDies c (grp gs 0) (fun e => (cells.getD e none).map (fun p => p.1 / 64)) act
        -- nothing is written while a cell has its scoreboard bit set (R203): the elements of va are read in full first
        let x ← meM
        if act.any (fun e => (cells.getD e none).any (fun p => x.scored (p.1 / 64) p.2)) then block
        for p in act.zip vs do
          match cells.getD p.1 none with
          | some (row, col) =>
            writeCellBits c.core (row / 64) (row % 64) col 0 32 p.2
            markGridCell c row col
          | none => pure ()
      else
        let vs ← readSlice c (grp gs 0) (readCell c.core) (cells.map (·.map (fun p => (p.1 / 64, p.1 % 64, p.2)))) 0
        forRange 0 k (fun e => do
          if c.active e then c.put (grp gs 0) e (vs.getD e 0)
          else if c.mp then c.put (grp gs 0) e 0)
        tailFrom c (grp gs 0) k L)

/-- GPASS (R204). DEDUCED, log 24. -/
def runGpass (en : Entry) (q : Nat) : M Unit := do
  waitEarlier en
  let s ← get
  let x := s.me
  let ill {α : Type} (r : Nat) : M α := raise (illegal en.word r)
  if !x.owned.getLsbD q then ill 4
  if x.tile.getLsbD q then ill 8
  let t := (en.opd.extractLsb' 0 7).toNat
  let y := s.hart t
  if t = s.cur ∨ coreOf t ≠ coreOf s.cur ∨ y.launch ≠ x.launch ∨
      !(y.run == .running || y.run == .preempted) then ill 4
  let bit : BitVec 4 := 1#4 <<< q
  modify (fun s => (s.updMe (fun x => { x with owned := x.owned &&& ~~~bit, cfg := none })).updHart t
    (fun y => { y with
      owned := y.owned ||| bit
      cfg := none
      -- entries that have started complete under the old configuration
      queue := y.queue.map (fun e => if (e.st = .started ∨ e.ran = true) ∧ e.oldCfg = none then { e with oldCfg := some y.cfg } else e) }))

/-! ### Masks (R205, R206) -/

/-- A bitwise mask function. -/
def maskFn (op : MaskOp) (a b : BitVec 16384) : BitVec 16384 :=
  match op with
  | .and => a &&& b
  | .or => a ||| b
  | .xor => a ^^^ b
  | .andn => a &&& ~~~b
  | .orn => a ||| ~~~b
  | .nand => ~~~(a &&& b)
  | .nor => ~~~(a ||| b)
  | .xnor => ~~~(a ^^^ b)
  | .mv => a
  | .not => ~~~a
  | .set => BitVec.allOnes 16384
  | _ => 0

/-- Bits `lo` to `hi` − 1. -/
def bitRange (lo hi : Nat) : BitVec 16384 := BitVec.ofNat 16384 (2 ^ hi - 2 ^ lo)

/-- The index of the lowest set bit below `n`. -/
def lowestSet (v : BitVec 16384) (n : Nat) : Option Nat := (List.range n).find? (fun i => v.getLsbD i)

/-- m[md] with the bits of `region` replaced. -/
def writeRegion (md : Nat) (region v : BitVec 16384) : M Unit :=
  updMeM (fun x => x.setMask md ((x.mask md &&& ~~~region) ||| (v &&& region)))

/-- The bytes of MLD, read in full. R206 names no die from which MLD and MST access memory, and the model takes CD.
DESIGN CHOICE, log 57. -/
def readMaskBytes (en : Entry) (base : Word) (j : Nat) : Nat → M Nat
  | 0 => return 0
  | n + 1 => do
    let lo ← memRead (some 8) en.qsn (base + BitVec.ofNat 64 j) 1 .load (8 * j)
    let hi ← readMaskBytes en base (j + 1) n
    return lo + 256 * hi

/-- The checks of MST's bytes in ascending order, with the physical address of each; `pass` is the watch pass of R422 for this
entry. DEDUCED, log 26. -/
def maskTargets (en : Entry) (base : Word) (pass : Bool) (j : Nat) : Nat → M (List Nat)
  | 0 => return []
  | n + 1 => do
    let va := base + BitVec.ofNat 64 j
    let pa ← writeCheck (some 8) en.qsn va 1 .store (8 * j)
    if !pass then watchCheck (some 8) en.qsn va pa 1 (8 * j)
    return pa :: (← maskTargets en base pass (j + 1) n)

/-- The bytes of MST: all are checked before one is written, since a trap finds p = 0 with no byte written (01 R46, R172). -/
def writeMaskBytes (en : Entry) (base : Word) (pass : Bool) (v n : Nat) : M Unit := do
  let pas ← maskTargets en base pass 0 n
  modify (fun s => pas.zipIdx.foldl (fun s (pa, j) => s.setByte pa (BitVec.ofNat 8 (v / 256 ^ j))) s)

/-- MASK. -/
def runMask (en : Entry) (op : MaskOp) (md ma mb : Nat) : M Unit := do
  let x ← meM
  let vl := Nat.min x.vl.toNat 16384
  let a := x.mask ma
  match op with
  | .sbf | .sif | .sof =>
    if vl ≠ 0 then
      beginAt en 0
      let r : BitVec 16384 := match lowestSet a vl, op with
        | some k, .sbf => bitRange 0 k
        | some k, .sif => bitRange 0 (k + 1)
        | some k, _ => bitRange k (k + 1)
        | none, .sof => 0
        | none, _ => bitRange 0 vl
      writeRegion md (bitRange 0 vl) r
    vstart0
  | .popc =>
    setResult en ((List.range vl).countP (fun i => a.getLsbD i))
    vstart0
  | .first =>
    setResult en (match lowestSet a vl with | some k => k | none => 2 ^ 64 - 1)
    vstart0
  | .ld =>
    if vl ≠ 0 then
      beginAt en 0
      let v ← readMaskBytes en en.opa 0 ((vl + 7) / 8)
      writeRegion md (bitRange 0 vl) (BitVec.ofNat 16384 v)
    vstart0
  | .st =>
    if vl ≠ 0 then
      beginAt en 0
      let pass ← takePass true (en.qsn.toNat * 2 ^ 15)
      writeMaskBytes en en.opd pass (a &&& bitRange 0 vl).toNat ((vl + 7) / 8)
    vstart0
  | _ =>
    let p0 ← startIndex en
    if vl ≠ 0 then
      beginAt en p0
      writeRegion md (bitRange (Nat.min p0 vl) vl) (maskFn op a (x.mask mb))
      reach vl
    vstart0

/-! ### Configuration (R165, R169) -/

/-- The capacity of a register in cells over the enabled lanes (R165). -/
def State.regCells (s : State) (core cpr : Nat) : Nat := ((s.dies 0xFF).map (fun d => (s.lanes core d).length * cpr)).sum

/-- A new register configuration over the owned vector-mode columns, every register dirty in full (R165, 08 R287). -/
def configure (s : State) (h n : Nat) : State :=
  let x := s.hart h
  let q := x.owned &&& ~~~x.tile
  let cpr := (quarterCols q).length / n
  let cap := s.regCells (coreOf h) cpr
  s.setHart h { x with
    cfg := some { nreg := n, quarters := q }
    vl := 0
    vstart := 0
    vdirty := List.range n
    vhw := (List.range n).foldl (fun m r => smSet 0 m r cap) [] }

/-- VCFG (R165). -/
def runVcfg (en : Entry) (n : Nat) : M Unit := do
  waitEarlier en
  modify (fun s => configure s s.cur n)

/-- Whether a VTYPE value is valid (R169). -/
def vtypeOk (v : BitVec 16) : Bool :=
  v.extractLsb' 5 3 == 0 && decide (vtypeFmt v < 20) && decide ((v.extractLsb' 12 3).toNat < 6)

/-- VSETVLI and VSETVL (R169): VL is the value fixed at issue (04 R149). -/
def runVset (en : Entry) (vt : BitVec 16) : M Unit := do
  updMeM (fun x => { x with vtype := vt, vl := BitVec.ofNat 15 en.vlNew, vstart := 0 })
  setResult en en.vlNew

end Sys2Proof.Machine
end

