-- ==== Sys2Proof/Machine/Tile.lean ====
section
/-!
DEFINITION. What the tile entries do when they run (08 R282 to R312): tile mode, shape and predicates, zeroing, slice moves,
and the rank updates TMUL and TMULSP.
-/

namespace Sys2Proof.Machine

/-! ### Tile storage (R282) -/

/-- The tile columns of a hart, ascending. -/
def Hart.tileCols (x : Hart) : List Nat := quarterCols x.tile

/-- The tile rows of some participating dies: the die, the physical lane, and whether the row is in service. -/
def State.tileRows (s : State) (core : Nat) (dies : List Nat) : List (Nat × Nat × Bool) :=
  dies.flatMap (fun d => (List.range 64).map (fun l => (d, l, s.rowOn core (64 * d + l))))

/-- A tile-mode cell written. -/
def writeTileCell (core die lane col : Nat) (v : BitVec 32) : M Unit :=
  modify (fun s => s.setCell (cellKey core (64 * die + lane) col) v)

/-- Ends a tile word that finds the tile state off (R288). DEDUCED, log 29. -/
def tileOn (e : Entry) : M Unit := do
  if (← meM).tile = 0 then
    raiseEnd { code := 0x09, i0 := e.pc, i1 := e.word.setWidth 64 }

/-- LANE_RETIRED of a vector or tile entry that starts after a retirement (05 R208). DEDUCED, log 24. -/
def laneRetiredCheck (e : Entry) : M Unit := do
  let s ← get
  if s.me.laneRetired then
    updMeM (fun x => { x with laneRetired := false })
    raiseAt e 0 { code := 0x0E, i0 := (s.laneMask (coreOf s.cur)).setWidth 64 }

/-- VTYPE := 0x000A, VL := 0, VSTART := 0. -/
def resetShape : M Unit := updMeM (fun x => { x with vtype := 0x000A, vl := 0, vstart := 0 })

/-- TMODE.ON (R286). -/
def runTmodeOn (e : Entry) (qmask : Nat) : M Unit := do
  let x ← meM
  let q := BitVec.ofNat 4 qmask
  if q = 0 || q &&& ~~~x.owned != 0 then raise (illegal e.word 4)
  waitEarlier e
  updMeM (fun x => { x with tile := x.tile ||| q })
  resetShape

/-- TMODE.OFF (R287). -/
def runTmodeOff (e : Entry) (qmask : Nat) : M Unit := do
  let x ← meM
  let q := BitVec.ofNat 4 qmask
  if q = 0 || q &&& ~~~(x.owned &&& x.tile) != 0 then raise (illegal e.word 4)
  updMeM (fun x => { x with tile := x.tile &&& ~~~q })
  modify (fun s => configure s s.cur 32)
  resetShape
  updMeM (fun x => { x with tm := 0, tn := 0, tk := 0, tkprog := 0 })

/-! ### Shape and predicates (R289, R290) -/

/-- The mask with bit i set for the tile rows i below `m` that are in service. -/
def rowBits (rows : List (Nat × Nat × Bool)) (m : Nat) : BitVec 16384 :=
  rows.zipIdx.foldl (fun v (r, i) => setBit v i (decide (i < m) && r.2.2)) 0

/-- m0, m1 and m2 written over the ranges of R284. -/
def setPredicates (rows : List (Nat × Nat × Bool)) (m n k : Nat) : M Unit := do
  writeRegion 0 (bitRange 0 512) (rowBits rows m)
  writeRegion 1 (bitRange 0 768) (bitRange 0 n)
  writeRegion 2 (bitRange 0 4096) (bitRange 0 k)

/-- TSHAPE (R289). -/
def runTshape (e : Entry) (ds : Nat) : M Unit := do
  tileOn e
  let s ← get
  let x := s.me
  let dies := s.dies (x.dsel ds)
  let nd := dies.length
  let mq := e.opd.toNat
  let nq := e.opa.toNat
  let kq := e.opb.toNat
  if mq = 0 ∨ mq > 64 * nd ∨ nq = 0 ∨ nq > x.tileCols.length ∨ kq = 0 ∨ kq > 4096 then raise (illegal e.word 4)
  updMeM (fun x => { x with tm := 64 * nd, tn := 64 * ((nq + 63) / 64), tk := 32 * ((kq + 31) / 32), tkprog := 0 })
  setPredicates (s.tileRows (coreOf s.cur) dies) mq nq kq
  vstart0

/-- TPRED (R290). -/
def runTpred (e : Entry) (ds : Nat) : M Unit := do
  tileOn e
  let s ← get
  let x := s.me
  setPredicates (s.tileRows (coreOf s.cur) (s.dies (x.dsel ds))) x.tm x.tn x.tk
  writeRegion 3 (bitRange 0 768) (bitRange 0 768)
  vstart0

/-- TSYNC (R293); the queue has already waited for the earlier tile entries. -/
def runTsync (e : Entry) : M Unit := tileOn e

/-! ### Zeroing and slice moves (R291, R292) -/

/-- TZERO (R291). -/
def runTzero (e : Entry) (acc ds : Nat) : M Unit := do
  tileOn e
  let s ← get
  let x := s.me
  let core := coreOf s.cur
  let dies := s.dies (x.dsel ds)
  let cols := x.tileCols
  if x.tm = 0 ∨ 64 * dies.length ≠ x.tm ∨ 64 * acc + x.tn > cols.length then raise (illegal e.word 4)
  beginAt e 0
  for r in s.tileRows core dies do
    if r.2.2 then
      for col in (cols.drop (64 * acc)).take x.tn do
        writeTileCell core r.1 r.2.1 col 0
  vstart0

/-- The cells of a tile row or a tile column, a cell of a row out of service as none; none at all outside the limits. -/
def tileSlice (rows : List (Nat × Nat × Bool)) (cols : List Nat) (col : Bool) (k : Nat) :
    Option (List (Option (Nat × Nat × Nat))) :=
  if col then
    if k < cols.length then
      some (rows.map (fun r => if r.2.2 then some (r.1, r.2.1, cols.getD k 0) else none))
    else none
  else
    match rows[k]? with
    | some r => some (cols.map (fun c => if r.2.2 then some (r.1, r.2.1, c) else none))
    | none => none

/-- TRDR, TRDC, TWRR and TWRC (R292); a row that is not in service reads as +0. -/
def runTslice (e : Entry) (write col : Bool) (v ds : Nat) : M Unit := do
  let c ← vctxM e { vd := v, va := v, ds := ds }
  let (gs, L) ← c.groups [⟨v, c.fmt, !write⟩] .strict
  -- R208: a slice that has started completes
  if e.st == .waiting then laneRetiredCheck e
  tileOn e
  if !(c.fmt == 2 || c.fmt == 6 || c.fmt == 10) then c.ill 4
  let s ← get
  let k := ((if write then e.opd else e.opa).extractLsb' 0 10).toNat
  let rows := s.tileRows c.core (c.lanes.map (·.1))
  match tileSlice rows s.me.tileCols col k with
  | none => c.ill 4
  | some cells =>
    let n := Nat.min (Nat.min c.vl L) cells.length
    let on (i : Nat) (x : Hart) : Bool := (x.mask 3).getLsbD i
    wholeBody c (do
      if write then
        let vs ← readForDies c (grp gs 0) (fun i => (cells.getD i none).map (·.1)) (List.range n)
        forRange 0 n (fun i => do
          match cells.getD i none with
          | some (d, l, k) => if on i (← meM) then writeTileCell c.core d l k (BitVec.ofNat 32 (vs.getD i 0))
          | none => pure ())
      else
        let vs ← readSlice c (grp gs 0) (readCellEcc c.core) cells 0
        forRange 0 n (fun i => do
          if on i (← meM) then c.put (grp gs 0) i (vs.getD i 0)
          else if c.mp then c.put (grp gs 0) i 0)
        tailFrom c (grp gs 0) n L)

/-! ### Rank updates (R294 to R309) -/

/-- The operand formats of a gang code (03 R111). -/
def gangFmts (gc : Nat) : Nat × Nat :=
  match gc with
  | 0x00 => (9, 9) | 0x01 => (8, 8) | 0x02 => (11, 11) | 0x03 => (11, 12) | 0x04 => (12, 11) | 0x05 => (12, 12)
  | 0x06 => (14, 14) | 0x07 => (15, 15) | 0x08 => (16, 16) | 0x09 => (17, 17)
  | 0x0A => (14, 16) | 0x0B => (16, 14) | 0x0C => (15, 16) | _ => (16, 15)

/-- G, the k positions of a rounding group (R299). -/
def gangGroup (gc : Nat) (sparse : Bool) : Nat :=
  if 6 ≤ gc then 32 else if sparse then (if gc < 2 then 4 else 8) else if gc < 2 then 1 else 4

/-- The product of two operand values (R298). A zero product has the sign that the signs of its factors give, also of mxint elements, which
have no −0: 0 times a negative element is a −0 term (R300). DESIGN CHOICE, log 29. -/
def prodV (x y : FVal) : FVal :=
  match x, y with
  | .nan _, _ | _, .nan _ => .nan false
  | .inf a, y => if y.isZero then .nan false else .inf (a != y.sign)
  | x, .inf b => if x.isZero then .nan false else .inf (x.sign != b)
  | .fin a m e, .fin b n f => .fin (a != b) (m * n) (e + f)

/-- A finite value over 2^e, for e at most its exponent. -/
def scaledV (e : Int) : FVal → Int
  | .fin n m x => let v : Int := (m * 2 ^ (x - e).toNat : Nat); if n then -v else v
  | _ => 0

/-- The exponent of a finite value. -/
def FVal.exp : FVal → Int
  | .fin _ _ e => e
  | _ => 0

/-- R297, R298, R300: the old accumulator and the terms summed exactly and rounded once to f32 with RNE. DEDUCED, log 29. -/
def rankSum (old : FVal) (terms : List FVal) : Nat :=
  let vs := old :: terms
  let infs := vs.filterMap (fun v => match v with | .inf n => some n | _ => none)
  if vs.any FVal.isNan || (infs.contains true && infs.contains false) then 0x7FC00000
  else match infs with
    | n :: _ => if n then 0xFF800000 else 0x7F800000
    | [] =>
      let e := (vs.map FVal.exp).foldl (fun a b => if a ≤ b then a else b) old.exp
      let t := (vs.map (scaledV e)).sum
      if t = 0 then (if vs.all FVal.sign then 0x80000000 else 0)
      else (roundTo .f32 .rne 0 ⟨decide (t < 0), t.natAbs, e, false⟩).1

/-- What a started rank update works with, fixed by its words: queues, the use of predicates, formats, sparsity. -/
structure Gang where
  qc : Nat
  qr : Nat
  /-- The metadata queue of TMULSP. -/
  qm : Option Nat
  p : Bool
  gc : Nat

def Gang.g (g : Gang) : Nat := gangGroup g.gc g.qm.isSome

/-- The elements that a die takes from each queue for the k positions k0 to k1 − 1 (R296): QC, QR, metadata. -/
def Gang.needs (g : Gang) (k0 k1 tn : Nat) : List (Nat × Nat) :=
  if 6 ≤ g.gc then [(g.qc, 64 * ((k1 - k0) / 32)), (g.qr, tn * ((k1 - k0) / 32))]
  else match g.qm with
    | none => [(g.qc, 64 * (k1 - k0)), (g.qr, tn * (k1 - k0))]
    | some m => [(g.qc, 128 * ((k1 - k0) / 4)), (g.qr, tn * (k1 - k0)), (m, 64 * ((k1 - k0) / 4))]

/-- The formats that the queues must have (R295). -/
def Gang.fmts (g : Gang) : List Nat :=
  let (a, b) := gangFmts g.gc
  [a, b] ++ (if g.qm.isSome then [4] else [])

/-- The start checks of R295: the cause of the first that fails. DEDUCED, log 29. -/
def gangChecks (g : Gang) (x : Hart) (dies : List Nat) (c0 k : Nat) : Option (Option TrapInfo) :=
  let needs := g.needs 0 k x.tn
  let ok := decide (x.tm ≠ 0) && decide (64 * dies.length = x.tm) && decide (1 ≤ k) && decide (k ≤ x.tk) &&
    (decide (g.gc < 6) || decide (k % 32 = 0)) && decide (c0 + x.tn ≤ x.tileCols.length) &&
    needs.all (fun n => let q := x.q n.1; q.isOpen && q.src == 1 && q.dies == dies && q.bound.isNone) &&
    (needs.zip g.fmts).all (fun n => dFmt (x.q n.1.1).desc == n.2) &&
    needs.all (fun n => let q := x.q n.1; q.dpos.all (fun i => decide (i + n.2 ≤ q.e)))
  let group (n want : Nat) : Option TrapInfo :=
    let have' := dGroup (x.q n).desc
    if have' = want then none
    else some { code := 0x0B, i0 := BitVec.ofNat 64 n, i1 := BitVec.ofNat 64 want, i3 := BitVec.ofNat 64 have' }
  if !ok then some none
  else match group g.qc 1, group g.qr 2 with
    | some t, _ | none, some t => some (some t)
    | none, none => none

/-- Element `i` of die stream `p` of an SRC 1 queue, as a peeking take finds it: from the buffer, or fetched now (R223, R226); none
while it waits. DEDUCED, log 29. -/
def State.gangTake (s : State) (n p i : Nat) : Option Nat :=
  let q := s.me.q n
  match smFind q.buf (elemKey p i) with
  | some v => some v.toNat
  | none =>
    let die := q.dies.getD p 0
    let off := (spOffset q.desc i).toNat
    if s.dieOn die && s.allFull (coreOf s.cur) die off (dBytes q.desc) then
      some (elemOf q.desc i (s.spRead (coreOf s.cur) die off (dBytes q.desc)))
    else none

/-- Some of the elements of a queue's die stream that follow the last one taken; none while one of them waits. -/
def State.gangTakes (s : State) (n p : Nat) (js : List Nat) : Option (List Nat) :=
  js.mapM (fun j => s.gangTake n p ((s.me.q n).dpos.getD p 0 + j))

/-- The value of an element of an operand at a k position of a group (R298): under an MX format, element k mod 32 of a
block. -/
def operandValue (fmt v k : Nat) : FVal :=
  if fmtIsMx fmt then mxValue fmt (mxCode v) (mxElem fmt v (k % 32))
  else match fmtFloat fmt with
    | some f => fdecode f v
    | none => .fin false 0 0

/-- A(i, k) for lane `l` at the k-th position of a group: from the dense column operands, from the block of the lane, or from
the non-zero that the metadata names (R296, R302). -/
def columnValue (g : Gang) (cs ms : List Nat) (l k : Nat) : FVal :=
  let fmt := (gangFmts g.gc).1
  if 6 ≤ g.gc then operandValue fmt (cs.getD l 0) k
  else match g.qm with
    | none => operandValue fmt (cs.getD (64 * k + l) 0) k
    | some _ =>
      let t := k / 4
      let m := ms.getD (64 * t + l) 0
      if k % 4 = m % 4 then operandValue fmt (cs.getD (128 * t + l) 0) k
      else if k % 4 = m / 4 % 4 then operandValue fmt (cs.getD (128 * t + 64 + l) 0) k
      else .fin false 0 0

/-- B(k, j) at the k-th position of a group. -/
def rowValue (g : Gang) (rs : List Nat) (tn j k : Nat) : FVal :=
  let fmt := (gangFmts g.gc).2
  if 6 ≤ g.gc then operandValue fmt (rs.getD j 0) k else operandValue fmt (rs.getD (tn * k + j) 0) k

/-- Where a group stands in a rank update: its k positions k0 to k1 − 1, the enabled ones among them counted from k0, and the
columns of the window. -/
structure GangGroup where
  core : Nat
  k0 : Nat
  k1 : Nat
  ks : List Nat
  cols : List Nat

/-- The elements that belong to lane `l` of a die alone, counted from the last one taken: of the column stream, and of the metadata
(R296). -/
def Gang.laneElems (g : Gang) (w : GangGroup) (l : Nat) : List Nat × List Nat :=
  let n := w.k1 - w.k0
  if 6 ≤ g.gc then ([l], [])
  else match g.qm with
    | none => ((List.range n).map (fun k => 64 * k + l), [])
    | some _ => ((List.range (n / 4)).flatMap (fun t => [128 * t + l, 128 * t + 64 + l]), (List.range (n / 4)).map (fun t => 64 * t + l))

/-- SCRATCH_RANGE with TINFO2 = `k0` for the first of some elements that lies outside the slice (R309). -/
def gangRange (n p k0 : Nat) (js : List Nat) : M Unit := do
  let q ← getQ n
  match (js.map (q.dpos.getD p 0 + ·)).find? (fun i => !inSlice q.desc i) with
  | some i =>
    raiseEnd { code := 0x0A, i0 := BitVec.ofNat 64 n, i1 := BitVec.ofNat 64 (i % 2 ^ 40 + p * 2 ^ 40)
               i2 := BitVec.ofNat 64 k0, i3 := BitVec.ofInt 64 (spOffset q.desc i) }
  | none => return ()

/-- SPARSE_META of a lane's metadata bytes (R303), which it waits for. DEDUCED, log 29. -/
def gangMeta (m p i k0 : Nat) (js : List Nat) : M Unit := do
  match (← get).gangTakes m p js with
  | none => block
  | some bs =>
    match bs.zipIdx.find? (fun b => decide (16 ≤ b.1) || decide (b.1 / 4 % 4 ≤ b.1 % 4)) with
    | some (b, t) =>
      raiseEnd { code := 0x0D, i0 := BitVec.ofNat 64 i, i1 := BitVec.ofNat 64 (k0 + 4 * t), i2 := BitVec.ofNat 64 b }
    | none => return ()

/-- The key under which an error of a cell's share of the sub-accumulator stands among the errors of the grid. -/
def subKey (key : Nat) : Nat := 2 ^ 40 + key

/-- DATA_ERROR of an active cell, or under an MX format of its share of the sub-accumulator (R310). DESIGN CHOICE, log 18. -/
def gangCell (g : Gang) (core die lane col p : Nat) : M Unit := do
  let _ ← try readCellEcc core die lane col p
    catch
    | .trap t => raiseEnd t
    | e => throw e
  let s ← get
  let k := subKey (cellKey core (64 * die + lane) col)
  if decide (6 ≤ g.gc) && s.badCells.contains k then
    set { s with badCells := s.badCells.filter (· ≠ k) }
    raiseEnd { code := 0x0F, i0 := BitVec.ofNat 64 (64 * die + lane), i1 := BitVec.ofNat 64 col, i2 := BitVec.ofNat 64 p }

/-- The columns of the window that are active (R300). -/
def Gang.activeCols (g : Gang) (w : GangGroup) (x : Hart) : List (Nat × Nat) :=
  w.cols.zipIdx.filter (fun c => !g.p || (x.mask 1).getLsbD c.2)

/-- The checks of a group, by ascending tile row (R303, R309, R310, R312); what the rows of a die share is checked with its first.
DEDUCED, log 29. -/
def gangCheckRow (g : Gang) (w : GangGroup) (i : Nat) (row : Nat × Nat × Bool) : M Unit := do
  let (die, lane, on) := row
  let p := i / 64
  let (js, ms) := g.laneElems w (i % 64)
  gangRange g.qc p w.k0 js
  if i % 64 = 0 then
    gangRange g.qr p w.k0 (List.range (((g.needs w.k0 w.k1 w.cols.length).getD 1 (0, 0)).2))
  match g.qm with
  | some m =>
    gangRange m p w.k0 ms
    gangMeta m p i w.k0 ms
  | none => pure ()
  let x ← meM
  if on && (!g.p || (x.mask 0).getLsbD i) then
    (g.activeCols w x).forM (fun c => gangCell g w.core die lane c.1 w.k0)

/-- The new values of the active cells of tile row `i` for one group (R300), with their keys. DEDUCED, log 29. -/
def gangRow (s : State) (g : Gang) (w : GangGroup) (i : Nat) (row : Nat × Nat × Bool) (cs rs ms : List Nat) : List (Nat × Nat) :=
  let (die, lane, on) := row
  if on && (!g.p || (s.me.mask 0).getLsbD i) then
    (g.activeCols w s.me).map (fun c =>
      let key := cellKey w.core (64 * die + lane) c.1
      let terms := w.ks.map (fun k => prodV (columnValue g cs ms lane k) (rowValue g rs w.cols.length c.2 k))
      (key, rankSum (fdecode .f32 (s.cell key).toNat) terms))
  else []

/-- The cells of a row that a retirement took out of service while the update runs become undefined (R311): free values. -/
def gangLost (g : Gang) (w : GangGroup) (mask : BitVec 32) (i : Nat) (row : Nat × Nat × Bool) (s : State) : State :=
  let (die, lane, on) := row
  if !on && mask.getLsbD (4 * die + lane / 16) && (!g.p || (s.me.mask 0).getLsbD i) then
    let (n, s) := s.nextFree
    (g.activeCols w s.me).foldl (fun s c =>
      let key := cellKey w.core (64 * die + lane) c.1
      s.setCell key (Config.freeCell n key)) s
  else s

/-- The takes of one group made on die stream `p` of a queue (R296); the queue order is reckoned afresh (06 R225). -/
def gangAdvance (p cnt : Nat) (q : StreamQ) : StreamQ :=
  let q := { q with
    dpos := q.dpos.set p (q.dpos.getD p 0 + cnt), pos := q.pos + cnt, cur := 0, left := dDrun q.desc }.dropTaken
  { q with stale := q.stale.filter (fun m => (smFind q.buf (m / 4)).isSome) }

/-- The elements that the die at position `p` takes for a group, by queue in the order of `Gang.needs`; none while one of them waits. -/
def Gang.takes (g : Gang) (w : GangGroup) (s : State) (p : Nat) : Option (List (List Nat)) :=
  (g.needs w.k0 w.k1 w.cols.length).mapM (fun n => s.gangTakes n.1 p (List.range n.2))

/-- One group on the die at position `p`, with the elements it takes: its cells, and its takes. -/
def gangDie (e : Entry) (g : Gang) (w : GangGroup) (rows : List ((Nat × Nat × Bool) × Nat)) (p : Nat) (ts : List (List Nat)) : M Unit := do
  let s ← get
  let mine := rows.filter (fun r => r.2 / 64 = p)
  let vs := mine.flatMap (fun r => gangRow s g w r.2 r.1 (ts.getD 0 []) (ts.getD 1 []) (ts.getD 2 []))
  let s := vs.foldl (fun s v => s.setCell v.1 (BitVec.ofNat 32 v.2)) s
  set (mine.foldl (fun s r => gangLost g w e.laneMask r.2 r.1 s) s)
  for n in g.needs w.k0 w.k1 w.cols.length do
    modQ n.1 (gangAdvance p n.2)

/-- The groups from k0 on, at most `fuel` of them (R300, R307). A group starts when the operands of every die are there; it is then
checked and applied on all of them at once, so that no stop finds it half applied (R308). DEDUCED, log 29. -/
def gangLoop (e : Entry) (g : Gang) (core : Nat) (rows : List ((Nat × Nat × Bool) × Nat)) (dies : Nat) : Nat → Nat → M Unit
  | 0, _ => return ()
  | fuel + 1, k0 => do
    if k0 < e.kTotal then
      let k1 := Nat.min (k0 + g.g) e.kTotal
      let x ← meM
      let w : GangGroup :=
        { core := core, k0 := k0, k1 := k1, cols := e.cols
          ks := (List.range (k1 - k0)).filter (fun i => !g.p || (x.mask 2).getLsbD (k0 + i)) }
      rows.forM (fun r => gangCheckRow g w r.2 r.1)
      match (List.range dies).mapM (g.takes w (← get)) with
      | none => block
      | some tss => tss.zipIdx.forM (fun t => gangDie e g w rows t.2 t.1)
      updMeM (fun x => x.updEntry e.uid (fun e => { e with restart := some k1 }))
      reach k1
      gangLoop e g core rows dies fuel k1

/-- TMUL and TMULSP. A trap of the entry's own after its start checks leaves the progress in TKPROG (R309). -/
def runTmul (e : Entry) (g : Gang) (kOp : Option Nat) (acc ds : Nat) : M Unit := do
  let s ← get
  let x := s.me
  let core := coreOf s.cur
  if e.st == .waiting then
    tileOn e
    let dies := s.dies (x.dsel ds)
    let k := kOp.getD x.tk
    match gangChecks g x dies (64 * acc) k with
    | some none => raise (illegal e.word 4)
    | some (some t) => raiseAt e 0 t
    | none => pure ()
    beginAt e 0
    -- VSTART := 0 (R308), in the order of the queue
    vstart0
    updMeM (fun x => x.updEntry e.uid (fun e => { e with
      cap := some { vl := x.vl.toNat, vtype := x.vtype, sel := x.dsel ds, dies := dies }
      cols := (x.tileCols.drop (64 * acc)).take x.tn
      kTotal := k
      laneMask := s.laneMask core
      prog := {} }))
  let e := ((← meM).queue.find? (fun o => o.uid = e.uid)).getD e
  let p0 := e.restart.getD 0
  let dies := match e.cap with
    | some c => c.dies
    | none => []
  reach p0
  try gangLoop e g core (s.tileRows core dies).zipIdx dies.length (e.kTotal + 1) p0
  catch
  | .endTrap t =>
    updMeM (fun x => { x with tkprog := x.p })
    raiseEnd t
  | ex => throw ex
  updMeM (fun x => { x with tkprog := 0 })

end Sys2Proof.Machine
end

