-- ==== Sys2Proof/Machine/EntryRun.lean ====
section
/-!
DEFINITION. The vector command queue of a hart (04 R157 to R159, 01 R45): which operation an entry runs, when an entry may
start, how the queue advances, and the issue of a queue-class instruction.
-/

namespace Sys2Proof.Machine

/-- What the words of TMUL and TMULSP fix of a rank update. -/
def tmulGang (qc qr : Nat) (p : Bool) (gc : Nat) : Gang := { qc := qc, qr := qr, qm := none, p := p, gc := gc }
def tmulspGang (qc qr qm : Nat) (p : Bool) (gc : Nat) : Gang := { qc := qc, qr := qr, qm := some qm, p := p, gc := gc }

def QOp.gang : QOp → Option Gang
  | .tmul qc qr _ p _ _ gc => some (tmulGang qc qr p gc)
  | .tmulsp qc qr sk p _ _ gc => some (tmulspGang qc qr sk p gc)
  | _ => none

/-- What an entry does when it runs. -/
def runOp (e : Entry) : M Unit :=
  match e.op with
  | .vint op vs f => runVint e op vs f
  | .vfp op vs f => runVfp e op vs f
  | .vfp64 op f => runVfp64 e op f
  | .vspec op f => runVspec e op f
  | .vcmp op vs f => runVcmp e op vs f
  | .vcvt op fmt f => runVcvt e op fmt f
  | .vmxpack fmt f => runVmxpack e fmt f
  | .vmxunpack fmt f => runVmxunpack e fmt f
  | .vamax f => runVamax e f
  | .vbamax f => runVbamax e f
  | .vscale fmt => runVscale e fmt
  | .vquant f => runVquant e f
  | .vdequant f => runVdequant e f
  | .vred op f => runVred e op f
  | .vperm op f => runVperm e op f
  | .vbits op f => runVbits e op f
  | .vcfg n => runVcfg e n
  | .vset vt _ _ => runVset e vt
  | .setVl vl => updMeM (fun x => { x with vl := BitVec.ofNat 15 vl })
  | .vmem op f => runVmem e op f
  | .gslice op w f => runGslice e op w f
  | .gpass q => runGpass e q
  | .vqsrc op peek n f => runVqsrc e op peek n f
  | .venq n f => runVenq e n f
  | .mask op md ma mb => runMask e op md ma mb
  | .tmul qc qr sk p acc ds gc => runTmul e (tmulGang qc qr p gc) (if sk = 0 then none else some e.opb.toNat) acc ds
  | .tmulsp qc qr sk p acc ds gc => runTmul e (tmulspGang qc qr sk p gc) none acc ds
  | .tmodeOn q => runTmodeOn e q
  | .tmodeOff q => runTmodeOff e q
  | .tshape ds => runTshape e ds
  | .tzero acc ds => runTzero e acc ds
  | .trd col vd ds => runTslice e false col vd ds
  | .twr col va ds => runTslice e true col va ds
  | .tpred ds => runTpred e ds
  | .tsync => runTsync e
  | .strm op n ra rb ds => runStrm e op n ra rb ds
  | .copy op spd sps ds _ => runCopy e op spd sps ds
  | .stor op => runStor e op
  | .link op => runLink e op
  | .beacon op => runBeacon e op

/-! ### When an entry may start -/

/-- The entries of the tile unit, in QSN order among themselves (08 R305). -/
def QOp.isTile : QOp → Bool
  | .tmul .. | .tmulsp .. | .tmodeOn _ | .tmodeOff _ | .tshape _ | .tzero .. | .trd .. | .twr .. | .tpred _ | .tsync => true
  | _ => false

/-- The vector and tile entries that report a retirement before anything else (05 R208); the slice moves of the tile unit
report it after their operand checks. -/
def QOp.reportsLane : QOp → Bool
  | .mask .. | .vcfg _ | .vset .. | .setVl _ | .gpass _ | .trd .. | .twr .. | .strm .. | .copy .. | .stor _ | .link _
  | .beacon _ => false
  | _ => true

/-- Whether an entry may write m0 to m3, the predicates of a rank update (08 R290). -/
def QOp.writesPredicates : QOp → Bool
  | .mask op md .. =>
    decide (md < 4) && (match op with | .popc | .first | .st => false | _ => true)
  | .vcmp _ _ f => decide (f.vd < 4) || f.x
  | .tshape _ | .tpred _ => true
  | .strm op _ _ md _ => op == .sldxBg && decide (md < 4)
  | .vint _ _ f | .vfp _ _ f | .vfp64 _ f | .vspec _ f | .vcvt _ _ f | .vmxpack _ f | .vmxunpack _ f | .vquant f | .vdequant f |
    .vred _ f | .vamax f | .vbamax f | .vqsrc _ _ _ f => f.x
  | _ => false

/-- Whether a started rank update runs under its predicates. -/
def QOp.predicated : QOp → Bool
  | .tmul _ _ _ p .. | .tmulsp _ _ _ p .. => p
  | _ => false

/-- The entries that the engines on CD execute (01 R30): each acts once every earlier entry of its hart has started (09 R319,
10 R346, 11 R363). -/
def QOp.onCd : QOp → Bool
  | .stor _ | .link _ | .beacon _ => true
  | _ => false

/-- Whether a started entry holds back a later entry of the engines on CD all the same: SWAIT and SDRAIN hold every later entry
(06 R241), as CPSHAD does (07 R272), and so do NCQPOLL, BWAIT and BPOLL (09 R326, 11 R369); a storage entry that a link holds up the later storage entries (R319, R330),
a pause, resumption or training that still acts on a link the later link entries (10 R346); and later fabric entries (11 R363) wait for
an operation still being injected, a BATOM until its packet is, at index 1 (R366), and for BFENCE, which takes BERR when it completes.
DEDUCED, log 28 and 36. -/
def Entry.holdsCd (o : Entry) (e : QOp) : Bool :=
  match o.op with
  | .strm op .. => op == .swait || op == .sdrain
  | .copy op .. => !op.background
  | .link op => (op == .lpause || op == .lresume || op == .ltrain) && (match e with | .link _ => true | _ => false)
  | .stor .ncqpoll | .beacon .bwait | .beacon .bpoll => true
  | .stor _ => (match e with | .stor _ => true | _ => false)
  | .beacon op => (op != .batom || o.restart != some 1) && (match e with | .beacon _ => true | _ => false)
  | _ => false

/-- Whether a started entry lets a later one start before it completes (R158, 07 R250, 08 R305, R306). VSCALE, which reads SATCNT,
waits for the saturations of CPCVT (05 R188, 07 R258). DEDUCED, log 28 and 36. -/
def letsPass (o e : Entry) : Bool :=
  o.st == .started &&
  (e.op.onCd && !o.holdsCd e.op ||
   match o.op with
   | .copy op .. => op.background && !(op == .cpcvt && (match e.op with | .vscale _ => true | _ => false))
   | .tmul .. | .tmulsp .. =>
     (!e.op.isTile || (match e.op with | .tmodeOff _ => true | _ => false)) &&
     (e.op.queuesUsed.all (fun q => !o.op.queuesUsed.contains q)) &&
     !(o.op.predicated && e.op.writesPredicates)
   | _ => false)

/-- Whether an entry may be worked on: every earlier open entry lets it pass. DEDUCED, log 28. -/
def Hart.mayRun (x : Hart) (e : Entry) : Bool :=
  (x.queue.filter (fun o => decide (o.uid < e.uid) && o.open)).all (fun o => letsPass o e)

/-! ### Running entries -/

/-- Operations whose restart index is their own and not the running index (07 R279, 08 R308). -/
def QOp.keepsIndex : QOp → Bool
  | .copy .. | .tmul .. | .tmulsp .. => true
  | _ => false

/-- The entry's running index becomes its restart index, if it has started (R159). -/
def keepIndex (x : Hart) (uid : Nat) : Hart :=
  x.updEntry uid (fun o => if o.st = .started ∧ o.op.keepsIndex = false then { o with restart := some x.p } else o)

/-- The entry is complete, with its scalar result written (R158); complete entries at the front retire (R45). -/
def completeEntry (x : Hart) (uid : Nat) : Hart :=
  let x := x.updEntry uid (fun o => { o with st := .complete })
  { x with queue := retire x.queue }

/-- What comes before an entry's own checks: a lazy tile word waits for every earlier entry (08 R288), and the first vector or tile
entry after a retirement reports it (05 R208). DEDUCED, log 24 and 28. -/
def runEntryM (e : Entry) : M Unit := do
  if e.lazyTile && e.st == .waiting then waitEarlier e
  if e.st == .waiting && e.op.onCd then beginAt e 0
  if e.st == .waiting && e.op.reportsLane then laneRetiredCheck e
  runOp e

/-- The link that a link entry names (10 R347 to R350). -/
def Entry.linkOf (e : Entry) : LinkOp → Nat
  | .lturn => e.opa.toNat
  | .lstat | .lwait => e.opa.toNat % 16
  | .lpause | .lresume | .lremap | .ltrain => e.opd.toNat

/-- The dies that an entry is sent to (01 R30): those that its selector names, or a queue's; every enabled one for the masks, the
geometry and the tile state, which live on all of them; the ends of a link between lane dies for its control (10 R342), while CD is an
end of a spine link; none for the other entries that CD executes. DESIGN CHOICE, log 55. -/
def State.entryDies (s : State) (x : Hart) (e : Entry) : List Nat :=
  match e.op with
  | .vint _ _ f | .vfp _ _ f | .vfp64 _ f | .vspec _ f | .vcmp _ _ f | .vcvt _ _ f | .vmxpack _ f | .vmxunpack _ f | .vamax f |
    .vbamax f | .vquant f | .vdequant f | .vred _ f | .vperm _ f | .vbits _ f | .vmem _ f | .gslice _ _ f | .vqsrc _ _ _ f |
    .venq _ f => s.dies (x.dsel f.ds)
  | .tmul _ _ _ _ _ ds _ | .tmulsp _ _ _ _ _ ds _ | .tshape ds | .tzero _ ds | .trd _ _ ds | .twr _ _ ds | .tpred ds =>
    s.dies (x.dsel ds)
  | .strm op n _ _ ds => if op == .sopen || op == .strans then s.dies (x.dsel ds) else (x.q n).dies
  | .copy op _ _ ds _ => if op == .cpwait then [] else if op == .cpshad || op == .cpbl then s.dies 0xFF else s.dies (x.dsel ds)
  | .vcfg _ | .mask .. | .gpass _ | .tmodeOn _ | .tmodeOff _ | .tsync => s.dies 0xFF
  | .link op =>
    let l := e.linkOf op
    if l < 8 || 13 < l then [] else [linkA l, linkB l].filter s.dieOn
  | .vscale _ | .vset .. | .setVl _ | .stor _ | .beacon _ => []

/-- The hops that stop an entry's command or its completion now (10 R354). Once a background command has started, its engines
go on without CD; its completion crosses when it is reported. The flits of a supervisor-mode hart count against no tenant
(R343). -/
def State.entryShut (s : State) (h : Nat) (e : Entry) : List (Sender × Nat × Bool) :=
  let x := s.hart h
  if e.st == .started && (match e.op with | .copy op .. => op.background | _ => false) then []
  else (s.entryDies x e).flatMap (s.shutHops { owner := .entry h e.qsn, payer := x.ctlPayer, cls := .ctl } 8)

/-- The harts of a core. -/
def coreHarts (c : Nat) : List Nat := (List.range 4).map (4 * c + ·)

/-- Whether an entry takes elements from the scratchpad by consuming reads (02 R85). -/
def Hart.consumes (x : Hart) (op : QOp) : Bool :=
  match op with
  | .vqsrc _ peek n _ => (x.q n).src == 4 || ((x.q n).src == 1 && !peek)
  | _ => false

/-- One pass over the reads that wait on the scratchpad of a core, each taking what is full: the fetches of the load queues of its
harts, which go on in the background whatever entry they are for (06 R223), and the chunks of copy commands. A hart that the schedule
holds back goes on with its started entries. -/
def State.releasePass (s : State) (h : Nat) : State :=
  (coreHarts (coreOf h)).foldl (fun s g =>
    let x := s.hart g
    let atWork (o : Entry) : Bool := o.open && x.mayRun o && (!x.lag || o.st == .started)
    let fetches (n : Nat) : Bool :=
      (x.q n).isOpen && ((x.q n).src == 1 || (x.q n).src == 4) &&
      (!x.lag || x.queue.any (fun o => o.st == .started && o.op.queuesUsed.contains n))
    if x.run != .running then s
    else
      let s := ((List.range 8).filter fetches).foldl (fun s n => pumpFetch g n (((s.hart g).q n).fuel) s) s
      x.queue.foldl (fun s o => match o.op, o.cap with
        | .copy .., some c => if atWork o then pumpCopy g o.uid c.dies.length (2 ^ 21) s else s
        | _, _ => s) s) s

/-- Passes until one changes nothing, at most `fuel`: what a read of one pass fills may be what another waits for. -/
def State.releasePasses (h : Nat) : Nat → State → State
  | 0, s => s
  | n + 1, s =>
    let s' := s.releasePass h
    if s' = s then s else State.releasePasses h n s'

/-- 02 R86: a fill releases every read that leaves the granule full. Before an entry of a hart may empty granules of its core, the other
reads that wait there take what is full, fills that these reads make included. -/
def State.releaseReads (s : State) (h : Nat) : State :=
  State.releasePasses h (2 ^ 21) s

/-- One attempt at an entry of hart `h`, unless a FENCE or a link holds it up. -/
def runEntry (h uid : Nat) (s : State) : State :=
  match (s.hart h).queue.find? (fun o => o.uid = uid) with
  | none => s
  | some e =>
    if s.entryFenced h e then s else
    match s.entryShut h e with
    | hop :: _ => s.noteFlit hop
    | [] =>
    let cur := s.cur
    let s := if (s.hart h).consumes e.op then s.releaseReads h else s
    let s := { s with cur := h }.updHart h (fun x => { x with p := e.restart.getD 0 })
    let free (x : Hart) : Hart := if e.lazyTile then { x with issueHold := false } else x
    match runM (runEntryM e) s with
    | (.ok (), s) => { s.updHart h (fun x => free (completeEntry x uid)) with cur := cur }
    | (.error .wait, s) =>
      { s.updHart h (fun x =>
          let x := keepIndex x uid
          if x.queue.any (fun o => o.uid = uid && o.st == .started) then free x else x) with cur := cur }
    | (.error (.trap t), s) =>
      { s.updHart h (fun x => takeTrap (keepIndex x uid) true e.qsn x.pc t) with cur := cur }
    | (.error (.endTrap t), s) =>
      { s.updHart h (fun x => takeTrap (free (completeEntry x uid)) true e.qsn x.pc t) with cur := cur }

/-- The open entries of a hart worked on once each, in QSN order, as far as they may run. -/
def sweepQueue (h : Nat) : List Nat → State → State
  | [], s => s
  | uid :: rest, s =>
    let x := s.hart h
    match x.queue.find? (fun o => o.uid = uid) with
    | some e => sweepQueue h rest (if e.open && x.mayRun e && x.run == .running then runEntry h uid s else s)
    | none => sweepQueue h rest s

/-- The queue of a hart advances until nothing changes. -/
def drainQueue (h : Nat) : Nat → State → State
  | 0, s => s
  | n + 1, s =>
    let s' := sweepQueue h ((s.hart h).queue.map (·.uid)) s
    if s' = s then s else drainQueue h n s'

/-- The queue of a hart advances, unless the schedule holds it back. DESIGN CHOICE, log 22. -/
def drain (h : Nat) (s : State) : State :=
  let x := s.hart h
  if x.lag || x.run != .running || !x.queue.any (·.open) then s else drainQueue h 256 s

/-! ### Issue (R157) -/

/-- A new entry at the end of the queue; `vlNew` is the VL that it fixes (R149). -/
def pushEntry (x : Hart) (op : QOp) (word : BitVec 32) (opd opa opb opc : Word) (dst : Option Nat) (isLazy : Bool)
    (vlNew : Nat := 0) : Hart :=
  { x with
    queue := x.queue ++ [{
      uid := x.nextUid, qsn := x.nextQsn, op := op, word := word, pc := x.pc, opd := opd, opa := opa, opb := opb
      opc := opc, dst := dst, st := .waiting, restart := none, cap := none, prog := {}, lazyTile := isLazy, began := false
      vlNew := vlNew }]
    nextUid := x.nextUid + 1
    nextQsn := x.nextQsn + 1 }

/-- The issue-time copy of the tile state after an instruction (08 R288). -/
def tileIssueAfter (x : Hart) : QOp → BitVec 4
  | .tmodeOn q => x.tileIssue ||| BitVec.ofNat 4 q
  | .tmodeOff q => x.tileIssue &&& ~~~(BitVec.ofNat 4 q)
  | _ => x.tileIssue

/-- Whether an instruction is a tile word of 08 R288. -/
def QOp.tileWord : QOp → Bool
  | .tmul .. | .tmulsp .. | .tshape _ | .tzero .. | .trd .. | .twr .. | .tpred _ | .tsync => true
  | _ => false

/-- R157: a queue-class instruction issues. It captures s[RD], s[RA] and s[RB] of its word, receives the next QSN, and marks
its scalar destination. While entries are held it raises ILLEGAL reason 9 (R159) as a trap of its entry (R164); the supervisor core
has no queue (13 R405). The queue then advances. DEDUCED, log 24. -/
def issue (op : QOp) (word : BitVec 32) (rd ra rb : Nat) (dst : Option Nat) (regs : List Nat) (s : State) : Out :=
  let x := s.me
  if s.cur = supvHart then .next (s.trapHere (illegal word 1))
  else if !x.ready (regs ++ dst.toList) || s.fenced op.kinds || (!x.holding && decide (64 ≤ (retire x.queue).length)) then .next s
  else
    let isLazy := op.tileWord && x.tileIssue == 0
    let vl := match op with | .vset vt ds avl => s.vlIssued vt ds avl | _ => 0
    let y := pushEntry x op word (x.s rd) (x.s ra) (x.s rb) (x.s (rb + 1)) dst isLazy vl
    let y := y.updEntry x.nextUid (fun e => { e with issued := s.cycle })
    let y := { y.adv with issueHold := y.issueHold || isLazy, tileIssue := tileIssueAfter x op }
    if x.holding then .next (s.updMe (fun _ => takeTrap y true x.nextQsn y.pc (illegal word 9)))
    else .next (drain s.cur (s.updMe (fun _ => y)))

end Sys2Proof.Machine
end

