-- ==== Sys2Proof/Machine/Branch.lean ====
section
/-!
DEFINITION. Branches, jumps and LOOPV (04 R147 to R150).
-/

namespace Sys2Proof.Machine

/-- A PC-relative target (R93): the offset counts words. -/
def relTarget (pc : Word) {n : Nat} (off : BitVec n) : Word := pc + off.signExtend 64 * 4

/-- A conditional branch (R147). -/
def branchOp (ra rb : BitVec 5) (off : BitVec 13) (cond : Word → Word → Bool) (s : State) : Out :=
  scalarRun [ra.toNat, rb.toNat] (updMeM (fun x =>
    { x with pc := (if cond (x.s ra.toNat) (x.s rb.toNat) then relTarget x.pc off else x.pc + 4) - 4 })) s

/-- JALR (R147). -/
def execJalr (rd : BitVec 5) (ra : BitVec 5) (imm : BitVec 16) (s : State) : Out :=
  scalarOp [rd.toNat, ra.toNat] (fun x =>
    let t := (x.s ra.toNat + imm.signExtend 64) &&& ~~~(3 : Word)
    { x.setS rd.toNat (x.pc + 4) with pc := t - 4 }) s

/-- BEQ (R147). -/
def execBeq (ra : BitVec 5) (rb : BitVec 5) (off : BitVec 13) (s : State) : Out :=
  branchOp ra rb off (fun a b => a == b) s

/-- BNE (R147). -/
def execBne (ra : BitVec 5) (rb : BitVec 5) (off : BitVec 13) (s : State) : Out :=
  branchOp ra rb off (fun a b => a != b) s

/-- BLT (R147). -/
def execBlt (ra : BitVec 5) (rb : BitVec 5) (off : BitVec 13) (s : State) : Out :=
  branchOp ra rb off (fun a b => a.slt b) s

/-- BGE (R147). -/
def execBge (ra : BitVec 5) (rb : BitVec 5) (off : BitVec 13) (s : State) : Out :=
  branchOp ra rb off (fun a b => !a.slt b) s

/-- BLTU (R147). -/
def execBltu (ra : BitVec 5) (rb : BitVec 5) (off : BitVec 13) (s : State) : Out :=
  branchOp ra rb off (fun a b => a.ult b) s

/-- BGEU (R147). -/
def execBgeu (ra : BitVec 5) (rb : BitVec 5) (off : BitVec 13) (s : State) : Out :=
  branchOp ra rb off (fun a b => !a.ult b) s

/-- JAL (R147). -/
def execJal (rd : BitVec 5) (off : BitVec 21) (s : State) : Out :=
  scalarOp [rd.toNat] (fun x => { x.setS rd.toNat (x.pc + 4) with pc := relTarget x.pc off - 4 }) s

/-- How an entry fixes VL for later instructions (R149): not at all, at a value, or only once it has started. -/
inductive VlFix where
  | no
  | at' (n : Nat)
  | atStart

/-- R149: what an entry does to VL. VSETVLI and VSETVL have fixed it at issue. -/
def vlFix (e : Entry) : VlFix :=
  match e.op with
  | .vset .. => .at' e.vlNew
  | .setVl n => .at' n
  | .vcfg _ | .tmodeOn _ | .tmodeOff _ => .at' 0
  | .vqsrc .. | .vmem .ldff _ => .atStart
  | _ => .no

/-- Whether an entry changes the geometry, and with it VLMAX (R149, R167). -/
def QOp.changesGeometry : QOp → Bool
  | .vcfg _ | .tmodeOn _ | .tmodeOff _ | .gpass _ => true
  | _ => false

/-- The VL that the next instruction sees (R149), or none while an earlier writer has still to fix it. DEDUCED, log 28. -/
def State.vlSeen (s : State) : Option Nat :=
  let open' := s.me.queue.filter (·.open)
  match open'.reverse.find? (fun e => match vlFix e with | .no => false | _ => true) with
  | none => some s.me.vl.toNat
  | some e =>
    match vlFix e with
    | .at' n => some n
    | _ => if e.st = .waiting then none else some s.me.vl.toNat

/-- The effect of LOOPV for a VL (R150). -/
def loopvEffect (rc rp : BitVec 5) (np esh : BitVec 2) (off : BitVec 12) (vl : Nat) (x : Hart) : Hart :=
  if vl = 0 then x
  else
    let c := x.s rc.toNat
    let v : Word := BitVec.ofNat 64 vl
    let x :=
      if rp = 0 then x
      else (List.range (np.toNat + 1)).foldl (fun x i =>
        x.setS (rp.toNat + i) (x.s (rp.toNat + i) + v * BitVec.ofNat 64 (2 ^ esh.toNat))) x
    let c' := if v < c then c - v else 0
    let x := x.setS rc.toNat c'
    if c' ≠ 0 then { x with pc := relTarget x.pc off - 4 } else x

/-- LOOPV (R150). -/
def execLoopv (rc : BitVec 5) (rp : BitVec 5) (np : BitVec 2) (esh : BitVec 2) (off : BitVec 12) (s : State) : Out :=
  match s.vlSeen with
  | none => .next s
  | some vl =>
    scalarOp (rc.toNat :: (if rp = 0 then [] else (List.range (np.toNat + 1)).map (rp.toNat + ·)))
      (loopvEffect rc rp np esh off vl) s

end Sys2Proof.Machine
end

