-- ==== Sys2Proof/WellFormed.lean ====
section
/-!
DEFINITION. Which instructions are well formed: the field constraints of 03 R97 steps 6 and 7 and the function codes
that a field holds (R111). `zeroOk` gathers the constraints between fields that require a field to be zero (reason 3), `rangeOk` every
other constraint (reason 4). A field that is zero in every word of an instruction is not a field of its constructor.
-/

namespace Sys2Proof

/-- R109: MS is zero when neither M nor X is set. -/
def maskFieldOk (m x : BitVec 1) (ms : BitVec 3) : Bool := m == 1 || x == 1 || ms == 0

/-- R113: the element format codes 0x00 to 0x13 are assigned. -/
def fmtAssigned (c : BitVec 5) : Bool := c.toNat < 0x14

/-- R110: the mask registers are m0 to m95. -/
def maskRegOk (r : BitVec 7) : Bool := r.toNat < 96

/-- R110: a field of the MASK format that names a scalar register. -/
def maskScalarOk (r : BitVec 7) : Bool := r.toNat < 32

/-- R111: the queues of TMUL are at most q7 and differ. -/
def gangQueuesOk (qc qr : BitVec 5) : Bool := qc.toNat < 8 && qr.toNat < 8 && qc != qr

/-- R97 step 6, the constraints between fields: MS without M and X (R109), and NP and ESH of a LOOPV without pointers
(R105). -/
def Instr.zeroOk : Instr → Bool
  | .add _ _ _ => true
  | .sub _ _ _ => true
  | .and _ _ _ => true
  | .or _ _ _ => true
  | .xor _ _ _ => true
  | .andn _ _ _ => true
  | .orn _ _ _ => true
  | .xnor _ _ _ => true
  | .sll _ _ _ => true
  | .srl _ _ _ => true
  | .sra _ _ _ => true
  | .rol _ _ _ => true
  | .ror _ _ _ => true
  | .slt _ _ _ => true
  | .sltu _ _ _ => true
  | .mul _ _ _ => true
  | .mulh _ _ _ => true
  | .mulhu _ _ _ => true
  | .mulhsu _ _ _ => true
  | .div _ _ _ => true
  | .divu _ _ _ => true
  | .rem _ _ _ => true
  | .remu _ _ _ => true
  | .min _ _ _ => true
  | .max _ _ _ => true
  | .minu _ _ _ => true
  | .maxu _ _ _ => true
  | .clz _ _ => true
  | .ctz _ _ => true
  | .popc _ _ => true
  | .rev8 _ _ => true
  | .slli _ _ _ => true
  | .srli _ _ _ => true
  | .srai _ _ _ => true
  | .rori _ _ _ => true
  | .sextb _ _ => true
  | .sexth _ _ => true
  | .sextw _ _ => true
  | .zextw _ _ => true
  | .selz _ _ _ _ => true
  | .selnz _ _ _ _ => true
  | .fsl _ _ _ _ => true
  | .fsr _ _ _ _ => true
  | .bfx _ _ _ _ => true
  | .bfxs _ _ _ _ => true
  | .bfi _ _ _ _ => true
  | .bdep _ _ _ => true
  | .bcmpr _ _ _ => true
  | .brev _ _ => true
  | .faddS _ _ _ => true
  | .fsubS _ _ _ => true
  | .fmulS _ _ _ => true
  | .fdivS _ _ _ => true
  | .fsqrtS _ _ => true
  | .fminS _ _ _ => true
  | .fmaxS _ _ _ => true
  | .fmaS _ _ _ _ => true
  | .fnmaS _ _ _ _ => true
  | .fcsignS _ _ _ => true
  | .fnsignS _ _ _ => true
  | .fxsignS _ _ _ => true
  | .feqS _ _ _ => true
  | .fltS _ _ _ => true
  | .fleS _ _ _ => true
  | .fkindS _ _ => true
  | .ftoiS _ _ => true
  | .ftoiuS _ _ => true
  | .itofS _ _ => true
  | .utofS _ _ => true
  | .ftohS _ _ => true
  | .ftobS _ _ => true
  | .htofS _ _ => true
  | .btofS _ _ => true
  | .fcvtxS _ _ => true
  | .faddD _ _ _ => true
  | .fsubD _ _ _ => true
  | .fmulD _ _ _ => true
  | .fdivD _ _ _ => true
  | .fsqrtD _ _ => true
  | .fminD _ _ _ => true
  | .fmaxD _ _ _ => true
  | .fmaD _ _ _ _ => true
  | .fnmaD _ _ _ _ => true
  | .fcsignD _ _ _ => true
  | .fnsignD _ _ _ => true
  | .fxsignD _ _ _ => true
  | .feqD _ _ _ => true
  | .fltD _ _ _ => true
  | .fleD _ _ _ => true
  | .fkindD _ _ => true
  | .ftoiD _ _ => true
  | .ftoiuD _ _ => true
  | .itofD _ _ => true
  | .utofD _ _ => true
  | .ftohD _ _ => true
  | .ftobD _ _ => true
  | .htofD _ _ => true
  | .btofD _ _ => true
  | .fcvtxD _ _ => true
  | .addi _ _ _ => true
  | .andi _ _ _ => true
  | .ori _ _ _ => true
  | .xori _ _ _ => true
  | .slti _ _ _ => true
  | .sltiu _ _ _ => true
  | .lui _ _ => true
  | .addhi _ _ _ => true
  | .ldb _ _ _ => true
  | .ldh _ _ _ => true
  | .ldw _ _ _ => true
  | .ldd _ _ _ => true
  | .ldbu _ _ _ => true
  | .ldhu _ _ _ => true
  | .ldwu _ _ _ => true
  | .stb _ _ _ => true
  | .sth _ _ _ => true
  | .stw _ _ _ => true
  | .std _ _ _ => true
  | .rmswap _ _ _ _ _ _ _ => true
  | .rmadd _ _ _ _ _ _ _ => true
  | .rmand _ _ _ _ _ _ _ => true
  | .rmor _ _ _ _ _ _ _ => true
  | .rmxor _ _ _ _ _ _ _ => true
  | .rmmin _ _ _ _ _ _ _ => true
  | .rmmax _ _ _ _ _ _ _ => true
  | .rmminu _ _ _ _ _ _ _ => true
  | .rmmaxu _ _ _ _ _ _ _ => true
  | .cas _ _ _ _ _ _ _ => true
  | .lda _ _ _ _ => true
  | .stl _ _ _ _ => true
  | .claim _ _ _ _ _ _ => true
  | .jalr _ _ _ => true
  | .beq _ _ _ => true
  | .bne _ _ _ => true
  | .blt _ _ _ => true
  | .bge _ _ _ => true
  | .bltu _ _ _ => true
  | .bgeu _ _ _ => true
  | .jal _ _ => true
  | .loopv _ rp np esh _ => rp != 0 || (np == 0 && esh == 0)
  | .cwread _ _ => true
  | .cwwrite _ _ => true
  | .cwset _ _ => true
  | .cwclr _ _ => true
  | .trap _ => true
  | .brk _ => true
  | .rett => true
  | .yield => true
  | .halt => true
  | .bar _ _ => true
  | .fence _ _ _ => true
  | .vadd _ _ _ m ms _ => maskFieldOk m 0 ms
  | .vsub _ _ _ m ms _ => maskFieldOk m 0 ms
  | .vsubr _ _ _ m ms _ => maskFieldOk m 0 ms
  | .vmul _ _ _ m ms _ => maskFieldOk m 0 ms
  | .vmulh _ _ _ m ms _ => maskFieldOk m 0 ms
  | .vmulhu _ _ _ m ms _ => maskFieldOk m 0 ms
  | .vmin _ _ _ m ms _ => maskFieldOk m 0 ms
  | .vmax _ _ _ m ms _ => maskFieldOk m 0 ms
  | .vminu _ _ _ m ms _ => maskFieldOk m 0 ms
  | .vmaxu _ _ _ m ms _ => maskFieldOk m 0 ms
  | .vand _ _ _ m ms _ => maskFieldOk m 0 ms
  | .vor _ _ _ m ms _ => maskFieldOk m 0 ms
  | .vxor _ _ _ m ms _ => maskFieldOk m 0 ms
  | .vsll _ _ _ m ms _ => maskFieldOk m 0 ms
  | .vsrl _ _ _ m ms _ => maskFieldOk m 0 ms
  | .vsra _ _ _ m ms _ => maskFieldOk m 0 ms
  | .vaddVs _ _ _ m ms _ => maskFieldOk m 0 ms
  | .vsubVs _ _ _ m ms _ => maskFieldOk m 0 ms
  | .vsubrVs _ _ _ m ms _ => maskFieldOk m 0 ms
  | .vmulVs _ _ _ m ms _ => maskFieldOk m 0 ms
  | .vmulhVs _ _ _ m ms _ => maskFieldOk m 0 ms
  | .vmulhuVs _ _ _ m ms _ => maskFieldOk m 0 ms
  | .vminVs _ _ _ m ms _ => maskFieldOk m 0 ms
  | .vmaxVs _ _ _ m ms _ => maskFieldOk m 0 ms
  | .vminuVs _ _ _ m ms _ => maskFieldOk m 0 ms
  | .vmaxuVs _ _ _ m ms _ => maskFieldOk m 0 ms
  | .vandVs _ _ _ m ms _ => maskFieldOk m 0 ms
  | .vorVs _ _ _ m ms _ => maskFieldOk m 0 ms
  | .vxorVs _ _ _ m ms _ => maskFieldOk m 0 ms
  | .vsllVs _ _ _ m ms _ => maskFieldOk m 0 ms
  | .vsrlVs _ _ _ m ms _ => maskFieldOk m 0 ms
  | .vsraVs _ _ _ m ms _ => maskFieldOk m 0 ms
  | .vfadd _ _ _ m ms _ x => maskFieldOk m x ms
  | .vfsub _ _ _ m ms _ x => maskFieldOk m x ms
  | .vfmul _ _ _ m ms _ x => maskFieldOk m x ms
  | .vfdiv _ _ _ m ms _ x => maskFieldOk m x ms
  | .vfmin _ _ _ m ms _ x => maskFieldOk m x ms
  | .vfmax _ _ _ m ms _ x => maskFieldOk m x ms
  | .vfma _ _ _ m ms _ x => maskFieldOk m x ms
  | .vfnma _ _ _ m ms _ x => maskFieldOk m x ms
  | .vfms _ _ _ m ms _ x => maskFieldOk m x ms
  | .vfcsign _ _ _ m ms _ x => maskFieldOk m x ms
  | .vfnsign _ _ _ m ms _ x => maskFieldOk m x ms
  | .vfxsign _ _ _ m ms _ x => maskFieldOk m x ms
  | .vfkind _ _ _ m ms _ x => maskFieldOk m x ms
  | .vfsubr _ _ _ m ms _ x => maskFieldOk m x ms
  | .vfaddVs _ _ _ m ms _ x => maskFieldOk m x ms
  | .vfsubVs _ _ _ m ms _ x => maskFieldOk m x ms
  | .vfmulVs _ _ _ m ms _ x => maskFieldOk m x ms
  | .vfdivVs _ _ _ m ms _ x => maskFieldOk m x ms
  | .vfminVs _ _ _ m ms _ x => maskFieldOk m x ms
  | .vfmaxVs _ _ _ m ms _ x => maskFieldOk m x ms
  | .vfmaVs _ _ _ m ms _ x => maskFieldOk m x ms
  | .vfnmaVs _ _ _ m ms _ x => maskFieldOk m x ms
  | .vfmsVs _ _ _ m ms _ x => maskFieldOk m x ms
  | .vfcsignVs _ _ _ m ms _ x => maskFieldOk m x ms
  | .vfnsignVs _ _ _ m ms _ x => maskFieldOk m x ms
  | .vfxsignVs _ _ _ m ms _ x => maskFieldOk m x ms
  | .vfkindVs _ _ _ m ms _ x => maskFieldOk m x ms
  | .vfsubrVs _ _ _ m ms _ x => maskFieldOk m x ms
  | .vfsqrt _ _ m ms _ x => maskFieldOk m x ms
  | .vfrcp _ _ m ms _ x => maskFieldOk m x ms
  | .vfrsqrt _ _ m ms _ x => maskFieldOk m x ms
  | .vfexp2 _ _ m ms _ x => maskFieldOk m x ms
  | .vflog2 _ _ m ms _ x => maskFieldOk m x ms
  | .vfexp _ _ m ms _ x => maskFieldOk m x ms
  | .vflog _ _ m ms _ x => maskFieldOk m x ms
  | .vftanh _ _ m ms _ x => maskFieldOk m x ms
  | .vfsigm _ _ m ms _ x => maskFieldOk m x ms
  | .vfgelu _ _ m ms _ x => maskFieldOk m x ms
  | .vfsilu _ _ m ms _ x => maskFieldOk m x ms
  | .vfsin _ _ m ms _ x => maskFieldOk m x ms
  | .vfcos _ _ m ms _ x => maskFieldOk m x ms
  | .vferf _ _ m ms _ x => maskFieldOk m x ms
  | .vcvt _ _ _ m ms _ x => maskFieldOk m x ms
  | .vwiden _ _ _ m ms _ x => maskFieldOk m x ms
  | .vnarrow _ _ _ m ms _ x => maskFieldOk m x ms
  | .vnarrows _ _ _ m ms _ x => maskFieldOk m x ms
  | .vmxpack _ _ _ m ms _ x => maskFieldOk m x ms
  | .vmxunpack _ _ _ m ms _ x => maskFieldOk m x ms
  | .vamax _ _ m ms _ x => maskFieldOk m x ms
  | .vscale _ _ _ _ => true
  | .vquant _ _ _ m ms _ x => maskFieldOk m x ms
  | .vdequant _ _ _ m ms _ x => maskFieldOk m x ms
  | .vbamax _ _ m ms _ x => maskFieldOk m x ms
  | .vsumr _ _ _ m ms _ => maskFieldOk m 0 ms
  | .vmaxr _ _ _ m ms _ => maskFieldOk m 0 ms
  | .vminr _ _ _ m ms _ => maskFieldOk m 0 ms
  | .vmaxur _ _ _ m ms _ => maskFieldOk m 0 ms
  | .vminur _ _ _ m ms _ => maskFieldOk m 0 ms
  | .vandr _ _ _ m ms _ => maskFieldOk m 0 ms
  | .vorr _ _ _ m ms _ => maskFieldOk m 0 ms
  | .vxorr _ _ _ m ms _ => maskFieldOk m 0 ms
  | .vfsumr _ _ _ m ms _ x => maskFieldOk m x ms
  | .vfmaxr _ _ _ m ms _ x => maskFieldOk m x ms
  | .vfminr _ _ _ m ms _ x => maskFieldOk m x ms
  | .vshup _ _ _ m ms _ => maskFieldOk m 0 ms
  | .vshdn _ _ _ m ms _ => maskFieldOk m 0 ms
  | .vgather _ _ _ m ms _ => maskFieldOk m 0 ms
  | .vcompress _ _ _ m ms _ => maskFieldOk m 0 ms
  | .vexpand _ _ m ms _ => maskFieldOk m 0 ms
  | .vmerge _ _ _ m ms _ => maskFieldOk m 0 ms
  | .vmove _ _ m ms _ => maskFieldOk m 0 ms
  | .vsplat _ _ m ms _ => maskFieldOk m 0 ms
  | .vhead _ _ _ => true
  | .vacnt _ m ms _ => maskFieldOk m 0 ms
  | .vxup _ _ _ m ms _ => maskFieldOk m 0 ms
  | .vxdn _ _ _ m ms _ => maskFieldOk m 0 ms
  | .vxbc _ _ _ m ms _ => maskFieldOk m 0 ms
  | .vxrev _ _ m ms _ => maskFieldOk m 0 ms
  | .vunpack _ _ _ m ms _ => maskFieldOk m 0 ms
  | .vbext _ _ _ m ms _ => maskFieldOk m 0 ms
  | .vfsl _ _ _ m ms _ => maskFieldOk m 0 ms
  | .vfsr _ _ _ m ms _ => maskFieldOk m 0 ms
  | .vlut _ _ _ m ms _ => maskFieldOk m 0 ms
  | .vclz _ _ m ms _ => maskFieldOk m 0 ms
  | .vctz _ _ m ms _ => maskFieldOk m 0 ms
  | .vpopc _ _ m ms _ => maskFieldOk m 0 ms
  | .vbrev _ _ m ms _ => maskFieldOk m 0 ms
  | .vcfg _ => true
  | .vsetvl _ _ _ _ => true
  | .vsetvli _ _ _ => true
  | .vld _ _ m ms _ => maskFieldOk m 0 ms
  | .vlds _ _ _ m ms _ => maskFieldOk m 0 ms
  | .vldx _ _ _ m ms _ => maskFieldOk m 0 ms
  | .vldff _ _ m ms _ => maskFieldOk m 0 ms
  | .vst _ _ m ms _ => maskFieldOk m 0 ms
  | .vsts _ _ _ m ms _ => maskFieldOk m 0 ms
  | .vstx _ _ _ m ms _ => maskFieldOk m 0 ms
  | .vstU _ _ m ms _ => maskFieldOk m 0 ms
  | .vstsU _ _ _ m ms _ => maskFieldOk m 0 ms
  | .vstxU _ _ _ m ms _ => maskFieldOk m 0 ms
  | .grow _ _ m ms _ => maskFieldOk m 0 ms
  | .gcol _ _ m ms _ => maskFieldOk m 0 ms
  | .gdiag _ _ m ms _ => maskFieldOk m 0 ms
  | .grows _ _ m ms _ => maskFieldOk m 0 ms
  | .gcols _ _ m ms _ => maskFieldOk m 0 ms
  | .gdiags _ _ m ms _ => maskFieldOk m 0 ms
  | .gpass _ _ => true
  | .vmvq _ _ _ m ms _ => maskFieldOk m 0 ms
  | .vaddq _ _ _ _ m ms _ => maskFieldOk m 0 ms
  | .vsubq _ _ _ _ m ms _ => maskFieldOk m 0 ms
  | .vmulq _ _ _ _ m ms _ => maskFieldOk m 0 ms
  | .vfaddq _ _ _ _ m ms _ x => maskFieldOk m x ms
  | .vfsubq _ _ _ _ m ms _ x => maskFieldOk m x ms
  | .vfmulq _ _ _ _ m ms _ x => maskFieldOk m x ms
  | .vfmaq _ _ _ _ m ms _ x => maskFieldOk m x ms
  | .vandq _ _ _ _ m ms _ => maskFieldOk m 0 ms
  | .vorq _ _ _ _ m ms _ => maskFieldOk m 0 ms
  | .vxorq _ _ _ _ m ms _ => maskFieldOk m 0 ms
  | .venq _ _ m ms _ => maskFieldOk m 0 ms
  | .mand _ _ _ => true
  | .mor _ _ _ => true
  | .mxor _ _ _ => true
  | .mandn _ _ _ => true
  | .morn _ _ _ => true
  | .mnand _ _ _ => true
  | .mnor _ _ _ => true
  | .mxnor _ _ _ => true
  | .mmv _ _ => true
  | .mnot _ _ => true
  | .mset _ => true
  | .mclr _ => true
  | .msbf _ _ => true
  | .msif _ _ => true
  | .msof _ _ => true
  | .mpopc _ _ => true
  | .mfirst _ _ => true
  | .mld _ _ => true
  | .mst _ _ => true
  | .vceq _ _ _ m ms _ => maskFieldOk m 0 ms
  | .vcne _ _ _ m ms _ => maskFieldOk m 0 ms
  | .vclt _ _ _ m ms _ => maskFieldOk m 0 ms
  | .vcltu _ _ _ m ms _ => maskFieldOk m 0 ms
  | .vcle _ _ _ m ms _ => maskFieldOk m 0 ms
  | .vcleu _ _ _ m ms _ => maskFieldOk m 0 ms
  | .vcgt _ _ _ m ms _ => maskFieldOk m 0 ms
  | .vcgtu _ _ _ m ms _ => maskFieldOk m 0 ms
  | .vfceq _ _ _ m ms _ x => maskFieldOk m x ms
  | .vfcne _ _ _ m ms _ x => maskFieldOk m x ms
  | .vfclt _ _ _ m ms _ x => maskFieldOk m x ms
  | .vfcle _ _ _ m ms _ x => maskFieldOk m x ms
  | .vfcgt _ _ _ m ms _ x => maskFieldOk m x ms
  | .vfcge _ _ _ m ms _ x => maskFieldOk m x ms
  | .vfcun _ _ _ m ms _ x => maskFieldOk m x ms
  | .vceqVs _ _ _ m ms _ => maskFieldOk m 0 ms
  | .vcneVs _ _ _ m ms _ => maskFieldOk m 0 ms
  | .vcltVs _ _ _ m ms _ => maskFieldOk m 0 ms
  | .vcltuVs _ _ _ m ms _ => maskFieldOk m 0 ms
  | .vcleVs _ _ _ m ms _ => maskFieldOk m 0 ms
  | .vcleuVs _ _ _ m ms _ => maskFieldOk m 0 ms
  | .vcgtVs _ _ _ m ms _ => maskFieldOk m 0 ms
  | .vcgtuVs _ _ _ m ms _ => maskFieldOk m 0 ms
  | .vfceqVs _ _ _ m ms _ x => maskFieldOk m x ms
  | .vfcneVs _ _ _ m ms _ x => maskFieldOk m x ms
  | .vfcltVs _ _ _ m ms _ x => maskFieldOk m x ms
  | .vfcleVs _ _ _ m ms _ x => maskFieldOk m x ms
  | .vfcgtVs _ _ _ m ms _ x => maskFieldOk m x ms
  | .vfcgeVs _ _ _ m ms _ x => maskFieldOk m x ms
  | .vfcunVs _ _ _ m ms _ x => maskFieldOk m x ms
  | .tmul _ _ _ _ _ _ _ => true
  | .tmulsp _ _ _ _ _ _ _ => true
  | .tmodeOn _ => true
  | .tmodeOff _ => true
  | .tshape _ _ _ _ => true
  | .tzero _ _ => true
  | .trdr _ _ _ => true
  | .trdc _ _ _ => true
  | .twrr _ _ _ => true
  | .twrc _ _ _ => true
  | .tpred _ => true
  | .tsync => true
  | .sopen _ _ _ => true
  | .sclose _ _ => true
  | .savail _ _ _ => true
  | .swait _ _ _ => true
  | .sskip _ _ _ => true
  | .sdrain _ _ => true
  | .srewind _ _ => true
  | .spref _ _ _ => true
  | .sgather _ _ _ => true
  | .sldxBg _ _ _ _ => true
  | .strans _ _ _ => true
  | .sstat _ _ _ => true
  | .cpy _ _ _ _ _ => true
  | .cpfill _ _ _ _ => true
  | .cpcvt _ _ _ _ _ _ => true
  | .cplz _ _ _ _ _ => true
  | .cpxp _ _ _ _ _ => true
  | .cpcrc _ _ _ _ _ => true
  | .cpcrc64 _ _ _ _ _ => true
  | .cprel _ _ _ _ => true
  | .cpshad _ _ => true
  | .cpbl _ _ => true
  | .cpwait => true
  | .nring _ _ => true
  | .ncqhd _ _ => true
  | .nqstat _ _ => true
  | .ncqpoll _ _ => true
  | .lturn _ _ _ => true
  | .lstat _ _ => true
  | .lpause _ => true
  | .lresume _ => true
  | .lremap _ _ => true
  | .ltrain _ _ => true
  | .lwait _ _ => true
  | .bput _ _ _ => true
  | .bget _ _ _ => true
  | .batom _ _ _ => true
  | .bnotify _ _ _ => true
  | .bwait _ _ => true
  | .bpoll _ _ => true
  | .bfence => true
  | .bstat _ _ => true
  | .blport _ _ => true
  | .klaunch _ _ => true
  | .kwait _ => true
  | .ctxsave _ => true
  | .ctxload _ => true
  | .svrd _ _ => true
  | .svwr _ _ => true
  | .warm _ _ => true
  | .wdisarm _ => true
  | .vdadd _ _ _ m ms _ x => maskFieldOk m x ms
  | .vdsub _ _ _ m ms _ x => maskFieldOk m x ms
  | .vdmul _ _ _ m ms _ x => maskFieldOk m x ms
  | .vddiv _ _ _ m ms _ x => maskFieldOk m x ms
  | .vdmin _ _ _ m ms _ x => maskFieldOk m x ms
  | .vdmax _ _ _ m ms _ x => maskFieldOk m x ms
  | .vdfma _ _ _ m ms _ x => maskFieldOk m x ms
  | .vdfnma _ _ _ m ms _ x => maskFieldOk m x ms
  | .vdfms _ _ _ m ms _ x => maskFieldOk m x ms
  | .vdcsign _ _ _ m ms _ x => maskFieldOk m x ms
  | .vdnsign _ _ _ m ms _ x => maskFieldOk m x ms
  | .vdxsign _ _ _ m ms _ x => maskFieldOk m x ms
  | .vdkind _ _ m ms _ x => maskFieldOk m x ms
  | .vdsubr _ _ _ m ms _ x => maskFieldOk m x ms
  | .vdsqrt _ _ m ms _ x => maskFieldOk m x ms
  | .trapEntry _ => true
  | .entryComplete _ => true
  | .barWaitEnd _ => true
  | .yieldExpiry _ => true
  | .streamFetch _ _ _ => true
  | .streamStoreWrite _ _ _ => true
  | .sgatherRow _ _ _ => true
  | .copyChunk _ _ _ _ => true
  | .driveRequest _ _ _ _ _ _ => true
  | .pairError _ => true
  | .turnBegin _ => true
  | .autoTurn _ _ => true
  | .turnDrainEnd _ => true
  | .turnDeadTimeEnd _ => true
  | .linkPaused _ => true
  | .ltrainDone _ _ _ => true
  | .flitReplay _ _ _ _ => true
  | .put _ _ => true
  | .getreq _ _ => true
  | .atom _ _ => true
  | .notify _ _ => true
  | .ack _ _ => true
  | .getdata _ _ => true
  | .atomrsp _ _ => true
  | .bell _ _ _ => true
  | .rbell _ _ _ => true
  | .beaconFlitReplay _ _ => true
  | .portUp _ => true
  | .launchBind _ => true
  | .preEmption _ => true
  | .contextSave _ => true
  | .completionEntryWrite _ => true
  | .sqtail _ _ => true
  | .cqhead _ _ => true
  | .enable _ _ => true
  | .tenantCreate _ => true
  | .tenantReset _ => true
  | .tenantDelete _ => true
  | .ownerSet _ => true
  | .pairCreate _ => true
  | .pairDelete _ => true
  | .regionCreate _ => true
  | .regionDelete _ => true
  | .gangCreate _ => true
  | .gangDelete _ => true
  | .gangSwitchSave _ => true
  | .gangSwitchResume _ => true
  | .launchSuspend _ => true
  | .launchResume _ => true
  | .debugGrant _ => true
  | .launch _ => true
  | .invalidate _ => true
  | .faultReplyRetry _ => true
  | .faultReplyAbort _ => true
  | .nop _ => true
  | .bootgo _ => true
  | .resetkey _ => true
  | .powerOn => true
  | .attreq => true
  | .fatalreq => true
  | .svnfuse _ => true
  | .clusterRetire _ _ _ => true
  | .ownerEntryWrite _ _ => true
  | .registerWrite _ _ => true
  | .powerClampWindow _ => true
  | .junctionHot _ => true
  | .thermal _ => true
  | .cdMemory => true
  | .dumpdone => true

/-- R97 step 7, the operand ranges of R105 and R108 to R114; and the operand format codes that TMUL and TMULSP have on A0
(R111). -/
def Instr.rangeOk : Instr → Bool
  | .add _ _ _ => true
  | .sub _ _ _ => true
  | .and _ _ _ => true
  | .or _ _ _ => true
  | .xor _ _ _ => true
  | .andn _ _ _ => true
  | .orn _ _ _ => true
  | .xnor _ _ _ => true
  | .sll _ _ _ => true
  | .srl _ _ _ => true
  | .sra _ _ _ => true
  | .rol _ _ _ => true
  | .ror _ _ _ => true
  | .slt _ _ _ => true
  | .sltu _ _ _ => true
  | .mul _ _ _ => true
  | .mulh _ _ _ => true
  | .mulhu _ _ _ => true
  | .mulhsu _ _ _ => true
  | .div _ _ _ => true
  | .divu _ _ _ => true
  | .rem _ _ _ => true
  | .remu _ _ _ => true
  | .min _ _ _ => true
  | .max _ _ _ => true
  | .minu _ _ _ => true
  | .maxu _ _ _ => true
  | .clz _ _ => true
  | .ctz _ _ => true
  | .popc _ _ => true
  | .rev8 _ _ => true
  | .slli _ _ _ => true
  | .srli _ _ _ => true
  | .srai _ _ _ => true
  | .rori _ _ _ => true
  | .sextb _ _ => true
  | .sexth _ _ => true
  | .sextw _ _ => true
  | .zextw _ _ => true
  | .selz _ _ _ _ => true
  | .selnz _ _ _ _ => true
  | .fsl _ _ _ _ => true
  | .fsr _ _ _ _ => true
  | .bfx _ _ _ _ => true
  | .bfxs _ _ _ _ => true
  | .bfi _ _ _ _ => true
  | .bdep _ _ _ => true
  | .bcmpr _ _ _ => true
  | .brev _ _ => true
  | .faddS _ _ _ => true
  | .fsubS _ _ _ => true
  | .fmulS _ _ _ => true
  | .fdivS _ _ _ => true
  | .fsqrtS _ _ => true
  | .fminS _ _ _ => true
  | .fmaxS _ _ _ => true
  | .fmaS _ _ _ _ => true
  | .fnmaS _ _ _ _ => true
  | .fcsignS _ _ _ => true
  | .fnsignS _ _ _ => true
  | .fxsignS _ _ _ => true
  | .feqS _ _ _ => true
  | .fltS _ _ _ => true
  | .fleS _ _ _ => true
  | .fkindS _ _ => true
  | .ftoiS _ _ => true
  | .ftoiuS _ _ => true
  | .itofS _ _ => true
  | .utofS _ _ => true
  | .ftohS _ _ => true
  | .ftobS _ _ => true
  | .htofS _ _ => true
  | .btofS _ _ => true
  | .fcvtxS _ _ => true
  | .faddD _ _ _ => true
  | .fsubD _ _ _ => true
  | .fmulD _ _ _ => true
  | .fdivD _ _ _ => true
  | .fsqrtD _ _ => true
  | .fminD _ _ _ => true
  | .fmaxD _ _ _ => true
  | .fmaD _ _ _ _ => true
  | .fnmaD _ _ _ _ => true
  | .fcsignD _ _ _ => true
  | .fnsignD _ _ _ => true
  | .fxsignD _ _ _ => true
  | .feqD _ _ _ => true
  | .fltD _ _ _ => true
  | .fleD _ _ _ => true
  | .fkindD _ _ => true
  | .ftoiD _ _ => true
  | .ftoiuD _ _ => true
  | .itofD _ _ => true
  | .utofD _ _ => true
  | .ftohD _ _ => true
  | .ftobD _ _ => true
  | .htofD _ _ => true
  | .btofD _ _ => true
  | .fcvtxD _ _ => true
  | .addi _ _ _ => true
  | .andi _ _ _ => true
  | .ori _ _ _ => true
  | .xori _ _ _ => true
  | .slti _ _ _ => true
  | .sltiu _ _ _ => true
  | .lui _ _ => true
  | .addhi _ _ _ => true
  | .ldb _ _ _ => true
  | .ldh _ _ _ => true
  | .ldw _ _ _ => true
  | .ldd _ _ _ => true
  | .ldbu _ _ _ => true
  | .ldhu _ _ _ => true
  | .ldwu _ _ _ => true
  | .stb _ _ _ => true
  | .sth _ _ _ => true
  | .stw _ _ _ => true
  | .std _ _ _ => true
  | .rmswap _ _ _ _ _ _ _ => true
  | .rmadd _ _ _ _ _ _ _ => true
  | .rmand _ _ _ _ _ _ _ => true
  | .rmor _ _ _ _ _ _ _ => true
  | .rmxor _ _ _ _ _ _ _ => true
  | .rmmin _ _ _ _ _ _ _ => true
  | .rmmax _ _ _ _ _ _ _ => true
  | .rmminu _ _ _ _ _ _ _ => true
  | .rmmaxu _ _ _ _ _ _ _ => true
  | .cas _ _ _ _ _ _ _ => true
  | .lda _ _ _ _ => true
  | .stl _ _ _ _ => true
  | .claim _ _ _ _ _ _ => true
  | .jalr _ _ _ => true
  | .beq _ _ _ => true
  | .bne _ _ _ => true
  | .blt _ _ _ => true
  | .bge _ _ _ => true
  | .bltu _ _ _ => true
  | .bgeu _ _ _ => true
  | .jal _ _ => true
  | .loopv rc rp np _ _ => rc != 0 && (rp == 0 || rp.toNat + np.toNat ≤ 31)
  | .cwread _ _ => true
  | .cwwrite _ _ => true
  | .cwset _ _ => true
  | .cwclr _ _ => true
  | .trap _ => true
  | .brk _ => true
  | .rett => true
  | .yield => true
  | .halt => true
  | .bar _ _ => true
  | .fence _ _ _ => true
  | .vadd _ _ _ _ _ _ => true
  | .vsub _ _ _ _ _ _ => true
  | .vsubr _ _ _ _ _ _ => true
  | .vmul _ _ _ _ _ _ => true
  | .vmulh _ _ _ _ _ _ => true
  | .vmulhu _ _ _ _ _ _ => true
  | .vmin _ _ _ _ _ _ => true
  | .vmax _ _ _ _ _ _ => true
  | .vminu _ _ _ _ _ _ => true
  | .vmaxu _ _ _ _ _ _ => true
  | .vand _ _ _ _ _ _ => true
  | .vor _ _ _ _ _ _ => true
  | .vxor _ _ _ _ _ _ => true
  | .vsll _ _ _ _ _ _ => true
  | .vsrl _ _ _ _ _ _ => true
  | .vsra _ _ _ _ _ _ => true
  | .vaddVs _ _ _ _ _ _ => true
  | .vsubVs _ _ _ _ _ _ => true
  | .vsubrVs _ _ _ _ _ _ => true
  | .vmulVs _ _ _ _ _ _ => true
  | .vmulhVs _ _ _ _ _ _ => true
  | .vmulhuVs _ _ _ _ _ _ => true
  | .vminVs _ _ _ _ _ _ => true
  | .vmaxVs _ _ _ _ _ _ => true
  | .vminuVs _ _ _ _ _ _ => true
  | .vmaxuVs _ _ _ _ _ _ => true
  | .vandVs _ _ _ _ _ _ => true
  | .vorVs _ _ _ _ _ _ => true
  | .vxorVs _ _ _ _ _ _ => true
  | .vsllVs _ _ _ _ _ _ => true
  | .vsrlVs _ _ _ _ _ _ => true
  | .vsraVs _ _ _ _ _ _ => true
  | .vfadd _ _ _ _ _ _ _ => true
  | .vfsub _ _ _ _ _ _ _ => true
  | .vfmul _ _ _ _ _ _ _ => true
  | .vfdiv _ _ _ _ _ _ _ => true
  | .vfmin _ _ _ _ _ _ _ => true
  | .vfmax _ _ _ _ _ _ _ => true
  | .vfma _ _ _ _ _ _ _ => true
  | .vfnma _ _ _ _ _ _ _ => true
  | .vfms _ _ _ _ _ _ _ => true
  | .vfcsign _ _ _ _ _ _ _ => true
  | .vfnsign _ _ _ _ _ _ _ => true
  | .vfxsign _ _ _ _ _ _ _ => true
  | .vfkind _ _ _ _ _ _ _ => true
  | .vfsubr _ _ _ _ _ _ _ => true
  | .vfaddVs _ _ _ _ _ _ _ => true
  | .vfsubVs _ _ _ _ _ _ _ => true
  | .vfmulVs _ _ _ _ _ _ _ => true
  | .vfdivVs _ _ _ _ _ _ _ => true
  | .vfminVs _ _ _ _ _ _ _ => true
  | .vfmaxVs _ _ _ _ _ _ _ => true
  | .vfmaVs _ _ _ _ _ _ _ => true
  | .vfnmaVs _ _ _ _ _ _ _ => true
  | .vfmsVs _ _ _ _ _ _ _ => true
  | .vfcsignVs _ _ _ _ _ _ _ => true
  | .vfnsignVs _ _ _ _ _ _ _ => true
  | .vfxsignVs _ _ _ _ _ _ _ => true
  | .vfkindVs _ _ _ _ _ _ _ => true
  | .vfsubrVs _ _ _ _ _ _ _ => true
  | .vfsqrt _ _ _ _ _ _ => true
  | .vfrcp _ _ _ _ _ _ => true
  | .vfrsqrt _ _ _ _ _ _ => true
  | .vfexp2 _ _ _ _ _ _ => true
  | .vflog2 _ _ _ _ _ _ => true
  | .vfexp _ _ _ _ _ _ => true
  | .vflog _ _ _ _ _ _ => true
  | .vftanh _ _ _ _ _ _ => true
  | .vfsigm _ _ _ _ _ _ => true
  | .vfgelu _ _ _ _ _ _ => true
  | .vfsilu _ _ _ _ _ _ => true
  | .vfsin _ _ _ _ _ _ => true
  | .vfcos _ _ _ _ _ _ => true
  | .vferf _ _ _ _ _ _ => true
  | .vcvt _ _ fmt _ _ _ _ => fmtAssigned fmt
  | .vwiden _ _ fmt _ _ _ _ => fmtAssigned fmt
  | .vnarrow _ _ fmt _ _ _ _ => fmtAssigned fmt
  | .vnarrows _ _ fmt _ _ _ _ => fmtAssigned fmt
  | .vmxpack _ _ fmt _ _ _ _ => fmtAssigned fmt
  | .vmxunpack _ _ fmt _ _ _ _ => fmtAssigned fmt
  | .vamax _ _ _ _ _ _ => true
  | .vscale _ _ fmt _ => fmtAssigned fmt
  | .vquant _ _ _ _ _ _ _ => true
  | .vdequant _ _ _ _ _ _ _ => true
  | .vbamax _ _ _ _ _ _ => true
  | .vsumr _ _ _ _ _ _ => true
  | .vmaxr _ _ _ _ _ _ => true
  | .vminr _ _ _ _ _ _ => true
  | .vmaxur _ _ _ _ _ _ => true
  | .vminur _ _ _ _ _ _ => true
  | .vandr _ _ _ _ _ _ => true
  | .vorr _ _ _ _ _ _ => true
  | .vxorr _ _ _ _ _ _ => true
  | .vfsumr _ _ _ _ _ _ _ => true
  | .vfmaxr _ _ _ _ _ _ _ => true
  | .vfminr _ _ _ _ _ _ _ => true
  | .vshup _ _ _ _ _ _ => true
  | .vshdn _ _ _ _ _ _ => true
  | .vgather _ _ _ _ _ _ => true
  | .vcompress _ _ _ _ _ _ => true
  | .vexpand _ _ _ _ _ => true
  | .vmerge _ _ _ _ _ _ => true
  | .vmove _ _ _ _ _ => true
  | .vsplat _ _ _ _ _ => true
  | .vhead _ _ _ => true
  | .vacnt _ _ _ _ => true
  | .vxup _ _ _ _ _ _ => true
  | .vxdn _ _ _ _ _ _ => true
  | .vxbc _ _ _ _ _ _ => true
  | .vxrev _ _ _ _ _ => true
  | .vunpack _ _ _ _ _ _ => true
  | .vbext _ _ _ _ _ _ => true
  | .vfsl _ _ _ _ _ _ => true
  | .vfsr _ _ _ _ _ _ => true
  | .vlut _ _ _ _ _ _ => true
  | .vclz _ _ _ _ _ => true
  | .vctz _ _ _ _ _ => true
  | .vpopc _ _ _ _ _ => true
  | .vbrev _ _ _ _ _ => true
  | .vcfg n => n.toNat ≤ 3
  | .vsetvl _ _ _ _ => true
  | .vsetvli _ _ _ => true
  | .vld _ _ _ _ _ => true
  | .vlds _ _ _ _ _ _ => true
  | .vldx _ _ _ _ _ _ => true
  | .vldff _ _ _ _ _ => true
  | .vst _ _ _ _ _ => true
  | .vsts _ _ _ _ _ _ => true
  | .vstx _ _ _ _ _ _ => true
  | .vstU _ _ _ _ _ => true
  | .vstsU _ _ _ _ _ _ => true
  | .vstxU _ _ _ _ _ _ => true
  | .grow _ _ _ _ _ => true
  | .gcol _ _ _ _ _ => true
  | .gdiag _ _ _ _ _ => true
  | .grows _ _ _ _ _ => true
  | .gcols _ _ _ _ _ => true
  | .gdiags _ _ _ _ _ => true
  | .gpass _ vb => vb.toNat ≤ 3
  | .vmvq _ _ qn _ _ _ => qn.toNat ≤ 7
  | .vaddq _ _ _ qn _ _ _ => qn.toNat ≤ 7
  | .vsubq _ _ _ qn _ _ _ => qn.toNat ≤ 7
  | .vmulq _ _ _ qn _ _ _ => qn.toNat ≤ 7
  | .vfaddq _ _ _ qn _ _ _ _ => qn.toNat ≤ 7
  | .vfsubq _ _ _ qn _ _ _ _ => qn.toNat ≤ 7
  | .vfmulq _ _ _ qn _ _ _ _ => qn.toNat ≤ 7
  | .vfmaq _ _ _ qn _ _ _ _ => qn.toNat ≤ 7
  | .vandq _ _ _ qn _ _ _ => qn.toNat ≤ 7
  | .vorq _ _ _ qn _ _ _ => qn.toNat ≤ 7
  | .vxorq _ _ _ qn _ _ _ => qn.toNat ≤ 7
  | .venq _ qn _ _ _ => 8 ≤ qn.toNat
  | .mand md ma mb => maskRegOk md && maskRegOk ma && maskRegOk mb
  | .mor md ma mb => maskRegOk md && maskRegOk ma && maskRegOk mb
  | .mxor md ma mb => maskRegOk md && maskRegOk ma && maskRegOk mb
  | .mandn md ma mb => maskRegOk md && maskRegOk ma && maskRegOk mb
  | .morn md ma mb => maskRegOk md && maskRegOk ma && maskRegOk mb
  | .mnand md ma mb => maskRegOk md && maskRegOk ma && maskRegOk mb
  | .mnor md ma mb => maskRegOk md && maskRegOk ma && maskRegOk mb
  | .mxnor md ma mb => maskRegOk md && maskRegOk ma && maskRegOk mb
  | .mmv md ma => maskRegOk md && maskRegOk ma
  | .mnot md ma => maskRegOk md && maskRegOk ma
  | .mset md => maskRegOk md
  | .mclr md => maskRegOk md
  | .msbf md ma => maskRegOk md && maskRegOk ma
  | .msif md ma => maskRegOk md && maskRegOk ma
  | .msof md ma => maskRegOk md && maskRegOk ma
  | .mpopc md ma => maskScalarOk md && maskRegOk ma
  | .mfirst md ma => maskScalarOk md && maskRegOk ma
  | .mld md ma => maskRegOk md && maskScalarOk ma
  | .mst md ma => maskScalarOk md && maskRegOk ma
  | .vceq _ _ _ _ _ _ => true
  | .vcne _ _ _ _ _ _ => true
  | .vclt _ _ _ _ _ _ => true
  | .vcltu _ _ _ _ _ _ => true
  | .vcle _ _ _ _ _ _ => true
  | .vcleu _ _ _ _ _ _ => true
  | .vcgt _ _ _ _ _ _ => true
  | .vcgtu _ _ _ _ _ _ => true
  | .vfceq _ _ _ _ _ _ _ => true
  | .vfcne _ _ _ _ _ _ _ => true
  | .vfclt _ _ _ _ _ _ _ => true
  | .vfcle _ _ _ _ _ _ _ => true
  | .vfcgt _ _ _ _ _ _ _ => true
  | .vfcge _ _ _ _ _ _ _ => true
  | .vfcun _ _ _ _ _ _ _ => true
  | .vceqVs _ _ _ _ _ _ => true
  | .vcneVs _ _ _ _ _ _ => true
  | .vcltVs _ _ _ _ _ _ => true
  | .vcltuVs _ _ _ _ _ _ => true
  | .vcleVs _ _ _ _ _ _ => true
  | .vcleuVs _ _ _ _ _ _ => true
  | .vcgtVs _ _ _ _ _ _ => true
  | .vcgtuVs _ _ _ _ _ _ => true
  | .vfceqVs _ _ _ _ _ _ _ => true
  | .vfcneVs _ _ _ _ _ _ _ => true
  | .vfcltVs _ _ _ _ _ _ _ => true
  | .vfcleVs _ _ _ _ _ _ _ => true
  | .vfcgtVs _ _ _ _ _ _ _ => true
  | .vfcgeVs _ _ _ _ _ _ _ => true
  | .vfcunVs _ _ _ _ _ _ _ => true
  | .tmul qc qr _ _ _ _ gc => gangQueuesOk qc qr && gc.toNat < 14
  | .tmulsp qc qr sk _ _ _ gc => gangQueuesOk qc qr && sk.toNat < 8 && sk != qc && sk != qr && gc.toNat < 6
  | .tmodeOn vb => vb.toNat ≤ 15
  | .tmodeOff vb => vb.toNat ≤ 15
  | .tshape _ _ _ _ => true
  | .tzero vb _ => vb.toNat ≤ 7
  | .trdr _ _ _ => true
  | .trdc _ _ _ => true
  | .twrr _ _ _ => true
  | .twrc _ _ _ => true
  | .tpred _ => true
  | .tsync => true
  | .sopen qn _ _ => qn.toNat ≤ 15
  | .sclose qn _ => qn.toNat ≤ 15
  | .savail qn _ _ => qn.toNat ≤ 15
  | .swait qn _ _ => qn.toNat ≤ 15
  | .sskip qn _ _ => qn.toNat ≤ 15
  | .sdrain qn _ => 8 ≤ qn.toNat ∧ qn.toNat ≤ 15
  | .srewind qn _ => qn.toNat ≤ 15
  | .spref qn _ _ => qn.toNat ≤ 7
  | .sgather qn _ _ => qn.toNat ≤ 7
  | .sldxBg qn _ _ _ => qn.toNat ≤ 7
  | .strans qn _ _ => qn.toNat ≤ 15
  | .sstat qn _ _ => qn.toNat ≤ 15
  | .cpy _ _ _ _ _ => true
  | .cpfill _ _ _ _ => true
  | .cpcvt _ _ _ _ _ _ => true
  | .cplz _ _ _ _ _ => true
  | .cpxp _ _ _ _ _ => true
  | .cpcrc _ _ _ _ _ => true
  | .cpcrc64 _ _ _ _ _ => true
  | .cprel _ _ _ _ => true
  | .cpshad _ _ => true
  | .cpbl _ _ => true
  | .cpwait => true
  | .nring _ _ => true
  | .ncqhd _ _ => true
  | .nqstat _ _ => true
  | .ncqpoll _ _ => true
  | .lturn _ _ _ => true
  | .lstat _ _ => true
  | .lpause _ => true
  | .lresume _ => true
  | .lremap _ _ => true
  | .ltrain _ _ => true
  | .lwait _ _ => true
  | .bput _ _ _ => true
  | .bget _ _ _ => true
  | .batom _ _ _ => true
  | .bnotify _ _ _ => true
  | .bwait _ _ => true
  | .bpoll _ _ => true
  | .bfence => true
  | .bstat _ _ => true
  | .blport _ _ => true
  | .klaunch _ _ => true
  | .kwait _ => true
  | .ctxsave _ => true
  | .ctxload _ => true
  | .svrd _ _ => true
  | .svwr _ _ => true
  | .warm _ _ => true
  | .wdisarm _ => true
  | .vdadd _ _ _ _ _ _ _ => true
  | .vdsub _ _ _ _ _ _ _ => true
  | .vdmul _ _ _ _ _ _ _ => true
  | .vddiv _ _ _ _ _ _ _ => true
  | .vdmin _ _ _ _ _ _ _ => true
  | .vdmax _ _ _ _ _ _ _ => true
  | .vdfma _ _ _ _ _ _ _ => true
  | .vdfnma _ _ _ _ _ _ _ => true
  | .vdfms _ _ _ _ _ _ _ => true
  | .vdcsign _ _ _ _ _ _ _ => true
  | .vdnsign _ _ _ _ _ _ _ => true
  | .vdxsign _ _ _ _ _ _ _ => true
  | .vdkind _ _ _ _ _ _ => true
  | .vdsubr _ _ _ _ _ _ _ => true
  | .vdsqrt _ _ _ _ _ _ => true
  | .trapEntry _ => true
  | .entryComplete _ => true
  | .barWaitEnd _ => true
  | .yieldExpiry _ => true
  | .streamFetch _ _ _ => true
  | .streamStoreWrite _ _ _ => true
  | .sgatherRow _ _ _ => true
  | .copyChunk _ _ _ _ => true
  | .driveRequest _ _ _ _ _ _ => true
  | .pairError _ => true
  | .turnBegin _ => true
  | .autoTurn _ _ => true
  | .turnDrainEnd _ => true
  | .turnDeadTimeEnd _ => true
  | .linkPaused _ => true
  | .ltrainDone _ _ _ => true
  | .flitReplay _ _ _ _ => true
  | .put _ _ => true
  | .getreq _ _ => true
  | .atom _ _ => true
  | .notify _ _ => true
  | .ack _ _ => true
  | .getdata _ _ => true
  | .atomrsp _ _ => true
  | .bell _ _ _ => true
  | .rbell _ _ _ => true
  | .beaconFlitReplay _ _ => true
  | .portUp _ => true
  | .launchBind _ => true
  | .preEmption _ => true
  | .contextSave _ => true
  | .completionEntryWrite _ => true
  | .sqtail _ _ => true
  | .cqhead _ _ => true
  | .enable _ _ => true
  | .tenantCreate _ => true
  | .tenantReset _ => true
  | .tenantDelete _ => true
  | .ownerSet _ => true
  | .pairCreate _ => true
  | .pairDelete _ => true
  | .regionCreate _ => true
  | .regionDelete _ => true
  | .gangCreate _ => true
  | .gangDelete _ => true
  | .gangSwitchSave _ => true
  | .gangSwitchResume _ => true
  | .launchSuspend _ => true
  | .launchResume _ => true
  | .debugGrant _ => true
  | .launch _ => true
  | .invalidate _ => true
  | .faultReplyRetry _ => true
  | .faultReplyAbort _ => true
  | .nop _ => true
  | .bootgo _ => true
  | .resetkey _ => true
  | .powerOn => true
  | .attreq => true
  | .fatalreq => true
  | .svnfuse _ => true
  | .clusterRetire _ _ _ => true
  | .ownerEntryWrite _ _ => true
  | .registerWrite _ _ => true
  | .powerClampWindow _ => true
  | .junctionHot _ => true
  | .thermal _ => true
  | .cdMemory => true
  | .dumpdone => true

/-- The events and host commands: the rows of the opcode table that no instruction word encodes (95). -/
def Instr.isEvent : Instr → Bool
  | .add _ _ _ => false
  | .sub _ _ _ => false
  | .and _ _ _ => false
  | .or _ _ _ => false
  | .xor _ _ _ => false
  | .andn _ _ _ => false
  | .orn _ _ _ => false
  | .xnor _ _ _ => false
  | .sll _ _ _ => false
  | .srl _ _ _ => false
  | .sra _ _ _ => false
  | .rol _ _ _ => false
  | .ror _ _ _ => false
  | .slt _ _ _ => false
  | .sltu _ _ _ => false
  | .mul _ _ _ => false
  | .mulh _ _ _ => false
  | .mulhu _ _ _ => false
  | .mulhsu _ _ _ => false
  | .div _ _ _ => false
  | .divu _ _ _ => false
  | .rem _ _ _ => false
  | .remu _ _ _ => false
  | .min _ _ _ => false
  | .max _ _ _ => false
  | .minu _ _ _ => false
  | .maxu _ _ _ => false
  | .clz _ _ => false
  | .ctz _ _ => false
  | .popc _ _ => false
  | .rev8 _ _ => false
  | .slli _ _ _ => false
  | .srli _ _ _ => false
  | .srai _ _ _ => false
  | .rori _ _ _ => false
  | .sextb _ _ => false
  | .sexth _ _ => false
  | .sextw _ _ => false
  | .zextw _ _ => false
  | .selz _ _ _ _ => false
  | .selnz _ _ _ _ => false
  | .fsl _ _ _ _ => false
  | .fsr _ _ _ _ => false
  | .bfx _ _ _ _ => false
  | .bfxs _ _ _ _ => false
  | .bfi _ _ _ _ => false
  | .bdep _ _ _ => false
  | .bcmpr _ _ _ => false
  | .brev _ _ => false
  | .faddS _ _ _ => false
  | .fsubS _ _ _ => false
  | .fmulS _ _ _ => false
  | .fdivS _ _ _ => false
  | .fsqrtS _ _ => false
  | .fminS _ _ _ => false
  | .fmaxS _ _ _ => false
  | .fmaS _ _ _ _ => false
  | .fnmaS _ _ _ _ => false
  | .fcsignS _ _ _ => false
  | .fnsignS _ _ _ => false
  | .fxsignS _ _ _ => false
  | .feqS _ _ _ => false
  | .fltS _ _ _ => false
  | .fleS _ _ _ => false
  | .fkindS _ _ => false
  | .ftoiS _ _ => false
  | .ftoiuS _ _ => false
  | .itofS _ _ => false
  | .utofS _ _ => false
  | .ftohS _ _ => false
  | .ftobS _ _ => false
  | .htofS _ _ => false
  | .btofS _ _ => false
  | .fcvtxS _ _ => false
  | .faddD _ _ _ => false
  | .fsubD _ _ _ => false
  | .fmulD _ _ _ => false
  | .fdivD _ _ _ => false
  | .fsqrtD _ _ => false
  | .fminD _ _ _ => false
  | .fmaxD _ _ _ => false
  | .fmaD _ _ _ _ => false
  | .fnmaD _ _ _ _ => false
  | .fcsignD _ _ _ => false
  | .fnsignD _ _ _ => false
  | .fxsignD _ _ _ => false
  | .feqD _ _ _ => false
  | .fltD _ _ _ => false
  | .fleD _ _ _ => false
  | .fkindD _ _ => false
  | .ftoiD _ _ => false
  | .ftoiuD _ _ => false
  | .itofD _ _ => false
  | .utofD _ _ => false
  | .ftohD _ _ => false
  | .ftobD _ _ => false
  | .htofD _ _ => false
  | .btofD _ _ => false
  | .fcvtxD _ _ => false
  | .addi _ _ _ => false
  | .andi _ _ _ => false
  | .ori _ _ _ => false
  | .xori _ _ _ => false
  | .slti _ _ _ => false
  | .sltiu _ _ _ => false
  | .lui _ _ => false
  | .addhi _ _ _ => false
  | .ldb _ _ _ => false
  | .ldh _ _ _ => false
  | .ldw _ _ _ => false
  | .ldd _ _ _ => false
  | .ldbu _ _ _ => false
  | .ldhu _ _ _ => false
  | .ldwu _ _ _ => false
  | .stb _ _ _ => false
  | .sth _ _ _ => false
  | .stw _ _ _ => false
  | .std _ _ _ => false
  | .rmswap _ _ _ _ _ _ _ => false
  | .rmadd _ _ _ _ _ _ _ => false
  | .rmand _ _ _ _ _ _ _ => false
  | .rmor _ _ _ _ _ _ _ => false
  | .rmxor _ _ _ _ _ _ _ => false
  | .rmmin _ _ _ _ _ _ _ => false
  | .rmmax _ _ _ _ _ _ _ => false
  | .rmminu _ _ _ _ _ _ _ => false
  | .rmmaxu _ _ _ _ _ _ _ => false
  | .cas _ _ _ _ _ _ _ => false
  | .lda _ _ _ _ => false
  | .stl _ _ _ _ => false
  | .claim _ _ _ _ _ _ => false
  | .jalr _ _ _ => false
  | .beq _ _ _ => false
  | .bne _ _ _ => false
  | .blt _ _ _ => false
  | .bge _ _ _ => false
  | .bltu _ _ _ => false
  | .bgeu _ _ _ => false
  | .jal _ _ => false
  | .loopv _ _ _ _ _ => false
  | .cwread _ _ => false
  | .cwwrite _ _ => false
  | .cwset _ _ => false
  | .cwclr _ _ => false
  | .trap _ => false
  | .brk _ => false
  | .rett => false
  | .yield => false
  | .halt => false
  | .bar _ _ => false
  | .fence _ _ _ => false
  | .vadd _ _ _ _ _ _ => false
  | .vsub _ _ _ _ _ _ => false
  | .vsubr _ _ _ _ _ _ => false
  | .vmul _ _ _ _ _ _ => false
  | .vmulh _ _ _ _ _ _ => false
  | .vmulhu _ _ _ _ _ _ => false
  | .vmin _ _ _ _ _ _ => false
  | .vmax _ _ _ _ _ _ => false
  | .vminu _ _ _ _ _ _ => false
  | .vmaxu _ _ _ _ _ _ => false
  | .vand _ _ _ _ _ _ => false
  | .vor _ _ _ _ _ _ => false
  | .vxor _ _ _ _ _ _ => false
  | .vsll _ _ _ _ _ _ => false
  | .vsrl _ _ _ _ _ _ => false
  | .vsra _ _ _ _ _ _ => false
  | .vaddVs _ _ _ _ _ _ => false
  | .vsubVs _ _ _ _ _ _ => false
  | .vsubrVs _ _ _ _ _ _ => false
  | .vmulVs _ _ _ _ _ _ => false
  | .vmulhVs _ _ _ _ _ _ => false
  | .vmulhuVs _ _ _ _ _ _ => false
  | .vminVs _ _ _ _ _ _ => false
  | .vmaxVs _ _ _ _ _ _ => false
  | .vminuVs _ _ _ _ _ _ => false
  | .vmaxuVs _ _ _ _ _ _ => false
  | .vandVs _ _ _ _ _ _ => false
  | .vorVs _ _ _ _ _ _ => false
  | .vxorVs _ _ _ _ _ _ => false
  | .vsllVs _ _ _ _ _ _ => false
  | .vsrlVs _ _ _ _ _ _ => false
  | .vsraVs _ _ _ _ _ _ => false
  | .vfadd _ _ _ _ _ _ _ => false
  | .vfsub _ _ _ _ _ _ _ => false
  | .vfmul _ _ _ _ _ _ _ => false
  | .vfdiv _ _ _ _ _ _ _ => false
  | .vfmin _ _ _ _ _ _ _ => false
  | .vfmax _ _ _ _ _ _ _ => false
  | .vfma _ _ _ _ _ _ _ => false
  | .vfnma _ _ _ _ _ _ _ => false
  | .vfms _ _ _ _ _ _ _ => false
  | .vfcsign _ _ _ _ _ _ _ => false
  | .vfnsign _ _ _ _ _ _ _ => false
  | .vfxsign _ _ _ _ _ _ _ => false
  | .vfkind _ _ _ _ _ _ _ => false
  | .vfsubr _ _ _ _ _ _ _ => false
  | .vfaddVs _ _ _ _ _ _ _ => false
  | .vfsubVs _ _ _ _ _ _ _ => false
  | .vfmulVs _ _ _ _ _ _ _ => false
  | .vfdivVs _ _ _ _ _ _ _ => false
  | .vfminVs _ _ _ _ _ _ _ => false
  | .vfmaxVs _ _ _ _ _ _ _ => false
  | .vfmaVs _ _ _ _ _ _ _ => false
  | .vfnmaVs _ _ _ _ _ _ _ => false
  | .vfmsVs _ _ _ _ _ _ _ => false
  | .vfcsignVs _ _ _ _ _ _ _ => false
  | .vfnsignVs _ _ _ _ _ _ _ => false
  | .vfxsignVs _ _ _ _ _ _ _ => false
  | .vfkindVs _ _ _ _ _ _ _ => false
  | .vfsubrVs _ _ _ _ _ _ _ => false
  | .vfsqrt _ _ _ _ _ _ => false
  | .vfrcp _ _ _ _ _ _ => false
  | .vfrsqrt _ _ _ _ _ _ => false
  | .vfexp2 _ _ _ _ _ _ => false
  | .vflog2 _ _ _ _ _ _ => false
  | .vfexp _ _ _ _ _ _ => false
  | .vflog _ _ _ _ _ _ => false
  | .vftanh _ _ _ _ _ _ => false
  | .vfsigm _ _ _ _ _ _ => false
  | .vfgelu _ _ _ _ _ _ => false
  | .vfsilu _ _ _ _ _ _ => false
  | .vfsin _ _ _ _ _ _ => false
  | .vfcos _ _ _ _ _ _ => false
  | .vferf _ _ _ _ _ _ => false
  | .vcvt _ _ _ _ _ _ _ => false
  | .vwiden _ _ _ _ _ _ _ => false
  | .vnarrow _ _ _ _ _ _ _ => false
  | .vnarrows _ _ _ _ _ _ _ => false
  | .vmxpack _ _ _ _ _ _ _ => false
  | .vmxunpack _ _ _ _ _ _ _ => false
  | .vamax _ _ _ _ _ _ => false
  | .vscale _ _ _ _ => false
  | .vquant _ _ _ _ _ _ _ => false
  | .vdequant _ _ _ _ _ _ _ => false
  | .vbamax _ _ _ _ _ _ => false
  | .vsumr _ _ _ _ _ _ => false
  | .vmaxr _ _ _ _ _ _ => false
  | .vminr _ _ _ _ _ _ => false
  | .vmaxur _ _ _ _ _ _ => false
  | .vminur _ _ _ _ _ _ => false
  | .vandr _ _ _ _ _ _ => false
  | .vorr _ _ _ _ _ _ => false
  | .vxorr _ _ _ _ _ _ => false
  | .vfsumr _ _ _ _ _ _ _ => false
  | .vfmaxr _ _ _ _ _ _ _ => false
  | .vfminr _ _ _ _ _ _ _ => false
  | .vshup _ _ _ _ _ _ => false
  | .vshdn _ _ _ _ _ _ => false
  | .vgather _ _ _ _ _ _ => false
  | .vcompress _ _ _ _ _ _ => false
  | .vexpand _ _ _ _ _ => false
  | .vmerge _ _ _ _ _ _ => false
  | .vmove _ _ _ _ _ => false
  | .vsplat _ _ _ _ _ => false
  | .vhead _ _ _ => false
  | .vacnt _ _ _ _ => false
  | .vxup _ _ _ _ _ _ => false
  | .vxdn _ _ _ _ _ _ => false
  | .vxbc _ _ _ _ _ _ => false
  | .vxrev _ _ _ _ _ => false
  | .vunpack _ _ _ _ _ _ => false
  | .vbext _ _ _ _ _ _ => false
  | .vfsl _ _ _ _ _ _ => false
  | .vfsr _ _ _ _ _ _ => false
  | .vlut _ _ _ _ _ _ => false
  | .vclz _ _ _ _ _ => false
  | .vctz _ _ _ _ _ => false
  | .vpopc _ _ _ _ _ => false
  | .vbrev _ _ _ _ _ => false
  | .vcfg _ => false
  | .vsetvl _ _ _ _ => false
  | .vsetvli _ _ _ => false
  | .vld _ _ _ _ _ => false
  | .vlds _ _ _ _ _ _ => false
  | .vldx _ _ _ _ _ _ => false
  | .vldff _ _ _ _ _ => false
  | .vst _ _ _ _ _ => false
  | .vsts _ _ _ _ _ _ => false
  | .vstx _ _ _ _ _ _ => false
  | .vstU _ _ _ _ _ => false
  | .vstsU _ _ _ _ _ _ => false
  | .vstxU _ _ _ _ _ _ => false
  | .grow _ _ _ _ _ => false
  | .gcol _ _ _ _ _ => false
  | .gdiag _ _ _ _ _ => false
  | .grows _ _ _ _ _ => false
  | .gcols _ _ _ _ _ => false
  | .gdiags _ _ _ _ _ => false
  | .gpass _ _ => false
  | .vmvq _ _ _ _ _ _ => false
  | .vaddq _ _ _ _ _ _ _ => false
  | .vsubq _ _ _ _ _ _ _ => false
  | .vmulq _ _ _ _ _ _ _ => false
  | .vfaddq _ _ _ _ _ _ _ _ => false
  | .vfsubq _ _ _ _ _ _ _ _ => false
  | .vfmulq _ _ _ _ _ _ _ _ => false
  | .vfmaq _ _ _ _ _ _ _ _ => false
  | .vandq _ _ _ _ _ _ _ => false
  | .vorq _ _ _ _ _ _ _ => false
  | .vxorq _ _ _ _ _ _ _ => false
  | .venq _ _ _ _ _ => false
  | .mand _ _ _ => false
  | .mor _ _ _ => false
  | .mxor _ _ _ => false
  | .mandn _ _ _ => false
  | .morn _ _ _ => false
  | .mnand _ _ _ => false
  | .mnor _ _ _ => false
  | .mxnor _ _ _ => false
  | .mmv _ _ => false
  | .mnot _ _ => false
  | .mset _ => false
  | .mclr _ => false
  | .msbf _ _ => false
  | .msif _ _ => false
  | .msof _ _ => false
  | .mpopc _ _ => false
  | .mfirst _ _ => false
  | .mld _ _ => false
  | .mst _ _ => false
  | .vceq _ _ _ _ _ _ => false
  | .vcne _ _ _ _ _ _ => false
  | .vclt _ _ _ _ _ _ => false
  | .vcltu _ _ _ _ _ _ => false
  | .vcle _ _ _ _ _ _ => false
  | .vcleu _ _ _ _ _ _ => false
  | .vcgt _ _ _ _ _ _ => false
  | .vcgtu _ _ _ _ _ _ => false
  | .vfceq _ _ _ _ _ _ _ => false
  | .vfcne _ _ _ _ _ _ _ => false
  | .vfclt _ _ _ _ _ _ _ => false
  | .vfcle _ _ _ _ _ _ _ => false
  | .vfcgt _ _ _ _ _ _ _ => false
  | .vfcge _ _ _ _ _ _ _ => false
  | .vfcun _ _ _ _ _ _ _ => false
  | .vceqVs _ _ _ _ _ _ => false
  | .vcneVs _ _ _ _ _ _ => false
  | .vcltVs _ _ _ _ _ _ => false
  | .vcltuVs _ _ _ _ _ _ => false
  | .vcleVs _ _ _ _ _ _ => false
  | .vcleuVs _ _ _ _ _ _ => false
  | .vcgtVs _ _ _ _ _ _ => false
  | .vcgtuVs _ _ _ _ _ _ => false
  | .vfceqVs _ _ _ _ _ _ _ => false
  | .vfcneVs _ _ _ _ _ _ _ => false
  | .vfcltVs _ _ _ _ _ _ _ => false
  | .vfcleVs _ _ _ _ _ _ _ => false
  | .vfcgtVs _ _ _ _ _ _ _ => false
  | .vfcgeVs _ _ _ _ _ _ _ => false
  | .vfcunVs _ _ _ _ _ _ _ => false
  | .tmul _ _ _ _ _ _ _ => false
  | .tmulsp _ _ _ _ _ _ _ => false
  | .tmodeOn _ => false
  | .tmodeOff _ => false
  | .tshape _ _ _ _ => false
  | .tzero _ _ => false
  | .trdr _ _ _ => false
  | .trdc _ _ _ => false
  | .twrr _ _ _ => false
  | .twrc _ _ _ => false
  | .tpred _ => false
  | .tsync => false
  | .sopen _ _ _ => false
  | .sclose _ _ => false
  | .savail _ _ _ => false
  | .swait _ _ _ => false
  | .sskip _ _ _ => false
  | .sdrain _ _ => false
  | .srewind _ _ => false
  | .spref _ _ _ => false
  | .sgather _ _ _ => false
  | .sldxBg _ _ _ _ => false
  | .strans _ _ _ => false
  | .sstat _ _ _ => false
  | .cpy _ _ _ _ _ => false
  | .cpfill _ _ _ _ => false
  | .cpcvt _ _ _ _ _ _ => false
  | .cplz _ _ _ _ _ => false
  | .cpxp _ _ _ _ _ => false
  | .cpcrc _ _ _ _ _ => false
  | .cpcrc64 _ _ _ _ _ => false
  | .cprel _ _ _ _ => false
  | .cpshad _ _ => false
  | .cpbl _ _ => false
  | .cpwait => false
  | .nring _ _ => false
  | .ncqhd _ _ => false
  | .nqstat _ _ => false
  | .ncqpoll _ _ => false
  | .lturn _ _ _ => false
  | .lstat _ _ => false
  | .lpause _ => false
  | .lresume _ => false
  | .lremap _ _ => false
  | .ltrain _ _ => false
  | .lwait _ _ => false
  | .bput _ _ _ => false
  | .bget _ _ _ => false
  | .batom _ _ _ => false
  | .bnotify _ _ _ => false
  | .bwait _ _ => false
  | .bpoll _ _ => false
  | .bfence => false
  | .bstat _ _ => false
  | .blport _ _ => false
  | .klaunch _ _ => false
  | .kwait _ => false
  | .ctxsave _ => false
  | .ctxload _ => false
  | .svrd _ _ => false
  | .svwr _ _ => false
  | .warm _ _ => false
  | .wdisarm _ => false
  | .vdadd _ _ _ _ _ _ _ => false
  | .vdsub _ _ _ _ _ _ _ => false
  | .vdmul _ _ _ _ _ _ _ => false
  | .vddiv _ _ _ _ _ _ _ => false
  | .vdmin _ _ _ _ _ _ _ => false
  | .vdmax _ _ _ _ _ _ _ => false
  | .vdfma _ _ _ _ _ _ _ => false
  | .vdfnma _ _ _ _ _ _ _ => false
  | .vdfms _ _ _ _ _ _ _ => false
  | .vdcsign _ _ _ _ _ _ _ => false
  | .vdnsign _ _ _ _ _ _ _ => false
  | .vdxsign _ _ _ _ _ _ _ => false
  | .vdkind _ _ _ _ _ _ => false
  | .vdsubr _ _ _ _ _ _ _ => false
  | .vdsqrt _ _ _ _ _ _ => false
  | .trapEntry _ => true
  | .entryComplete _ => true
  | .barWaitEnd _ => true
  | .yieldExpiry _ => true
  | .streamFetch _ _ _ => true
  | .streamStoreWrite _ _ _ => true
  | .sgatherRow _ _ _ => true
  | .copyChunk _ _ _ _ => true
  | .driveRequest _ _ _ _ _ _ => true
  | .pairError _ => true
  | .turnBegin _ => true
  | .autoTurn _ _ => true
  | .turnDrainEnd _ => true
  | .turnDeadTimeEnd _ => true
  | .linkPaused _ => true
  | .ltrainDone _ _ _ => true
  | .flitReplay _ _ _ _ => true
  | .put _ _ => true
  | .getreq _ _ => true
  | .atom _ _ => true
  | .notify _ _ => true
  | .ack _ _ => true
  | .getdata _ _ => true
  | .atomrsp _ _ => true
  | .bell _ _ _ => true
  | .rbell _ _ _ => true
  | .beaconFlitReplay _ _ => true
  | .portUp _ => true
  | .launchBind _ => true
  | .preEmption _ => true
  | .contextSave _ => true
  | .completionEntryWrite _ => true
  | .sqtail _ _ => true
  | .cqhead _ _ => true
  | .enable _ _ => true
  | .tenantCreate _ => true
  | .tenantReset _ => true
  | .tenantDelete _ => true
  | .ownerSet _ => true
  | .pairCreate _ => true
  | .pairDelete _ => true
  | .regionCreate _ => true
  | .regionDelete _ => true
  | .gangCreate _ => true
  | .gangDelete _ => true
  | .gangSwitchSave _ => true
  | .gangSwitchResume _ => true
  | .launchSuspend _ => true
  | .launchResume _ => true
  | .debugGrant _ => true
  | .launch _ => true
  | .invalidate _ => true
  | .faultReplyRetry _ => true
  | .faultReplyAbort _ => true
  | .nop _ => true
  | .bootgo _ => true
  | .resetkey _ => true
  | .powerOn => true
  | .attreq => true
  | .fatalreq => true
  | .svnfuse _ => true
  | .clusterRetire _ _ _ => true
  | .ownerEntryWrite _ _ => true
  | .registerWrite _ _ => true
  | .powerClampWindow _ => true
  | .junctionHot _ => true
  | .thermal _ => true
  | .cdMemory => true
  | .dumpdone => true

/-- An instruction that a word encodes: every constraint of R97 steps 6 and 7 holds. An event is not encoded. -/
def Instr.wellFormed (i : Instr) : Bool := !i.isEvent && i.zeroOk && i.rangeOk

end Sys2Proof
end

