-- ==== Sys2Proof/Decode.lean ====
section
/-!
DEFINITION. The decoder of 03 R97 over the tables of R96 to R115, total on every word and rejecting by reason, and after
it the encoder, written from the same formats (R91, R92).
-/

namespace Sys2Proof

/-- Why a word is no instruction the hart can issue (R97): the reasons 1 to 4 of ILLEGAL, ABSENT, PRIV. -/
inductive Reject where
  | illegal (reason : Nat)
  | absent
  | priv
  deriving DecidableEq, Repr

/-- The field of `len` bits from bit `lo` of a word. -/
def fld (lo len : Nat) (w : BitVec 32) : BitVec len := w.extractLsb' lo len

/-- What a function table gives for a word: its instruction, whether its must-be-zero fields are zero (R97 step 6),
whether its must-be-one bits are one (step 7), and the marks of R99. -/
structure DecRow where
  instr : Instr
  zero : Bool := true
  one : Bool := true
  absent : Bool := false
  priv : Bool := false

/-- Every constraint of R97 steps 6 and 7 holds. -/
def DecRow.fits (r : DecRow) : Bool := r.zero && r.instr.zeroOk && r.one && r.instr.rangeOk

/-- Major 0x01 (R100). -/
noncomputable def decAlu (w : BitVec 32) : Option DecRow :=
  match (fld 0 6 w).toNat with
  | 0x00 => some { instr := .add (fld 21 5 w) (fld 16 5 w) (fld 11 5 w), zero := fld 6 5 w == 0 }
  | 0x01 => some { instr := .sub (fld 21 5 w) (fld 16 5 w) (fld 11 5 w), zero := fld 6 5 w == 0 }
  | 0x02 => some { instr := .and (fld 21 5 w) (fld 16 5 w) (fld 11 5 w), zero := fld 6 5 w == 0 }
  | 0x03 => some { instr := .or (fld 21 5 w) (fld 16 5 w) (fld 11 5 w), zero := fld 6 5 w == 0 }
  | 0x04 => some { instr := .xor (fld 21 5 w) (fld 16 5 w) (fld 11 5 w), zero := fld 6 5 w == 0 }
  | 0x05 => some { instr := .andn (fld 21 5 w) (fld 16 5 w) (fld 11 5 w), zero := fld 6 5 w == 0 }
  | 0x06 => some { instr := .orn (fld 21 5 w) (fld 16 5 w) (fld 11 5 w), zero := fld 6 5 w == 0 }
  | 0x07 => some { instr := .xnor (fld 21 5 w) (fld 16 5 w) (fld 11 5 w), zero := fld 6 5 w == 0 }
  | 0x08 => some { instr := .sll (fld 21 5 w) (fld 16 5 w) (fld 11 5 w), zero := fld 6 5 w == 0 }
  | 0x09 => some { instr := .srl (fld 21 5 w) (fld 16 5 w) (fld 11 5 w), zero := fld 6 5 w == 0 }
  | 0x0A => some { instr := .sra (fld 21 5 w) (fld 16 5 w) (fld 11 5 w), zero := fld 6 5 w == 0 }
  | 0x0B => some { instr := .rol (fld 21 5 w) (fld 16 5 w) (fld 11 5 w), zero := fld 6 5 w == 0 }
  | 0x0C => some { instr := .ror (fld 21 5 w) (fld 16 5 w) (fld 11 5 w), zero := fld 6 5 w == 0 }
  | 0x0D => some { instr := .slt (fld 21 5 w) (fld 16 5 w) (fld 11 5 w), zero := fld 6 5 w == 0 }
  | 0x0E => some { instr := .sltu (fld 21 5 w) (fld 16 5 w) (fld 11 5 w), zero := fld 6 5 w == 0 }
  | 0x10 => some { instr := .mul (fld 21 5 w) (fld 16 5 w) (fld 11 5 w), zero := fld 6 5 w == 0 }
  | 0x11 => some { instr := .mulh (fld 21 5 w) (fld 16 5 w) (fld 11 5 w), zero := fld 6 5 w == 0 }
  | 0x12 => some { instr := .mulhu (fld 21 5 w) (fld 16 5 w) (fld 11 5 w), zero := fld 6 5 w == 0 }
  | 0x13 => some { instr := .mulhsu (fld 21 5 w) (fld 16 5 w) (fld 11 5 w), zero := fld 6 5 w == 0 }
  | 0x14 => some { instr := .div (fld 21 5 w) (fld 16 5 w) (fld 11 5 w), zero := fld 6 5 w == 0 }
  | 0x15 => some { instr := .divu (fld 21 5 w) (fld 16 5 w) (fld 11 5 w), zero := fld 6 5 w == 0 }
  | 0x16 => some { instr := .rem (fld 21 5 w) (fld 16 5 w) (fld 11 5 w), zero := fld 6 5 w == 0 }
  | 0x17 => some { instr := .remu (fld 21 5 w) (fld 16 5 w) (fld 11 5 w), zero := fld 6 5 w == 0 }
  | 0x18 => some { instr := .min (fld 21 5 w) (fld 16 5 w) (fld 11 5 w), zero := fld 6 5 w == 0 }
  | 0x19 => some { instr := .max (fld 21 5 w) (fld 16 5 w) (fld 11 5 w), zero := fld 6 5 w == 0 }
  | 0x1A => some { instr := .minu (fld 21 5 w) (fld 16 5 w) (fld 11 5 w), zero := fld 6 5 w == 0 }
  | 0x1B => some { instr := .maxu (fld 21 5 w) (fld 16 5 w) (fld 11 5 w), zero := fld 6 5 w == 0 }
  | 0x1C => some { instr := .clz (fld 21 5 w) (fld 16 5 w), zero := fld 11 5 w == 0 && fld 6 5 w == 0 }
  | 0x1D => some { instr := .ctz (fld 21 5 w) (fld 16 5 w), zero := fld 11 5 w == 0 && fld 6 5 w == 0 }
  | 0x1E => some { instr := .popc (fld 21 5 w) (fld 16 5 w), zero := fld 11 5 w == 0 && fld 6 5 w == 0 }
  | 0x1F => some { instr := .rev8 (fld 21 5 w) (fld 16 5 w), zero := fld 11 5 w == 0 && fld 6 5 w == 0 }
  | 0x20 => some { instr := .slli (fld 21 5 w) (fld 16 5 w) (fld 10 6 w), zero := fld 6 4 w == 0 }
  | 0x21 => some { instr := .srli (fld 21 5 w) (fld 16 5 w) (fld 10 6 w), zero := fld 6 4 w == 0 }
  | 0x22 => some { instr := .srai (fld 21 5 w) (fld 16 5 w) (fld 10 6 w), zero := fld 6 4 w == 0 }
  | 0x23 => some { instr := .rori (fld 21 5 w) (fld 16 5 w) (fld 10 6 w), zero := fld 6 4 w == 0 }
  | 0x24 => some { instr := .sextb (fld 21 5 w) (fld 16 5 w), zero := fld 11 5 w == 0 && fld 6 5 w == 0 }
  | 0x25 => some { instr := .sexth (fld 21 5 w) (fld 16 5 w), zero := fld 11 5 w == 0 && fld 6 5 w == 0 }
  | 0x26 => some { instr := .sextw (fld 21 5 w) (fld 16 5 w), zero := fld 11 5 w == 0 && fld 6 5 w == 0 }
  | 0x27 => some { instr := .zextw (fld 21 5 w) (fld 16 5 w), zero := fld 11 5 w == 0 && fld 6 5 w == 0 }
  | 0x28 => some { instr := .selz (fld 21 5 w) (fld 16 5 w) (fld 11 5 w) (fld 6 5 w) }
  | 0x29 => some { instr := .selnz (fld 21 5 w) (fld 16 5 w) (fld 11 5 w) (fld 6 5 w) }
  | _ => none

/-- Major 0x02 (R101). -/
noncomputable def decBitf (w : BitVec 32) : Option DecRow :=
  match (fld 0 6 w).toNat with
  | 0x00 => some { instr := .fsl (fld 21 5 w) (fld 16 5 w) (fld 11 5 w) (fld 6 5 w) }
  | 0x01 => some { instr := .fsr (fld 21 5 w) (fld 16 5 w) (fld 11 5 w) (fld 6 5 w) }
  | 0x02 => some { instr := .bfx (fld 21 5 w) (fld 16 5 w) (fld 11 5 w) (fld 6 5 w) }
  | 0x03 => some { instr := .bfxs (fld 21 5 w) (fld 16 5 w) (fld 11 5 w) (fld 6 5 w) }
  | 0x04 => some { instr := .bfi (fld 21 5 w) (fld 16 5 w) (fld 11 5 w) (fld 6 5 w) }
  | 0x05 => some { instr := .bdep (fld 21 5 w) (fld 16 5 w) (fld 11 5 w), zero := fld 6 5 w == 0 }
  | 0x06 => some { instr := .bcmpr (fld 21 5 w) (fld 16 5 w) (fld 11 5 w), zero := fld 6 5 w == 0 }
  | 0x07 => some { instr := .brev (fld 21 5 w) (fld 16 5 w), zero := fld 11 5 w == 0 && fld 6 5 w == 0 }
  | _ => none

/-- Major 0x03 (R102). -/
noncomputable def decFps (w : BitVec 32) : Option DecRow :=
  match (fld 0 6 w).toNat with
  | 0x00 => some { instr := .faddS (fld 21 5 w) (fld 16 5 w) (fld 11 5 w), zero := fld 6 5 w == 0 }
  | 0x01 => some { instr := .fsubS (fld 21 5 w) (fld 16 5 w) (fld 11 5 w), zero := fld 6 5 w == 0 }
  | 0x02 => some { instr := .fmulS (fld 21 5 w) (fld 16 5 w) (fld 11 5 w), zero := fld 6 5 w == 0 }
  | 0x03 => some { instr := .fdivS (fld 21 5 w) (fld 16 5 w) (fld 11 5 w), zero := fld 6 5 w == 0 }
  | 0x04 => some { instr := .fsqrtS (fld 21 5 w) (fld 16 5 w), zero := fld 11 5 w == 0 && fld 6 5 w == 0 }
  | 0x05 => some { instr := .fminS (fld 21 5 w) (fld 16 5 w) (fld 11 5 w), zero := fld 6 5 w == 0 }
  | 0x06 => some { instr := .fmaxS (fld 21 5 w) (fld 16 5 w) (fld 11 5 w), zero := fld 6 5 w == 0 }
  | 0x07 => some { instr := .fmaS (fld 21 5 w) (fld 16 5 w) (fld 11 5 w) (fld 6 5 w) }
  | 0x08 => some { instr := .fnmaS (fld 21 5 w) (fld 16 5 w) (fld 11 5 w) (fld 6 5 w) }
  | 0x09 => some { instr := .fcsignS (fld 21 5 w) (fld 16 5 w) (fld 11 5 w), zero := fld 6 5 w == 0 }
  | 0x0A => some { instr := .fnsignS (fld 21 5 w) (fld 16 5 w) (fld 11 5 w), zero := fld 6 5 w == 0 }
  | 0x0B => some { instr := .fxsignS (fld 21 5 w) (fld 16 5 w) (fld 11 5 w), zero := fld 6 5 w == 0 }
  | 0x0C => some { instr := .feqS (fld 21 5 w) (fld 16 5 w) (fld 11 5 w), zero := fld 6 5 w == 0 }
  | 0x0D => some { instr := .fltS (fld 21 5 w) (fld 16 5 w) (fld 11 5 w), zero := fld 6 5 w == 0 }
  | 0x0E => some { instr := .fleS (fld 21 5 w) (fld 16 5 w) (fld 11 5 w), zero := fld 6 5 w == 0 }
  | 0x0F => some { instr := .fkindS (fld 21 5 w) (fld 16 5 w), zero := fld 11 5 w == 0 && fld 6 5 w == 0 }
  | 0x10 => some { instr := .ftoiS (fld 21 5 w) (fld 16 5 w), zero := fld 11 5 w == 0 && fld 6 5 w == 0 }
  | 0x11 => some { instr := .ftoiuS (fld 21 5 w) (fld 16 5 w), zero := fld 11 5 w == 0 && fld 6 5 w == 0 }
  | 0x12 => some { instr := .itofS (fld 21 5 w) (fld 16 5 w), zero := fld 11 5 w == 0 && fld 6 5 w == 0 }
  | 0x13 => some { instr := .utofS (fld 21 5 w) (fld 16 5 w), zero := fld 11 5 w == 0 && fld 6 5 w == 0 }
  | 0x14 => some { instr := .ftohS (fld 21 5 w) (fld 16 5 w), zero := fld 11 5 w == 0 && fld 6 5 w == 0 }
  | 0x15 => some { instr := .ftobS (fld 21 5 w) (fld 16 5 w), zero := fld 11 5 w == 0 && fld 6 5 w == 0 }
  | 0x16 => some { instr := .htofS (fld 21 5 w) (fld 16 5 w), zero := fld 11 5 w == 0 && fld 6 5 w == 0 }
  | 0x17 => some { instr := .btofS (fld 21 5 w) (fld 16 5 w), zero := fld 11 5 w == 0 && fld 6 5 w == 0 }
  | 0x18 => some { instr := .fcvtxS (fld 21 5 w) (fld 16 5 w), zero := fld 11 5 w == 0 && fld 6 5 w == 0 }
  | 0x20 => some { instr := .faddD (fld 21 5 w) (fld 16 5 w) (fld 11 5 w), zero := fld 6 5 w == 0 }
  | 0x21 => some { instr := .fsubD (fld 21 5 w) (fld 16 5 w) (fld 11 5 w), zero := fld 6 5 w == 0 }
  | 0x22 => some { instr := .fmulD (fld 21 5 w) (fld 16 5 w) (fld 11 5 w), zero := fld 6 5 w == 0 }
  | 0x23 => some { instr := .fdivD (fld 21 5 w) (fld 16 5 w) (fld 11 5 w), zero := fld 6 5 w == 0, absent := true }
  | 0x24 => some { instr := .fsqrtD (fld 21 5 w) (fld 16 5 w), zero := fld 11 5 w == 0 && fld 6 5 w == 0, absent := true }
  | 0x25 => some { instr := .fminD (fld 21 5 w) (fld 16 5 w) (fld 11 5 w), zero := fld 6 5 w == 0 }
  | 0x26 => some { instr := .fmaxD (fld 21 5 w) (fld 16 5 w) (fld 11 5 w), zero := fld 6 5 w == 0 }
  | 0x27 => some { instr := .fmaD (fld 21 5 w) (fld 16 5 w) (fld 11 5 w) (fld 6 5 w) }
  | 0x28 => some { instr := .fnmaD (fld 21 5 w) (fld 16 5 w) (fld 11 5 w) (fld 6 5 w) }
  | 0x29 => some { instr := .fcsignD (fld 21 5 w) (fld 16 5 w) (fld 11 5 w), zero := fld 6 5 w == 0 }
  | 0x2A => some { instr := .fnsignD (fld 21 5 w) (fld 16 5 w) (fld 11 5 w), zero := fld 6 5 w == 0 }
  | 0x2B => some { instr := .fxsignD (fld 21 5 w) (fld 16 5 w) (fld 11 5 w), zero := fld 6 5 w == 0 }
  | 0x2C => some { instr := .feqD (fld 21 5 w) (fld 16 5 w) (fld 11 5 w), zero := fld 6 5 w == 0 }
  | 0x2D => some { instr := .fltD (fld 21 5 w) (fld 16 5 w) (fld 11 5 w), zero := fld 6 5 w == 0 }
  | 0x2E => some { instr := .fleD (fld 21 5 w) (fld 16 5 w) (fld 11 5 w), zero := fld 6 5 w == 0 }
  | 0x2F => some { instr := .fkindD (fld 21 5 w) (fld 16 5 w), zero := fld 11 5 w == 0 && fld 6 5 w == 0 }
  | 0x30 => some { instr := .ftoiD (fld 21 5 w) (fld 16 5 w), zero := fld 11 5 w == 0 && fld 6 5 w == 0 }
  | 0x31 => some { instr := .ftoiuD (fld 21 5 w) (fld 16 5 w), zero := fld 11 5 w == 0 && fld 6 5 w == 0 }
  | 0x32 => some { instr := .itofD (fld 21 5 w) (fld 16 5 w), zero := fld 11 5 w == 0 && fld 6 5 w == 0 }
  | 0x33 => some { instr := .utofD (fld 21 5 w) (fld 16 5 w), zero := fld 11 5 w == 0 && fld 6 5 w == 0 }
  | 0x34 => some { instr := .ftohD (fld 21 5 w) (fld 16 5 w), zero := fld 11 5 w == 0 && fld 6 5 w == 0 }
  | 0x35 => some { instr := .ftobD (fld 21 5 w) (fld 16 5 w), zero := fld 11 5 w == 0 && fld 6 5 w == 0 }
  | 0x36 => some { instr := .htofD (fld 21 5 w) (fld 16 5 w), zero := fld 11 5 w == 0 && fld 6 5 w == 0 }
  | 0x37 => some { instr := .btofD (fld 21 5 w) (fld 16 5 w), zero := fld 11 5 w == 0 && fld 6 5 w == 0 }
  | 0x38 => some { instr := .fcvtxD (fld 21 5 w) (fld 16 5 w), zero := fld 11 5 w == 0 && fld 6 5 w == 0 }
  | _ => none

/-- Major 0x04 (R103). -/
noncomputable def decAddi (w : BitVec 32) : Option DecRow :=
  some { instr := .addi (fld 21 5 w) (fld 16 5 w) (fld 0 16 w) }

/-- Major 0x05 (R103). -/
noncomputable def decAndi (w : BitVec 32) : Option DecRow :=
  some { instr := .andi (fld 21 5 w) (fld 16 5 w) (fld 0 16 w) }

/-- Major 0x06 (R103). -/
noncomputable def decOri (w : BitVec 32) : Option DecRow :=
  some { instr := .ori (fld 21 5 w) (fld 16 5 w) (fld 0 16 w) }

/-- Major 0x07 (R103). -/
noncomputable def decXori (w : BitVec 32) : Option DecRow :=
  some { instr := .xori (fld 21 5 w) (fld 16 5 w) (fld 0 16 w) }

/-- Major 0x08 (R103). -/
noncomputable def decSlti (w : BitVec 32) : Option DecRow :=
  some { instr := .slti (fld 21 5 w) (fld 16 5 w) (fld 0 16 w) }

/-- Major 0x09 (R103). -/
noncomputable def decSltiu (w : BitVec 32) : Option DecRow :=
  some { instr := .sltiu (fld 21 5 w) (fld 16 5 w) (fld 0 16 w) }

/-- Major 0x0A (R103). -/
noncomputable def decLui (w : BitVec 32) : Option DecRow :=
  some { instr := .lui (fld 21 5 w) (fld 0 16 w), zero := fld 16 5 w == 0 }

/-- Major 0x0B (R103). -/
noncomputable def decAddhi (w : BitVec 32) : Option DecRow :=
  some { instr := .addhi (fld 21 5 w) (fld 16 5 w) (fld 0 16 w) }

/-- Major 0x0C (R103). -/
noncomputable def decLoad (w : BitVec 32) : Option DecRow :=
  match (fld 13 3 w).toNat with
  | 0x00 => some { instr := .ldb (fld 21 5 w) (fld 16 5 w) (fld 0 13 w) }
  | 0x01 => some { instr := .ldh (fld 21 5 w) (fld 16 5 w) (fld 0 13 w) }
  | 0x02 => some { instr := .ldw (fld 21 5 w) (fld 16 5 w) (fld 0 13 w) }
  | 0x03 => some { instr := .ldd (fld 21 5 w) (fld 16 5 w) (fld 0 13 w) }
  | 0x04 => some { instr := .ldbu (fld 21 5 w) (fld 16 5 w) (fld 0 13 w) }
  | 0x05 => some { instr := .ldhu (fld 21 5 w) (fld 16 5 w) (fld 0 13 w) }
  | 0x06 => some { instr := .ldwu (fld 21 5 w) (fld 16 5 w) (fld 0 13 w) }
  | _ => none

/-- Major 0x0D (R103). -/
noncomputable def decStore (w : BitVec 32) : Option DecRow :=
  match (fld 13 3 w).toNat with
  | 0x00 => some { instr := .stb (fld 21 5 w) (fld 16 5 w) (fld 0 13 w) }
  | 0x01 => some { instr := .sth (fld 21 5 w) (fld 16 5 w) (fld 0 13 w) }
  | 0x02 => some { instr := .stw (fld 21 5 w) (fld 16 5 w) (fld 0 13 w) }
  | 0x03 => some { instr := .std (fld 21 5 w) (fld 16 5 w) (fld 0 13 w) }
  | _ => none

/-- Major 0x0E (R104). -/
noncomputable def decRmw (w : BitVec 32) : Option DecRow :=
  match (fld 0 6 w).toNat with
  | 0x00 => some { instr := .rmswap (fld 21 5 w) (fld 16 5 w) (fld 11 5 w) (fld 9 2 w) (fld 8 1 w) (fld 7 1 w) (fld 6 1 w) }
  | 0x01 => some { instr := .rmadd (fld 21 5 w) (fld 16 5 w) (fld 11 5 w) (fld 9 2 w) (fld 8 1 w) (fld 7 1 w) (fld 6 1 w) }
  | 0x02 => some { instr := .rmand (fld 21 5 w) (fld 16 5 w) (fld 11 5 w) (fld 9 2 w) (fld 8 1 w) (fld 7 1 w) (fld 6 1 w) }
  | 0x03 => some { instr := .rmor (fld 21 5 w) (fld 16 5 w) (fld 11 5 w) (fld 9 2 w) (fld 8 1 w) (fld 7 1 w) (fld 6 1 w) }
  | 0x04 => some { instr := .rmxor (fld 21 5 w) (fld 16 5 w) (fld 11 5 w) (fld 9 2 w) (fld 8 1 w) (fld 7 1 w) (fld 6 1 w) }
  | 0x05 => some { instr := .rmmin (fld 21 5 w) (fld 16 5 w) (fld 11 5 w) (fld 9 2 w) (fld 8 1 w) (fld 7 1 w) (fld 6 1 w) }
  | 0x06 => some { instr := .rmmax (fld 21 5 w) (fld 16 5 w) (fld 11 5 w) (fld 9 2 w) (fld 8 1 w) (fld 7 1 w) (fld 6 1 w) }
  | 0x07 => some { instr := .rmminu (fld 21 5 w) (fld 16 5 w) (fld 11 5 w) (fld 9 2 w) (fld 8 1 w) (fld 7 1 w) (fld 6 1 w) }
  | 0x08 => some { instr := .rmmaxu (fld 21 5 w) (fld 16 5 w) (fld 11 5 w) (fld 9 2 w) (fld 8 1 w) (fld 7 1 w) (fld 6 1 w) }
  | 0x09 => some { instr := .cas (fld 21 5 w) (fld 16 5 w) (fld 11 5 w) (fld 9 2 w) (fld 8 1 w) (fld 7 1 w) (fld 6 1 w) }
  | 0x0A => some { instr := .lda (fld 21 5 w) (fld 16 5 w) (fld 9 2 w) (fld 6 1 w), zero := fld 11 5 w == 0 && fld 7 1 w == 0, one := fld 8 1 w == 1 }
  | 0x0B => some { instr := .stl (fld 16 5 w) (fld 11 5 w) (fld 9 2 w) (fld 6 1 w), zero := fld 21 5 w == 0 && fld 8 1 w == 0, one := fld 7 1 w == 1 }
  | 0x0C => some { instr := .claim (fld 21 5 w) (fld 16 5 w) (fld 11 5 w) (fld 9 2 w) (fld 8 1 w) (fld 7 1 w), one := fld 6 1 w == 1 }
  | _ => none

/-- Major 0x0F (R103). -/
noncomputable def decJalr (w : BitVec 32) : Option DecRow :=
  some { instr := .jalr (fld 21 5 w) (fld 16 5 w) (fld 0 16 w) }

/-- Major 0x10 (R105). -/
noncomputable def decBr (w : BitVec 32) : Option DecRow :=
  match (fld 13 3 w).toNat with
  | 0x00 => some { instr := .beq (fld 21 5 w) (fld 16 5 w) (fld 0 13 w) }
  | 0x01 => some { instr := .bne (fld 21 5 w) (fld 16 5 w) (fld 0 13 w) }
  | 0x02 => some { instr := .blt (fld 21 5 w) (fld 16 5 w) (fld 0 13 w) }
  | 0x03 => some { instr := .bge (fld 21 5 w) (fld 16 5 w) (fld 0 13 w) }
  | 0x04 => some { instr := .bltu (fld 21 5 w) (fld 16 5 w) (fld 0 13 w) }
  | 0x05 => some { instr := .bgeu (fld 21 5 w) (fld 16 5 w) (fld 0 13 w) }
  | _ => none

/-- Major 0x11 (R103). -/
noncomputable def decJal (w : BitVec 32) : Option DecRow :=
  some { instr := .jal (fld 21 5 w) (fld 0 21 w) }

/-- Major 0x12 (R103). -/
noncomputable def decLoopv (w : BitVec 32) : Option DecRow :=
  some { instr := .loopv (fld 21 5 w) (fld 16 5 w) (fld 14 2 w) (fld 12 2 w) (fld 0 12 w) }

/-- Major 0x13 (R106). -/
noncomputable def decSys (w : BitVec 32) : Option DecRow :=
  match (fld 0 4 w).toNat with
  | 0x00 => some { instr := .cwread (fld 21 5 w) (fld 4 12 w), zero := fld 16 5 w == 0 }
  | 0x01 => some { instr := .cwwrite (fld 16 5 w) (fld 4 12 w), zero := fld 21 5 w == 0 }
  | 0x02 => some { instr := .cwset (fld 16 5 w) (fld 4 12 w), zero := fld 21 5 w == 0 }
  | 0x03 => some { instr := .cwclr (fld 16 5 w) (fld 4 12 w), zero := fld 21 5 w == 0 }
  | 0x04 => some { instr := .trap (fld 4 12 w), zero := fld 21 5 w == 0 && fld 16 5 w == 0 }
  | 0x05 => some { instr := .brk (fld 4 12 w), zero := fld 21 5 w == 0 && fld 16 5 w == 0 }
  | 0x06 => some { instr := .rett, zero := fld 21 5 w == 0 && fld 16 5 w == 0 && fld 4 12 w == 0 }
  | 0x07 => some { instr := .yield, zero := fld 21 5 w == 0 && fld 16 5 w == 0 && fld 4 12 w == 0 }
  | 0x08 => some { instr := .halt, zero := fld 21 5 w == 0 && fld 16 5 w == 0 && fld 4 12 w == 0 }
  | 0x09 => some { instr := .bar (fld 16 5 w) (fld 4 12 w), zero := fld 21 5 w == 0 }
  | _ => none

/-- Major 0x14 (R106). -/
noncomputable def decFence (w : BitVec 32) : Option DecRow :=
  match (fld 0 4 w).toNat with
  | 0x00 => some { instr := .fence (fld 21 5 w) (fld 16 5 w) (fld 14 2 w), zero := fld 4 10 w == 0 }
  | _ => none

/-- Major 0x18 (R107). -/
noncomputable def decVint (w : BitVec 32) : Option DecRow :=
  match (fld 0 4 w).toNat with
  | 0x00 => some { instr := .vadd (fld 21 5 w) (fld 16 5 w) (fld 11 5 w) (fld 10 1 w) (fld 7 3 w) (fld 5 2 w), zero := fld 4 1 w == 0 }
  | 0x01 => some { instr := .vsub (fld 21 5 w) (fld 16 5 w) (fld 11 5 w) (fld 10 1 w) (fld 7 3 w) (fld 5 2 w), zero := fld 4 1 w == 0 }
  | 0x02 => some { instr := .vsubr (fld 21 5 w) (fld 16 5 w) (fld 11 5 w) (fld 10 1 w) (fld 7 3 w) (fld 5 2 w), zero := fld 4 1 w == 0 }
  | 0x03 => some { instr := .vmul (fld 21 5 w) (fld 16 5 w) (fld 11 5 w) (fld 10 1 w) (fld 7 3 w) (fld 5 2 w), zero := fld 4 1 w == 0 }
  | 0x04 => some { instr := .vmulh (fld 21 5 w) (fld 16 5 w) (fld 11 5 w) (fld 10 1 w) (fld 7 3 w) (fld 5 2 w), zero := fld 4 1 w == 0 }
  | 0x05 => some { instr := .vmulhu (fld 21 5 w) (fld 16 5 w) (fld 11 5 w) (fld 10 1 w) (fld 7 3 w) (fld 5 2 w), zero := fld 4 1 w == 0 }
  | 0x06 => some { instr := .vmin (fld 21 5 w) (fld 16 5 w) (fld 11 5 w) (fld 10 1 w) (fld 7 3 w) (fld 5 2 w), zero := fld 4 1 w == 0 }
  | 0x07 => some { instr := .vmax (fld 21 5 w) (fld 16 5 w) (fld 11 5 w) (fld 10 1 w) (fld 7 3 w) (fld 5 2 w), zero := fld 4 1 w == 0 }
  | 0x08 => some { instr := .vminu (fld 21 5 w) (fld 16 5 w) (fld 11 5 w) (fld 10 1 w) (fld 7 3 w) (fld 5 2 w), zero := fld 4 1 w == 0 }
  | 0x09 => some { instr := .vmaxu (fld 21 5 w) (fld 16 5 w) (fld 11 5 w) (fld 10 1 w) (fld 7 3 w) (fld 5 2 w), zero := fld 4 1 w == 0 }
  | 0x0A => some { instr := .vand (fld 21 5 w) (fld 16 5 w) (fld 11 5 w) (fld 10 1 w) (fld 7 3 w) (fld 5 2 w), zero := fld 4 1 w == 0 }
  | 0x0B => some { instr := .vor (fld 21 5 w) (fld 16 5 w) (fld 11 5 w) (fld 10 1 w) (fld 7 3 w) (fld 5 2 w), zero := fld 4 1 w == 0 }
  | 0x0C => some { instr := .vxor (fld 21 5 w) (fld 16 5 w) (fld 11 5 w) (fld 10 1 w) (fld 7 3 w) (fld 5 2 w), zero := fld 4 1 w == 0 }
  | 0x0D => some { instr := .vsll (fld 21 5 w) (fld 16 5 w) (fld 11 5 w) (fld 10 1 w) (fld 7 3 w) (fld 5 2 w), zero := fld 4 1 w == 0 }
  | 0x0E => some { instr := .vsrl (fld 21 5 w) (fld 16 5 w) (fld 11 5 w) (fld 10 1 w) (fld 7 3 w) (fld 5 2 w), zero := fld 4 1 w == 0 }
  | 0x0F => some { instr := .vsra (fld 21 5 w) (fld 16 5 w) (fld 11 5 w) (fld 10 1 w) (fld 7 3 w) (fld 5 2 w), zero := fld 4 1 w == 0 }
  | _ => none

/-- Major 0x19 (R107). -/
noncomputable def decVints (w : BitVec 32) : Option DecRow :=
  match (fld 0 4 w).toNat with
  | 0x00 => some { instr := .vaddVs (fld 21 5 w) (fld 16 5 w) (fld 11 5 w) (fld 10 1 w) (fld 7 3 w) (fld 5 2 w), zero := fld 4 1 w == 0 }
  | 0x01 => some { instr := .vsubVs (fld 21 5 w) (fld 16 5 w) (fld 11 5 w) (fld 10 1 w) (fld 7 3 w) (fld 5 2 w), zero := fld 4 1 w == 0 }
  | 0x02 => some { instr := .vsubrVs (fld 21 5 w) (fld 16 5 w) (fld 11 5 w) (fld 10 1 w) (fld 7 3 w) (fld 5 2 w), zero := fld 4 1 w == 0 }
  | 0x03 => some { instr := .vmulVs (fld 21 5 w) (fld 16 5 w) (fld 11 5 w) (fld 10 1 w) (fld 7 3 w) (fld 5 2 w), zero := fld 4 1 w == 0 }
  | 0x04 => some { instr := .vmulhVs (fld 21 5 w) (fld 16 5 w) (fld 11 5 w) (fld 10 1 w) (fld 7 3 w) (fld 5 2 w), zero := fld 4 1 w == 0 }
  | 0x05 => some { instr := .vmulhuVs (fld 21 5 w) (fld 16 5 w) (fld 11 5 w) (fld 10 1 w) (fld 7 3 w) (fld 5 2 w), zero := fld 4 1 w == 0 }
  | 0x06 => some { instr := .vminVs (fld 21 5 w) (fld 16 5 w) (fld 11 5 w) (fld 10 1 w) (fld 7 3 w) (fld 5 2 w), zero := fld 4 1 w == 0 }
  | 0x07 => some { instr := .vmaxVs (fld 21 5 w) (fld 16 5 w) (fld 11 5 w) (fld 10 1 w) (fld 7 3 w) (fld 5 2 w), zero := fld 4 1 w == 0 }
  | 0x08 => some { instr := .vminuVs (fld 21 5 w) (fld 16 5 w) (fld 11 5 w) (fld 10 1 w) (fld 7 3 w) (fld 5 2 w), zero := fld 4 1 w == 0 }
  | 0x09 => some { instr := .vmaxuVs (fld 21 5 w) (fld 16 5 w) (fld 11 5 w) (fld 10 1 w) (fld 7 3 w) (fld 5 2 w), zero := fld 4 1 w == 0 }
  | 0x0A => some { instr := .vandVs (fld 21 5 w) (fld 16 5 w) (fld 11 5 w) (fld 10 1 w) (fld 7 3 w) (fld 5 2 w), zero := fld 4 1 w == 0 }
  | 0x0B => some { instr := .vorVs (fld 21 5 w) (fld 16 5 w) (fld 11 5 w) (fld 10 1 w) (fld 7 3 w) (fld 5 2 w), zero := fld 4 1 w == 0 }
  | 0x0C => some { instr := .vxorVs (fld 21 5 w) (fld 16 5 w) (fld 11 5 w) (fld 10 1 w) (fld 7 3 w) (fld 5 2 w), zero := fld 4 1 w == 0 }
  | 0x0D => some { instr := .vsllVs (fld 21 5 w) (fld 16 5 w) (fld 11 5 w) (fld 10 1 w) (fld 7 3 w) (fld 5 2 w), zero := fld 4 1 w == 0 }
  | 0x0E => some { instr := .vsrlVs (fld 21 5 w) (fld 16 5 w) (fld 11 5 w) (fld 10 1 w) (fld 7 3 w) (fld 5 2 w), zero := fld 4 1 w == 0 }
  | 0x0F => some { instr := .vsraVs (fld 21 5 w) (fld 16 5 w) (fld 11 5 w) (fld 10 1 w) (fld 7 3 w) (fld 5 2 w), zero := fld 4 1 w == 0 }
  | _ => none

/-- Major 0x1A (R107). -/
noncomputable def decVfp (w : BitVec 32) : Option DecRow :=
  match (fld 0 4 w).toNat with
  | 0x00 => some { instr := .vfadd (fld 21 5 w) (fld 16 5 w) (fld 11 5 w) (fld 10 1 w) (fld 7 3 w) (fld 5 2 w) (fld 4 1 w) }
  | 0x01 => some { instr := .vfsub (fld 21 5 w) (fld 16 5 w) (fld 11 5 w) (fld 10 1 w) (fld 7 3 w) (fld 5 2 w) (fld 4 1 w) }
  | 0x02 => some { instr := .vfmul (fld 21 5 w) (fld 16 5 w) (fld 11 5 w) (fld 10 1 w) (fld 7 3 w) (fld 5 2 w) (fld 4 1 w) }
  | 0x03 => some { instr := .vfdiv (fld 21 5 w) (fld 16 5 w) (fld 11 5 w) (fld 10 1 w) (fld 7 3 w) (fld 5 2 w) (fld 4 1 w) }
  | 0x04 => some { instr := .vfmin (fld 21 5 w) (fld 16 5 w) (fld 11 5 w) (fld 10 1 w) (fld 7 3 w) (fld 5 2 w) (fld 4 1 w) }
  | 0x05 => some { instr := .vfmax (fld 21 5 w) (fld 16 5 w) (fld 11 5 w) (fld 10 1 w) (fld 7 3 w) (fld 5 2 w) (fld 4 1 w) }
  | 0x06 => some { instr := .vfma (fld 21 5 w) (fld 16 5 w) (fld 11 5 w) (fld 10 1 w) (fld 7 3 w) (fld 5 2 w) (fld 4 1 w) }
  | 0x07 => some { instr := .vfnma (fld 21 5 w) (fld 16 5 w) (fld 11 5 w) (fld 10 1 w) (fld 7 3 w) (fld 5 2 w) (fld 4 1 w) }
  | 0x08 => some { instr := .vfms (fld 21 5 w) (fld 16 5 w) (fld 11 5 w) (fld 10 1 w) (fld 7 3 w) (fld 5 2 w) (fld 4 1 w) }
  | 0x09 => some { instr := .vfcsign (fld 21 5 w) (fld 16 5 w) (fld 11 5 w) (fld 10 1 w) (fld 7 3 w) (fld 5 2 w) (fld 4 1 w) }
  | 0x0A => some { instr := .vfnsign (fld 21 5 w) (fld 16 5 w) (fld 11 5 w) (fld 10 1 w) (fld 7 3 w) (fld 5 2 w) (fld 4 1 w) }
  | 0x0B => some { instr := .vfxsign (fld 21 5 w) (fld 16 5 w) (fld 11 5 w) (fld 10 1 w) (fld 7 3 w) (fld 5 2 w) (fld 4 1 w) }
  | 0x0C => some { instr := .vfkind (fld 21 5 w) (fld 16 5 w) (fld 11 5 w) (fld 10 1 w) (fld 7 3 w) (fld 5 2 w) (fld 4 1 w) }
  | 0x0D => some { instr := .vfsubr (fld 21 5 w) (fld 16 5 w) (fld 11 5 w) (fld 10 1 w) (fld 7 3 w) (fld 5 2 w) (fld 4 1 w) }
  | _ => none

/-- Major 0x1B (R107). -/
noncomputable def decVfps (w : BitVec 32) : Option DecRow :=
  match (fld 0 4 w).toNat with
  | 0x00 => some { instr := .vfaddVs (fld 21 5 w) (fld 16 5 w) (fld 11 5 w) (fld 10 1 w) (fld 7 3 w) (fld 5 2 w) (fld 4 1 w) }
  | 0x01 => some { instr := .vfsubVs (fld 21 5 w) (fld 16 5 w) (fld 11 5 w) (fld 10 1 w) (fld 7 3 w) (fld 5 2 w) (fld 4 1 w) }
  | 0x02 => some { instr := .vfmulVs (fld 21 5 w) (fld 16 5 w) (fld 11 5 w) (fld 10 1 w) (fld 7 3 w) (fld 5 2 w) (fld 4 1 w) }
  | 0x03 => some { instr := .vfdivVs (fld 21 5 w) (fld 16 5 w) (fld 11 5 w) (fld 10 1 w) (fld 7 3 w) (fld 5 2 w) (fld 4 1 w) }
  | 0x04 => some { instr := .vfminVs (fld 21 5 w) (fld 16 5 w) (fld 11 5 w) (fld 10 1 w) (fld 7 3 w) (fld 5 2 w) (fld 4 1 w) }
  | 0x05 => some { instr := .vfmaxVs (fld 21 5 w) (fld 16 5 w) (fld 11 5 w) (fld 10 1 w) (fld 7 3 w) (fld 5 2 w) (fld 4 1 w) }
  | 0x06 => some { instr := .vfmaVs (fld 21 5 w) (fld 16 5 w) (fld 11 5 w) (fld 10 1 w) (fld 7 3 w) (fld 5 2 w) (fld 4 1 w) }
  | 0x07 => some { instr := .vfnmaVs (fld 21 5 w) (fld 16 5 w) (fld 11 5 w) (fld 10 1 w) (fld 7 3 w) (fld 5 2 w) (fld 4 1 w) }
  | 0x08 => some { instr := .vfmsVs (fld 21 5 w) (fld 16 5 w) (fld 11 5 w) (fld 10 1 w) (fld 7 3 w) (fld 5 2 w) (fld 4 1 w) }
  | 0x09 => some { instr := .vfcsignVs (fld 21 5 w) (fld 16 5 w) (fld 11 5 w) (fld 10 1 w) (fld 7 3 w) (fld 5 2 w) (fld 4 1 w) }
  | 0x0A => some { instr := .vfnsignVs (fld 21 5 w) (fld 16 5 w) (fld 11 5 w) (fld 10 1 w) (fld 7 3 w) (fld 5 2 w) (fld 4 1 w) }
  | 0x0B => some { instr := .vfxsignVs (fld 21 5 w) (fld 16 5 w) (fld 11 5 w) (fld 10 1 w) (fld 7 3 w) (fld 5 2 w) (fld 4 1 w) }
  | 0x0C => some { instr := .vfkindVs (fld 21 5 w) (fld 16 5 w) (fld 11 5 w) (fld 10 1 w) (fld 7 3 w) (fld 5 2 w) (fld 4 1 w) }
  | 0x0D => some { instr := .vfsubrVs (fld 21 5 w) (fld 16 5 w) (fld 11 5 w) (fld 10 1 w) (fld 7 3 w) (fld 5 2 w) (fld 4 1 w) }
  | _ => none

/-- Major 0x1C (R107). -/
noncomputable def decVspec (w : BitVec 32) : Option DecRow :=
  match (fld 0 4 w).toNat with
  | 0x00 => some { instr := .vfsqrt (fld 21 5 w) (fld 16 5 w) (fld 10 1 w) (fld 7 3 w) (fld 5 2 w) (fld 4 1 w), zero := fld 11 5 w == 0 }
  | 0x01 => some { instr := .vfrcp (fld 21 5 w) (fld 16 5 w) (fld 10 1 w) (fld 7 3 w) (fld 5 2 w) (fld 4 1 w), zero := fld 11 5 w == 0 }
  | 0x02 => some { instr := .vfrsqrt (fld 21 5 w) (fld 16 5 w) (fld 10 1 w) (fld 7 3 w) (fld 5 2 w) (fld 4 1 w), zero := fld 11 5 w == 0 }
  | 0x03 => some { instr := .vfexp2 (fld 21 5 w) (fld 16 5 w) (fld 10 1 w) (fld 7 3 w) (fld 5 2 w) (fld 4 1 w), zero := fld 11 5 w == 0 }
  | 0x04 => some { instr := .vflog2 (fld 21 5 w) (fld 16 5 w) (fld 10 1 w) (fld 7 3 w) (fld 5 2 w) (fld 4 1 w), zero := fld 11 5 w == 0 }
  | 0x05 => some { instr := .vfexp (fld 21 5 w) (fld 16 5 w) (fld 10 1 w) (fld 7 3 w) (fld 5 2 w) (fld 4 1 w), zero := fld 11 5 w == 0 }
  | 0x06 => some { instr := .vflog (fld 21 5 w) (fld 16 5 w) (fld 10 1 w) (fld 7 3 w) (fld 5 2 w) (fld 4 1 w), zero := fld 11 5 w == 0 }
  | 0x07 => some { instr := .vftanh (fld 21 5 w) (fld 16 5 w) (fld 10 1 w) (fld 7 3 w) (fld 5 2 w) (fld 4 1 w), zero := fld 11 5 w == 0 }
  | 0x08 => some { instr := .vfsigm (fld 21 5 w) (fld 16 5 w) (fld 10 1 w) (fld 7 3 w) (fld 5 2 w) (fld 4 1 w), zero := fld 11 5 w == 0 }
  | 0x09 => some { instr := .vfgelu (fld 21 5 w) (fld 16 5 w) (fld 10 1 w) (fld 7 3 w) (fld 5 2 w) (fld 4 1 w), zero := fld 11 5 w == 0 }
  | 0x0A => some { instr := .vfsilu (fld 21 5 w) (fld 16 5 w) (fld 10 1 w) (fld 7 3 w) (fld 5 2 w) (fld 4 1 w), zero := fld 11 5 w == 0 }
  | 0x0B => some { instr := .vfsin (fld 21 5 w) (fld 16 5 w) (fld 10 1 w) (fld 7 3 w) (fld 5 2 w) (fld 4 1 w), zero := fld 11 5 w == 0 }
  | 0x0C => some { instr := .vfcos (fld 21 5 w) (fld 16 5 w) (fld 10 1 w) (fld 7 3 w) (fld 5 2 w) (fld 4 1 w), zero := fld 11 5 w == 0 }
  | 0x0D => some { instr := .vferf (fld 21 5 w) (fld 16 5 w) (fld 10 1 w) (fld 7 3 w) (fld 5 2 w) (fld 4 1 w), zero := fld 11 5 w == 0, absent := true }
  | _ => none

/-- Major 0x1D (R108). -/
noncomputable def decVcvt (w : BitVec 32) : Option DecRow :=
  match (fld 0 4 w).toNat with
  | 0x00 => some { instr := .vcvt (fld 21 5 w) (fld 16 5 w) (fld 11 5 w) (fld 10 1 w) (fld 7 3 w) (fld 5 2 w) (fld 4 1 w) }
  | 0x01 => some { instr := .vwiden (fld 21 5 w) (fld 16 5 w) (fld 11 5 w) (fld 10 1 w) (fld 7 3 w) (fld 5 2 w) (fld 4 1 w) }
  | 0x02 => some { instr := .vnarrow (fld 21 5 w) (fld 16 5 w) (fld 11 5 w) (fld 10 1 w) (fld 7 3 w) (fld 5 2 w) (fld 4 1 w) }
  | 0x03 => some { instr := .vnarrows (fld 21 5 w) (fld 16 5 w) (fld 11 5 w) (fld 10 1 w) (fld 7 3 w) (fld 5 2 w) (fld 4 1 w) }
  | _ => none

/-- Major 0x1E (R108). -/
noncomputable def decVmx (w : BitVec 32) : Option DecRow :=
  match (fld 0 4 w).toNat with
  | 0x00 => some { instr := .vmxpack (fld 21 5 w) (fld 16 5 w) (fld 11 5 w) (fld 10 1 w) (fld 7 3 w) (fld 5 2 w) (fld 4 1 w) }
  | 0x01 => some { instr := .vmxunpack (fld 21 5 w) (fld 16 5 w) (fld 11 5 w) (fld 10 1 w) (fld 7 3 w) (fld 5 2 w) (fld 4 1 w) }
  | 0x02 => some { instr := .vamax (fld 21 5 w) (fld 16 5 w) (fld 10 1 w) (fld 7 3 w) (fld 5 2 w) (fld 4 1 w), zero := fld 11 5 w == 0 }
  | 0x03 => some { instr := .vscale (fld 21 5 w) (fld 16 5 w) (fld 11 5 w) (fld 4 1 w), zero := fld 10 1 w == 0 && fld 7 3 w == 0 && fld 5 2 w == 0 }
  | 0x04 => some { instr := .vquant (fld 21 5 w) (fld 16 5 w) (fld 11 5 w) (fld 10 1 w) (fld 7 3 w) (fld 5 2 w) (fld 4 1 w) }
  | 0x05 => some { instr := .vdequant (fld 21 5 w) (fld 16 5 w) (fld 11 5 w) (fld 10 1 w) (fld 7 3 w) (fld 5 2 w) (fld 4 1 w) }
  | 0x06 => some { instr := .vbamax (fld 21 5 w) (fld 16 5 w) (fld 10 1 w) (fld 7 3 w) (fld 5 2 w) (fld 4 1 w), zero := fld 11 5 w == 0 }
  | _ => none

/-- Major 0x1F (R108). -/
noncomputable def decVred (w : BitVec 32) : Option DecRow :=
  match (fld 0 4 w).toNat with
  | 0x00 => some { instr := .vsumr (fld 21 5 w) (fld 16 5 w) (fld 11 5 w) (fld 10 1 w) (fld 7 3 w) (fld 5 2 w), zero := fld 4 1 w == 0 }
  | 0x01 => some { instr := .vmaxr (fld 21 5 w) (fld 16 5 w) (fld 11 5 w) (fld 10 1 w) (fld 7 3 w) (fld 5 2 w), zero := fld 4 1 w == 0 }
  | 0x02 => some { instr := .vminr (fld 21 5 w) (fld 16 5 w) (fld 11 5 w) (fld 10 1 w) (fld 7 3 w) (fld 5 2 w), zero := fld 4 1 w == 0 }
  | 0x03 => some { instr := .vmaxur (fld 21 5 w) (fld 16 5 w) (fld 11 5 w) (fld 10 1 w) (fld 7 3 w) (fld 5 2 w), zero := fld 4 1 w == 0 }
  | 0x04 => some { instr := .vminur (fld 21 5 w) (fld 16 5 w) (fld 11 5 w) (fld 10 1 w) (fld 7 3 w) (fld 5 2 w), zero := fld 4 1 w == 0 }
  | 0x05 => some { instr := .vandr (fld 21 5 w) (fld 16 5 w) (fld 11 5 w) (fld 10 1 w) (fld 7 3 w) (fld 5 2 w), zero := fld 4 1 w == 0 }
  | 0x06 => some { instr := .vorr (fld 21 5 w) (fld 16 5 w) (fld 11 5 w) (fld 10 1 w) (fld 7 3 w) (fld 5 2 w), zero := fld 4 1 w == 0 }
  | 0x07 => some { instr := .vxorr (fld 21 5 w) (fld 16 5 w) (fld 11 5 w) (fld 10 1 w) (fld 7 3 w) (fld 5 2 w), zero := fld 4 1 w == 0 }
  | 0x08 => some { instr := .vfsumr (fld 21 5 w) (fld 16 5 w) (fld 11 5 w) (fld 10 1 w) (fld 7 3 w) (fld 5 2 w) (fld 4 1 w) }
  | 0x09 => some { instr := .vfmaxr (fld 21 5 w) (fld 16 5 w) (fld 11 5 w) (fld 10 1 w) (fld 7 3 w) (fld 5 2 w) (fld 4 1 w) }
  | 0x0A => some { instr := .vfminr (fld 21 5 w) (fld 16 5 w) (fld 11 5 w) (fld 10 1 w) (fld 7 3 w) (fld 5 2 w) (fld 4 1 w) }
  | _ => none

/-- Major 0x20 (R108). -/
noncomputable def decVperm (w : BitVec 32) : Option DecRow :=
  match (fld 0 4 w).toNat with
  | 0x00 => some { instr := .vshup (fld 21 5 w) (fld 16 5 w) (fld 11 5 w) (fld 10 1 w) (fld 7 3 w) (fld 5 2 w), zero := fld 4 1 w == 0 }
  | 0x01 => some { instr := .vshdn (fld 21 5 w) (fld 16 5 w) (fld 11 5 w) (fld 10 1 w) (fld 7 3 w) (fld 5 2 w), zero := fld 4 1 w == 0 }
  | 0x02 => some { instr := .vgather (fld 21 5 w) (fld 16 5 w) (fld 11 5 w) (fld 10 1 w) (fld 7 3 w) (fld 5 2 w), zero := fld 4 1 w == 0 }
  | 0x03 => some { instr := .vcompress (fld 21 5 w) (fld 16 5 w) (fld 11 5 w) (fld 10 1 w) (fld 7 3 w) (fld 5 2 w), zero := fld 4 1 w == 0 }
  | 0x04 => some { instr := .vexpand (fld 21 5 w) (fld 16 5 w) (fld 10 1 w) (fld 7 3 w) (fld 5 2 w), zero := fld 11 5 w == 0 && fld 4 1 w == 0 }
  | 0x05 => some { instr := .vmerge (fld 21 5 w) (fld 16 5 w) (fld 11 5 w) (fld 10 1 w) (fld 7 3 w) (fld 5 2 w), zero := fld 4 1 w == 0 }
  | 0x06 => some { instr := .vmove (fld 21 5 w) (fld 16 5 w) (fld 10 1 w) (fld 7 3 w) (fld 5 2 w), zero := fld 11 5 w == 0 && fld 4 1 w == 0 }
  | 0x07 => some { instr := .vsplat (fld 21 5 w) (fld 16 5 w) (fld 10 1 w) (fld 7 3 w) (fld 5 2 w), zero := fld 11 5 w == 0 && fld 4 1 w == 0 }
  | 0x08 => some { instr := .vhead (fld 21 5 w) (fld 16 5 w) (fld 5 2 w), zero := fld 11 5 w == 0 && fld 10 1 w == 0 && fld 7 3 w == 0 && fld 4 1 w == 0 }
  | 0x09 => some { instr := .vacnt (fld 21 5 w) (fld 10 1 w) (fld 7 3 w) (fld 5 2 w), zero := fld 16 5 w == 0 && fld 11 5 w == 0 && fld 4 1 w == 0 }
  | 0x0A => some { instr := .vxup (fld 21 5 w) (fld 16 5 w) (fld 11 5 w) (fld 10 1 w) (fld 7 3 w) (fld 5 2 w), zero := fld 4 1 w == 0 }
  | 0x0B => some { instr := .vxdn (fld 21 5 w) (fld 16 5 w) (fld 11 5 w) (fld 10 1 w) (fld 7 3 w) (fld 5 2 w), zero := fld 4 1 w == 0 }
  | 0x0C => some { instr := .vxbc (fld 21 5 w) (fld 16 5 w) (fld 11 5 w) (fld 10 1 w) (fld 7 3 w) (fld 5 2 w), zero := fld 4 1 w == 0 }
  | 0x0D => some { instr := .vxrev (fld 21 5 w) (fld 16 5 w) (fld 10 1 w) (fld 7 3 w) (fld 5 2 w), zero := fld 11 5 w == 0 && fld 4 1 w == 0 }
  | _ => none

/-- Major 0x21 (R108). -/
noncomputable def decVbits (w : BitVec 32) : Option DecRow :=
  match (fld 0 4 w).toNat with
  | 0x00 => some { instr := .vunpack (fld 21 5 w) (fld 16 5 w) (fld 11 5 w) (fld 10 1 w) (fld 7 3 w) (fld 5 2 w), zero := fld 4 1 w == 0 }
  | 0x01 => some { instr := .vbext (fld 21 5 w) (fld 16 5 w) (fld 11 5 w) (fld 10 1 w) (fld 7 3 w) (fld 5 2 w), zero := fld 4 1 w == 0 }
  | 0x02 => some { instr := .vfsl (fld 21 5 w) (fld 16 5 w) (fld 11 5 w) (fld 10 1 w) (fld 7 3 w) (fld 5 2 w), zero := fld 4 1 w == 0 }
  | 0x03 => some { instr := .vfsr (fld 21 5 w) (fld 16 5 w) (fld 11 5 w) (fld 10 1 w) (fld 7 3 w) (fld 5 2 w), zero := fld 4 1 w == 0 }
  | 0x04 => some { instr := .vlut (fld 21 5 w) (fld 16 5 w) (fld 11 5 w) (fld 10 1 w) (fld 7 3 w) (fld 5 2 w), zero := fld 4 1 w == 0 }
  | 0x05 => some { instr := .vclz (fld 21 5 w) (fld 16 5 w) (fld 10 1 w) (fld 7 3 w) (fld 5 2 w), zero := fld 11 5 w == 0 && fld 4 1 w == 0 }
  | 0x06 => some { instr := .vctz (fld 21 5 w) (fld 16 5 w) (fld 10 1 w) (fld 7 3 w) (fld 5 2 w), zero := fld 11 5 w == 0 && fld 4 1 w == 0 }
  | 0x07 => some { instr := .vpopc (fld 21 5 w) (fld 16 5 w) (fld 10 1 w) (fld 7 3 w) (fld 5 2 w), zero := fld 11 5 w == 0 && fld 4 1 w == 0 }
  | 0x08 => some { instr := .vbrev (fld 21 5 w) (fld 16 5 w) (fld 10 1 w) (fld 7 3 w) (fld 5 2 w), zero := fld 11 5 w == 0 && fld 4 1 w == 0 }
  | _ => none

/-- Major 0x22 (R108). -/
noncomputable def decVconf (w : BitVec 32) : Option DecRow :=
  match (fld 0 4 w).toNat with
  | 0x00 => some { instr := .vcfg (fld 11 5 w), zero := fld 21 5 w == 0 && fld 16 5 w == 0 && fld 10 1 w == 0 && fld 7 3 w == 0 && fld 5 2 w == 0 && fld 4 1 w == 0 }
  | 0x01 => some { instr := .vsetvl (fld 21 5 w) (fld 16 5 w) (fld 11 5 w) (fld 5 2 w), zero := fld 10 1 w == 0 && fld 7 3 w == 0 && fld 4 1 w == 0 }
  | _ => none

/-- Major 0x23 (R108). -/
noncomputable def decVsetvli (w : BitVec 32) : Option DecRow :=
  some { instr := .vsetvli (fld 21 5 w) (fld 16 5 w) (fld 0 16 w) }

/-- Major 0x24 (R108). -/
noncomputable def decVmem (w : BitVec 32) : Option DecRow :=
  match (fld 0 4 w).toNat with
  | 0x00 => some { instr := .vld (fld 21 5 w) (fld 16 5 w) (fld 10 1 w) (fld 7 3 w) (fld 5 2 w), zero := fld 11 5 w == 0 && fld 4 1 w == 0 }
  | 0x01 => some { instr := .vlds (fld 21 5 w) (fld 16 5 w) (fld 11 5 w) (fld 10 1 w) (fld 7 3 w) (fld 5 2 w), zero := fld 4 1 w == 0 }
  | 0x02 => some { instr := .vldx (fld 21 5 w) (fld 16 5 w) (fld 11 5 w) (fld 10 1 w) (fld 7 3 w) (fld 5 2 w), zero := fld 4 1 w == 0 }
  | 0x03 => some { instr := .vldff (fld 21 5 w) (fld 16 5 w) (fld 10 1 w) (fld 7 3 w) (fld 5 2 w), zero := fld 11 5 w == 0 && fld 4 1 w == 0 }
  | 0x04 => some { instr := .vst (fld 21 5 w) (fld 16 5 w) (fld 10 1 w) (fld 7 3 w) (fld 5 2 w), zero := fld 11 5 w == 0 && fld 4 1 w == 0 }
  | 0x05 => some { instr := .vsts (fld 21 5 w) (fld 16 5 w) (fld 11 5 w) (fld 10 1 w) (fld 7 3 w) (fld 5 2 w), zero := fld 4 1 w == 0 }
  | 0x06 => some { instr := .vstx (fld 21 5 w) (fld 16 5 w) (fld 11 5 w) (fld 10 1 w) (fld 7 3 w) (fld 5 2 w), zero := fld 4 1 w == 0 }
  | 0x0C => some { instr := .vstU (fld 21 5 w) (fld 16 5 w) (fld 10 1 w) (fld 7 3 w) (fld 5 2 w), zero := fld 11 5 w == 0 && fld 4 1 w == 0 }
  | 0x0D => some { instr := .vstsU (fld 21 5 w) (fld 16 5 w) (fld 11 5 w) (fld 10 1 w) (fld 7 3 w) (fld 5 2 w), zero := fld 4 1 w == 0 }
  | 0x0E => some { instr := .vstxU (fld 21 5 w) (fld 16 5 w) (fld 11 5 w) (fld 10 1 w) (fld 7 3 w) (fld 5 2 w), zero := fld 4 1 w == 0 }
  | _ => none

/-- Major 0x25 (R108). -/
noncomputable def decVgrid (w : BitVec 32) : Option DecRow :=
  match (fld 0 4 w).toNat with
  | 0x00 => some { instr := .grow (fld 21 5 w) (fld 16 5 w) (fld 10 1 w) (fld 7 3 w) (fld 5 2 w), zero := fld 11 5 w == 0 && fld 4 1 w == 0 }
  | 0x01 => some { instr := .gcol (fld 21 5 w) (fld 16 5 w) (fld 10 1 w) (fld 7 3 w) (fld 5 2 w), zero := fld 11 5 w == 0 && fld 4 1 w == 0 }
  | 0x02 => some { instr := .gdiag (fld 21 5 w) (fld 16 5 w) (fld 10 1 w) (fld 7 3 w) (fld 5 2 w), zero := fld 11 5 w == 0 && fld 4 1 w == 0 }
  | 0x04 => some { instr := .grows (fld 21 5 w) (fld 16 5 w) (fld 10 1 w) (fld 7 3 w) (fld 5 2 w), zero := fld 11 5 w == 0 && fld 4 1 w == 0 }
  | 0x05 => some { instr := .gcols (fld 21 5 w) (fld 16 5 w) (fld 10 1 w) (fld 7 3 w) (fld 5 2 w), zero := fld 11 5 w == 0 && fld 4 1 w == 0 }
  | 0x06 => some { instr := .gdiags (fld 21 5 w) (fld 16 5 w) (fld 10 1 w) (fld 7 3 w) (fld 5 2 w), zero := fld 11 5 w == 0 && fld 4 1 w == 0 }
  | 0x08 => some { instr := .gpass (fld 21 5 w) (fld 11 5 w), zero := fld 16 5 w == 0 && fld 10 1 w == 0 && fld 7 3 w == 0 && fld 5 2 w == 0 && fld 4 1 w == 0 }
  | _ => none

/-- Major 0x26 (R108). -/
noncomputable def decVqsrc (w : BitVec 32) : Option DecRow :=
  match (fld 0 4 w).toNat with
  | 0x00 => some { instr := .vmvq (fld 21 5 w) (fld 15 1 w) (fld 11 4 w) (fld 10 1 w) (fld 7 3 w) (fld 5 2 w), zero := fld 16 5 w == 0 && fld 4 1 w == 0 }
  | 0x01 => some { instr := .vaddq (fld 21 5 w) (fld 16 5 w) (fld 15 1 w) (fld 11 4 w) (fld 10 1 w) (fld 7 3 w) (fld 5 2 w), zero := fld 4 1 w == 0 }
  | 0x02 => some { instr := .vsubq (fld 21 5 w) (fld 16 5 w) (fld 15 1 w) (fld 11 4 w) (fld 10 1 w) (fld 7 3 w) (fld 5 2 w), zero := fld 4 1 w == 0 }
  | 0x03 => some { instr := .vmulq (fld 21 5 w) (fld 16 5 w) (fld 15 1 w) (fld 11 4 w) (fld 10 1 w) (fld 7 3 w) (fld 5 2 w), zero := fld 4 1 w == 0 }
  | 0x04 => some { instr := .vfaddq (fld 21 5 w) (fld 16 5 w) (fld 15 1 w) (fld 11 4 w) (fld 10 1 w) (fld 7 3 w) (fld 5 2 w) (fld 4 1 w) }
  | 0x05 => some { instr := .vfsubq (fld 21 5 w) (fld 16 5 w) (fld 15 1 w) (fld 11 4 w) (fld 10 1 w) (fld 7 3 w) (fld 5 2 w) (fld 4 1 w) }
  | 0x06 => some { instr := .vfmulq (fld 21 5 w) (fld 16 5 w) (fld 15 1 w) (fld 11 4 w) (fld 10 1 w) (fld 7 3 w) (fld 5 2 w) (fld 4 1 w) }
  | 0x07 => some { instr := .vfmaq (fld 21 5 w) (fld 16 5 w) (fld 15 1 w) (fld 11 4 w) (fld 10 1 w) (fld 7 3 w) (fld 5 2 w) (fld 4 1 w) }
  | 0x08 => some { instr := .vandq (fld 21 5 w) (fld 16 5 w) (fld 15 1 w) (fld 11 4 w) (fld 10 1 w) (fld 7 3 w) (fld 5 2 w), zero := fld 4 1 w == 0 }
  | 0x09 => some { instr := .vorq (fld 21 5 w) (fld 16 5 w) (fld 15 1 w) (fld 11 4 w) (fld 10 1 w) (fld 7 3 w) (fld 5 2 w), zero := fld 4 1 w == 0 }
  | 0x0A => some { instr := .vxorq (fld 21 5 w) (fld 16 5 w) (fld 15 1 w) (fld 11 4 w) (fld 10 1 w) (fld 7 3 w) (fld 5 2 w), zero := fld 4 1 w == 0 }
  | _ => none

/-- Major 0x27 (R108). -/
noncomputable def decVqdst (w : BitVec 32) : Option DecRow :=
  match (fld 0 4 w).toNat with
  | 0x00 => some { instr := .venq (fld 16 5 w) (fld 11 4 w) (fld 10 1 w) (fld 7 3 w) (fld 5 2 w), zero := fld 21 5 w == 0 && fld 15 1 w == 0 && fld 4 1 w == 0 }
  | _ => none

/-- Major 0x28 (R110). -/
noncomputable def decMask (w : BitVec 32) : Option DecRow :=
  match (fld 0 5 w).toNat with
  | 0x00 => some { instr := .mand (fld 19 7 w) (fld 12 7 w) (fld 5 7 w) }
  | 0x01 => some { instr := .mor (fld 19 7 w) (fld 12 7 w) (fld 5 7 w) }
  | 0x02 => some { instr := .mxor (fld 19 7 w) (fld 12 7 w) (fld 5 7 w) }
  | 0x03 => some { instr := .mandn (fld 19 7 w) (fld 12 7 w) (fld 5 7 w) }
  | 0x04 => some { instr := .morn (fld 19 7 w) (fld 12 7 w) (fld 5 7 w) }
  | 0x05 => some { instr := .mnand (fld 19 7 w) (fld 12 7 w) (fld 5 7 w) }
  | 0x06 => some { instr := .mnor (fld 19 7 w) (fld 12 7 w) (fld 5 7 w) }
  | 0x07 => some { instr := .mxnor (fld 19 7 w) (fld 12 7 w) (fld 5 7 w) }
  | 0x08 => some { instr := .mmv (fld 19 7 w) (fld 12 7 w), zero := fld 5 7 w == 0 }
  | 0x09 => some { instr := .mnot (fld 19 7 w) (fld 12 7 w), zero := fld 5 7 w == 0 }
  | 0x0A => some { instr := .mset (fld 19 7 w), zero := fld 12 7 w == 0 && fld 5 7 w == 0 }
  | 0x0B => some { instr := .mclr (fld 19 7 w), zero := fld 12 7 w == 0 && fld 5 7 w == 0 }
  | 0x0C => some { instr := .msbf (fld 19 7 w) (fld 12 7 w), zero := fld 5 7 w == 0 }
  | 0x0D => some { instr := .msif (fld 19 7 w) (fld 12 7 w), zero := fld 5 7 w == 0 }
  | 0x0E => some { instr := .msof (fld 19 7 w) (fld 12 7 w), zero := fld 5 7 w == 0 }
  | 0x0F => some { instr := .mpopc (fld 19 7 w) (fld 12 7 w), zero := fld 5 7 w == 0 }
  | 0x10 => some { instr := .mfirst (fld 19 7 w) (fld 12 7 w), zero := fld 5 7 w == 0 }
  | 0x11 => some { instr := .mld (fld 19 7 w) (fld 12 7 w), zero := fld 5 7 w == 0 }
  | 0x12 => some { instr := .mst (fld 19 7 w) (fld 12 7 w), zero := fld 5 7 w == 0 }
  | _ => none

/-- Major 0x29 (R107). -/
noncomputable def decVcmp (w : BitVec 32) : Option DecRow :=
  match (fld 0 4 w).toNat with
  | 0x00 => some { instr := .vceq (fld 21 5 w) (fld 16 5 w) (fld 11 5 w) (fld 10 1 w) (fld 7 3 w) (fld 5 2 w), zero := fld 4 1 w == 0 }
  | 0x01 => some { instr := .vcne (fld 21 5 w) (fld 16 5 w) (fld 11 5 w) (fld 10 1 w) (fld 7 3 w) (fld 5 2 w), zero := fld 4 1 w == 0 }
  | 0x02 => some { instr := .vclt (fld 21 5 w) (fld 16 5 w) (fld 11 5 w) (fld 10 1 w) (fld 7 3 w) (fld 5 2 w), zero := fld 4 1 w == 0 }
  | 0x03 => some { instr := .vcltu (fld 21 5 w) (fld 16 5 w) (fld 11 5 w) (fld 10 1 w) (fld 7 3 w) (fld 5 2 w), zero := fld 4 1 w == 0 }
  | 0x04 => some { instr := .vcle (fld 21 5 w) (fld 16 5 w) (fld 11 5 w) (fld 10 1 w) (fld 7 3 w) (fld 5 2 w), zero := fld 4 1 w == 0 }
  | 0x05 => some { instr := .vcleu (fld 21 5 w) (fld 16 5 w) (fld 11 5 w) (fld 10 1 w) (fld 7 3 w) (fld 5 2 w), zero := fld 4 1 w == 0 }
  | 0x06 => some { instr := .vcgt (fld 21 5 w) (fld 16 5 w) (fld 11 5 w) (fld 10 1 w) (fld 7 3 w) (fld 5 2 w), zero := fld 4 1 w == 0 }
  | 0x07 => some { instr := .vcgtu (fld 21 5 w) (fld 16 5 w) (fld 11 5 w) (fld 10 1 w) (fld 7 3 w) (fld 5 2 w), zero := fld 4 1 w == 0 }
  | 0x08 => some { instr := .vfceq (fld 21 5 w) (fld 16 5 w) (fld 11 5 w) (fld 10 1 w) (fld 7 3 w) (fld 5 2 w) (fld 4 1 w) }
  | 0x09 => some { instr := .vfcne (fld 21 5 w) (fld 16 5 w) (fld 11 5 w) (fld 10 1 w) (fld 7 3 w) (fld 5 2 w) (fld 4 1 w) }
  | 0x0A => some { instr := .vfclt (fld 21 5 w) (fld 16 5 w) (fld 11 5 w) (fld 10 1 w) (fld 7 3 w) (fld 5 2 w) (fld 4 1 w) }
  | 0x0B => some { instr := .vfcle (fld 21 5 w) (fld 16 5 w) (fld 11 5 w) (fld 10 1 w) (fld 7 3 w) (fld 5 2 w) (fld 4 1 w) }
  | 0x0C => some { instr := .vfcgt (fld 21 5 w) (fld 16 5 w) (fld 11 5 w) (fld 10 1 w) (fld 7 3 w) (fld 5 2 w) (fld 4 1 w) }
  | 0x0D => some { instr := .vfcge (fld 21 5 w) (fld 16 5 w) (fld 11 5 w) (fld 10 1 w) (fld 7 3 w) (fld 5 2 w) (fld 4 1 w) }
  | 0x0E => some { instr := .vfcun (fld 21 5 w) (fld 16 5 w) (fld 11 5 w) (fld 10 1 w) (fld 7 3 w) (fld 5 2 w) (fld 4 1 w) }
  | _ => none

/-- Major 0x2A (R107). -/
noncomputable def decVcmps (w : BitVec 32) : Option DecRow :=
  match (fld 0 4 w).toNat with
  | 0x00 => some { instr := .vceqVs (fld 21 5 w) (fld 16 5 w) (fld 11 5 w) (fld 10 1 w) (fld 7 3 w) (fld 5 2 w), zero := fld 4 1 w == 0 }
  | 0x01 => some { instr := .vcneVs (fld 21 5 w) (fld 16 5 w) (fld 11 5 w) (fld 10 1 w) (fld 7 3 w) (fld 5 2 w), zero := fld 4 1 w == 0 }
  | 0x02 => some { instr := .vcltVs (fld 21 5 w) (fld 16 5 w) (fld 11 5 w) (fld 10 1 w) (fld 7 3 w) (fld 5 2 w), zero := fld 4 1 w == 0 }
  | 0x03 => some { instr := .vcltuVs (fld 21 5 w) (fld 16 5 w) (fld 11 5 w) (fld 10 1 w) (fld 7 3 w) (fld 5 2 w), zero := fld 4 1 w == 0 }
  | 0x04 => some { instr := .vcleVs (fld 21 5 w) (fld 16 5 w) (fld 11 5 w) (fld 10 1 w) (fld 7 3 w) (fld 5 2 w), zero := fld 4 1 w == 0 }
  | 0x05 => some { instr := .vcleuVs (fld 21 5 w) (fld 16 5 w) (fld 11 5 w) (fld 10 1 w) (fld 7 3 w) (fld 5 2 w), zero := fld 4 1 w == 0 }
  | 0x06 => some { instr := .vcgtVs (fld 21 5 w) (fld 16 5 w) (fld 11 5 w) (fld 10 1 w) (fld 7 3 w) (fld 5 2 w), zero := fld 4 1 w == 0 }
  | 0x07 => some { instr := .vcgtuVs (fld 21 5 w) (fld 16 5 w) (fld 11 5 w) (fld 10 1 w) (fld 7 3 w) (fld 5 2 w), zero := fld 4 1 w == 0 }
  | 0x08 => some { instr := .vfceqVs (fld 21 5 w) (fld 16 5 w) (fld 11 5 w) (fld 10 1 w) (fld 7 3 w) (fld 5 2 w) (fld 4 1 w) }
  | 0x09 => some { instr := .vfcneVs (fld 21 5 w) (fld 16 5 w) (fld 11 5 w) (fld 10 1 w) (fld 7 3 w) (fld 5 2 w) (fld 4 1 w) }
  | 0x0A => some { instr := .vfcltVs (fld 21 5 w) (fld 16 5 w) (fld 11 5 w) (fld 10 1 w) (fld 7 3 w) (fld 5 2 w) (fld 4 1 w) }
  | 0x0B => some { instr := .vfcleVs (fld 21 5 w) (fld 16 5 w) (fld 11 5 w) (fld 10 1 w) (fld 7 3 w) (fld 5 2 w) (fld 4 1 w) }
  | 0x0C => some { instr := .vfcgtVs (fld 21 5 w) (fld 16 5 w) (fld 11 5 w) (fld 10 1 w) (fld 7 3 w) (fld 5 2 w) (fld 4 1 w) }
  | 0x0D => some { instr := .vfcgeVs (fld 21 5 w) (fld 16 5 w) (fld 11 5 w) (fld 10 1 w) (fld 7 3 w) (fld 5 2 w) (fld 4 1 w) }
  | 0x0E => some { instr := .vfcunVs (fld 21 5 w) (fld 16 5 w) (fld 11 5 w) (fld 10 1 w) (fld 7 3 w) (fld 5 2 w) (fld 4 1 w) }
  | _ => none

/-- Major 0x2C (R111). -/
noncomputable def decTmul (w : BitVec 32) : Option DecRow :=
  if (fld 0 5 w).toNat < 14 then some { instr := .tmul (fld 21 5 w) (fld 16 5 w) (fld 11 5 w) (fld 10 1 w) (fld 7 3 w) (fld 5 2 w) (fld 0 5 w) } else none

/-- Major 0x2D (R111). -/
noncomputable def decTmulsp (w : BitVec 32) : Option DecRow :=
  if (fld 0 5 w).toNat < 14 then
    some { instr := .tmulsp (fld 21 5 w) (fld 16 5 w) (fld 11 5 w) (fld 10 1 w) (fld 7 3 w) (fld 5 2 w) (fld 0 5 w), absent := !decide ((fld 0 5 w).toNat < 6) }
  else none

/-- Major 0x2E (R112). -/
noncomputable def decTile (w : BitVec 32) : Option DecRow :=
  match (fld 0 4 w).toNat with
  | 0x00 => some { instr := .tmodeOn (fld 11 5 w), zero := fld 21 5 w == 0 && fld 16 5 w == 0 && fld 10 1 w == 0 && fld 7 3 w == 0 && fld 5 2 w == 0 && fld 4 1 w == 0 }
  | 0x01 => some { instr := .tmodeOff (fld 11 5 w), zero := fld 21 5 w == 0 && fld 16 5 w == 0 && fld 10 1 w == 0 && fld 7 3 w == 0 && fld 5 2 w == 0 && fld 4 1 w == 0 }
  | 0x02 => some { instr := .tshape (fld 21 5 w) (fld 16 5 w) (fld 11 5 w) (fld 5 2 w), zero := fld 10 1 w == 0 && fld 7 3 w == 0 && fld 4 1 w == 0 }
  | 0x03 => some { instr := .tzero (fld 11 5 w) (fld 5 2 w), zero := fld 21 5 w == 0 && fld 16 5 w == 0 && fld 10 1 w == 0 && fld 7 3 w == 0 && fld 4 1 w == 0 }
  | 0x04 => some { instr := .trdr (fld 21 5 w) (fld 16 5 w) (fld 5 2 w), zero := fld 11 5 w == 0 && fld 10 1 w == 0 && fld 7 3 w == 0 && fld 4 1 w == 0 }
  | 0x05 => some { instr := .trdc (fld 21 5 w) (fld 16 5 w) (fld 5 2 w), zero := fld 11 5 w == 0 && fld 10 1 w == 0 && fld 7 3 w == 0 && fld 4 1 w == 0 }
  | 0x06 => some { instr := .twrr (fld 21 5 w) (fld 16 5 w) (fld 5 2 w), zero := fld 11 5 w == 0 && fld 10 1 w == 0 && fld 7 3 w == 0 && fld 4 1 w == 0 }
  | 0x07 => some { instr := .twrc (fld 21 5 w) (fld 16 5 w) (fld 5 2 w), zero := fld 11 5 w == 0 && fld 10 1 w == 0 && fld 7 3 w == 0 && fld 4 1 w == 0 }
  | 0x08 => some { instr := .tpred (fld 5 2 w), zero := fld 21 5 w == 0 && fld 16 5 w == 0 && fld 11 5 w == 0 && fld 10 1 w == 0 && fld 7 3 w == 0 && fld 4 1 w == 0 }
  | 0x09 => some { instr := .tsync, zero := fld 21 5 w == 0 && fld 16 5 w == 0 && fld 11 5 w == 0 && fld 10 1 w == 0 && fld 7 3 w == 0 && fld 5 2 w == 0 && fld 4 1 w == 0 }
  | _ => none

/-- Major 0x30 (R114). -/
noncomputable def decStrm (w : BitVec 32) : Option DecRow :=
  match (fld 0 4 w).toNat with
  | 0x00 => some { instr := .sopen (fld 21 5 w) (fld 16 5 w) (fld 5 2 w), zero := fld 11 5 w == 0 && fld 7 4 w == 0 && fld 4 1 w == 0 }
  | 0x01 => some { instr := .sclose (fld 21 5 w) (fld 5 2 w), zero := fld 16 5 w == 0 && fld 11 5 w == 0 && fld 7 4 w == 0 && fld 4 1 w == 0 }
  | 0x02 => some { instr := .savail (fld 21 5 w) (fld 16 5 w) (fld 5 2 w), zero := fld 11 5 w == 0 && fld 7 4 w == 0 && fld 4 1 w == 0 }
  | 0x03 => some { instr := .swait (fld 21 5 w) (fld 16 5 w) (fld 5 2 w), zero := fld 11 5 w == 0 && fld 7 4 w == 0 && fld 4 1 w == 0 }
  | 0x04 => some { instr := .sskip (fld 21 5 w) (fld 16 5 w) (fld 5 2 w), zero := fld 11 5 w == 0 && fld 7 4 w == 0 && fld 4 1 w == 0 }
  | 0x05 => some { instr := .sdrain (fld 21 5 w) (fld 5 2 w), zero := fld 16 5 w == 0 && fld 11 5 w == 0 && fld 7 4 w == 0 && fld 4 1 w == 0 }
  | 0x06 => some { instr := .srewind (fld 21 5 w) (fld 5 2 w), zero := fld 16 5 w == 0 && fld 11 5 w == 0 && fld 7 4 w == 0 && fld 4 1 w == 0 }
  | 0x07 => some { instr := .spref (fld 21 5 w) (fld 16 5 w) (fld 5 2 w), zero := fld 11 5 w == 0 && fld 7 4 w == 0 && fld 4 1 w == 0 }
  | 0x08 => some { instr := .sgather (fld 21 5 w) (fld 16 5 w) (fld 5 2 w), zero := fld 11 5 w == 0 && fld 7 4 w == 0 && fld 4 1 w == 0 }
  | 0x09 => some { instr := .sldxBg (fld 21 5 w) (fld 16 5 w) (fld 11 5 w) (fld 5 2 w), zero := fld 7 4 w == 0 && fld 4 1 w == 0 }
  | 0x0A => some { instr := .strans (fld 21 5 w) (fld 16 5 w) (fld 5 2 w), zero := fld 11 5 w == 0 && fld 7 4 w == 0 && fld 4 1 w == 0 }
  | 0x0B => some { instr := .sstat (fld 21 5 w) (fld 16 5 w) (fld 5 2 w), zero := fld 11 5 w == 0 && fld 7 4 w == 0 && fld 4 1 w == 0 }
  | _ => none

/-- Major 0x32 (R114). -/
noncomputable def decCopy (w : BitVec 32) : Option DecRow :=
  match (fld 0 4 w).toNat with
  | 0x00 => some { instr := .cpy (fld 21 5 w) (fld 16 5 w) (fld 10 1 w) (fld 9 1 w) (fld 5 2 w), zero := fld 11 5 w == 0 && fld 7 2 w == 0 && fld 4 1 w == 0 }
  | 0x01 => some { instr := .cpfill (fld 21 5 w) (fld 11 5 w) (fld 10 1 w) (fld 5 2 w), zero := fld 16 5 w == 0 && fld 9 1 w == 0 && fld 7 2 w == 0 && fld 4 1 w == 0 }
  | 0x02 => some { instr := .cpcvt (fld 21 5 w) (fld 16 5 w) (fld 11 5 w) (fld 10 1 w) (fld 9 1 w) (fld 5 2 w), zero := fld 7 2 w == 0 && fld 4 1 w == 0 }
  | 0x03 => some { instr := .cplz (fld 21 5 w) (fld 16 5 w) (fld 11 5 w) (fld 9 1 w) (fld 5 2 w), zero := fld 10 1 w == 0 && fld 7 2 w == 0 && fld 4 1 w == 0 }
  | 0x04 => some { instr := .cpxp (fld 21 5 w) (fld 16 5 w) (fld 11 5 w) (fld 10 1 w) (fld 5 2 w), zero := fld 9 1 w == 0 && fld 7 2 w == 0 && fld 4 1 w == 0 }
  | 0x05 => some { instr := .cpcrc (fld 21 5 w) (fld 16 5 w) (fld 11 5 w) (fld 9 1 w) (fld 5 2 w), zero := fld 10 1 w == 0 && fld 7 2 w == 0 && fld 4 1 w == 0 }
  | 0x06 => some { instr := .cpcrc64 (fld 21 5 w) (fld 16 5 w) (fld 11 5 w) (fld 9 1 w) (fld 5 2 w), zero := fld 10 1 w == 0 && fld 7 2 w == 0 && fld 4 1 w == 0 }
  | 0x07 => some { instr := .cprel (fld 21 5 w) (fld 16 5 w) (fld 11 5 w) (fld 5 2 w), zero := fld 10 1 w == 0 && fld 9 1 w == 0 && fld 7 2 w == 0 && fld 4 1 w == 0 }
  | 0x08 => some { instr := .cpshad (fld 21 5 w) (fld 16 5 w), zero := fld 11 5 w == 0 && fld 10 1 w == 0 && fld 9 1 w == 0 && fld 7 2 w == 0 && fld 5 2 w == 0 && fld 4 1 w == 0 }
  | 0x09 => some { instr := .cpbl (fld 21 5 w) (fld 9 2 w), zero := fld 16 5 w == 0 && fld 11 5 w == 0 && fld 7 2 w == 0 && fld 5 2 w == 0 && fld 4 1 w == 0 }
  | 0x0A => some { instr := .cpwait, zero := fld 21 5 w == 0 && fld 16 5 w == 0 && fld 11 5 w == 0 && fld 10 1 w == 0 && fld 9 1 w == 0 && fld 7 2 w == 0 && fld 5 2 w == 0 && fld 4 1 w == 0 }
  | _ => none

/-- Major 0x33 (R114). -/
noncomputable def decStor (w : BitVec 32) : Option DecRow :=
  match (fld 0 4 w).toNat with
  | 0x00 => some { instr := .nring (fld 21 5 w) (fld 16 5 w), zero := fld 11 5 w == 0 && fld 10 1 w == 0 && fld 9 1 w == 0 && fld 7 2 w == 0 && fld 5 2 w == 0 && fld 4 1 w == 0 }
  | 0x01 => some { instr := .ncqhd (fld 21 5 w) (fld 16 5 w), zero := fld 11 5 w == 0 && fld 10 1 w == 0 && fld 9 1 w == 0 && fld 7 2 w == 0 && fld 5 2 w == 0 && fld 4 1 w == 0 }
  | 0x02 => some { instr := .nqstat (fld 21 5 w) (fld 16 5 w), zero := fld 11 5 w == 0 && fld 10 1 w == 0 && fld 9 1 w == 0 && fld 7 2 w == 0 && fld 5 2 w == 0 && fld 4 1 w == 0 }
  | 0x03 => some { instr := .ncqpoll (fld 21 5 w) (fld 16 5 w), zero := fld 11 5 w == 0 && fld 10 1 w == 0 && fld 9 1 w == 0 && fld 7 2 w == 0 && fld 5 2 w == 0 && fld 4 1 w == 0 }
  | _ => none

/-- Major 0x34 (R114). -/
noncomputable def decLink (w : BitVec 32) : Option DecRow :=
  match (fld 0 4 w).toNat with
  | 0x00 => some { instr := .lturn (fld 21 5 w) (fld 16 5 w) (fld 11 5 w), zero := fld 10 1 w == 0 && fld 9 1 w == 0 && fld 7 2 w == 0 && fld 5 2 w == 0 && fld 4 1 w == 0 }
  | 0x01 => some { instr := .lstat (fld 21 5 w) (fld 16 5 w), zero := fld 11 5 w == 0 && fld 10 1 w == 0 && fld 9 1 w == 0 && fld 7 2 w == 0 && fld 5 2 w == 0 && fld 4 1 w == 0 }
  | 0x02 => some { instr := .lpause (fld 21 5 w), zero := fld 16 5 w == 0 && fld 11 5 w == 0 && fld 10 1 w == 0 && fld 9 1 w == 0 && fld 7 2 w == 0 && fld 5 2 w == 0 && fld 4 1 w == 0, priv := true }
  | 0x03 => some { instr := .lresume (fld 21 5 w), zero := fld 16 5 w == 0 && fld 11 5 w == 0 && fld 10 1 w == 0 && fld 9 1 w == 0 && fld 7 2 w == 0 && fld 5 2 w == 0 && fld 4 1 w == 0, priv := true }
  | 0x04 => some { instr := .lremap (fld 21 5 w) (fld 16 5 w), zero := fld 11 5 w == 0 && fld 10 1 w == 0 && fld 9 1 w == 0 && fld 7 2 w == 0 && fld 5 2 w == 0 && fld 4 1 w == 0, priv := true }
  | 0x05 => some { instr := .ltrain (fld 21 5 w) (fld 16 5 w), zero := fld 11 5 w == 0 && fld 10 1 w == 0 && fld 9 1 w == 0 && fld 7 2 w == 0 && fld 5 2 w == 0 && fld 4 1 w == 0, priv := true }
  | 0x06 => some { instr := .lwait (fld 21 5 w) (fld 16 5 w), zero := fld 11 5 w == 0 && fld 10 1 w == 0 && fld 9 1 w == 0 && fld 7 2 w == 0 && fld 5 2 w == 0 && fld 4 1 w == 0 }
  | _ => none

/-- Major 0x35 (R114). -/
noncomputable def decBeacon (w : BitVec 32) : Option DecRow :=
  match (fld 0 4 w).toNat with
  | 0x00 => some { instr := .bput (fld 21 5 w) (fld 16 5 w) (fld 11 5 w), zero := fld 10 1 w == 0 && fld 9 1 w == 0 && fld 7 2 w == 0 && fld 5 2 w == 0 && fld 4 1 w == 0 }
  | 0x01 => some { instr := .bget (fld 21 5 w) (fld 16 5 w) (fld 11 5 w), zero := fld 10 1 w == 0 && fld 9 1 w == 0 && fld 7 2 w == 0 && fld 5 2 w == 0 && fld 4 1 w == 0 }
  | 0x02 => some { instr := .batom (fld 21 5 w) (fld 16 5 w) (fld 11 5 w), zero := fld 10 1 w == 0 && fld 9 1 w == 0 && fld 7 2 w == 0 && fld 5 2 w == 0 && fld 4 1 w == 0 }
  | 0x03 => some { instr := .bnotify (fld 21 5 w) (fld 16 5 w) (fld 11 5 w), zero := fld 10 1 w == 0 && fld 9 1 w == 0 && fld 7 2 w == 0 && fld 5 2 w == 0 && fld 4 1 w == 0 }
  | 0x04 => some { instr := .bwait (fld 21 5 w) (fld 16 5 w), zero := fld 11 5 w == 0 && fld 10 1 w == 0 && fld 9 1 w == 0 && fld 7 2 w == 0 && fld 5 2 w == 0 && fld 4 1 w == 0 }
  | 0x05 => some { instr := .bpoll (fld 21 5 w) (fld 16 5 w), zero := fld 11 5 w == 0 && fld 10 1 w == 0 && fld 9 1 w == 0 && fld 7 2 w == 0 && fld 5 2 w == 0 && fld 4 1 w == 0 }
  | 0x06 => some { instr := .bfence, zero := fld 21 5 w == 0 && fld 16 5 w == 0 && fld 11 5 w == 0 && fld 10 1 w == 0 && fld 9 1 w == 0 && fld 7 2 w == 0 && fld 5 2 w == 0 && fld 4 1 w == 0 }
  | 0x07 => some { instr := .bstat (fld 21 5 w) (fld 16 5 w), zero := fld 11 5 w == 0 && fld 10 1 w == 0 && fld 9 1 w == 0 && fld 7 2 w == 0 && fld 5 2 w == 0 && fld 4 1 w == 0 }
  | 0x08 => some { instr := .blport (fld 21 5 w) (fld 16 5 w), zero := fld 11 5 w == 0 && fld 10 1 w == 0 && fld 9 1 w == 0 && fld 7 2 w == 0 && fld 5 2 w == 0 && fld 4 1 w == 0 }
  | _ => none

/-- Major 0x36 (R115). -/
noncomputable def decCtx (w : BitVec 32) : Option DecRow :=
  match (fld 0 4 w).toNat with
  | 0x00 => some { instr := .klaunch (fld 21 5 w) (fld 16 5 w), zero := fld 4 12 w == 0 }
  | 0x01 => some { instr := .kwait (fld 16 5 w), zero := fld 21 5 w == 0 && fld 4 12 w == 0 }
  | 0x02 => some { instr := .ctxsave (fld 16 5 w), zero := fld 21 5 w == 0 && fld 4 12 w == 0, priv := true }
  | 0x03 => some { instr := .ctxload (fld 16 5 w), zero := fld 21 5 w == 0 && fld 4 12 w == 0, priv := true }
  | _ => none

/-- Major 0x37 (R115). -/
noncomputable def decSupv (w : BitVec 32) : Option DecRow :=
  match (fld 0 4 w).toNat with
  | 0x00 => some { instr := .svrd (fld 21 5 w) (fld 16 5 w), zero := fld 4 12 w == 0, priv := true }
  | 0x01 => some { instr := .svwr (fld 21 5 w) (fld 16 5 w), zero := fld 4 12 w == 0, priv := true }
  | 0x02 => some { instr := .warm (fld 16 5 w) (fld 4 2 w), zero := fld 21 5 w == 0 && fld 6 10 w == 0, priv := true }
  | 0x03 => some { instr := .wdisarm (fld 4 2 w), zero := fld 21 5 w == 0 && fld 16 5 w == 0 && fld 6 10 w == 0, priv := true }
  | _ => none

/-- Major 0x38 (R181). -/
noncomputable def decVfp64 (w : BitVec 32) : Option DecRow :=
  match (fld 0 4 w).toNat with
  | 0x00 => some { instr := .vdadd (fld 21 5 w) (fld 16 5 w) (fld 11 5 w) (fld 10 1 w) (fld 7 3 w) (fld 5 2 w) (fld 4 1 w), absent := true }
  | 0x01 => some { instr := .vdsub (fld 21 5 w) (fld 16 5 w) (fld 11 5 w) (fld 10 1 w) (fld 7 3 w) (fld 5 2 w) (fld 4 1 w), absent := true }
  | 0x02 => some { instr := .vdmul (fld 21 5 w) (fld 16 5 w) (fld 11 5 w) (fld 10 1 w) (fld 7 3 w) (fld 5 2 w) (fld 4 1 w), absent := true }
  | 0x03 => some { instr := .vddiv (fld 21 5 w) (fld 16 5 w) (fld 11 5 w) (fld 10 1 w) (fld 7 3 w) (fld 5 2 w) (fld 4 1 w), absent := true }
  | 0x04 => some { instr := .vdmin (fld 21 5 w) (fld 16 5 w) (fld 11 5 w) (fld 10 1 w) (fld 7 3 w) (fld 5 2 w) (fld 4 1 w), absent := true }
  | 0x05 => some { instr := .vdmax (fld 21 5 w) (fld 16 5 w) (fld 11 5 w) (fld 10 1 w) (fld 7 3 w) (fld 5 2 w) (fld 4 1 w), absent := true }
  | 0x06 => some { instr := .vdfma (fld 21 5 w) (fld 16 5 w) (fld 11 5 w) (fld 10 1 w) (fld 7 3 w) (fld 5 2 w) (fld 4 1 w), absent := true }
  | 0x07 => some { instr := .vdfnma (fld 21 5 w) (fld 16 5 w) (fld 11 5 w) (fld 10 1 w) (fld 7 3 w) (fld 5 2 w) (fld 4 1 w), absent := true }
  | 0x08 => some { instr := .vdfms (fld 21 5 w) (fld 16 5 w) (fld 11 5 w) (fld 10 1 w) (fld 7 3 w) (fld 5 2 w) (fld 4 1 w), absent := true }
  | 0x09 => some { instr := .vdcsign (fld 21 5 w) (fld 16 5 w) (fld 11 5 w) (fld 10 1 w) (fld 7 3 w) (fld 5 2 w) (fld 4 1 w), absent := true }
  | 0x0A => some { instr := .vdnsign (fld 21 5 w) (fld 16 5 w) (fld 11 5 w) (fld 10 1 w) (fld 7 3 w) (fld 5 2 w) (fld 4 1 w), absent := true }
  | 0x0B => some { instr := .vdxsign (fld 21 5 w) (fld 16 5 w) (fld 11 5 w) (fld 10 1 w) (fld 7 3 w) (fld 5 2 w) (fld 4 1 w), absent := true }
  | 0x0C => some { instr := .vdkind (fld 21 5 w) (fld 16 5 w) (fld 10 1 w) (fld 7 3 w) (fld 5 2 w) (fld 4 1 w), zero := fld 11 5 w == 0, absent := true }
  | 0x0D => some { instr := .vdsubr (fld 21 5 w) (fld 16 5 w) (fld 11 5 w) (fld 10 1 w) (fld 7 3 w) (fld 5 2 w) (fld 4 1 w), absent := true }
  | 0x0E => some { instr := .vdsqrt (fld 21 5 w) (fld 16 5 w) (fld 10 1 w) (fld 7 3 w) (fld 5 2 w) (fld 4 1 w), zero := fld 11 5 w == 0, absent := true }
  | _ => none

/-- R96: the major opcode map. The outer `none` is an unassigned major, the inner one an unassigned function code. -/
noncomputable def decodeRow (w : BitVec 32) : Option (Option DecRow) :=
  match (fld 26 6 w).toNat with
  | 0x01 => some (decAlu w)
  | 0x02 => some (decBitf w)
  | 0x03 => some (decFps w)
  | 0x04 => some (decAddi w)
  | 0x05 => some (decAndi w)
  | 0x06 => some (decOri w)
  | 0x07 => some (decXori w)
  | 0x08 => some (decSlti w)
  | 0x09 => some (decSltiu w)
  | 0x0A => some (decLui w)
  | 0x0B => some (decAddhi w)
  | 0x0C => some (decLoad w)
  | 0x0D => some (decStore w)
  | 0x0E => some (decRmw w)
  | 0x0F => some (decJalr w)
  | 0x10 => some (decBr w)
  | 0x11 => some (decJal w)
  | 0x12 => some (decLoopv w)
  | 0x13 => some (decSys w)
  | 0x14 => some (decFence w)
  | 0x18 => some (decVint w)
  | 0x19 => some (decVints w)
  | 0x1A => some (decVfp w)
  | 0x1B => some (decVfps w)
  | 0x1C => some (decVspec w)
  | 0x1D => some (decVcvt w)
  | 0x1E => some (decVmx w)
  | 0x1F => some (decVred w)
  | 0x20 => some (decVperm w)
  | 0x21 => some (decVbits w)
  | 0x22 => some (decVconf w)
  | 0x23 => some (decVsetvli w)
  | 0x24 => some (decVmem w)
  | 0x25 => some (decVgrid w)
  | 0x26 => some (decVqsrc w)
  | 0x27 => some (decVqdst w)
  | 0x28 => some (decMask w)
  | 0x29 => some (decVcmp w)
  | 0x2A => some (decVcmps w)
  | 0x2C => some (decTmul w)
  | 0x2D => some (decTmulsp w)
  | 0x2E => some (decTile w)
  | 0x30 => some (decStrm w)
  | 0x32 => some (decCopy w)
  | 0x33 => some (decStor w)
  | 0x34 => some (decLink w)
  | 0x35 => some (decBeacon w)
  | 0x36 => some (decCtx w)
  | 0x37 => some (decSupv w)
  | 0x38 => some (decVfp64 w)
  | _ => none

/-- R97: the fate of a word, in the order of its steps. `super` says whether the hart is in supervisor mode. A word of an
absent group that its tables describe decodes to its instruction, whose meaning raises ABSENT; any other word of the
group is rejected as absent here. -/
noncomputable def decode (super : Bool) (w : BitVec 32) : Except Reject Instr :=
  match decodeRow w with
  | none => .error (.illegal 1)
  | some none => if (fld 26 6 w).toNat = 0x38 then .error .absent else .error (.illegal 2)
  | some (some r) =>
    if r.absent then (if r.fits then .ok r.instr else .error .absent)
    else if r.priv && !super then .error .priv
    else if !(r.zero && r.instr.zeroOk) then .error (.illegal 3)
    else if !(r.one && r.instr.rangeOk) then .error (.illegal 4)
    else .ok r.instr

/-- The instruction that the decoder reads, in supervisor mode, from a word of `nbits` bits; none for any width but the
one instruction width of R90. -/
noncomputable def decodeTableWord (nbits w : Nat) : Option Instr :=
  if nbits = 32 then
    match decode true (BitVec.ofNat 32 w) with
    | .ok i => some i
    | .error _ => none
  else none

/-- Format S3 (R91, R92). -/
def encS3 (maj : BitVec 6) (rd : BitVec 5) (ra : BitVec 5) (rb : BitVec 5) (rc : BitVec 5) (fn : BitVec 6) : BitVec 32 :=
  maj ++ rd ++ ra ++ rb ++ rc ++ fn

/-- Format S3 shift-immediate (R91, R92). -/
def encSH (maj : BitVec 6) (rd : BitVec 5) (ra : BitVec 5) (sh : BitVec 6) (z : BitVec 4) (fn : BitVec 6) : BitVec 32 :=
  maj ++ rd ++ ra ++ sh ++ z ++ fn

/-- Format S3 atomic (R91, R92). -/
def encRMW (maj : BitVec 6) (rd : BitVec 5) (ra : BitVec 5) (rb : BitVec 5) (sc : BitVec 2) (aq : BitVec 1) (rl : BitVec 1) (w : BitVec 1) (fn : BitVec 6) : BitVec 32 :=
  maj ++ rd ++ ra ++ rb ++ sc ++ aq ++ rl ++ w ++ fn

/-- Format SI (R91, R92). -/
def encSI (maj : BitVec 6) (rd : BitVec 5) (ra : BitVec 5) (imm : BitVec 16) : BitVec 32 :=
  maj ++ rd ++ ra ++ imm

/-- Format SI memory (R91, R92). -/
def encSM (maj : BitVec 6) (rd : BitVec 5) (ra : BitVec 5) (w : BitVec 3) (off : BitVec 13) : BitVec 32 :=
  maj ++ rd ++ ra ++ w ++ off

/-- Format SB (R91, R92). -/
def encSB (maj : BitVec 6) (ra : BitVec 5) (rb : BitVec 5) (cc : BitVec 3) (off : BitVec 13) : BitVec 32 :=
  maj ++ ra ++ rb ++ cc ++ off

/-- Format SJ (R91, R92). -/
def encSJ (maj : BitVec 6) (rd : BitVec 5) (off : BitVec 21) : BitVec 32 :=
  maj ++ rd ++ off

/-- Format LP (R91, R92). -/
def encLP (maj : BitVec 6) (rc : BitVec 5) (rp : BitVec 5) (np : BitVec 2) (esh : BitVec 2) (off : BitVec 12) : BitVec 32 :=
  maj ++ rc ++ rp ++ np ++ esh ++ off

/-- Format V3 and VS (R91, R92). -/
def encV3 (maj : BitVec 6) (vd : BitVec 5) (va : BitVec 5) (vb : BitVec 5) (m : BitVec 1) (ms : BitVec 3) (ds : BitVec 2) (x : BitVec 1) (fn : BitVec 4) : BitVec 32 :=
  maj ++ vd ++ va ++ vb ++ m ++ ms ++ ds ++ x ++ fn

/-- Format VQ (R91, R92). -/
def encVQ (maj : BitVec 6) (vd : BitVec 5) (va : BitVec 5) (p : BitVec 1) (qn : BitVec 4) (m : BitVec 1) (ms : BitVec 3) (ds : BitVec 2) (x : BitVec 1) (fn : BitVec 4) : BitVec 32 :=
  maj ++ vd ++ va ++ p ++ qn ++ m ++ ms ++ ds ++ x ++ fn

/-- Format MK (R91, R92). -/
def encMK (maj : BitVec 6) (md : BitVec 7) (ma : BitVec 7) (mb : BitVec 7) (fn : BitVec 5) : BitVec 32 :=
  maj ++ md ++ ma ++ mb ++ fn

/-- Format TL (R91, R92). -/
def encTL (maj : BitVec 6) (qc : BitVec 5) (qr : BitVec 5) (sk : BitVec 5) (p : BitVec 1) (acc : BitVec 3) (ds : BitVec 2) (gc : BitVec 5) : BitVec 32 :=
  maj ++ qc ++ qr ++ sk ++ p ++ acc ++ ds ++ gc

/-- Format ST (R91, R92). -/
def encST (maj : BitVec 6) (qn : BitVec 5) (ra : BitVec 5) (rb : BitVec 5) (z : BitVec 4) (ds : BitVec 2) (z2 : BitVec 1) (fn : BitVec 4) : BitVec 32 :=
  maj ++ qn ++ ra ++ rb ++ z ++ ds ++ z2 ++ fn

/-- Format EN (R91, R92). -/
def encEN (maj : BitVec 6) (rd : BitVec 5) (ra : BitVec 5) (rb : BitVec 5) (spd : BitVec 1) (sps : BitVec 1) (z : BitVec 2) (ds : BitVec 2) (z2 : BitVec 1) (fn : BitVec 4) : BitVec 32 :=
  maj ++ rd ++ ra ++ rb ++ spd ++ sps ++ z ++ ds ++ z2 ++ fn

/-- Format EN of CPBL, whose A field holds the scope (R114) (R91, R92). -/
def encEB (maj : BitVec 6) (rd : BitVec 5) (ra : BitVec 5) (rb : BitVec 5) (sc : BitVec 2) (z : BitVec 2) (ds : BitVec 2) (z2 : BitVec 1) (fn : BitVec 4) : BitVec 32 :=
  maj ++ rd ++ ra ++ rb ++ sc ++ z ++ ds ++ z2 ++ fn

/-- Format SY (R91, R92). -/
def encSY (maj : BitVec 6) (rd : BitVec 5) (ra : BitVec 5) (cw : BitVec 12) (fn : BitVec 4) : BitVec 32 :=
  maj ++ rd ++ ra ++ cw ++ fn

/-- Format SY of WARM and WDISARM, whose CW holds a watch index (R115) (R91, R92). -/
def encSW (maj : BitVec 6) (rd : BitVec 5) (ra : BitVec 5) (z : BitVec 10) (n : BitVec 2) (fn : BitVec 4) : BitVec 32 :=
  maj ++ rd ++ ra ++ z ++ n ++ fn

/-- Format SY fence (R91, R92). -/
def encSYF (maj : BitVec 6) (ps : BitVec 5) (qs : BitVec 5) (sc : BitVec 2) (z : BitVec 10) (fn : BitVec 4) : BitVec 32 :=
  maj ++ ps ++ qs ++ sc ++ z ++ fn

/-- The word of an instruction, from the formats and function codes of R91 to R115; none for an event. -/
def encode : Instr → Option (BitVec 32)
  | .add rd ra rb => some (encS3 0x01 rd ra rb 0x0 0x0)
  | .sub rd ra rb => some (encS3 0x01 rd ra rb 0x0 0x1)
  | .and rd ra rb => some (encS3 0x01 rd ra rb 0x0 0x2)
  | .or rd ra rb => some (encS3 0x01 rd ra rb 0x0 0x3)
  | .xor rd ra rb => some (encS3 0x01 rd ra rb 0x0 0x4)
  | .andn rd ra rb => some (encS3 0x01 rd ra rb 0x0 0x5)
  | .orn rd ra rb => some (encS3 0x01 rd ra rb 0x0 0x6)
  | .xnor rd ra rb => some (encS3 0x01 rd ra rb 0x0 0x7)
  | .sll rd ra rb => some (encS3 0x01 rd ra rb 0x0 0x8)
  | .srl rd ra rb => some (encS3 0x01 rd ra rb 0x0 0x9)
  | .sra rd ra rb => some (encS3 0x01 rd ra rb 0x0 0xa)
  | .rol rd ra rb => some (encS3 0x01 rd ra rb 0x0 0xb)
  | .ror rd ra rb => some (encS3 0x01 rd ra rb 0x0 0xc)
  | .slt rd ra rb => some (encS3 0x01 rd ra rb 0x0 0xd)
  | .sltu rd ra rb => some (encS3 0x01 rd ra rb 0x0 0xe)
  | .mul rd ra rb => some (encS3 0x01 rd ra rb 0x0 0x10)
  | .mulh rd ra rb => some (encS3 0x01 rd ra rb 0x0 0x11)
  | .mulhu rd ra rb => some (encS3 0x01 rd ra rb 0x0 0x12)
  | .mulhsu rd ra rb => some (encS3 0x01 rd ra rb 0x0 0x13)
  | .div rd ra rb => some (encS3 0x01 rd ra rb 0x0 0x14)
  | .divu rd ra rb => some (encS3 0x01 rd ra rb 0x0 0x15)
  | .rem rd ra rb => some (encS3 0x01 rd ra rb 0x0 0x16)
  | .remu rd ra rb => some (encS3 0x01 rd ra rb 0x0 0x17)
  | .min rd ra rb => some (encS3 0x01 rd ra rb 0x0 0x18)
  | .max rd ra rb => some (encS3 0x01 rd ra rb 0x0 0x19)
  | .minu rd ra rb => some (encS3 0x01 rd ra rb 0x0 0x1a)
  | .maxu rd ra rb => some (encS3 0x01 rd ra rb 0x0 0x1b)
  | .clz rd ra => some (encS3 0x01 rd ra 0x0 0x0 0x1c)
  | .ctz rd ra => some (encS3 0x01 rd ra 0x0 0x0 0x1d)
  | .popc rd ra => some (encS3 0x01 rd ra 0x0 0x0 0x1e)
  | .rev8 rd ra => some (encS3 0x01 rd ra 0x0 0x0 0x1f)
  | .slli rd ra sh => some (encSH 0x01 rd ra sh 0x0 0x20)
  | .srli rd ra sh => some (encSH 0x01 rd ra sh 0x0 0x21)
  | .srai rd ra sh => some (encSH 0x01 rd ra sh 0x0 0x22)
  | .rori rd ra sh => some (encSH 0x01 rd ra sh 0x0 0x23)
  | .sextb rd ra => some (encS3 0x01 rd ra 0x0 0x0 0x24)
  | .sexth rd ra => some (encS3 0x01 rd ra 0x0 0x0 0x25)
  | .sextw rd ra => some (encS3 0x01 rd ra 0x0 0x0 0x26)
  | .zextw rd ra => some (encS3 0x01 rd ra 0x0 0x0 0x27)
  | .selz rd ra rb rc => some (encS3 0x01 rd ra rb rc 0x28)
  | .selnz rd ra rb rc => some (encS3 0x01 rd ra rb rc 0x29)
  | .fsl rd ra rb rc => some (encS3 0x02 rd ra rb rc 0x0)
  | .fsr rd ra rb rc => some (encS3 0x02 rd ra rb rc 0x1)
  | .bfx rd ra rb rc => some (encS3 0x02 rd ra rb rc 0x2)
  | .bfxs rd ra rb rc => some (encS3 0x02 rd ra rb rc 0x3)
  | .bfi rd ra rb rc => some (encS3 0x02 rd ra rb rc 0x4)
  | .bdep rd ra rb => some (encS3 0x02 rd ra rb 0x0 0x5)
  | .bcmpr rd ra rb => some (encS3 0x02 rd ra rb 0x0 0x6)
  | .brev rd ra => some (encS3 0x02 rd ra 0x0 0x0 0x7)
  | .faddS rd ra rb => some (encS3 0x03 rd ra rb 0x0 0x0)
  | .fsubS rd ra rb => some (encS3 0x03 rd ra rb 0x0 0x1)
  | .fmulS rd ra rb => some (encS3 0x03 rd ra rb 0x0 0x2)
  | .fdivS rd ra rb => some (encS3 0x03 rd ra rb 0x0 0x3)
  | .fsqrtS rd ra => some (encS3 0x03 rd ra 0x0 0x0 0x4)
  | .fminS rd ra rb => some (encS3 0x03 rd ra rb 0x0 0x5)
  | .fmaxS rd ra rb => some (encS3 0x03 rd ra rb 0x0 0x6)
  | .fmaS rd ra rb rc => some (encS3 0x03 rd ra rb rc 0x7)
  | .fnmaS rd ra rb rc => some (encS3 0x03 rd ra rb rc 0x8)
  | .fcsignS rd ra rb => some (encS3 0x03 rd ra rb 0x0 0x9)
  | .fnsignS rd ra rb => some (encS3 0x03 rd ra rb 0x0 0xa)
  | .fxsignS rd ra rb => some (encS3 0x03 rd ra rb 0x0 0xb)
  | .feqS rd ra rb => some (encS3 0x03 rd ra rb 0x0 0xc)
  | .fltS rd ra rb => some (encS3 0x03 rd ra rb 0x0 0xd)
  | .fleS rd ra rb => some (encS3 0x03 rd ra rb 0x0 0xe)
  | .fkindS rd ra => some (encS3 0x03 rd ra 0x0 0x0 0xf)
  | .ftoiS rd ra => some (encS3 0x03 rd ra 0x0 0x0 0x10)
  | .ftoiuS rd ra => some (encS3 0x03 rd ra 0x0 0x0 0x11)
  | .itofS rd ra => some (encS3 0x03 rd ra 0x0 0x0 0x12)
  | .utofS rd ra => some (encS3 0x03 rd ra 0x0 0x0 0x13)
  | .ftohS rd ra => some (encS3 0x03 rd ra 0x0 0x0 0x14)
  | .ftobS rd ra => some (encS3 0x03 rd ra 0x0 0x0 0x15)
  | .htofS rd ra => some (encS3 0x03 rd ra 0x0 0x0 0x16)
  | .btofS rd ra => some (encS3 0x03 rd ra 0x0 0x0 0x17)
  | .fcvtxS rd ra => some (encS3 0x03 rd ra 0x0 0x0 0x18)
  | .faddD rd ra rb => some (encS3 0x03 rd ra rb 0x0 0x20)
  | .fsubD rd ra rb => some (encS3 0x03 rd ra rb 0x0 0x21)
  | .fmulD rd ra rb => some (encS3 0x03 rd ra rb 0x0 0x22)
  | .fdivD rd ra rb => some (encS3 0x03 rd ra rb 0x0 0x23)
  | .fsqrtD rd ra => some (encS3 0x03 rd ra 0x0 0x0 0x24)
  | .fminD rd ra rb => some (encS3 0x03 rd ra rb 0x0 0x25)
  | .fmaxD rd ra rb => some (encS3 0x03 rd ra rb 0x0 0x26)
  | .fmaD rd ra rb rc => some (encS3 0x03 rd ra rb rc 0x27)
  | .fnmaD rd ra rb rc => some (encS3 0x03 rd ra rb rc 0x28)
  | .fcsignD rd ra rb => some (encS3 0x03 rd ra rb 0x0 0x29)
  | .fnsignD rd ra rb => some (encS3 0x03 rd ra rb 0x0 0x2a)
  | .fxsignD rd ra rb => some (encS3 0x03 rd ra rb 0x0 0x2b)
  | .feqD rd ra rb => some (encS3 0x03 rd ra rb 0x0 0x2c)
  | .fltD rd ra rb => some (encS3 0x03 rd ra rb 0x0 0x2d)
  | .fleD rd ra rb => some (encS3 0x03 rd ra rb 0x0 0x2e)
  | .fkindD rd ra => some (encS3 0x03 rd ra 0x0 0x0 0x2f)
  | .ftoiD rd ra => some (encS3 0x03 rd ra 0x0 0x0 0x30)
  | .ftoiuD rd ra => some (encS3 0x03 rd ra 0x0 0x0 0x31)
  | .itofD rd ra => some (encS3 0x03 rd ra 0x0 0x0 0x32)
  | .utofD rd ra => some (encS3 0x03 rd ra 0x0 0x0 0x33)
  | .ftohD rd ra => some (encS3 0x03 rd ra 0x0 0x0 0x34)
  | .ftobD rd ra => some (encS3 0x03 rd ra 0x0 0x0 0x35)
  | .htofD rd ra => some (encS3 0x03 rd ra 0x0 0x0 0x36)
  | .btofD rd ra => some (encS3 0x03 rd ra 0x0 0x0 0x37)
  | .fcvtxD rd ra => some (encS3 0x03 rd ra 0x0 0x0 0x38)
  | .addi rd ra imm => some (encSI 0x04 rd ra imm)
  | .andi rd ra imm => some (encSI 0x05 rd ra imm)
  | .ori rd ra imm => some (encSI 0x06 rd ra imm)
  | .xori rd ra imm => some (encSI 0x07 rd ra imm)
  | .slti rd ra imm => some (encSI 0x08 rd ra imm)
  | .sltiu rd ra imm => some (encSI 0x09 rd ra imm)
  | .lui rd imm => some (encSI 0x0a rd 0x0 imm)
  | .addhi rd ra imm => some (encSI 0x0b rd ra imm)
  | .ldb rd ra off => some (encSM 0x0c rd ra 0x0 off)
  | .ldh rd ra off => some (encSM 0x0c rd ra 0x1 off)
  | .ldw rd ra off => some (encSM 0x0c rd ra 0x2 off)
  | .ldd rd ra off => some (encSM 0x0c rd ra 0x3 off)
  | .ldbu rd ra off => some (encSM 0x0c rd ra 0x4 off)
  | .ldhu rd ra off => some (encSM 0x0c rd ra 0x5 off)
  | .ldwu rd ra off => some (encSM 0x0c rd ra 0x6 off)
  | .stb rd ra off => some (encSM 0x0d rd ra 0x0 off)
  | .sth rd ra off => some (encSM 0x0d rd ra 0x1 off)
  | .stw rd ra off => some (encSM 0x0d rd ra 0x2 off)
  | .std rd ra off => some (encSM 0x0d rd ra 0x3 off)
  | .rmswap rd ra rb sc aq rl w => some (encRMW 0x0e rd ra rb sc aq rl w 0x0)
  | .rmadd rd ra rb sc aq rl w => some (encRMW 0x0e rd ra rb sc aq rl w 0x1)
  | .rmand rd ra rb sc aq rl w => some (encRMW 0x0e rd ra rb sc aq rl w 0x2)
  | .rmor rd ra rb sc aq rl w => some (encRMW 0x0e rd ra rb sc aq rl w 0x3)
  | .rmxor rd ra rb sc aq rl w => some (encRMW 0x0e rd ra rb sc aq rl w 0x4)
  | .rmmin rd ra rb sc aq rl w => some (encRMW 0x0e rd ra rb sc aq rl w 0x5)
  | .rmmax rd ra rb sc aq rl w => some (encRMW 0x0e rd ra rb sc aq rl w 0x6)
  | .rmminu rd ra rb sc aq rl w => some (encRMW 0x0e rd ra rb sc aq rl w 0x7)
  | .rmmaxu rd ra rb sc aq rl w => some (encRMW 0x0e rd ra rb sc aq rl w 0x8)
  | .cas rd ra rb sc aq rl w => some (encRMW 0x0e rd ra rb sc aq rl w 0x9)
  | .lda rd ra sc w => some (encRMW 0x0e rd ra 0x0 sc 0x1 0x0 w 0xa)
  | .stl ra rb sc w => some (encRMW 0x0e 0x0 ra rb sc 0x0 0x1 w 0xb)
  | .claim rd ra rb sc aq rl => some (encRMW 0x0e rd ra rb sc aq rl 0x1 0xc)
  | .jalr rd ra imm => some (encSI 0x0f rd ra imm)
  | .beq ra rb off => some (encSB 0x10 ra rb 0x0 off)
  | .bne ra rb off => some (encSB 0x10 ra rb 0x1 off)
  | .blt ra rb off => some (encSB 0x10 ra rb 0x2 off)
  | .bge ra rb off => some (encSB 0x10 ra rb 0x3 off)
  | .bltu ra rb off => some (encSB 0x10 ra rb 0x4 off)
  | .bgeu ra rb off => some (encSB 0x10 ra rb 0x5 off)
  | .jal rd off => some (encSJ 0x11 rd off)
  | .loopv rc rp np esh off => some (encLP 0x12 rc rp np esh off)
  | .cwread rd cw => some (encSY 0x13 rd 0x0 cw 0x0)
  | .cwwrite ra cw => some (encSY 0x13 0x0 ra cw 0x1)
  | .cwset ra cw => some (encSY 0x13 0x0 ra cw 0x2)
  | .cwclr ra cw => some (encSY 0x13 0x0 ra cw 0x3)
  | .trap n => some (encSY 0x13 0x0 0x0 n 0x4)
  | .brk n => some (encSY 0x13 0x0 0x0 n 0x5)
  | .rett => some (encSY 0x13 0x0 0x0 0x0 0x6)
  | .yield => some (encSY 0x13 0x0 0x0 0x0 0x7)
  | .halt => some (encSY 0x13 0x0 0x0 0x0 0x8)
  | .bar ra n => some (encSY 0x13 0x0 ra n 0x9)
  | .fence ps qs sc => some (encSYF 0x14 ps qs sc 0x0 0x0)
  | .vadd vd va vb m ms ds => some (encV3 0x18 vd va vb m ms ds 0x0 0x0)
  | .vsub vd va vb m ms ds => some (encV3 0x18 vd va vb m ms ds 0x0 0x1)
  | .vsubr vd va vb m ms ds => some (encV3 0x18 vd va vb m ms ds 0x0 0x2)
  | .vmul vd va vb m ms ds => some (encV3 0x18 vd va vb m ms ds 0x0 0x3)
  | .vmulh vd va vb m ms ds => some (encV3 0x18 vd va vb m ms ds 0x0 0x4)
  | .vmulhu vd va vb m ms ds => some (encV3 0x18 vd va vb m ms ds 0x0 0x5)
  | .vmin vd va vb m ms ds => some (encV3 0x18 vd va vb m ms ds 0x0 0x6)
  | .vmax vd va vb m ms ds => some (encV3 0x18 vd va vb m ms ds 0x0 0x7)
  | .vminu vd va vb m ms ds => some (encV3 0x18 vd va vb m ms ds 0x0 0x8)
  | .vmaxu vd va vb m ms ds => some (encV3 0x18 vd va vb m ms ds 0x0 0x9)
  | .vand vd va vb m ms ds => some (encV3 0x18 vd va vb m ms ds 0x0 0xa)
  | .vor vd va vb m ms ds => some (encV3 0x18 vd va vb m ms ds 0x0 0xb)
  | .vxor vd va vb m ms ds => some (encV3 0x18 vd va vb m ms ds 0x0 0xc)
  | .vsll vd va vb m ms ds => some (encV3 0x18 vd va vb m ms ds 0x0 0xd)
  | .vsrl vd va vb m ms ds => some (encV3 0x18 vd va vb m ms ds 0x0 0xe)
  | .vsra vd va vb m ms ds => some (encV3 0x18 vd va vb m ms ds 0x0 0xf)
  | .vaddVs vd va vb m ms ds => some (encV3 0x19 vd va vb m ms ds 0x0 0x0)
  | .vsubVs vd va vb m ms ds => some (encV3 0x19 vd va vb m ms ds 0x0 0x1)
  | .vsubrVs vd va vb m ms ds => some (encV3 0x19 vd va vb m ms ds 0x0 0x2)
  | .vmulVs vd va vb m ms ds => some (encV3 0x19 vd va vb m ms ds 0x0 0x3)
  | .vmulhVs vd va vb m ms ds => some (encV3 0x19 vd va vb m ms ds 0x0 0x4)
  | .vmulhuVs vd va vb m ms ds => some (encV3 0x19 vd va vb m ms ds 0x0 0x5)
  | .vminVs vd va vb m ms ds => some (encV3 0x19 vd va vb m ms ds 0x0 0x6)
  | .vmaxVs vd va vb m ms ds => some (encV3 0x19 vd va vb m ms ds 0x0 0x7)
  | .vminuVs vd va vb m ms ds => some (encV3 0x19 vd va vb m ms ds 0x0 0x8)
  | .vmaxuVs vd va vb m ms ds => some (encV3 0x19 vd va vb m ms ds 0x0 0x9)
  | .vandVs vd va vb m ms ds => some (encV3 0x19 vd va vb m ms ds 0x0 0xa)
  | .vorVs vd va vb m ms ds => some (encV3 0x19 vd va vb m ms ds 0x0 0xb)
  | .vxorVs vd va vb m ms ds => some (encV3 0x19 vd va vb m ms ds 0x0 0xc)
  | .vsllVs vd va vb m ms ds => some (encV3 0x19 vd va vb m ms ds 0x0 0xd)
  | .vsrlVs vd va vb m ms ds => some (encV3 0x19 vd va vb m ms ds 0x0 0xe)
  | .vsraVs vd va vb m ms ds => some (encV3 0x19 vd va vb m ms ds 0x0 0xf)
  | .vfadd vd va vb m ms ds x => some (encV3 0x1a vd va vb m ms ds x 0x0)
  | .vfsub vd va vb m ms ds x => some (encV3 0x1a vd va vb m ms ds x 0x1)
  | .vfmul vd va vb m ms ds x => some (encV3 0x1a vd va vb m ms ds x 0x2)
  | .vfdiv vd va vb m ms ds x => some (encV3 0x1a vd va vb m ms ds x 0x3)
  | .vfmin vd va vb m ms ds x => some (encV3 0x1a vd va vb m ms ds x 0x4)
  | .vfmax vd va vb m ms ds x => some (encV3 0x1a vd va vb m ms ds x 0x5)
  | .vfma vd va vb m ms ds x => some (encV3 0x1a vd va vb m ms ds x 0x6)
  | .vfnma vd va vb m ms ds x => some (encV3 0x1a vd va vb m ms ds x 0x7)
  | .vfms vd va vb m ms ds x => some (encV3 0x1a vd va vb m ms ds x 0x8)
  | .vfcsign vd va vb m ms ds x => some (encV3 0x1a vd va vb m ms ds x 0x9)
  | .vfnsign vd va vb m ms ds x => some (encV3 0x1a vd va vb m ms ds x 0xa)
  | .vfxsign vd va vb m ms ds x => some (encV3 0x1a vd va vb m ms ds x 0xb)
  | .vfkind vd va vb m ms ds x => some (encV3 0x1a vd va vb m ms ds x 0xc)
  | .vfsubr vd va vb m ms ds x => some (encV3 0x1a vd va vb m ms ds x 0xd)
  | .vfaddVs vd va vb m ms ds x => some (encV3 0x1b vd va vb m ms ds x 0x0)
  | .vfsubVs vd va vb m ms ds x => some (encV3 0x1b vd va vb m ms ds x 0x1)
  | .vfmulVs vd va vb m ms ds x => some (encV3 0x1b vd va vb m ms ds x 0x2)
  | .vfdivVs vd va vb m ms ds x => some (encV3 0x1b vd va vb m ms ds x 0x3)
  | .vfminVs vd va vb m ms ds x => some (encV3 0x1b vd va vb m ms ds x 0x4)
  | .vfmaxVs vd va vb m ms ds x => some (encV3 0x1b vd va vb m ms ds x 0x5)
  | .vfmaVs vd va vb m ms ds x => some (encV3 0x1b vd va vb m ms ds x 0x6)
  | .vfnmaVs vd va vb m ms ds x => some (encV3 0x1b vd va vb m ms ds x 0x7)
  | .vfmsVs vd va vb m ms ds x => some (encV3 0x1b vd va vb m ms ds x 0x8)
  | .vfcsignVs vd va vb m ms ds x => some (encV3 0x1b vd va vb m ms ds x 0x9)
  | .vfnsignVs vd va vb m ms ds x => some (encV3 0x1b vd va vb m ms ds x 0xa)
  | .vfxsignVs vd va vb m ms ds x => some (encV3 0x1b vd va vb m ms ds x 0xb)
  | .vfkindVs vd va vb m ms ds x => some (encV3 0x1b vd va vb m ms ds x 0xc)
  | .vfsubrVs vd va vb m ms ds x => some (encV3 0x1b vd va vb m ms ds x 0xd)
  | .vfsqrt vd va m ms ds x => some (encV3 0x1c vd va 0x0 m ms ds x 0x0)
  | .vfrcp vd va m ms ds x => some (encV3 0x1c vd va 0x0 m ms ds x 0x1)
  | .vfrsqrt vd va m ms ds x => some (encV3 0x1c vd va 0x0 m ms ds x 0x2)
  | .vfexp2 vd va m ms ds x => some (encV3 0x1c vd va 0x0 m ms ds x 0x3)
  | .vflog2 vd va m ms ds x => some (encV3 0x1c vd va 0x0 m ms ds x 0x4)
  | .vfexp vd va m ms ds x => some (encV3 0x1c vd va 0x0 m ms ds x 0x5)
  | .vflog vd va m ms ds x => some (encV3 0x1c vd va 0x0 m ms ds x 0x6)
  | .vftanh vd va m ms ds x => some (encV3 0x1c vd va 0x0 m ms ds x 0x7)
  | .vfsigm vd va m ms ds x => some (encV3 0x1c vd va 0x0 m ms ds x 0x8)
  | .vfgelu vd va m ms ds x => some (encV3 0x1c vd va 0x0 m ms ds x 0x9)
  | .vfsilu vd va m ms ds x => some (encV3 0x1c vd va 0x0 m ms ds x 0xa)
  | .vfsin vd va m ms ds x => some (encV3 0x1c vd va 0x0 m ms ds x 0xb)
  | .vfcos vd va m ms ds x => some (encV3 0x1c vd va 0x0 m ms ds x 0xc)
  | .vferf vd va m ms ds x => some (encV3 0x1c vd va 0x0 m ms ds x 0xd)
  | .vcvt vd va fmt m ms ds x => some (encV3 0x1d vd va fmt m ms ds x 0x0)
  | .vwiden vd va fmt m ms ds x => some (encV3 0x1d vd va fmt m ms ds x 0x1)
  | .vnarrow vd va fmt m ms ds x => some (encV3 0x1d vd va fmt m ms ds x 0x2)
  | .vnarrows vd va fmt m ms ds x => some (encV3 0x1d vd va fmt m ms ds x 0x3)
  | .vmxpack vd va fmt m ms ds x => some (encV3 0x1e vd va fmt m ms ds x 0x0)
  | .vmxunpack vd va fmt m ms ds x => some (encV3 0x1e vd va fmt m ms ds x 0x1)
  | .vamax vd va m ms ds x => some (encV3 0x1e vd va 0x0 m ms ds x 0x2)
  | .vscale vd va fmt x => some (encV3 0x1e vd va fmt 0x0 0x0 0x0 x 0x3)
  | .vquant vd va vb m ms ds x => some (encV3 0x1e vd va vb m ms ds x 0x4)
  | .vdequant vd va vb m ms ds x => some (encV3 0x1e vd va vb m ms ds x 0x5)
  | .vbamax vd va m ms ds x => some (encV3 0x1e vd va 0x0 m ms ds x 0x6)
  | .vsumr vd va vb m ms ds => some (encV3 0x1f vd va vb m ms ds 0x0 0x0)
  | .vmaxr vd va vb m ms ds => some (encV3 0x1f vd va vb m ms ds 0x0 0x1)
  | .vminr vd va vb m ms ds => some (encV3 0x1f vd va vb m ms ds 0x0 0x2)
  | .vmaxur vd va vb m ms ds => some (encV3 0x1f vd va vb m ms ds 0x0 0x3)
  | .vminur vd va vb m ms ds => some (encV3 0x1f vd va vb m ms ds 0x0 0x4)
  | .vandr vd va vb m ms ds => some (encV3 0x1f vd va vb m ms ds 0x0 0x5)
  | .vorr vd va vb m ms ds => some (encV3 0x1f vd va vb m ms ds 0x0 0x6)
  | .vxorr vd va vb m ms ds => some (encV3 0x1f vd va vb m ms ds 0x0 0x7)
  | .vfsumr vd va vb m ms ds x => some (encV3 0x1f vd va vb m ms ds x 0x8)
  | .vfmaxr vd va vb m ms ds x => some (encV3 0x1f vd va vb m ms ds x 0x9)
  | .vfminr vd va vb m ms ds x => some (encV3 0x1f vd va vb m ms ds x 0xa)
  | .vshup vd va vb m ms ds => some (encV3 0x20 vd va vb m ms ds 0x0 0x0)
  | .vshdn vd va vb m ms ds => some (encV3 0x20 vd va vb m ms ds 0x0 0x1)
  | .vgather vd va vb m ms ds => some (encV3 0x20 vd va vb m ms ds 0x0 0x2)
  | .vcompress vd va vb m ms ds => some (encV3 0x20 vd va vb m ms ds 0x0 0x3)
  | .vexpand vd va m ms ds => some (encV3 0x20 vd va 0x0 m ms ds 0x0 0x4)
  | .vmerge vd va vb m ms ds => some (encV3 0x20 vd va vb m ms ds 0x0 0x5)
  | .vmove vd va m ms ds => some (encV3 0x20 vd va 0x0 m ms ds 0x0 0x6)
  | .vsplat vd va m ms ds => some (encV3 0x20 vd va 0x0 m ms ds 0x0 0x7)
  | .vhead vd va ds => some (encV3 0x20 vd va 0x0 0x0 0x0 ds 0x0 0x8)
  | .vacnt vd m ms ds => some (encV3 0x20 vd 0x0 0x0 m ms ds 0x0 0x9)
  | .vxup vd va vb m ms ds => some (encV3 0x20 vd va vb m ms ds 0x0 0xa)
  | .vxdn vd va vb m ms ds => some (encV3 0x20 vd va vb m ms ds 0x0 0xb)
  | .vxbc vd va vb m ms ds => some (encV3 0x20 vd va vb m ms ds 0x0 0xc)
  | .vxrev vd va m ms ds => some (encV3 0x20 vd va 0x0 m ms ds 0x0 0xd)
  | .vunpack vd va vb m ms ds => some (encV3 0x21 vd va vb m ms ds 0x0 0x0)
  | .vbext vd va vb m ms ds => some (encV3 0x21 vd va vb m ms ds 0x0 0x1)
  | .vfsl vd va vb m ms ds => some (encV3 0x21 vd va vb m ms ds 0x0 0x2)
  | .vfsr vd va vb m ms ds => some (encV3 0x21 vd va vb m ms ds 0x0 0x3)
  | .vlut vd va vb m ms ds => some (encV3 0x21 vd va vb m ms ds 0x0 0x4)
  | .vclz vd va m ms ds => some (encV3 0x21 vd va 0x0 m ms ds 0x0 0x5)
  | .vctz vd va m ms ds => some (encV3 0x21 vd va 0x0 m ms ds 0x0 0x6)
  | .vpopc vd va m ms ds => some (encV3 0x21 vd va 0x0 m ms ds 0x0 0x7)
  | .vbrev vd va m ms ds => some (encV3 0x21 vd va 0x0 m ms ds 0x0 0x8)
  | .vcfg n => some (encV3 0x22 0x0 0x0 n 0x0 0x0 0x0 0x0 0x0)
  | .vsetvl vd va vb ds => some (encV3 0x22 vd va vb 0x0 0x0 ds 0x0 0x1)
  | .vsetvli rd ra imm => some (encSI 0x23 rd ra imm)
  | .vld vd va m ms ds => some (encV3 0x24 vd va 0x0 m ms ds 0x0 0x0)
  | .vlds vd va vb m ms ds => some (encV3 0x24 vd va vb m ms ds 0x0 0x1)
  | .vldx vd va vb m ms ds => some (encV3 0x24 vd va vb m ms ds 0x0 0x2)
  | .vldff vd va m ms ds => some (encV3 0x24 vd va 0x0 m ms ds 0x0 0x3)
  | .vst vd va m ms ds => some (encV3 0x24 vd va 0x0 m ms ds 0x0 0x4)
  | .vsts vd va vb m ms ds => some (encV3 0x24 vd va vb m ms ds 0x0 0x5)
  | .vstx vd va vb m ms ds => some (encV3 0x24 vd va vb m ms ds 0x0 0x6)
  | .vstU vd va m ms ds => some (encV3 0x24 vd va 0x0 m ms ds 0x0 0xc)
  | .vstsU vd va vb m ms ds => some (encV3 0x24 vd va vb m ms ds 0x0 0xd)
  | .vstxU vd va vb m ms ds => some (encV3 0x24 vd va vb m ms ds 0x0 0xe)
  | .grow vd va m ms ds => some (encV3 0x25 vd va 0x0 m ms ds 0x0 0x0)
  | .gcol vd va m ms ds => some (encV3 0x25 vd va 0x0 m ms ds 0x0 0x1)
  | .gdiag vd va m ms ds => some (encV3 0x25 vd va 0x0 m ms ds 0x0 0x2)
  | .grows vd va m ms ds => some (encV3 0x25 vd va 0x0 m ms ds 0x0 0x4)
  | .gcols vd va m ms ds => some (encV3 0x25 vd va 0x0 m ms ds 0x0 0x5)
  | .gdiags vd va m ms ds => some (encV3 0x25 vd va 0x0 m ms ds 0x0 0x6)
  | .gpass vd vb => some (encV3 0x25 vd 0x0 vb 0x0 0x0 0x0 0x0 0x8)
  | .vmvq vd p qn m ms ds => some (encVQ 0x26 vd 0x0 p qn m ms ds 0x0 0x0)
  | .vaddq vd va p qn m ms ds => some (encVQ 0x26 vd va p qn m ms ds 0x0 0x1)
  | .vsubq vd va p qn m ms ds => some (encVQ 0x26 vd va p qn m ms ds 0x0 0x2)
  | .vmulq vd va p qn m ms ds => some (encVQ 0x26 vd va p qn m ms ds 0x0 0x3)
  | .vfaddq vd va p qn m ms ds x => some (encVQ 0x26 vd va p qn m ms ds x 0x4)
  | .vfsubq vd va p qn m ms ds x => some (encVQ 0x26 vd va p qn m ms ds x 0x5)
  | .vfmulq vd va p qn m ms ds x => some (encVQ 0x26 vd va p qn m ms ds x 0x6)
  | .vfmaq vd va p qn m ms ds x => some (encVQ 0x26 vd va p qn m ms ds x 0x7)
  | .vandq vd va p qn m ms ds => some (encVQ 0x26 vd va p qn m ms ds 0x0 0x8)
  | .vorq vd va p qn m ms ds => some (encVQ 0x26 vd va p qn m ms ds 0x0 0x9)
  | .vxorq vd va p qn m ms ds => some (encVQ 0x26 vd va p qn m ms ds 0x0 0xa)
  | .venq va qn m ms ds => some (encVQ 0x27 0x0 va 0x0 qn m ms ds 0x0 0x0)
  | .mand md ma mb => some (encMK 0x28 md ma mb 0x0)
  | .mor md ma mb => some (encMK 0x28 md ma mb 0x1)
  | .mxor md ma mb => some (encMK 0x28 md ma mb 0x2)
  | .mandn md ma mb => some (encMK 0x28 md ma mb 0x3)
  | .morn md ma mb => some (encMK 0x28 md ma mb 0x4)
  | .mnand md ma mb => some (encMK 0x28 md ma mb 0x5)
  | .mnor md ma mb => some (encMK 0x28 md ma mb 0x6)
  | .mxnor md ma mb => some (encMK 0x28 md ma mb 0x7)
  | .mmv md ma => some (encMK 0x28 md ma 0x0 0x8)
  | .mnot md ma => some (encMK 0x28 md ma 0x0 0x9)
  | .mset md => some (encMK 0x28 md 0x0 0x0 0xa)
  | .mclr md => some (encMK 0x28 md 0x0 0x0 0xb)
  | .msbf md ma => some (encMK 0x28 md ma 0x0 0xc)
  | .msif md ma => some (encMK 0x28 md ma 0x0 0xd)
  | .msof md ma => some (encMK 0x28 md ma 0x0 0xe)
  | .mpopc md ma => some (encMK 0x28 md ma 0x0 0xf)
  | .mfirst md ma => some (encMK 0x28 md ma 0x0 0x10)
  | .mld md ma => some (encMK 0x28 md ma 0x0 0x11)
  | .mst md ma => some (encMK 0x28 md ma 0x0 0x12)
  | .vceq vd va vb m ms ds => some (encV3 0x29 vd va vb m ms ds 0x0 0x0)
  | .vcne vd va vb m ms ds => some (encV3 0x29 vd va vb m ms ds 0x0 0x1)
  | .vclt vd va vb m ms ds => some (encV3 0x29 vd va vb m ms ds 0x0 0x2)
  | .vcltu vd va vb m ms ds => some (encV3 0x29 vd va vb m ms ds 0x0 0x3)
  | .vcle vd va vb m ms ds => some (encV3 0x29 vd va vb m ms ds 0x0 0x4)
  | .vcleu vd va vb m ms ds => some (encV3 0x29 vd va vb m ms ds 0x0 0x5)
  | .vcgt vd va vb m ms ds => some (encV3 0x29 vd va vb m ms ds 0x0 0x6)
  | .vcgtu vd va vb m ms ds => some (encV3 0x29 vd va vb m ms ds 0x0 0x7)
  | .vfceq vd va vb m ms ds x => some (encV3 0x29 vd va vb m ms ds x 0x8)
  | .vfcne vd va vb m ms ds x => some (encV3 0x29 vd va vb m ms ds x 0x9)
  | .vfclt vd va vb m ms ds x => some (encV3 0x29 vd va vb m ms ds x 0xa)
  | .vfcle vd va vb m ms ds x => some (encV3 0x29 vd va vb m ms ds x 0xb)
  | .vfcgt vd va vb m ms ds x => some (encV3 0x29 vd va vb m ms ds x 0xc)
  | .vfcge vd va vb m ms ds x => some (encV3 0x29 vd va vb m ms ds x 0xd)
  | .vfcun vd va vb m ms ds x => some (encV3 0x29 vd va vb m ms ds x 0xe)
  | .vceqVs vd va vb m ms ds => some (encV3 0x2a vd va vb m ms ds 0x0 0x0)
  | .vcneVs vd va vb m ms ds => some (encV3 0x2a vd va vb m ms ds 0x0 0x1)
  | .vcltVs vd va vb m ms ds => some (encV3 0x2a vd va vb m ms ds 0x0 0x2)
  | .vcltuVs vd va vb m ms ds => some (encV3 0x2a vd va vb m ms ds 0x0 0x3)
  | .vcleVs vd va vb m ms ds => some (encV3 0x2a vd va vb m ms ds 0x0 0x4)
  | .vcleuVs vd va vb m ms ds => some (encV3 0x2a vd va vb m ms ds 0x0 0x5)
  | .vcgtVs vd va vb m ms ds => some (encV3 0x2a vd va vb m ms ds 0x0 0x6)
  | .vcgtuVs vd va vb m ms ds => some (encV3 0x2a vd va vb m ms ds 0x0 0x7)
  | .vfceqVs vd va vb m ms ds x => some (encV3 0x2a vd va vb m ms ds x 0x8)
  | .vfcneVs vd va vb m ms ds x => some (encV3 0x2a vd va vb m ms ds x 0x9)
  | .vfcltVs vd va vb m ms ds x => some (encV3 0x2a vd va vb m ms ds x 0xa)
  | .vfcleVs vd va vb m ms ds x => some (encV3 0x2a vd va vb m ms ds x 0xb)
  | .vfcgtVs vd va vb m ms ds x => some (encV3 0x2a vd va vb m ms ds x 0xc)
  | .vfcgeVs vd va vb m ms ds x => some (encV3 0x2a vd va vb m ms ds x 0xd)
  | .vfcunVs vd va vb m ms ds x => some (encV3 0x2a vd va vb m ms ds x 0xe)
  | .tmul qc qr sk p acc ds gc => some (encTL 0x2c qc qr sk p acc ds gc)
  | .tmulsp qc qr sk p acc ds gc => some (encTL 0x2d qc qr sk p acc ds gc)
  | .tmodeOn vb => some (encV3 0x2e 0x0 0x0 vb 0x0 0x0 0x0 0x0 0x0)
  | .tmodeOff vb => some (encV3 0x2e 0x0 0x0 vb 0x0 0x0 0x0 0x0 0x1)
  | .tshape vd va vb ds => some (encV3 0x2e vd va vb 0x0 0x0 ds 0x0 0x2)
  | .tzero vb ds => some (encV3 0x2e 0x0 0x0 vb 0x0 0x0 ds 0x0 0x3)
  | .trdr vd va ds => some (encV3 0x2e vd va 0x0 0x0 0x0 ds 0x0 0x4)
  | .trdc vd va ds => some (encV3 0x2e vd va 0x0 0x0 0x0 ds 0x0 0x5)
  | .twrr vd va ds => some (encV3 0x2e vd va 0x0 0x0 0x0 ds 0x0 0x6)
  | .twrc vd va ds => some (encV3 0x2e vd va 0x0 0x0 0x0 ds 0x0 0x7)
  | .tpred ds => some (encV3 0x2e 0x0 0x0 0x0 0x0 0x0 ds 0x0 0x8)
  | .tsync => some (encV3 0x2e 0x0 0x0 0x0 0x0 0x0 0x0 0x0 0x9)
  | .sopen qn ra ds => some (encST 0x30 qn ra 0x0 0x0 ds 0x0 0x0)
  | .sclose qn ds => some (encST 0x30 qn 0x0 0x0 0x0 ds 0x0 0x1)
  | .savail qn rd ds => some (encST 0x30 qn rd 0x0 0x0 ds 0x0 0x2)
  | .swait qn ra ds => some (encST 0x30 qn ra 0x0 0x0 ds 0x0 0x3)
  | .sskip qn ra ds => some (encST 0x30 qn ra 0x0 0x0 ds 0x0 0x4)
  | .sdrain qn ds => some (encST 0x30 qn 0x0 0x0 0x0 ds 0x0 0x5)
  | .srewind qn ds => some (encST 0x30 qn 0x0 0x0 0x0 ds 0x0 0x6)
  | .spref qn ra ds => some (encST 0x30 qn ra 0x0 0x0 ds 0x0 0x7)
  | .sgather qn ra ds => some (encST 0x30 qn ra 0x0 0x0 ds 0x0 0x8)
  | .sldxBg qn ra rb ds => some (encST 0x30 qn ra rb 0x0 ds 0x0 0x9)
  | .strans qn ra ds => some (encST 0x30 qn ra 0x0 0x0 ds 0x0 0xa)
  | .sstat qn rd ds => some (encST 0x30 qn rd 0x0 0x0 ds 0x0 0xb)
  | .cpy rd ra spd sps ds => some (encEN 0x32 rd ra 0x0 spd sps 0x0 ds 0x0 0x0)
  | .cpfill rd rb spd ds => some (encEN 0x32 rd 0x0 rb spd 0x0 0x0 ds 0x0 0x1)
  | .cpcvt rd ra rb spd sps ds => some (encEN 0x32 rd ra rb spd sps 0x0 ds 0x0 0x2)
  | .cplz rd ra rb sps ds => some (encEN 0x32 rd ra rb 0x0 sps 0x0 ds 0x0 0x3)
  | .cpxp rd ra rb spd ds => some (encEN 0x32 rd ra rb spd 0x0 0x0 ds 0x0 0x4)
  | .cpcrc rd ra rb sps ds => some (encEN 0x32 rd ra rb 0x0 sps 0x0 ds 0x0 0x5)
  | .cpcrc64 rd ra rb sps ds => some (encEN 0x32 rd ra rb 0x0 sps 0x0 ds 0x0 0x6)
  | .cprel rd ra rb ds => some (encEN 0x32 rd ra rb 0x0 0x0 0x0 ds 0x0 0x7)
  | .cpshad rd ra => some (encEN 0x32 rd ra 0x0 0x0 0x0 0x0 0x0 0x0 0x8)
  | .cpbl rd sc => some (encEB 0x32 rd 0x0 0x0 sc 0x0 0x0 0x0 0x9)
  | .cpwait => some (encEN 0x32 0x0 0x0 0x0 0x0 0x0 0x0 0x0 0x0 0xa)
  | .nring ra rb => some (encEN 0x33 ra rb 0x0 0x0 0x0 0x0 0x0 0x0 0x0)
  | .ncqhd ra rb => some (encEN 0x33 ra rb 0x0 0x0 0x0 0x0 0x0 0x0 0x1)
  | .nqstat rd ra => some (encEN 0x33 rd ra 0x0 0x0 0x0 0x0 0x0 0x0 0x2)
  | .ncqpoll rd ra => some (encEN 0x33 rd ra 0x0 0x0 0x0 0x0 0x0 0x0 0x3)
  | .lturn rd ra rb => some (encEN 0x34 rd ra rb 0x0 0x0 0x0 0x0 0x0 0x0)
  | .lstat rd ra => some (encEN 0x34 rd ra 0x0 0x0 0x0 0x0 0x0 0x0 0x1)
  | .lpause ra => some (encEN 0x34 ra 0x0 0x0 0x0 0x0 0x0 0x0 0x0 0x2)
  | .lresume ra => some (encEN 0x34 ra 0x0 0x0 0x0 0x0 0x0 0x0 0x0 0x3)
  | .lremap ra rb => some (encEN 0x34 ra rb 0x0 0x0 0x0 0x0 0x0 0x0 0x4)
  | .ltrain ra rb => some (encEN 0x34 ra rb 0x0 0x0 0x0 0x0 0x0 0x0 0x5)
  | .lwait rd ra => some (encEN 0x34 rd ra 0x0 0x0 0x0 0x0 0x0 0x0 0x6)
  | .bput rd ra rb => some (encEN 0x35 rd ra rb 0x0 0x0 0x0 0x0 0x0 0x0)
  | .bget rd ra rb => some (encEN 0x35 rd ra rb 0x0 0x0 0x0 0x0 0x0 0x1)
  | .batom rd ra rb => some (encEN 0x35 rd ra rb 0x0 0x0 0x0 0x0 0x0 0x2)
  | .bnotify rd ra rb => some (encEN 0x35 rd ra rb 0x0 0x0 0x0 0x0 0x0 0x3)
  | .bwait rd ra => some (encEN 0x35 rd ra 0x0 0x0 0x0 0x0 0x0 0x0 0x4)
  | .bpoll rd ra => some (encEN 0x35 rd ra 0x0 0x0 0x0 0x0 0x0 0x0 0x5)
  | .bfence => some (encEN 0x35 0x0 0x0 0x0 0x0 0x0 0x0 0x0 0x0 0x6)
  | .bstat rd ra => some (encEN 0x35 rd ra 0x0 0x0 0x0 0x0 0x0 0x0 0x7)
  | .blport rd ra => some (encEN 0x35 rd ra 0x0 0x0 0x0 0x0 0x0 0x0 0x8)
  | .klaunch rd ra => some (encSY 0x36 rd ra 0x0 0x0)
  | .kwait ra => some (encSY 0x36 0x0 ra 0x0 0x1)
  | .ctxsave ra => some (encSY 0x36 0x0 ra 0x0 0x2)
  | .ctxload ra => some (encSY 0x36 0x0 ra 0x0 0x3)
  | .svrd rd ra => some (encSY 0x37 rd ra 0x0 0x0)
  | .svwr rd ra => some (encSY 0x37 rd ra 0x0 0x1)
  | .warm ra n => some (encSW 0x37 0x0 ra 0x0 n 0x2)
  | .wdisarm n => some (encSW 0x37 0x0 0x0 0x0 n 0x3)
  | .vdadd vd va vb m ms ds x => some (encV3 0x38 vd va vb m ms ds x 0x0)
  | .vdsub vd va vb m ms ds x => some (encV3 0x38 vd va vb m ms ds x 0x1)
  | .vdmul vd va vb m ms ds x => some (encV3 0x38 vd va vb m ms ds x 0x2)
  | .vddiv vd va vb m ms ds x => some (encV3 0x38 vd va vb m ms ds x 0x3)
  | .vdmin vd va vb m ms ds x => some (encV3 0x38 vd va vb m ms ds x 0x4)
  | .vdmax vd va vb m ms ds x => some (encV3 0x38 vd va vb m ms ds x 0x5)
  | .vdfma vd va vb m ms ds x => some (encV3 0x38 vd va vb m ms ds x 0x6)
  | .vdfnma vd va vb m ms ds x => some (encV3 0x38 vd va vb m ms ds x 0x7)
  | .vdfms vd va vb m ms ds x => some (encV3 0x38 vd va vb m ms ds x 0x8)
  | .vdcsign vd va vb m ms ds x => some (encV3 0x38 vd va vb m ms ds x 0x9)
  | .vdnsign vd va vb m ms ds x => some (encV3 0x38 vd va vb m ms ds x 0xa)
  | .vdxsign vd va vb m ms ds x => some (encV3 0x38 vd va vb m ms ds x 0xb)
  | .vdkind vd va m ms ds x => some (encV3 0x38 vd va 0x0 m ms ds x 0xc)
  | .vdsubr vd va vb m ms ds x => some (encV3 0x38 vd va vb m ms ds x 0xd)
  | .vdsqrt vd va m ms ds x => some (encV3 0x38 vd va 0x0 m ms ds x 0xe)
  | .trapEntry _ => none
  | .entryComplete _ => none
  | .barWaitEnd _ => none
  | .yieldExpiry _ => none
  | .streamFetch _ _ _ => none
  | .streamStoreWrite _ _ _ => none
  | .sgatherRow _ _ _ => none
  | .copyChunk _ _ _ _ => none
  | .driveRequest _ _ _ _ _ _ => none
  | .pairError _ => none
  | .turnBegin _ => none
  | .autoTurn _ _ => none
  | .turnDrainEnd _ => none
  | .turnDeadTimeEnd _ => none
  | .linkPaused _ => none
  | .ltrainDone _ _ _ => none
  | .flitReplay _ _ _ _ => none
  | .put _ _ => none
  | .getreq _ _ => none
  | .atom _ _ => none
  | .notify _ _ => none
  | .ack _ _ => none
  | .getdata _ _ => none
  | .atomrsp _ _ => none
  | .bell _ _ _ => none
  | .rbell _ _ _ => none
  | .beaconFlitReplay _ _ => none
  | .portUp _ => none
  | .launchBind _ => none
  | .preEmption _ => none
  | .contextSave _ => none
  | .completionEntryWrite _ => none
  | .sqtail _ _ => none
  | .cqhead _ _ => none
  | .enable _ _ => none
  | .tenantCreate _ => none
  | .tenantReset _ => none
  | .tenantDelete _ => none
  | .ownerSet _ => none
  | .pairCreate _ => none
  | .pairDelete _ => none
  | .regionCreate _ => none
  | .regionDelete _ => none
  | .gangCreate _ => none
  | .gangDelete _ => none
  | .gangSwitchSave _ => none
  | .gangSwitchResume _ => none
  | .launchSuspend _ => none
  | .launchResume _ => none
  | .debugGrant _ => none
  | .launch _ => none
  | .invalidate _ => none
  | .faultReplyRetry _ => none
  | .faultReplyAbort _ => none
  | .nop _ => none
  | .bootgo _ => none
  | .resetkey _ => none
  | .powerOn => none
  | .attreq => none
  | .fatalreq => none
  | .svnfuse _ => none
  | .clusterRetire _ _ _ => none
  | .ownerEntryWrite _ _ => none
  | .registerWrite _ _ => none
  | .powerClampWindow _ => none
  | .junctionHot _ => none
  | .thermal _ => none
  | .cdMemory => none
  | .dumpdone => none

end Sys2Proof
end

