-- ==== Sys2Proof/Machine/Fps.lean ====
section
/-!
DEFINITION. The scalar floating-point instructions (04 R142, R143). FDIV.D and FSQRT.D are absent on A0: executing one raises
ABSENT, and `fdivDEffect` and `fsqrtDEffect` are what the kernel loader's emulation calls give (R131, R143).
-/

namespace Sys2Proof.Machine

/-- ABSENT for the word (R97, R164). -/
def absentTrap (word : BitVec 32) : TrapInfo := { code := 2, i0 := word.setWidth 64 }

/-- A field of a word as a number. -/
def wfld (w : BitVec 32) (lo len : Nat) : Nat := w.toNat / 2 ^ lo % 2 ^ len

/-- A word of a queue-class major that R96 assigns and that is present on some core (R135): 0x18-0x2E but 0x2B, STRM, COPY, STOR, LINK
and BEACON. -/
def queueWord (w : BitVec 32) : Bool :=
  let m := wfld w 26 6
  (decide (0x18 ≤ m) && decide (m ≤ 0x2E) && m != 0x2B) || m == 0x30 || (decide (0x32 ≤ m) && decide (m ≤ 0x35))

/-- The trap of a word on the core it is fetched on: the supervisor core has no queue-class words, so each of them is ILLEGAL
reason 1 there, whatever its other bits (13 R405); VFP64, which R135 puts in no class, stays ABSENT (R96). DEDUCED, log 24. -/
def State.coreTrap (s : State) (w : BitVec 32) (t : TrapInfo) : TrapInfo :=
  if s.cur = supvHart ∧ queueWord w then illegal w 1 else t

/-- PRIV for the word (R97, R164). -/
def privTrap (word : BitVec 32) : TrapInfo := { code := 3, i0 := word.setWidth 64 }

/-- The effect of FDIV.D (R143). -/
def fdivDEffect (rd ra rb : BitVec 5) (s : State) : Out := fpsOp [rd, ra, rb] rd ra rb 0 (fpDiv .f64) s

/-- The effect of FSQRT.D (R143). -/
def fsqrtDEffect (rd ra : BitVec 5) (s : State) : Out := fpsOp [rd, ra] rd ra 0 0 (fpSqrt .f64) s

/-- FADD_S (R143). -/
def execFaddS (rd : BitVec 5) (ra : BitVec 5) (rb : BitVec 5) (s : State) : Out :=
  fpsOp [rd, ra, rb] rd ra rb 0 (fpAdd .f32) s

/-- FSUB_S (R143). -/
def execFsubS (rd : BitVec 5) (ra : BitVec 5) (rb : BitVec 5) (s : State) : Out :=
  fpsOp [rd, ra, rb] rd ra rb 0 (fpSub .f32) s

/-- FMUL_S (R143). -/
def execFmulS (rd : BitVec 5) (ra : BitVec 5) (rb : BitVec 5) (s : State) : Out :=
  fpsOp [rd, ra, rb] rd ra rb 0 (fpMul .f32) s

/-- FDIV_S (R143). -/
def execFdivS (rd : BitVec 5) (ra : BitVec 5) (rb : BitVec 5) (s : State) : Out :=
  fpsOp [rd, ra, rb] rd ra rb 0 (fpDiv .f32) s

/-- FSQRT_S (R143). -/
def execFsqrtS (rd : BitVec 5) (ra : BitVec 5) (s : State) : Out :=
  fpsOp [rd, ra] rd ra 0 0 (fpSqrt .f32) s

/-- FMIN_S (R143). -/
def execFminS (rd : BitVec 5) (ra : BitVec 5) (rb : BitVec 5) (s : State) : Out :=
  fpsOp [rd, ra, rb] rd ra rb 0 (fpMin .f32) s

/-- FMAX_S (R143). -/
def execFmaxS (rd : BitVec 5) (ra : BitVec 5) (rb : BitVec 5) (s : State) : Out :=
  fpsOp [rd, ra, rb] rd ra rb 0 (fpMax .f32) s

/-- FMA_S (R143). -/
def execFmaS (rd : BitVec 5) (ra : BitVec 5) (rb : BitVec 5) (rc : BitVec 5) (s : State) : Out :=
  fpsOp [rd, ra, rb, rc] rd ra rb rc (fpFma .f32) s

/-- FNMA_S (R143). -/
def execFnmaS (rd : BitVec 5) (ra : BitVec 5) (rb : BitVec 5) (rc : BitVec 5) (s : State) : Out :=
  fpsOp [rd, ra, rb, rc] rd ra rb rc (fpFnma .f32) s

/-- FCSIGN_S (R143). -/
def execFcsignS (rd : BitVec 5) (ra : BitVec 5) (rb : BitVec 5) (s : State) : Out :=
  fpsOp [rd, ra, rb] rd ra rb 0 (fpCsign .f32) s

/-- FNSIGN_S (R143). -/
def execFnsignS (rd : BitVec 5) (ra : BitVec 5) (rb : BitVec 5) (s : State) : Out :=
  fpsOp [rd, ra, rb] rd ra rb 0 (fpNsign .f32) s

/-- FXSIGN_S (R143). -/
def execFxsignS (rd : BitVec 5) (ra : BitVec 5) (rb : BitVec 5) (s : State) : Out :=
  fpsOp [rd, ra, rb] rd ra rb 0 (fpXsign .f32) s

/-- FEQ_S (R143). -/
def execFeqS (rd : BitVec 5) (ra : BitVec 5) (rb : BitVec 5) (s : State) : Out :=
  fpsOp [rd, ra, rb] rd ra rb 0 (fpEq .f32) s

/-- FLT_S (R143). -/
def execFltS (rd : BitVec 5) (ra : BitVec 5) (rb : BitVec 5) (s : State) : Out :=
  fpsOp [rd, ra, rb] rd ra rb 0 (fpLt .f32) s

/-- FLE_S (R143). -/
def execFleS (rd : BitVec 5) (ra : BitVec 5) (rb : BitVec 5) (s : State) : Out :=
  fpsOp [rd, ra, rb] rd ra rb 0 (fpLe .f32) s

/-- FKIND_S (R143). -/
def execFkindS (rd : BitVec 5) (ra : BitVec 5) (s : State) : Out :=
  fpsOp [rd, ra] rd ra 0 0 (fpKind .f32) s

/-- FTOI_S (R143). -/
def execFtoiS (rd : BitVec 5) (ra : BitVec 5) (s : State) : Out :=
  fpsOp [rd, ra] rd ra 0 0 (fpToI .f32) s

/-- FTOIU_S (R143). -/
def execFtoiuS (rd : BitVec 5) (ra : BitVec 5) (s : State) : Out :=
  fpsOp [rd, ra] rd ra 0 0 (fpToIu .f32) s

/-- ITOF_S (R143). -/
def execItofS (rd : BitVec 5) (ra : BitVec 5) (s : State) : Out :=
  fpsOp [rd, ra] rd ra 0 0 (fpOfI .f32) s

/-- UTOF_S (R143). -/
def execUtofS (rd : BitVec 5) (ra : BitVec 5) (s : State) : Out :=
  fpsOp [rd, ra] rd ra 0 0 (fpOfU .f32) s

/-- FTOH_S (R143). -/
def execFtohS (rd : BitVec 5) (ra : BitVec 5) (s : State) : Out :=
  fpsOp [rd, ra] rd ra 0 0 (fpCvt .f32 .f16) s

/-- FTOB_S (R143). -/
def execFtobS (rd : BitVec 5) (ra : BitVec 5) (s : State) : Out :=
  fpsOp [rd, ra] rd ra 0 0 (fpCvt .f32 .bf16) s

/-- HTOF_S (R143). -/
def execHtofS (rd : BitVec 5) (ra : BitVec 5) (s : State) : Out :=
  fpsOp [rd, ra] rd ra 0 0 (fpCvt .f16 .f32) s

/-- BTOF_S (R143). -/
def execBtofS (rd : BitVec 5) (ra : BitVec 5) (s : State) : Out :=
  fpsOp [rd, ra] rd ra 0 0 (fpCvt .bf16 .f32) s

/-- FCVTX_S (R143). -/
def execFcvtxS (rd : BitVec 5) (ra : BitVec 5) (s : State) : Out :=
  fpsOp [rd, ra] rd ra 0 0 (fpCvt .f32 .f64) s

/-- FADD_D (R143). -/
def execFaddD (rd : BitVec 5) (ra : BitVec 5) (rb : BitVec 5) (s : State) : Out :=
  fpsOp [rd, ra, rb] rd ra rb 0 (fpAdd .f64) s

/-- FSUB_D (R143). -/
def execFsubD (rd : BitVec 5) (ra : BitVec 5) (rb : BitVec 5) (s : State) : Out :=
  fpsOp [rd, ra, rb] rd ra rb 0 (fpSub .f64) s

/-- FMUL_D (R143). -/
def execFmulD (rd : BitVec 5) (ra : BitVec 5) (rb : BitVec 5) (s : State) : Out :=
  fpsOp [rd, ra, rb] rd ra rb 0 (fpMul .f64) s

/-- FDIV_D (R143). -/
def execFdivD (rd : BitVec 5) (ra : BitVec 5) (rb : BitVec 5) (s : State) : Out :=
  .next (s.trapHere (absentTrap (encS3 0x03 rd ra rb 0 0x23)))

/-- FSQRT_D (R143). -/
def execFsqrtD (rd : BitVec 5) (ra : BitVec 5) (s : State) : Out :=
  .next (s.trapHere (absentTrap (encS3 0x03 rd ra 0 0 0x24)))

/-- FMIN_D (R143). -/
def execFminD (rd : BitVec 5) (ra : BitVec 5) (rb : BitVec 5) (s : State) : Out :=
  fpsOp [rd, ra, rb] rd ra rb 0 (fpMin .f64) s

/-- FMAX_D (R143). -/
def execFmaxD (rd : BitVec 5) (ra : BitVec 5) (rb : BitVec 5) (s : State) : Out :=
  fpsOp [rd, ra, rb] rd ra rb 0 (fpMax .f64) s

/-- FMA_D (R143). -/
def execFmaD (rd : BitVec 5) (ra : BitVec 5) (rb : BitVec 5) (rc : BitVec 5) (s : State) : Out :=
  fpsOp [rd, ra, rb, rc] rd ra rb rc (fpFma .f64) s

/-- FNMA_D (R143). -/
def execFnmaD (rd : BitVec 5) (ra : BitVec 5) (rb : BitVec 5) (rc : BitVec 5) (s : State) : Out :=
  fpsOp [rd, ra, rb, rc] rd ra rb rc (fpFnma .f64) s

/-- FCSIGN_D (R143). -/
def execFcsignD (rd : BitVec 5) (ra : BitVec 5) (rb : BitVec 5) (s : State) : Out :=
  fpsOp [rd, ra, rb] rd ra rb 0 (fpCsign .f64) s

/-- FNSIGN_D (R143). -/
def execFnsignD (rd : BitVec 5) (ra : BitVec 5) (rb : BitVec 5) (s : State) : Out :=
  fpsOp [rd, ra, rb] rd ra rb 0 (fpNsign .f64) s

/-- FXSIGN_D (R143). -/
def execFxsignD (rd : BitVec 5) (ra : BitVec 5) (rb : BitVec 5) (s : State) : Out :=
  fpsOp [rd, ra, rb] rd ra rb 0 (fpXsign .f64) s

/-- FEQ_D (R143). -/
def execFeqD (rd : BitVec 5) (ra : BitVec 5) (rb : BitVec 5) (s : State) : Out :=
  fpsOp [rd, ra, rb] rd ra rb 0 (fpEq .f64) s

/-- FLT_D (R143). -/
def execFltD (rd : BitVec 5) (ra : BitVec 5) (rb : BitVec 5) (s : State) : Out :=
  fpsOp [rd, ra, rb] rd ra rb 0 (fpLt .f64) s

/-- FLE_D (R143). -/
def execFleD (rd : BitVec 5) (ra : BitVec 5) (rb : BitVec 5) (s : State) : Out :=
  fpsOp [rd, ra, rb] rd ra rb 0 (fpLe .f64) s

/-- FKIND_D (R143). -/
def execFkindD (rd : BitVec 5) (ra : BitVec 5) (s : State) : Out :=
  fpsOp [rd, ra] rd ra 0 0 (fpKind .f64) s

/-- FTOI_D (R143). -/
def execFtoiD (rd : BitVec 5) (ra : BitVec 5) (s : State) : Out :=
  fpsOp [rd, ra] rd ra 0 0 (fpToI .f64) s

/-- FTOIU_D (R143). -/
def execFtoiuD (rd : BitVec 5) (ra : BitVec 5) (s : State) : Out :=
  fpsOp [rd, ra] rd ra 0 0 (fpToIu .f64) s

/-- ITOF_D (R143). -/
def execItofD (rd : BitVec 5) (ra : BitVec 5) (s : State) : Out :=
  fpsOp [rd, ra] rd ra 0 0 (fpOfI .f64) s

/-- UTOF_D (R143). -/
def execUtofD (rd : BitVec 5) (ra : BitVec 5) (s : State) : Out :=
  fpsOp [rd, ra] rd ra 0 0 (fpOfU .f64) s

/-- FTOH_D (R143). -/
def execFtohD (rd : BitVec 5) (ra : BitVec 5) (s : State) : Out :=
  fpsOp [rd, ra] rd ra 0 0 (fpCvt .f64 .f16) s

/-- FTOB_D (R143). -/
def execFtobD (rd : BitVec 5) (ra : BitVec 5) (s : State) : Out :=
  fpsOp [rd, ra] rd ra 0 0 (fpCvt .f64 .bf16) s

/-- HTOF_D (R143). -/
def execHtofD (rd : BitVec 5) (ra : BitVec 5) (s : State) : Out :=
  fpsOp [rd, ra] rd ra 0 0 (fpCvt .f16 .f64) s

/-- BTOF_D (R143). -/
def execBtofD (rd : BitVec 5) (ra : BitVec 5) (s : State) : Out :=
  fpsOp [rd, ra] rd ra 0 0 (fpCvt .bf16 .f64) s

/-- FCVTX_D (R143). -/
def execFcvtxD (rd : BitVec 5) (ra : BitVec 5) (s : State) : Out :=
  fpsOp [rd, ra] rd ra 0 0 (fpCvt .f64 .f32) s

end Sys2Proof.Machine
end

