-- ==== Sys2Proof/Machine/Sys.lean ====
section
/-!
DEFINITION. Control words (03 R116 to R121, 04 R151), the system instructions (04 R152 to R156, R162) and CLAIM (R146).
-/

namespace Sys2Proof.Machine

/-! ### Control words -/

/-- R117: the index map. -/
def cwListed (i : Nat) : Bool :=
  decide (i ≤ 0x004) || (decide (0x008 ≤ i) && decide (i ≤ 0x00B)) || (decide (0x010 ≤ i) && decide (i ≤ 0x016)) ||
  i == 0x018 || i == 0x019 || (decide (0x020 ≤ i) && decide (i ≤ 0x023)) || (decide (0x030 ≤ i) && decide (i ≤ 0x03F)) ||
  (decide (0x040 ≤ i) && decide (i ≤ 0x043)) || (decide (0x050 ≤ i) && decide (i ≤ 0x058)) || i == 0x060 ||
  (decide (0x070 ≤ i) && decide (i ≤ 0x073))

/-- R121: the vector-side words. -/
def cwVector (i : Nat) : Bool := decide (i ≤ 0x03F) || i == 0x042 || i == 0x043

/-- VGEOM (R117). DEDUCED, log 23. -/
def vgeomWord (x : Hart) : Nat :=
  let q := (x.owned &&& ~~~x.tile).toNat * 2 ^ 16
  match x.cfg with
  | none => 7 + q
  | some c =>
    (if c.nreg = 4 then 0 else if c.nreg = 8 then 1 else if c.nreg = 16 then 2 else 3) +
    x.cfgCols.length / c.nreg * 2 ^ 8 + q

/-- WATCHn as a hart reads it (13 R421). -/
def watchRead (s : State) (x : Hart) (n : Nat) : Word :=
  let w := smGet 0 s.watchReg n
  if x.super then w
  else match smFind s.watch n with
    | some p => if p.tenant = x.tenant then w else 0
    | none => 0

/-- The value of a listed control word of hart `h` (R117). -/
def cwValue (s : State) (h i : Nat) : Word :=
  let x := s.hart h
  match i with
  | 0x000 => x.vl.setWidth 64
  | 0x001 => x.vstart.setWidth 64
  | 0x002 => x.vtype.setWidth 64
  | 0x003 => BitVec.ofNat 64 (s.vlmax h x.vtype (x.dsel 0))
  | 0x004 => BitVec.ofNat 64 (vgeomWord x)
  | 0x010 => BitVec.ofNat 64 x.fflags.toNat
  | 0x016 => x.satcnt.setWidth 64
  | 0x018 => x.lfsrIdx.setWidth 64
  | 0x019 => (x.laneLfsr x.lfsrIdx.toNat).setWidth 64
  | 0x020 => BitVec.ofNat 64 x.tm
  | 0x021 => BitVec.ofNat 64 x.tn
  | 0x022 => BitVec.ofNat 64 x.tk
  | 0x023 => BitVec.ofNat 64 x.tkprog
  | 0x040 => BitVec.ofNat 64 (h % 128)
  | 0x041 => BitVec.ofNat 64 x.tenant
  | 0x042 => (s.laneMask (coreOf h)).setWidth 64
  | 0x043 => x.owned.setWidth 64 ||| (x.tile.setWidth 64 <<< 4)
  | 0x050 => x.tvec
  | 0x051 => x.tcause.setWidth 64
  | 0x052 => x.tpc
  | 0x053 => x.tqsn.setWidth 64
  | 0x054 => x.tinfo0
  | 0x055 => x.tinfo1
  | 0x056 => x.tinfo2
  | 0x057 => x.tinfo3
  | 0x058 => x.tscratch
  | 0x060 => x.emubase
  | _ =>
    if 0x008 ≤ i ∧ i ≤ 0x00B then x.dsel (i - 8)
    else if 0x011 ≤ i ∧ i ≤ 0x015 then smGet 0 x.fexc (i - 0x011)
    else if 0x030 ≤ i ∧ i ≤ 0x03F then BitVec.ofNat 64 (savailWord x (i - 0x030) % 2 ^ 32)
    else if 0x070 ≤ i ∧ i ≤ 0x073 then watchRead s x (i - 0x070)
    else 0

/-- VTYPE written field by field: a reserved code keeps its field (R10, R118). -/
def vtypeWrite (old new : BitVec 16) : BitVec 16 :=
  let fmt := if (new.extractLsb' 0 5).toNat < 20 then new &&& 0x001F else old &&& 0x001F
  let rm := if (new.extractLsb' 12 3).toNat < 6 then new &&& 0x7000 else old &&& 0x7000
  fmt ||| rm ||| (new &&& 0x8F00)

/-- A write of a control word (R117 to R120); words and fields that are read-only ignore it. -/
def cwPut (x : Hart) (i : Nat) (v : Word) : Hart :=
  match i with
  | 0x000 => if (v.extractLsb' 0 15).toNat ≤ 16384 then { x with vl := v.extractLsb' 0 15 } else x
  | 0x001 => { x with vstart := v.extractLsb' 0 14, vstartSet := true }
  | 0x002 => { x with vtype := vtypeWrite x.vtype (v.extractLsb' 0 16) }
  | 0x010 => { x with fflags := BitVec.ofNat _ (v.extractLsb' 0 5).toNat }
  | 0x016 => { x with satcnt := v.extractLsb' 0 32 }
  | 0x018 => { x with lfsrIdx := v.extractLsb' 0 9 }
  | 0x019 => x.setLaneLfsr x.lfsrIdx.toNat (if v.extractLsb' 0 32 = 0 then 1 else v.extractLsb' 0 32)
  | 0x050 => { x with tvec := v &&& ~~~(3 : Word) }
  | 0x051 => { x with tcause := v.extractLsb' 0 9 }
  | 0x052 => { x with tpc := v &&& ~~~(3 : Word) }
  | 0x058 => { x with tscratch := v }
  | 0x060 => { x with emubase := v &&& ~~~(0x1FFF : Word) }
  | _ =>
    if 0x008 ≤ i ∧ i ≤ 0x00B then
      { x with ds := smSet 0x00010000000000FF x.ds (i - 8) (v &&& 0x0001FFFFFFFFFFFF) }
    else if 0x011 ≤ i ∧ i ≤ 0x015 then
      { x with
        fexc := smSet 0 x.fexc (i - 0x011) (v &&& 0x8000FFFF00003FFF)
        fexcMark := smErase x.fexcMark (i - 0x011) }
    else x

/-- An access of LFSRDAT advances LFSRIDX (R117). -/
def cwStep (x : Hart) (i : Nat) : Hart := if i = 0x019 then { x with lfsrIdx := x.lfsrIdx + 1 } else x

/-- The traps of a control-word instruction (R116, R151): none, or the cause. -/
def cwTrap (super : Bool) (word : BitVec 32) (cw : BitVec 12) : Option TrapInfo :=
  if 0x800 ≤ cw.toNat ∧ super = false then some (privTrap word)
  else if cwListed cw.toNat then none
  else some (illegal word 4)

/-- A control-word instruction: `f` gives the hart after the access. A vector-side word waits until every earlier entry has
completed (R121). -/
def cwOp (regs : List Nat) (word : BitVec 32) (cw : BitVec 12) (f : Word → Hart → Hart) (s : State) : Out :=
  match cwTrap s.me.super word cw with
  | some t => .next (s.trapHere t)
  | none =>
    if cwVector cw.toNat && s.me.queue.any (·.open) then .next s
    else scalarOp regs (fun x => cwStep (f (cwValue s s.cur cw.toNat) x) cw.toNat) s

/-- VLMAX under DS0 and the VTYPE in force (R146), or none while the geometry is changing (R149). -/
def State.vlmaxSeen (s : State) : Option Nat :=
  let x := s.me
  let open' := x.queue.filter (·.open)
  if open'.any (fun e => e.op.changesGeometry) then none
  else
    let vt := (open'.reverse.findSome? (fun e => match e.op with | .vset vt _ _ => some vt | _ => none)).getD x.vtype
    some (s.vlmax s.cur vt (x.dsel 0))

/-- CLAIM's access (R146): the claimed base and the grant. DEDUCED, log 37. -/
def claimFarm (va : Word) (want vlmax : Nat) : M (Nat × Nat) := do
  if va.toNat % 16 ≠ 0 then raise (misalign va 0)
  let s ← get
  let grantOf (next limit : Nat) : Nat := Nat.min want (Nat.min (if next < limit then limit - next else 0) vlmax)
  if s.cur = supvHart then
    let next ← memRead none 0 va 8 .atomic 0
    let limit ← memRead none 0 (va + 8) 8 .atomic 0
    let grant := grantOf next limit
    if grant ≠ 0 then memWrite none 0 va 8 ((next + grant) % 2 ^ 64) .atomic 0
    return (next, grant)
  else
    let pa ← writeCheck none 0 va 16 .atomic 0
    let s ← get
    let next := s.bytesAt pa 8
    let grant := grantOf next (s.bytesAt (pa + 8) 8)
    if grant ≠ 0 then
      watchCheck none 0 va pa 8 0
      modify (fun s => s.setBytes pa 8 ((next + grant) % 2 ^ 64))
    else passUnused none 0 0
    return (next, grant)

/-- VL := `n` as an entry of the queue (R149), which takes no QSN; while entries are held it acts at once (R159).
DEDUCED, log 37. -/
def queueVl (n : Nat) : M Unit := do
  let x ← meM
  if x.queue.any (·.open) then
    updMeM (fun x => { pushEntry x (.setVl n) 0 0 0 0 0 none false with nextQsn := x.nextQsn })
  else updMeM (fun x => { x with vl := BitVec.ofNat 15 n })

/-- CLAIM (R146). -/
def execClaim (rd : BitVec 5) (ra : BitVec 5) (rb : BitVec 5) (_sc : BitVec 2) (_aq : BitVec 1) (_rl : BitVec 1) (s : State) : Out :=
  match s.vlmaxSeen with
  | none => .next s
  | some vlmax =>
    memInstr [rd.toNat, ra.toNat, rb.toNat] 0b00011 (do
      let x ← meM
      let (next, grant) ← claimFarm (x.s ra.toNat) (x.s rb.toNat).toNat vlmax
      updMeM (fun x => x.setS rd.toNat (BitVec.ofNat 64 next))
      queueVl grant) s

/-- CWREAD (R151). -/
def execCwread (rd : BitVec 5) (cw : BitVec 12) (s : State) : Out :=
  cwOp [rd.toNat] (encSY 0x13 rd 0x0 cw 0x0) cw (fun v x => x.setS rd.toNat v) s

/-- CWWRITE (R151). -/
def execCwwrite (ra : BitVec 5) (cw : BitVec 12) (s : State) : Out :=
  cwOp [ra.toNat] (encSY 0x13 0x0 ra cw 0x1) cw (fun _ x => cwPut x cw.toNat (x.s ra.toNat)) s

/-- CWSET (R151). -/
def execCwset (ra : BitVec 5) (cw : BitVec 12) (s : State) : Out :=
  cwOp [ra.toNat] (encSY 0x13 0x0 ra cw 0x2) cw (fun v x => cwPut x cw.toNat (v ||| x.s ra.toNat)) s

/-- CWCLR (R151). -/
def execCwclr (ra : BitVec 5) (cw : BitVec 12) (s : State) : Out :=
  cwOp [ra.toNat] (encSY 0x13 0x0 ra cw 0x3) cw (fun v x => cwPut x cw.toNat (v &&& ~~~(x.s ra.toNat))) s

/-- TRAP (R152). -/
def execTrap (n : BitVec 12) (s : State) : Out :=
  if s.me.ready [] then
    .next (s.updMe (fun x => takeTrap x false 0 (x.pc + 4) { code := 0x15, i0 := n.setWidth 64, i1 := x.pc }))
  else .next s

/-- BRK (R152). -/
def execBrk (n : BitVec 12) (s : State) : Out :=
  if s.me.ready [] then
    .next (s.updMe (fun x => takeTrap x false 0 (x.pc + 4) { code := 0x14, i0 := n.setWidth 64, i1 := x.pc }))
  else .next s

/-- RETT (R162). -/
def execRett (s : State) : Out :=
  if s.me.ready [] then .next (drain s.cur (s.updMe returnFromTrap)) else .next s

/-- YIELD (R153). -/
def execYield (s : State) : Out :=
  if s.me.ready [] then .next (s.updMe (fun x => { x.adv with yield := s.cycle + 16 })) else .next s

/-- Publish regions whose shadow a hart had open close (07 R271). -/
def closeShadows (h : Nat) (s : State) : State :=
  { s with tenants := s.tenants.map (fun (t, x) =>
      (t, { x with regions := x.regions.map (fun (i, r) => (i, if r.owner = some h then { r with owner := none } else r)) })) }

/-- A hart stops (R154): what is left of its queue is discarded. -/
def haltHart (h : Nat) (s : State) : State :=
  closeShadows h (s.updHart h (fun x => { x with run := .halted, queue := [], fence := [], issueHold := false }))

/-- HALT (R154). -/
def execHalt (s : State) : Out :=
  if !s.me.ready [] || s.me.queue.any (·.open) then .next s else .next (haltHart s.cur s)

/-- The wait of a BAR on its record (R155): it ends when the generation has changed. A load of the wait that faults raises
LOAD_PAGE, with kind load. DESIGN CHOICE, log 56. -/
def barWait (va : Word) (g : BitVec 32) : M Unit := do
  let v ← memRead none 0 va 8 .load 0
  if BitVec.ofNat 32 (v / 2 ^ 32) = g then block
  updMeM (fun x => { x with bar := none })

/-- The arrival of a BAR for `n` + 1 parties (R155); the last one opens the barrier, any other leaves a wait record. An earlier record
is cleared once the arrival has performed: a BAR that traps has no effect (R161). -/
def barArrive (va : Word) (n : Nat) : M Unit := do
  alignCheck va 8 0
  let s ← get
  let old ← if s.cur = supvHart then memRead none 0 va 8 .atomic 0
    else do
      let pa ← writeCheck none 0 va 8 .atomic 0
      pure ((← get).bytesAt pa 8)
  let g := old / 2 ^ 32
  let a := old % 2 ^ 32 + 1
  if a ≥ n + 1 then
    memWrite none 0 va 8 ((g + 1) % 2 ^ 32 * 2 ^ 32) .atomic 0
    updMeM (fun x => { x with bar := none })
  else
    memWrite none 0 va 8 (g * 2 ^ 32 + a) .atomic 0
    updMeM (fun x => { x with bar := some (va, BitVec.ofNat 32 g) })
    block

/-- BAR (R155). -/
def execBar (ra : BitVec 5) (n : BitVec 12) (s : State) : Out :=
  memInstr [ra.toNat] 0b00011 (do
    let x ← meM
    let va := x.s ra.toNat
    match x.bar with
    | some (a, g) => if a = va then barWait va g else barArrive va n.toNat
    | none => barArrive va n.toNat) s

/-- FENCE (R156). -/
def execFence (ps : BitVec 5) (qs : BitVec 5) (sc : BitVec 2) (s : State) : Out :=
  if s.me.ready [] then
    .next (s.updMe (fun x =>
      { x.adv with fence := x.fence.filter (s.fenceBusy s.cur) ++ [x.fenceFrom ps qs sc] }))
  else .next s

end Sys2Proof.Machine
end

