-- ==== Sys2Proof/Machine/Vector.lean ====
section
/-!
DEFINITION. The vector instructions as they issue (05, 03 R103 to R109): each pushes its entry, with the scalar operands it
captures and the scalar register it will write.
-/

namespace Sys2Proof.Machine

/-- The register and control fields of a vector word (R91). -/
def vf (vd va vb : BitVec 5) (m : BitVec 1) (ms : BitVec 3) (ds : BitVec 2) (x : BitVec 1) : VF :=
  { vd := vd.toNat, va := va.toNat, vb := vb.toNat, m := m == 1, ms := ms.toNat, ds := ds.toNat, x := x == 1 }

/-- VSETVLI and VSETVL at issue (R169): an invalid VTYPE raises ILLEGAL reason 4 before a QSN is given. -/
def vsetOp (vt : BitVec 16) (ds : Nat) (rd ra : BitVec 5) (regs : List Nat) (word : BitVec 32) (s : State) : Out :=
  if s.cur ≠ supvHart && s.me.ready (regs ++ [rd.toNat]) && !vtypeOk vt then .next (s.trapHere (illegal word 4))
  else
    issue (.vset vt ds (if ra = 0 then 16384 else (s.me.s ra.toNat).toNat)) word 0 ra.toNat 0 (some rd.toNat) regs s

/-- VADD (R179). -/
def execVadd (vd : BitVec 5) (va : BitVec 5) (vb : BitVec 5) (m : BitVec 1) (ms : BitVec 3) (ds : BitVec 2) (s : State) : Out :=
  issue (.vint .add false (vf vd va vb m ms ds 0)) (encV3 0x18 vd va vb m ms ds 0x0 0x0)
    0 0 0 none [] s

/-- VSUB (R179). -/
def execVsub (vd : BitVec 5) (va : BitVec 5) (vb : BitVec 5) (m : BitVec 1) (ms : BitVec 3) (ds : BitVec 2) (s : State) : Out :=
  issue (.vint .sub false (vf vd va vb m ms ds 0)) (encV3 0x18 vd va vb m ms ds 0x0 0x1)
    0 0 0 none [] s

/-- VSUBR (R179). -/
def execVsubr (vd : BitVec 5) (va : BitVec 5) (vb : BitVec 5) (m : BitVec 1) (ms : BitVec 3) (ds : BitVec 2) (s : State) : Out :=
  issue (.vint .subr false (vf vd va vb m ms ds 0)) (encV3 0x18 vd va vb m ms ds 0x0 0x2)
    0 0 0 none [] s

/-- VMUL (R179). -/
def execVmul (vd : BitVec 5) (va : BitVec 5) (vb : BitVec 5) (m : BitVec 1) (ms : BitVec 3) (ds : BitVec 2) (s : State) : Out :=
  issue (.vint .mul false (vf vd va vb m ms ds 0)) (encV3 0x18 vd va vb m ms ds 0x0 0x3)
    0 0 0 none [] s

/-- VMULH (R179). -/
def execVmulh (vd : BitVec 5) (va : BitVec 5) (vb : BitVec 5) (m : BitVec 1) (ms : BitVec 3) (ds : BitVec 2) (s : State) : Out :=
  issue (.vint .mulh false (vf vd va vb m ms ds 0)) (encV3 0x18 vd va vb m ms ds 0x0 0x4)
    0 0 0 none [] s

/-- VMULHU (R179). -/
def execVmulhu (vd : BitVec 5) (va : BitVec 5) (vb : BitVec 5) (m : BitVec 1) (ms : BitVec 3) (ds : BitVec 2) (s : State) : Out :=
  issue (.vint .mulhu false (vf vd va vb m ms ds 0)) (encV3 0x18 vd va vb m ms ds 0x0 0x5)
    0 0 0 none [] s

/-- VMIN (R179). -/
def execVmin (vd : BitVec 5) (va : BitVec 5) (vb : BitVec 5) (m : BitVec 1) (ms : BitVec 3) (ds : BitVec 2) (s : State) : Out :=
  issue (.vint .min false (vf vd va vb m ms ds 0)) (encV3 0x18 vd va vb m ms ds 0x0 0x6)
    0 0 0 none [] s

/-- VMAX (R179). -/
def execVmax (vd : BitVec 5) (va : BitVec 5) (vb : BitVec 5) (m : BitVec 1) (ms : BitVec 3) (ds : BitVec 2) (s : State) : Out :=
  issue (.vint .max false (vf vd va vb m ms ds 0)) (encV3 0x18 vd va vb m ms ds 0x0 0x7)
    0 0 0 none [] s

/-- VMINU (R179). -/
def execVminu (vd : BitVec 5) (va : BitVec 5) (vb : BitVec 5) (m : BitVec 1) (ms : BitVec 3) (ds : BitVec 2) (s : State) : Out :=
  issue (.vint .minu false (vf vd va vb m ms ds 0)) (encV3 0x18 vd va vb m ms ds 0x0 0x8)
    0 0 0 none [] s

/-- VMAXU (R179). -/
def execVmaxu (vd : BitVec 5) (va : BitVec 5) (vb : BitVec 5) (m : BitVec 1) (ms : BitVec 3) (ds : BitVec 2) (s : State) : Out :=
  issue (.vint .maxu false (vf vd va vb m ms ds 0)) (encV3 0x18 vd va vb m ms ds 0x0 0x9)
    0 0 0 none [] s

/-- VAND (R179). -/
def execVand (vd : BitVec 5) (va : BitVec 5) (vb : BitVec 5) (m : BitVec 1) (ms : BitVec 3) (ds : BitVec 2) (s : State) : Out :=
  issue (.vint .and false (vf vd va vb m ms ds 0)) (encV3 0x18 vd va vb m ms ds 0x0 0xa)
    0 0 0 none [] s

/-- VOR (R179). -/
def execVor (vd : BitVec 5) (va : BitVec 5) (vb : BitVec 5) (m : BitVec 1) (ms : BitVec 3) (ds : BitVec 2) (s : State) : Out :=
  issue (.vint .or false (vf vd va vb m ms ds 0)) (encV3 0x18 vd va vb m ms ds 0x0 0xb)
    0 0 0 none [] s

/-- VXOR (R179). -/
def execVxor (vd : BitVec 5) (va : BitVec 5) (vb : BitVec 5) (m : BitVec 1) (ms : BitVec 3) (ds : BitVec 2) (s : State) : Out :=
  issue (.vint .xor false (vf vd va vb m ms ds 0)) (encV3 0x18 vd va vb m ms ds 0x0 0xc)
    0 0 0 none [] s

/-- VSLL (R179). -/
def execVsll (vd : BitVec 5) (va : BitVec 5) (vb : BitVec 5) (m : BitVec 1) (ms : BitVec 3) (ds : BitVec 2) (s : State) : Out :=
  issue (.vint .sll false (vf vd va vb m ms ds 0)) (encV3 0x18 vd va vb m ms ds 0x0 0xd)
    0 0 0 none [] s

/-- VSRL (R179). -/
def execVsrl (vd : BitVec 5) (va : BitVec 5) (vb : BitVec 5) (m : BitVec 1) (ms : BitVec 3) (ds : BitVec 2) (s : State) : Out :=
  issue (.vint .srl false (vf vd va vb m ms ds 0)) (encV3 0x18 vd va vb m ms ds 0x0 0xe)
    0 0 0 none [] s

/-- VSRA (R179). -/
def execVsra (vd : BitVec 5) (va : BitVec 5) (vb : BitVec 5) (m : BitVec 1) (ms : BitVec 3) (ds : BitVec 2) (s : State) : Out :=
  issue (.vint .sra false (vf vd va vb m ms ds 0)) (encV3 0x18 vd va vb m ms ds 0x0 0xf)
    0 0 0 none [] s

/-- VADD_VS (R179). -/
def execVaddVs (vd : BitVec 5) (va : BitVec 5) (vb : BitVec 5) (m : BitVec 1) (ms : BitVec 3) (ds : BitVec 2) (s : State) : Out :=
  issue (.vint .add true (vf vd va vb m ms ds 0)) (encV3 0x19 vd va vb m ms ds 0x0 0x0)
    0 0 vb.toNat none [vb.toNat] s

/-- VSUB_VS (R179). -/
def execVsubVs (vd : BitVec 5) (va : BitVec 5) (vb : BitVec 5) (m : BitVec 1) (ms : BitVec 3) (ds : BitVec 2) (s : State) : Out :=
  issue (.vint .sub true (vf vd va vb m ms ds 0)) (encV3 0x19 vd va vb m ms ds 0x0 0x1)
    0 0 vb.toNat none [vb.toNat] s

/-- VSUBR_VS (R179). -/
def execVsubrVs (vd : BitVec 5) (va : BitVec 5) (vb : BitVec 5) (m : BitVec 1) (ms : BitVec 3) (ds : BitVec 2) (s : State) : Out :=
  issue (.vint .subr true (vf vd va vb m ms ds 0)) (encV3 0x19 vd va vb m ms ds 0x0 0x2)
    0 0 vb.toNat none [vb.toNat] s

/-- VMUL_VS (R179). -/
def execVmulVs (vd : BitVec 5) (va : BitVec 5) (vb : BitVec 5) (m : BitVec 1) (ms : BitVec 3) (ds : BitVec 2) (s : State) : Out :=
  issue (.vint .mul true (vf vd va vb m ms ds 0)) (encV3 0x19 vd va vb m ms ds 0x0 0x3)
    0 0 vb.toNat none [vb.toNat] s

/-- VMULH_VS (R179). -/
def execVmulhVs (vd : BitVec 5) (va : BitVec 5) (vb : BitVec 5) (m : BitVec 1) (ms : BitVec 3) (ds : BitVec 2) (s : State) : Out :=
  issue (.vint .mulh true (vf vd va vb m ms ds 0)) (encV3 0x19 vd va vb m ms ds 0x0 0x4)
    0 0 vb.toNat none [vb.toNat] s

/-- VMULHU_VS (R179). -/
def execVmulhuVs (vd : BitVec 5) (va : BitVec 5) (vb : BitVec 5) (m : BitVec 1) (ms : BitVec 3) (ds : BitVec 2) (s : State) : Out :=
  issue (.vint .mulhu true (vf vd va vb m ms ds 0)) (encV3 0x19 vd va vb m ms ds 0x0 0x5)
    0 0 vb.toNat none [vb.toNat] s

/-- VMIN_VS (R179). -/
def execVminVs (vd : BitVec 5) (va : BitVec 5) (vb : BitVec 5) (m : BitVec 1) (ms : BitVec 3) (ds : BitVec 2) (s : State) : Out :=
  issue (.vint .min true (vf vd va vb m ms ds 0)) (encV3 0x19 vd va vb m ms ds 0x0 0x6)
    0 0 vb.toNat none [vb.toNat] s

/-- VMAX_VS (R179). -/
def execVmaxVs (vd : BitVec 5) (va : BitVec 5) (vb : BitVec 5) (m : BitVec 1) (ms : BitVec 3) (ds : BitVec 2) (s : State) : Out :=
  issue (.vint .max true (vf vd va vb m ms ds 0)) (encV3 0x19 vd va vb m ms ds 0x0 0x7)
    0 0 vb.toNat none [vb.toNat] s

/-- VMINU_VS (R179). -/
def execVminuVs (vd : BitVec 5) (va : BitVec 5) (vb : BitVec 5) (m : BitVec 1) (ms : BitVec 3) (ds : BitVec 2) (s : State) : Out :=
  issue (.vint .minu true (vf vd va vb m ms ds 0)) (encV3 0x19 vd va vb m ms ds 0x0 0x8)
    0 0 vb.toNat none [vb.toNat] s

/-- VMAXU_VS (R179). -/
def execVmaxuVs (vd : BitVec 5) (va : BitVec 5) (vb : BitVec 5) (m : BitVec 1) (ms : BitVec 3) (ds : BitVec 2) (s : State) : Out :=
  issue (.vint .maxu true (vf vd va vb m ms ds 0)) (encV3 0x19 vd va vb m ms ds 0x0 0x9)
    0 0 vb.toNat none [vb.toNat] s

/-- VAND_VS (R179). -/
def execVandVs (vd : BitVec 5) (va : BitVec 5) (vb : BitVec 5) (m : BitVec 1) (ms : BitVec 3) (ds : BitVec 2) (s : State) : Out :=
  issue (.vint .and true (vf vd va vb m ms ds 0)) (encV3 0x19 vd va vb m ms ds 0x0 0xa)
    0 0 vb.toNat none [vb.toNat] s

/-- VOR_VS (R179). -/
def execVorVs (vd : BitVec 5) (va : BitVec 5) (vb : BitVec 5) (m : BitVec 1) (ms : BitVec 3) (ds : BitVec 2) (s : State) : Out :=
  issue (.vint .or true (vf vd va vb m ms ds 0)) (encV3 0x19 vd va vb m ms ds 0x0 0xb)
    0 0 vb.toNat none [vb.toNat] s

/-- VXOR_VS (R179). -/
def execVxorVs (vd : BitVec 5) (va : BitVec 5) (vb : BitVec 5) (m : BitVec 1) (ms : BitVec 3) (ds : BitVec 2) (s : State) : Out :=
  issue (.vint .xor true (vf vd va vb m ms ds 0)) (encV3 0x19 vd va vb m ms ds 0x0 0xc)
    0 0 vb.toNat none [vb.toNat] s

/-- VSLL_VS (R179). -/
def execVsllVs (vd : BitVec 5) (va : BitVec 5) (vb : BitVec 5) (m : BitVec 1) (ms : BitVec 3) (ds : BitVec 2) (s : State) : Out :=
  issue (.vint .sll true (vf vd va vb m ms ds 0)) (encV3 0x19 vd va vb m ms ds 0x0 0xd)
    0 0 vb.toNat none [vb.toNat] s

/-- VSRL_VS (R179). -/
def execVsrlVs (vd : BitVec 5) (va : BitVec 5) (vb : BitVec 5) (m : BitVec 1) (ms : BitVec 3) (ds : BitVec 2) (s : State) : Out :=
  issue (.vint .srl true (vf vd va vb m ms ds 0)) (encV3 0x19 vd va vb m ms ds 0x0 0xe)
    0 0 vb.toNat none [vb.toNat] s

/-- VSRA_VS (R179). -/
def execVsraVs (vd : BitVec 5) (va : BitVec 5) (vb : BitVec 5) (m : BitVec 1) (ms : BitVec 3) (ds : BitVec 2) (s : State) : Out :=
  issue (.vint .sra true (vf vd va vb m ms ds 0)) (encV3 0x19 vd va vb m ms ds 0x0 0xf)
    0 0 vb.toNat none [vb.toNat] s

/-- VFADD (R180). -/
def execVfadd (vd : BitVec 5) (va : BitVec 5) (vb : BitVec 5) (m : BitVec 1) (ms : BitVec 3) (ds : BitVec 2) (x : BitVec 1) (s : State) : Out :=
  issue (.vfp .add false (vf vd va vb m ms ds x)) (encV3 0x1a vd va vb m ms ds x 0x0)
    0 0 0 none [] s

/-- VFSUB (R180). -/
def execVfsub (vd : BitVec 5) (va : BitVec 5) (vb : BitVec 5) (m : BitVec 1) (ms : BitVec 3) (ds : BitVec 2) (x : BitVec 1) (s : State) : Out :=
  issue (.vfp .sub false (vf vd va vb m ms ds x)) (encV3 0x1a vd va vb m ms ds x 0x1)
    0 0 0 none [] s

/-- VFMUL (R180). -/
def execVfmul (vd : BitVec 5) (va : BitVec 5) (vb : BitVec 5) (m : BitVec 1) (ms : BitVec 3) (ds : BitVec 2) (x : BitVec 1) (s : State) : Out :=
  issue (.vfp .mul false (vf vd va vb m ms ds x)) (encV3 0x1a vd va vb m ms ds x 0x2)
    0 0 0 none [] s

/-- VFDIV (R180). -/
def execVfdiv (vd : BitVec 5) (va : BitVec 5) (vb : BitVec 5) (m : BitVec 1) (ms : BitVec 3) (ds : BitVec 2) (x : BitVec 1) (s : State) : Out :=
  issue (.vfp .div false (vf vd va vb m ms ds x)) (encV3 0x1a vd va vb m ms ds x 0x3)
    0 0 0 none [] s

/-- VFMIN (R180). -/
def execVfmin (vd : BitVec 5) (va : BitVec 5) (vb : BitVec 5) (m : BitVec 1) (ms : BitVec 3) (ds : BitVec 2) (x : BitVec 1) (s : State) : Out :=
  issue (.vfp .min false (vf vd va vb m ms ds x)) (encV3 0x1a vd va vb m ms ds x 0x4)
    0 0 0 none [] s

/-- VFMAX (R180). -/
def execVfmax (vd : BitVec 5) (va : BitVec 5) (vb : BitVec 5) (m : BitVec 1) (ms : BitVec 3) (ds : BitVec 2) (x : BitVec 1) (s : State) : Out :=
  issue (.vfp .max false (vf vd va vb m ms ds x)) (encV3 0x1a vd va vb m ms ds x 0x5)
    0 0 0 none [] s

/-- VFMA (R180). -/
def execVfma (vd : BitVec 5) (va : BitVec 5) (vb : BitVec 5) (m : BitVec 1) (ms : BitVec 3) (ds : BitVec 2) (x : BitVec 1) (s : State) : Out :=
  issue (.vfp .fma false (vf vd va vb m ms ds x)) (encV3 0x1a vd va vb m ms ds x 0x6)
    0 0 0 none [] s

/-- VFNMA (R180). -/
def execVfnma (vd : BitVec 5) (va : BitVec 5) (vb : BitVec 5) (m : BitVec 1) (ms : BitVec 3) (ds : BitVec 2) (x : BitVec 1) (s : State) : Out :=
  issue (.vfp .fnma false (vf vd va vb m ms ds x)) (encV3 0x1a vd va vb m ms ds x 0x7)
    0 0 0 none [] s

/-- VFMS (R180). -/
def execVfms (vd : BitVec 5) (va : BitVec 5) (vb : BitVec 5) (m : BitVec 1) (ms : BitVec 3) (ds : BitVec 2) (x : BitVec 1) (s : State) : Out :=
  issue (.vfp .fms false (vf vd va vb m ms ds x)) (encV3 0x1a vd va vb m ms ds x 0x8)
    0 0 0 none [] s

/-- VFCSIGN (R180). -/
def execVfcsign (vd : BitVec 5) (va : BitVec 5) (vb : BitVec 5) (m : BitVec 1) (ms : BitVec 3) (ds : BitVec 2) (x : BitVec 1) (s : State) : Out :=
  issue (.vfp .csign false (vf vd va vb m ms ds x)) (encV3 0x1a vd va vb m ms ds x 0x9)
    0 0 0 none [] s

/-- VFNSIGN (R180). -/
def execVfnsign (vd : BitVec 5) (va : BitVec 5) (vb : BitVec 5) (m : BitVec 1) (ms : BitVec 3) (ds : BitVec 2) (x : BitVec 1) (s : State) : Out :=
  issue (.vfp .nsign false (vf vd va vb m ms ds x)) (encV3 0x1a vd va vb m ms ds x 0xa)
    0 0 0 none [] s

/-- VFXSIGN (R180). -/
def execVfxsign (vd : BitVec 5) (va : BitVec 5) (vb : BitVec 5) (m : BitVec 1) (ms : BitVec 3) (ds : BitVec 2) (x : BitVec 1) (s : State) : Out :=
  issue (.vfp .xsign false (vf vd va vb m ms ds x)) (encV3 0x1a vd va vb m ms ds x 0xb)
    0 0 0 none [] s

/-- VFKIND (R180). -/
def execVfkind (vd : BitVec 5) (va : BitVec 5) (vb : BitVec 5) (m : BitVec 1) (ms : BitVec 3) (ds : BitVec 2) (x : BitVec 1) (s : State) : Out :=
  issue (.vfp .kind false (vf vd va vb m ms ds x)) (encV3 0x1a vd va vb m ms ds x 0xc)
    0 0 0 none [] s

/-- VFSUBR (R180). -/
def execVfsubr (vd : BitVec 5) (va : BitVec 5) (vb : BitVec 5) (m : BitVec 1) (ms : BitVec 3) (ds : BitVec 2) (x : BitVec 1) (s : State) : Out :=
  issue (.vfp .subr false (vf vd va vb m ms ds x)) (encV3 0x1a vd va vb m ms ds x 0xd)
    0 0 0 none [] s

/-- VFADD_VS (R180). -/
def execVfaddVs (vd : BitVec 5) (va : BitVec 5) (vb : BitVec 5) (m : BitVec 1) (ms : BitVec 3) (ds : BitVec 2) (x : BitVec 1) (s : State) : Out :=
  issue (.vfp .add true (vf vd va vb m ms ds x)) (encV3 0x1b vd va vb m ms ds x 0x0)
    0 0 vb.toNat none [vb.toNat] s

/-- VFSUB_VS (R180). -/
def execVfsubVs (vd : BitVec 5) (va : BitVec 5) (vb : BitVec 5) (m : BitVec 1) (ms : BitVec 3) (ds : BitVec 2) (x : BitVec 1) (s : State) : Out :=
  issue (.vfp .sub true (vf vd va vb m ms ds x)) (encV3 0x1b vd va vb m ms ds x 0x1)
    0 0 vb.toNat none [vb.toNat] s

/-- VFMUL_VS (R180). -/
def execVfmulVs (vd : BitVec 5) (va : BitVec 5) (vb : BitVec 5) (m : BitVec 1) (ms : BitVec 3) (ds : BitVec 2) (x : BitVec 1) (s : State) : Out :=
  issue (.vfp .mul true (vf vd va vb m ms ds x)) (encV3 0x1b vd va vb m ms ds x 0x2)
    0 0 vb.toNat none [vb.toNat] s

/-- VFDIV_VS (R180). -/
def execVfdivVs (vd : BitVec 5) (va : BitVec 5) (vb : BitVec 5) (m : BitVec 1) (ms : BitVec 3) (ds : BitVec 2) (x : BitVec 1) (s : State) : Out :=
  issue (.vfp .div true (vf vd va vb m ms ds x)) (encV3 0x1b vd va vb m ms ds x 0x3)
    0 0 vb.toNat none [vb.toNat] s

/-- VFMIN_VS (R180). -/
def execVfminVs (vd : BitVec 5) (va : BitVec 5) (vb : BitVec 5) (m : BitVec 1) (ms : BitVec 3) (ds : BitVec 2) (x : BitVec 1) (s : State) : Out :=
  issue (.vfp .min true (vf vd va vb m ms ds x)) (encV3 0x1b vd va vb m ms ds x 0x4)
    0 0 vb.toNat none [vb.toNat] s

/-- VFMAX_VS (R180). -/
def execVfmaxVs (vd : BitVec 5) (va : BitVec 5) (vb : BitVec 5) (m : BitVec 1) (ms : BitVec 3) (ds : BitVec 2) (x : BitVec 1) (s : State) : Out :=
  issue (.vfp .max true (vf vd va vb m ms ds x)) (encV3 0x1b vd va vb m ms ds x 0x5)
    0 0 vb.toNat none [vb.toNat] s

/-- VFMA_VS (R180). -/
def execVfmaVs (vd : BitVec 5) (va : BitVec 5) (vb : BitVec 5) (m : BitVec 1) (ms : BitVec 3) (ds : BitVec 2) (x : BitVec 1) (s : State) : Out :=
  issue (.vfp .fma true (vf vd va vb m ms ds x)) (encV3 0x1b vd va vb m ms ds x 0x6)
    0 0 vb.toNat none [vb.toNat] s

/-- VFNMA_VS (R180). -/
def execVfnmaVs (vd : BitVec 5) (va : BitVec 5) (vb : BitVec 5) (m : BitVec 1) (ms : BitVec 3) (ds : BitVec 2) (x : BitVec 1) (s : State) : Out :=
  issue (.vfp .fnma true (vf vd va vb m ms ds x)) (encV3 0x1b vd va vb m ms ds x 0x7)
    0 0 vb.toNat none [vb.toNat] s

/-- VFMS_VS (R180). -/
def execVfmsVs (vd : BitVec 5) (va : BitVec 5) (vb : BitVec 5) (m : BitVec 1) (ms : BitVec 3) (ds : BitVec 2) (x : BitVec 1) (s : State) : Out :=
  issue (.vfp .fms true (vf vd va vb m ms ds x)) (encV3 0x1b vd va vb m ms ds x 0x8)
    0 0 vb.toNat none [vb.toNat] s

/-- VFCSIGN_VS (R180). -/
def execVfcsignVs (vd : BitVec 5) (va : BitVec 5) (vb : BitVec 5) (m : BitVec 1) (ms : BitVec 3) (ds : BitVec 2) (x : BitVec 1) (s : State) : Out :=
  issue (.vfp .csign true (vf vd va vb m ms ds x)) (encV3 0x1b vd va vb m ms ds x 0x9)
    0 0 vb.toNat none [vb.toNat] s

/-- VFNSIGN_VS (R180). -/
def execVfnsignVs (vd : BitVec 5) (va : BitVec 5) (vb : BitVec 5) (m : BitVec 1) (ms : BitVec 3) (ds : BitVec 2) (x : BitVec 1) (s : State) : Out :=
  issue (.vfp .nsign true (vf vd va vb m ms ds x)) (encV3 0x1b vd va vb m ms ds x 0xa)
    0 0 vb.toNat none [vb.toNat] s

/-- VFXSIGN_VS (R180). -/
def execVfxsignVs (vd : BitVec 5) (va : BitVec 5) (vb : BitVec 5) (m : BitVec 1) (ms : BitVec 3) (ds : BitVec 2) (x : BitVec 1) (s : State) : Out :=
  issue (.vfp .xsign true (vf vd va vb m ms ds x)) (encV3 0x1b vd va vb m ms ds x 0xb)
    0 0 vb.toNat none [vb.toNat] s

/-- VFKIND_VS (R180). -/
def execVfkindVs (vd : BitVec 5) (va : BitVec 5) (vb : BitVec 5) (m : BitVec 1) (ms : BitVec 3) (ds : BitVec 2) (x : BitVec 1) (s : State) : Out :=
  issue (.vfp .kind true (vf vd va vb m ms ds x)) (encV3 0x1b vd va vb m ms ds x 0xc)
    0 0 vb.toNat none [vb.toNat] s

/-- VFSUBR_VS (R180). -/
def execVfsubrVs (vd : BitVec 5) (va : BitVec 5) (vb : BitVec 5) (m : BitVec 1) (ms : BitVec 3) (ds : BitVec 2) (x : BitVec 1) (s : State) : Out :=
  issue (.vfp .subr true (vf vd va vb m ms ds x)) (encV3 0x1b vd va vb m ms ds x 0xd)
    0 0 vb.toNat none [vb.toNat] s

/-- VFSQRT (R182). -/
def execVfsqrt (vd : BitVec 5) (va : BitVec 5) (m : BitVec 1) (ms : BitVec 3) (ds : BitVec 2) (x : BitVec 1) (s : State) : Out :=
  issue (.vspec .sqrt (vf vd va 0 m ms ds x)) (encV3 0x1c vd va 0x0 m ms ds x 0x0)
    0 0 0 none [] s

/-- VFRCP (R182). -/
def execVfrcp (vd : BitVec 5) (va : BitVec 5) (m : BitVec 1) (ms : BitVec 3) (ds : BitVec 2) (x : BitVec 1) (s : State) : Out :=
  issue (.vspec .rcp (vf vd va 0 m ms ds x)) (encV3 0x1c vd va 0x0 m ms ds x 0x1)
    0 0 0 none [] s

/-- VFRSQRT (R182). -/
def execVfrsqrt (vd : BitVec 5) (va : BitVec 5) (m : BitVec 1) (ms : BitVec 3) (ds : BitVec 2) (x : BitVec 1) (s : State) : Out :=
  issue (.vspec .rsqrt (vf vd va 0 m ms ds x)) (encV3 0x1c vd va 0x0 m ms ds x 0x2)
    0 0 0 none [] s

/-- VFEXP2 (R182). -/
def execVfexp2 (vd : BitVec 5) (va : BitVec 5) (m : BitVec 1) (ms : BitVec 3) (ds : BitVec 2) (x : BitVec 1) (s : State) : Out :=
  issue (.vspec .exp2 (vf vd va 0 m ms ds x)) (encV3 0x1c vd va 0x0 m ms ds x 0x3)
    0 0 0 none [] s

/-- VFLOG2 (R182). -/
def execVflog2 (vd : BitVec 5) (va : BitVec 5) (m : BitVec 1) (ms : BitVec 3) (ds : BitVec 2) (x : BitVec 1) (s : State) : Out :=
  issue (.vspec .log2 (vf vd va 0 m ms ds x)) (encV3 0x1c vd va 0x0 m ms ds x 0x4)
    0 0 0 none [] s

/-- VFEXP (R182). -/
def execVfexp (vd : BitVec 5) (va : BitVec 5) (m : BitVec 1) (ms : BitVec 3) (ds : BitVec 2) (x : BitVec 1) (s : State) : Out :=
  issue (.vspec .exp (vf vd va 0 m ms ds x)) (encV3 0x1c vd va 0x0 m ms ds x 0x5)
    0 0 0 none [] s

/-- VFLOG (R182). -/
def execVflog (vd : BitVec 5) (va : BitVec 5) (m : BitVec 1) (ms : BitVec 3) (ds : BitVec 2) (x : BitVec 1) (s : State) : Out :=
  issue (.vspec .log (vf vd va 0 m ms ds x)) (encV3 0x1c vd va 0x0 m ms ds x 0x6)
    0 0 0 none [] s

/-- VFTANH (R182). -/
def execVftanh (vd : BitVec 5) (va : BitVec 5) (m : BitVec 1) (ms : BitVec 3) (ds : BitVec 2) (x : BitVec 1) (s : State) : Out :=
  issue (.vspec .tanh (vf vd va 0 m ms ds x)) (encV3 0x1c vd va 0x0 m ms ds x 0x7)
    0 0 0 none [] s

/-- VFSIGM (R182). -/
def execVfsigm (vd : BitVec 5) (va : BitVec 5) (m : BitVec 1) (ms : BitVec 3) (ds : BitVec 2) (x : BitVec 1) (s : State) : Out :=
  issue (.vspec .sigm (vf vd va 0 m ms ds x)) (encV3 0x1c vd va 0x0 m ms ds x 0x8)
    0 0 0 none [] s

/-- VFGELU (R182). -/
def execVfgelu (vd : BitVec 5) (va : BitVec 5) (m : BitVec 1) (ms : BitVec 3) (ds : BitVec 2) (x : BitVec 1) (s : State) : Out :=
  issue (.vspec .gelu (vf vd va 0 m ms ds x)) (encV3 0x1c vd va 0x0 m ms ds x 0x9)
    0 0 0 none [] s

/-- VFSILU (R182). -/
def execVfsilu (vd : BitVec 5) (va : BitVec 5) (m : BitVec 1) (ms : BitVec 3) (ds : BitVec 2) (x : BitVec 1) (s : State) : Out :=
  issue (.vspec .silu (vf vd va 0 m ms ds x)) (encV3 0x1c vd va 0x0 m ms ds x 0xa)
    0 0 0 none [] s

/-- VFSIN (R182). -/
def execVfsin (vd : BitVec 5) (va : BitVec 5) (m : BitVec 1) (ms : BitVec 3) (ds : BitVec 2) (x : BitVec 1) (s : State) : Out :=
  issue (.vspec .sin (vf vd va 0 m ms ds x)) (encV3 0x1c vd va 0x0 m ms ds x 0xb)
    0 0 0 none [] s

/-- VFCOS (R182). -/
def execVfcos (vd : BitVec 5) (va : BitVec 5) (m : BitVec 1) (ms : BitVec 3) (ds : BitVec 2) (x : BitVec 1) (s : State) : Out :=
  issue (.vspec .cos (vf vd va 0 m ms ds x)) (encV3 0x1c vd va 0x0 m ms ds x 0xc)
    0 0 0 none [] s

/-- VFERF (R182), which this device leaves out (R97). -/
def execVferf (vd : BitVec 5) (va : BitVec 5) (m : BitVec 1) (ms : BitVec 3) (ds : BitVec 2) (x : BitVec 1) (s : State) : Out :=
  .next (s.trapHere (s.coreTrap (encV3 0x1c vd va 0x0 m ms ds x 0xd) (absentTrap (encV3 0x1c vd va 0x0 m ms ds x 0xd))))

/-- VCVT (R184). -/
def execVcvt (vd : BitVec 5) (va : BitVec 5) (fmt : BitVec 5) (m : BitVec 1) (ms : BitVec 3) (ds : BitVec 2) (x : BitVec 1) (s : State) : Out :=
  issue (.vcvt .cvt fmt.toNat (vf vd va 0 m ms ds x)) (encV3 0x1d vd va fmt m ms ds x 0x0)
    0 0 0 none [] s

/-- VWIDEN (R184). -/
def execVwiden (vd : BitVec 5) (va : BitVec 5) (fmt : BitVec 5) (m : BitVec 1) (ms : BitVec 3) (ds : BitVec 2) (x : BitVec 1) (s : State) : Out :=
  issue (.vcvt .widen fmt.toNat (vf vd va 0 m ms ds x)) (encV3 0x1d vd va fmt m ms ds x 0x1)
    0 0 0 none [] s

/-- VNARROW (R184). -/
def execVnarrow (vd : BitVec 5) (va : BitVec 5) (fmt : BitVec 5) (m : BitVec 1) (ms : BitVec 3) (ds : BitVec 2) (x : BitVec 1) (s : State) : Out :=
  issue (.vcvt .narrow fmt.toNat (vf vd va 0 m ms ds x)) (encV3 0x1d vd va fmt m ms ds x 0x2)
    0 0 0 none [] s

/-- VNARROWS (R184). -/
def execVnarrows (vd : BitVec 5) (va : BitVec 5) (fmt : BitVec 5) (m : BitVec 1) (ms : BitVec 3) (ds : BitVec 2) (x : BitVec 1) (s : State) : Out :=
  issue (.vcvt .narrows fmt.toNat (vf vd va 0 m ms ds x)) (encV3 0x1d vd va fmt m ms ds x 0x3)
    0 0 0 none [] s

/-- VMXPACK (R185). -/
def execVmxpack (vd : BitVec 5) (va : BitVec 5) (fmt : BitVec 5) (m : BitVec 1) (ms : BitVec 3) (ds : BitVec 2) (x : BitVec 1) (s : State) : Out :=
  issue (.vmxpack fmt.toNat (vf vd va 0 m ms ds x)) (encV3 0x1e vd va fmt m ms ds x 0x0)
    0 0 0 none [] s

/-- VMXUNPACK (R186). -/
def execVmxunpack (vd : BitVec 5) (va : BitVec 5) (fmt : BitVec 5) (m : BitVec 1) (ms : BitVec 3) (ds : BitVec 2) (x : BitVec 1) (s : State) : Out :=
  issue (.vmxunpack fmt.toNat (vf vd va 0 m ms ds x)) (encV3 0x1e vd va fmt m ms ds x 0x1)
    0 0 0 none [] s

/-- VAMAX (R187). -/
def execVamax (vd : BitVec 5) (va : BitVec 5) (m : BitVec 1) (ms : BitVec 3) (ds : BitVec 2) (x : BitVec 1) (s : State) : Out :=
  issue (.vamax (vf vd va 0 m ms ds x)) (encV3 0x1e vd va 0x0 m ms ds x 0x2)
    0 0 0 (some vd.toNat) [] s

/-- VSCALE (R188). -/
def execVscale (vd : BitVec 5) (va : BitVec 5) (fmt : BitVec 5) (x : BitVec 1) (s : State) : Out :=
  issue (.vscale fmt.toNat) (encV3 0x1e vd va fmt 0x0 0x0 0x0 x 0x3)
    0 va.toNat 0 (some vd.toNat) [va.toNat] s

/-- VQUANT (R189). -/
def execVquant (vd : BitVec 5) (va : BitVec 5) (vb : BitVec 5) (m : BitVec 1) (ms : BitVec 3) (ds : BitVec 2) (x : BitVec 1) (s : State) : Out :=
  issue (.vquant (vf vd va vb m ms ds x)) (encV3 0x1e vd va vb m ms ds x 0x4)
    0 0 vb.toNat none [vb.toNat] s

/-- VDEQUANT (R189). -/
def execVdequant (vd : BitVec 5) (va : BitVec 5) (vb : BitVec 5) (m : BitVec 1) (ms : BitVec 3) (ds : BitVec 2) (x : BitVec 1) (s : State) : Out :=
  issue (.vdequant (vf vd va vb m ms ds x)) (encV3 0x1e vd va vb m ms ds x 0x5)
    0 0 vb.toNat none [vb.toNat] s

/-- VBAMAX (R187). -/
def execVbamax (vd : BitVec 5) (va : BitVec 5) (m : BitVec 1) (ms : BitVec 3) (ds : BitVec 2) (x : BitVec 1) (s : State) : Out :=
  issue (.vbamax (vf vd va 0 m ms ds x)) (encV3 0x1e vd va 0x0 m ms ds x 0x6)
    0 0 0 none [] s

/-- VSUMR (R190). -/
def execVsumr (vd : BitVec 5) (va : BitVec 5) (vb : BitVec 5) (m : BitVec 1) (ms : BitVec 3) (ds : BitVec 2) (s : State) : Out :=
  issue (.vred .sum (vf vd va vb m ms ds 0)) (encV3 0x1f vd va vb m ms ds 0x0 0x0)
    0 0 vb.toNat (some vd.toNat) [vb.toNat] s

/-- VMAXR (R190). -/
def execVmaxr (vd : BitVec 5) (va : BitVec 5) (vb : BitVec 5) (m : BitVec 1) (ms : BitVec 3) (ds : BitVec 2) (s : State) : Out :=
  issue (.vred .max (vf vd va vb m ms ds 0)) (encV3 0x1f vd va vb m ms ds 0x0 0x1)
    0 0 vb.toNat (some vd.toNat) [vb.toNat] s

/-- VMINR (R190). -/
def execVminr (vd : BitVec 5) (va : BitVec 5) (vb : BitVec 5) (m : BitVec 1) (ms : BitVec 3) (ds : BitVec 2) (s : State) : Out :=
  issue (.vred .min (vf vd va vb m ms ds 0)) (encV3 0x1f vd va vb m ms ds 0x0 0x2)
    0 0 vb.toNat (some vd.toNat) [vb.toNat] s

/-- VMAXUR (R190). -/
def execVmaxur (vd : BitVec 5) (va : BitVec 5) (vb : BitVec 5) (m : BitVec 1) (ms : BitVec 3) (ds : BitVec 2) (s : State) : Out :=
  issue (.vred .maxu (vf vd va vb m ms ds 0)) (encV3 0x1f vd va vb m ms ds 0x0 0x3)
    0 0 vb.toNat (some vd.toNat) [vb.toNat] s

/-- VMINUR (R190). -/
def execVminur (vd : BitVec 5) (va : BitVec 5) (vb : BitVec 5) (m : BitVec 1) (ms : BitVec 3) (ds : BitVec 2) (s : State) : Out :=
  issue (.vred .minu (vf vd va vb m ms ds 0)) (encV3 0x1f vd va vb m ms ds 0x0 0x4)
    0 0 vb.toNat (some vd.toNat) [vb.toNat] s

/-- VANDR (R190). -/
def execVandr (vd : BitVec 5) (va : BitVec 5) (vb : BitVec 5) (m : BitVec 1) (ms : BitVec 3) (ds : BitVec 2) (s : State) : Out :=
  issue (.vred .and (vf vd va vb m ms ds 0)) (encV3 0x1f vd va vb m ms ds 0x0 0x5)
    0 0 vb.toNat (some vd.toNat) [vb.toNat] s

/-- VORR (R190). -/
def execVorr (vd : BitVec 5) (va : BitVec 5) (vb : BitVec 5) (m : BitVec 1) (ms : BitVec 3) (ds : BitVec 2) (s : State) : Out :=
  issue (.vred .or (vf vd va vb m ms ds 0)) (encV3 0x1f vd va vb m ms ds 0x0 0x6)
    0 0 vb.toNat (some vd.toNat) [vb.toNat] s

/-- VXORR (R190). -/
def execVxorr (vd : BitVec 5) (va : BitVec 5) (vb : BitVec 5) (m : BitVec 1) (ms : BitVec 3) (ds : BitVec 2) (s : State) : Out :=
  issue (.vred .xor (vf vd va vb m ms ds 0)) (encV3 0x1f vd va vb m ms ds 0x0 0x7)
    0 0 vb.toNat (some vd.toNat) [vb.toNat] s

/-- VFSUMR (R191). -/
def execVfsumr (vd : BitVec 5) (va : BitVec 5) (vb : BitVec 5) (m : BitVec 1) (ms : BitVec 3) (ds : BitVec 2) (x : BitVec 1) (s : State) : Out :=
  issue (.vred .fsum (vf vd va vb m ms ds x)) (encV3 0x1f vd va vb m ms ds x 0x8)
    0 0 vb.toNat (some vd.toNat) [vb.toNat] s

/-- VFMAXR (R190). -/
def execVfmaxr (vd : BitVec 5) (va : BitVec 5) (vb : BitVec 5) (m : BitVec 1) (ms : BitVec 3) (ds : BitVec 2) (x : BitVec 1) (s : State) : Out :=
  issue (.vred .fmax (vf vd va vb m ms ds x)) (encV3 0x1f vd va vb m ms ds x 0x9)
    0 0 vb.toNat (some vd.toNat) [vb.toNat] s

/-- VFMINR (R190). -/
def execVfminr (vd : BitVec 5) (va : BitVec 5) (vb : BitVec 5) (m : BitVec 1) (ms : BitVec 3) (ds : BitVec 2) (x : BitVec 1) (s : State) : Out :=
  issue (.vred .fmin (vf vd va vb m ms ds x)) (encV3 0x1f vd va vb m ms ds x 0xa)
    0 0 vb.toNat (some vd.toNat) [vb.toNat] s

/-- VSHUP (R192). -/
def execVshup (vd : BitVec 5) (va : BitVec 5) (vb : BitVec 5) (m : BitVec 1) (ms : BitVec 3) (ds : BitVec 2) (s : State) : Out :=
  issue (.vperm .shup (vf vd va vb m ms ds 0)) (encV3 0x20 vd va vb m ms ds 0x0 0x0)
    0 0 vb.toNat none [vb.toNat] s

/-- VSHDN (R192). -/
def execVshdn (vd : BitVec 5) (va : BitVec 5) (vb : BitVec 5) (m : BitVec 1) (ms : BitVec 3) (ds : BitVec 2) (s : State) : Out :=
  issue (.vperm .shdn (vf vd va vb m ms ds 0)) (encV3 0x20 vd va vb m ms ds 0x0 0x1)
    0 0 vb.toNat none [vb.toNat] s

/-- VGATHER (R192). -/
def execVgather (vd : BitVec 5) (va : BitVec 5) (vb : BitVec 5) (m : BitVec 1) (ms : BitVec 3) (ds : BitVec 2) (s : State) : Out :=
  issue (.vperm .gather (vf vd va vb m ms ds 0)) (encV3 0x20 vd va vb m ms ds 0x0 0x2)
    0 0 0 none [] s

/-- VCOMPRESS (R193). -/
def execVcompress (vd : BitVec 5) (va : BitVec 5) (vb : BitVec 5) (m : BitVec 1) (ms : BitVec 3) (ds : BitVec 2) (s : State) : Out :=
  issue (.vperm .compress (vf vd va vb m ms ds 0)) (encV3 0x20 vd va vb m ms ds 0x0 0x3)
    0 0 0 (some vb.toNat) [] s

/-- VEXPAND (R192). -/
def execVexpand (vd : BitVec 5) (va : BitVec 5) (m : BitVec 1) (ms : BitVec 3) (ds : BitVec 2) (s : State) : Out :=
  issue (.vperm .expand (vf vd va 0 m ms ds 0)) (encV3 0x20 vd va 0x0 m ms ds 0x0 0x4)
    0 0 0 none [] s

/-- VMERGE (R192). -/
def execVmerge (vd : BitVec 5) (va : BitVec 5) (vb : BitVec 5) (m : BitVec 1) (ms : BitVec 3) (ds : BitVec 2) (s : State) : Out :=
  issue (.vperm .merge (vf vd va vb m ms ds 0)) (encV3 0x20 vd va vb m ms ds 0x0 0x5)
    0 0 0 none [] s

/-- VMOVE (R192). -/
def execVmove (vd : BitVec 5) (va : BitVec 5) (m : BitVec 1) (ms : BitVec 3) (ds : BitVec 2) (s : State) : Out :=
  issue (.vperm .move (vf vd va 0 m ms ds 0)) (encV3 0x20 vd va 0x0 m ms ds 0x0 0x6)
    0 0 0 none [] s

/-- VSPLAT (R192). -/
def execVsplat (vd : BitVec 5) (va : BitVec 5) (m : BitVec 1) (ms : BitVec 3) (ds : BitVec 2) (s : State) : Out :=
  issue (.vperm .splat (vf vd va 0 m ms ds 0)) (encV3 0x20 vd va 0x0 m ms ds 0x0 0x7)
    0 va.toNat 0 none [va.toNat] s

/-- VHEAD (R192). -/
def execVhead (vd : BitVec 5) (va : BitVec 5) (ds : BitVec 2) (s : State) : Out :=
  issue (.vperm .head (vf vd va 0 0 0 ds 0)) (encV3 0x20 vd va 0x0 0x0 0x0 ds 0x0 0x8)
    0 0 0 (some vd.toNat) [] s

/-- VACNT (R192). -/
def execVacnt (vd : BitVec 5) (m : BitVec 1) (ms : BitVec 3) (ds : BitVec 2) (s : State) : Out :=
  issue (.vperm .acnt (vf vd 0 0 m ms ds 0)) (encV3 0x20 vd 0x0 0x0 m ms ds 0x0 0x9)
    0 0 0 none [] s

/-- VXUP (R194). -/
def execVxup (vd : BitVec 5) (va : BitVec 5) (vb : BitVec 5) (m : BitVec 1) (ms : BitVec 3) (ds : BitVec 2) (s : State) : Out :=
  issue (.vperm .xup (vf vd va vb m ms ds 0)) (encV3 0x20 vd va vb m ms ds 0x0 0xa)
    0 0 vb.toNat none [vb.toNat] s

/-- VXDN (R194). -/
def execVxdn (vd : BitVec 5) (va : BitVec 5) (vb : BitVec 5) (m : BitVec 1) (ms : BitVec 3) (ds : BitVec 2) (s : State) : Out :=
  issue (.vperm .xdn (vf vd va vb m ms ds 0)) (encV3 0x20 vd va vb m ms ds 0x0 0xb)
    0 0 vb.toNat none [vb.toNat] s

/-- VXBC (R194). -/
def execVxbc (vd : BitVec 5) (va : BitVec 5) (vb : BitVec 5) (m : BitVec 1) (ms : BitVec 3) (ds : BitVec 2) (s : State) : Out :=
  issue (.vperm .xbc (vf vd va vb m ms ds 0)) (encV3 0x20 vd va vb m ms ds 0x0 0xc)
    0 0 vb.toNat none [vb.toNat] s

/-- VXREV (R194). -/
def execVxrev (vd : BitVec 5) (va : BitVec 5) (m : BitVec 1) (ms : BitVec 3) (ds : BitVec 2) (s : State) : Out :=
  issue (.vperm .xrev (vf vd va 0 m ms ds 0)) (encV3 0x20 vd va 0x0 m ms ds 0x0 0xd)
    0 0 0 none [] s

/-- VUNPACK (R196). -/
def execVunpack (vd : BitVec 5) (va : BitVec 5) (vb : BitVec 5) (m : BitVec 1) (ms : BitVec 3) (ds : BitVec 2) (s : State) : Out :=
  issue (.vbits .unpack (vf vd va vb m ms ds 0)) (encV3 0x21 vd va vb m ms ds 0x0 0x0)
    0 0 vb.toNat none [vb.toNat] s

/-- VBEXT (R196). -/
def execVbext (vd : BitVec 5) (va : BitVec 5) (vb : BitVec 5) (m : BitVec 1) (ms : BitVec 3) (ds : BitVec 2) (s : State) : Out :=
  issue (.vbits .bext (vf vd va vb m ms ds 0)) (encV3 0x21 vd va vb m ms ds 0x0 0x1)
    0 0 0 none [] s

/-- VFSL (R196). -/
def execVfsl (vd : BitVec 5) (va : BitVec 5) (vb : BitVec 5) (m : BitVec 1) (ms : BitVec 3) (ds : BitVec 2) (s : State) : Out :=
  issue (.vbits .fsl (vf vd va vb m ms ds 0)) (encV3 0x21 vd va vb m ms ds 0x0 0x2)
    0 0 0 none [] s

/-- VFSR (R196). -/
def execVfsr (vd : BitVec 5) (va : BitVec 5) (vb : BitVec 5) (m : BitVec 1) (ms : BitVec 3) (ds : BitVec 2) (s : State) : Out :=
  issue (.vbits .fsr (vf vd va vb m ms ds 0)) (encV3 0x21 vd va vb m ms ds 0x0 0x3)
    0 0 0 none [] s

/-- VLUT (R196). -/
def execVlut (vd : BitVec 5) (va : BitVec 5) (vb : BitVec 5) (m : BitVec 1) (ms : BitVec 3) (ds : BitVec 2) (s : State) : Out :=
  issue (.vbits .lut (vf vd va vb m ms ds 0)) (encV3 0x21 vd va vb m ms ds 0x0 0x4)
    0 0 0 none [] s

/-- VCLZ (R196). -/
def execVclz (vd : BitVec 5) (va : BitVec 5) (m : BitVec 1) (ms : BitVec 3) (ds : BitVec 2) (s : State) : Out :=
  issue (.vbits .clz (vf vd va 0 m ms ds 0)) (encV3 0x21 vd va 0x0 m ms ds 0x0 0x5)
    0 0 0 none [] s

/-- VCTZ (R196). -/
def execVctz (vd : BitVec 5) (va : BitVec 5) (m : BitVec 1) (ms : BitVec 3) (ds : BitVec 2) (s : State) : Out :=
  issue (.vbits .ctz (vf vd va 0 m ms ds 0)) (encV3 0x21 vd va 0x0 m ms ds 0x0 0x6)
    0 0 0 none [] s

/-- VPOPC (R196). -/
def execVpopc (vd : BitVec 5) (va : BitVec 5) (m : BitVec 1) (ms : BitVec 3) (ds : BitVec 2) (s : State) : Out :=
  issue (.vbits .popc (vf vd va 0 m ms ds 0)) (encV3 0x21 vd va 0x0 m ms ds 0x0 0x7)
    0 0 0 none [] s

/-- VBREV (R196). -/
def execVbrev (vd : BitVec 5) (va : BitVec 5) (m : BitVec 1) (ms : BitVec 3) (ds : BitVec 2) (s : State) : Out :=
  issue (.vbits .brev (vf vd va 0 m ms ds 0)) (encV3 0x21 vd va 0x0 m ms ds 0x0 0x8)
    0 0 0 none [] s

/-- VCFG (R165). -/
def execVcfg (n : BitVec 5) (s : State) : Out :=
  issue (.vcfg (2 ^ (n.toNat + 2))) (encV3 0x22 0x0 0x0 n 0x0 0x0 0x0 0x0 0x0)
    0 0 0 none [] s

/-- VSETVL (R169). -/
def execVsetvl (vd : BitVec 5) (va : BitVec 5) (vb : BitVec 5) (ds : BitVec 2) (s : State) : Out :=
  vsetOp ((s.me.s vb.toNat).extractLsb' 0 16) ds.toNat vd va [va.toNat, vb.toNat] (encV3 0x22 vd va vb 0x0 0x0 ds 0x0 0x1) s

/-- VSETVLI (R169). -/
def execVsetvli (rd : BitVec 5) (ra : BitVec 5) (imm : BitVec 16) (s : State) : Out :=
  vsetOp imm 0 rd ra [ra.toNat] (encSI 0x23 rd ra imm) s

/-- VLD (R199). -/
def execVld (vd : BitVec 5) (va : BitVec 5) (m : BitVec 1) (ms : BitVec 3) (ds : BitVec 2) (s : State) : Out :=
  issue (.vmem .ld (vf vd va 0 m ms ds 0)) (encV3 0x24 vd va 0x0 m ms ds 0x0 0x0)
    0 va.toNat 0 none [va.toNat] s

/-- VLDS (R199). -/
def execVlds (vd : BitVec 5) (va : BitVec 5) (vb : BitVec 5) (m : BitVec 1) (ms : BitVec 3) (ds : BitVec 2) (s : State) : Out :=
  issue (.vmem .lds (vf vd va vb m ms ds 0)) (encV3 0x24 vd va vb m ms ds 0x0 0x1)
    0 va.toNat vb.toNat none [va.toNat, vb.toNat] s

/-- VLDX (R199). -/
def execVldx (vd : BitVec 5) (va : BitVec 5) (vb : BitVec 5) (m : BitVec 1) (ms : BitVec 3) (ds : BitVec 2) (s : State) : Out :=
  issue (.vmem .ldx (vf vd va vb m ms ds 0)) (encV3 0x24 vd va vb m ms ds 0x0 0x2)
    0 va.toNat 0 none [va.toNat] s

/-- VLDFF (R200). -/
def execVldff (vd : BitVec 5) (va : BitVec 5) (m : BitVec 1) (ms : BitVec 3) (ds : BitVec 2) (s : State) : Out :=
  issue (.vmem .ldff (vf vd va 0 m ms ds 0)) (encV3 0x24 vd va 0x0 m ms ds 0x0 0x3)
    0 va.toNat 0 none [va.toNat] s

/-- VST (R199). -/
def execVst (vd : BitVec 5) (va : BitVec 5) (m : BitVec 1) (ms : BitVec 3) (ds : BitVec 2) (s : State) : Out :=
  issue (.vmem (.st false) (vf vd va 0 m ms ds 0)) (encV3 0x24 vd va 0x0 m ms ds 0x0 0x4)
    0 va.toNat 0 none [va.toNat] s

/-- VSTS (R199). -/
def execVsts (vd : BitVec 5) (va : BitVec 5) (vb : BitVec 5) (m : BitVec 1) (ms : BitVec 3) (ds : BitVec 2) (s : State) : Out :=
  issue (.vmem (.sts false) (vf vd va vb m ms ds 0)) (encV3 0x24 vd va vb m ms ds 0x0 0x5)
    0 va.toNat vb.toNat none [va.toNat, vb.toNat] s

/-- VSTX (R199). -/
def execVstx (vd : BitVec 5) (va : BitVec 5) (vb : BitVec 5) (m : BitVec 1) (ms : BitVec 3) (ds : BitVec 2) (s : State) : Out :=
  issue (.vmem (.stx false) (vf vd va vb m ms ds 0)) (encV3 0x24 vd va vb m ms ds 0x0 0x6)
    0 va.toNat 0 none [va.toNat] s

/-- VST_U (R199). -/
def execVstU (vd : BitVec 5) (va : BitVec 5) (m : BitVec 1) (ms : BitVec 3) (ds : BitVec 2) (s : State) : Out :=
  issue (.vmem (.st true) (vf vd va 0 m ms ds 0)) (encV3 0x24 vd va 0x0 m ms ds 0x0 0xc)
    0 va.toNat 0 none [va.toNat] s

/-- VSTS_U (R199). -/
def execVstsU (vd : BitVec 5) (va : BitVec 5) (vb : BitVec 5) (m : BitVec 1) (ms : BitVec 3) (ds : BitVec 2) (s : State) : Out :=
  issue (.vmem (.sts true) (vf vd va vb m ms ds 0)) (encV3 0x24 vd va vb m ms ds 0x0 0xd)
    0 va.toNat vb.toNat none [va.toNat, vb.toNat] s

/-- VSTX_U (R199). -/
def execVstxU (vd : BitVec 5) (va : BitVec 5) (vb : BitVec 5) (m : BitVec 1) (ms : BitVec 3) (ds : BitVec 2) (s : State) : Out :=
  issue (.vmem (.stx true) (vf vd va vb m ms ds 0)) (encV3 0x24 vd va vb m ms ds 0x0 0xe)
    0 va.toNat 0 none [va.toNat] s

/-- GROW (R202). -/
def execGrow (vd : BitVec 5) (va : BitVec 5) (m : BitVec 1) (ms : BitVec 3) (ds : BitVec 2) (s : State) : Out :=
  issue (.gslice .row false (vf vd va 0 m ms ds 0)) (encV3 0x25 vd va 0x0 m ms ds 0x0 0x0)
    0 va.toNat 0 none [va.toNat] s

/-- GCOL (R202). -/
def execGcol (vd : BitVec 5) (va : BitVec 5) (m : BitVec 1) (ms : BitVec 3) (ds : BitVec 2) (s : State) : Out :=
  issue (.gslice .col false (vf vd va 0 m ms ds 0)) (encV3 0x25 vd va 0x0 m ms ds 0x0 0x1)
    0 va.toNat 0 none [va.toNat] s

/-- GDIAG (R202). -/
def execGdiag (vd : BitVec 5) (va : BitVec 5) (m : BitVec 1) (ms : BitVec 3) (ds : BitVec 2) (s : State) : Out :=
  issue (.gslice .diag false (vf vd va 0 m ms ds 0)) (encV3 0x25 vd va 0x0 m ms ds 0x0 0x2)
    0 va.toNat 0 none [va.toNat] s

/-- GROWS (R202). -/
def execGrows (vd : BitVec 5) (va : BitVec 5) (m : BitVec 1) (ms : BitVec 3) (ds : BitVec 2) (s : State) : Out :=
  issue (.gslice .row true (vf vd va 0 m ms ds 0)) (encV3 0x25 vd va 0x0 m ms ds 0x0 0x4)
    vd.toNat 0 0 none [vd.toNat] s

/-- GCOLS (R202). -/
def execGcols (vd : BitVec 5) (va : BitVec 5) (m : BitVec 1) (ms : BitVec 3) (ds : BitVec 2) (s : State) : Out :=
  issue (.gslice .col true (vf vd va 0 m ms ds 0)) (encV3 0x25 vd va 0x0 m ms ds 0x0 0x5)
    vd.toNat 0 0 none [vd.toNat] s

/-- GDIAGS (R202). -/
def execGdiags (vd : BitVec 5) (va : BitVec 5) (m : BitVec 1) (ms : BitVec 3) (ds : BitVec 2) (s : State) : Out :=
  issue (.gslice .diag true (vf vd va 0 m ms ds 0)) (encV3 0x25 vd va 0x0 m ms ds 0x0 0x6)
    vd.toNat 0 0 none [vd.toNat] s

/-- GPASS (R204). -/
def execGpass (vd : BitVec 5) (vb : BitVec 5) (s : State) : Out :=
  issue (.gpass vb.toNat) (encV3 0x25 vd 0x0 vb 0x0 0x0 0x0 0x0 0x8)
    vd.toNat 0 0 none [vd.toNat] s

/-- VMVQ (R197). -/
def execVmvq (vd : BitVec 5) (p : BitVec 1) (qn : BitVec 4) (m : BitVec 1) (ms : BitVec 3) (ds : BitVec 2) (s : State) : Out :=
  issue (.vqsrc .mv (p == 1) qn.toNat (vf vd 0 0 m ms ds 0)) (encVQ 0x26 vd 0x0 p qn m ms ds 0x0 0x0)
    0 0 0 none [] s

/-- VADDQ (R197). -/
def execVaddq (vd : BitVec 5) (va : BitVec 5) (p : BitVec 1) (qn : BitVec 4) (m : BitVec 1) (ms : BitVec 3) (ds : BitVec 2) (s : State) : Out :=
  issue (.vqsrc .add (p == 1) qn.toNat (vf vd va 0 m ms ds 0)) (encVQ 0x26 vd va p qn m ms ds 0x0 0x1)
    0 0 0 none [] s

/-- VSUBQ (R197). -/
def execVsubq (vd : BitVec 5) (va : BitVec 5) (p : BitVec 1) (qn : BitVec 4) (m : BitVec 1) (ms : BitVec 3) (ds : BitVec 2) (s : State) : Out :=
  issue (.vqsrc .sub (p == 1) qn.toNat (vf vd va 0 m ms ds 0)) (encVQ 0x26 vd va p qn m ms ds 0x0 0x2)
    0 0 0 none [] s

/-- VMULQ (R197). -/
def execVmulq (vd : BitVec 5) (va : BitVec 5) (p : BitVec 1) (qn : BitVec 4) (m : BitVec 1) (ms : BitVec 3) (ds : BitVec 2) (s : State) : Out :=
  issue (.vqsrc .mul (p == 1) qn.toNat (vf vd va 0 m ms ds 0)) (encVQ 0x26 vd va p qn m ms ds 0x0 0x3)
    0 0 0 none [] s

/-- VFADDQ (R197). -/
def execVfaddq (vd : BitVec 5) (va : BitVec 5) (p : BitVec 1) (qn : BitVec 4) (m : BitVec 1) (ms : BitVec 3) (ds : BitVec 2) (x : BitVec 1) (s : State) : Out :=
  issue (.vqsrc .fadd (p == 1) qn.toNat (vf vd va 0 m ms ds x)) (encVQ 0x26 vd va p qn m ms ds x 0x4)
    0 0 0 none [] s

/-- VFSUBQ (R197). -/
def execVfsubq (vd : BitVec 5) (va : BitVec 5) (p : BitVec 1) (qn : BitVec 4) (m : BitVec 1) (ms : BitVec 3) (ds : BitVec 2) (x : BitVec 1) (s : State) : Out :=
  issue (.vqsrc .fsub (p == 1) qn.toNat (vf vd va 0 m ms ds x)) (encVQ 0x26 vd va p qn m ms ds x 0x5)
    0 0 0 none [] s

/-- VFMULQ (R197). -/
def execVfmulq (vd : BitVec 5) (va : BitVec 5) (p : BitVec 1) (qn : BitVec 4) (m : BitVec 1) (ms : BitVec 3) (ds : BitVec 2) (x : BitVec 1) (s : State) : Out :=
  issue (.vqsrc .fmul (p == 1) qn.toNat (vf vd va 0 m ms ds x)) (encVQ 0x26 vd va p qn m ms ds x 0x6)
    0 0 0 none [] s

/-- VFMAQ (R197). -/
def execVfmaq (vd : BitVec 5) (va : BitVec 5) (p : BitVec 1) (qn : BitVec 4) (m : BitVec 1) (ms : BitVec 3) (ds : BitVec 2) (x : BitVec 1) (s : State) : Out :=
  issue (.vqsrc .fma (p == 1) qn.toNat (vf vd va 0 m ms ds x)) (encVQ 0x26 vd va p qn m ms ds x 0x7)
    0 0 0 none [] s

/-- VANDQ (R197). -/
def execVandq (vd : BitVec 5) (va : BitVec 5) (p : BitVec 1) (qn : BitVec 4) (m : BitVec 1) (ms : BitVec 3) (ds : BitVec 2) (s : State) : Out :=
  issue (.vqsrc .and (p == 1) qn.toNat (vf vd va 0 m ms ds 0)) (encVQ 0x26 vd va p qn m ms ds 0x0 0x8)
    0 0 0 none [] s

/-- VORQ (R197). -/
def execVorq (vd : BitVec 5) (va : BitVec 5) (p : BitVec 1) (qn : BitVec 4) (m : BitVec 1) (ms : BitVec 3) (ds : BitVec 2) (s : State) : Out :=
  issue (.vqsrc .or (p == 1) qn.toNat (vf vd va 0 m ms ds 0)) (encVQ 0x26 vd va p qn m ms ds 0x0 0x9)
    0 0 0 none [] s

/-- VXORQ (R197). -/
def execVxorq (vd : BitVec 5) (va : BitVec 5) (p : BitVec 1) (qn : BitVec 4) (m : BitVec 1) (ms : BitVec 3) (ds : BitVec 2) (s : State) : Out :=
  issue (.vqsrc .xor (p == 1) qn.toNat (vf vd va 0 m ms ds 0)) (encVQ 0x26 vd va p qn m ms ds 0x0 0xa)
    0 0 0 none [] s

/-- VENQ (R198). -/
def execVenq (va : BitVec 5) (qn : BitVec 4) (m : BitVec 1) (ms : BitVec 3) (ds : BitVec 2) (s : State) : Out :=
  issue (.venq qn.toNat (vf 0 va 0 m ms ds 0)) (encVQ 0x27 0x0 va 0x0 qn m ms ds 0x0 0x0)
    0 0 0 none [] s

/-- MAND (R205). -/
def execMand (md : BitVec 7) (ma : BitVec 7) (mb : BitVec 7) (s : State) : Out :=
  issue (.mask .and md.toNat ma.toNat mb.toNat) (encMK 0x28 md ma mb 0x0)
    0 0 0 none [] s

/-- MOR (R205). -/
def execMor (md : BitVec 7) (ma : BitVec 7) (mb : BitVec 7) (s : State) : Out :=
  issue (.mask .or md.toNat ma.toNat mb.toNat) (encMK 0x28 md ma mb 0x1)
    0 0 0 none [] s

/-- MXOR (R205). -/
def execMxor (md : BitVec 7) (ma : BitVec 7) (mb : BitVec 7) (s : State) : Out :=
  issue (.mask .xor md.toNat ma.toNat mb.toNat) (encMK 0x28 md ma mb 0x2)
    0 0 0 none [] s

/-- MANDN (R205). -/
def execMandn (md : BitVec 7) (ma : BitVec 7) (mb : BitVec 7) (s : State) : Out :=
  issue (.mask .andn md.toNat ma.toNat mb.toNat) (encMK 0x28 md ma mb 0x3)
    0 0 0 none [] s

/-- MORN (R205). -/
def execMorn (md : BitVec 7) (ma : BitVec 7) (mb : BitVec 7) (s : State) : Out :=
  issue (.mask .orn md.toNat ma.toNat mb.toNat) (encMK 0x28 md ma mb 0x4)
    0 0 0 none [] s

/-- MNAND (R205). -/
def execMnand (md : BitVec 7) (ma : BitVec 7) (mb : BitVec 7) (s : State) : Out :=
  issue (.mask .nand md.toNat ma.toNat mb.toNat) (encMK 0x28 md ma mb 0x5)
    0 0 0 none [] s

/-- MNOR (R205). -/
def execMnor (md : BitVec 7) (ma : BitVec 7) (mb : BitVec 7) (s : State) : Out :=
  issue (.mask .nor md.toNat ma.toNat mb.toNat) (encMK 0x28 md ma mb 0x6)
    0 0 0 none [] s

/-- MXNOR (R205). -/
def execMxnor (md : BitVec 7) (ma : BitVec 7) (mb : BitVec 7) (s : State) : Out :=
  issue (.mask .xnor md.toNat ma.toNat mb.toNat) (encMK 0x28 md ma mb 0x7)
    0 0 0 none [] s

/-- MMV (R205). -/
def execMmv (md : BitVec 7) (ma : BitVec 7) (s : State) : Out :=
  issue (.mask .mv md.toNat ma.toNat 0) (encMK 0x28 md ma 0x0 0x8)
    0 0 0 none [] s

/-- MNOT (R205). -/
def execMnot (md : BitVec 7) (ma : BitVec 7) (s : State) : Out :=
  issue (.mask .not md.toNat ma.toNat 0) (encMK 0x28 md ma 0x0 0x9)
    0 0 0 none [] s

/-- MSET (R205). -/
def execMset (md : BitVec 7) (s : State) : Out :=
  issue (.mask .set md.toNat 0 0) (encMK 0x28 md 0x0 0x0 0xa)
    0 0 0 none [] s

/-- MCLR (R205). -/
def execMclr (md : BitVec 7) (s : State) : Out :=
  issue (.mask .clr md.toNat 0 0) (encMK 0x28 md 0x0 0x0 0xb)
    0 0 0 none [] s

/-- MSBF (R205). -/
def execMsbf (md : BitVec 7) (ma : BitVec 7) (s : State) : Out :=
  issue (.mask .sbf md.toNat ma.toNat 0) (encMK 0x28 md ma 0x0 0xc)
    0 0 0 none [] s

/-- MSIF (R205). -/
def execMsif (md : BitVec 7) (ma : BitVec 7) (s : State) : Out :=
  issue (.mask .sif md.toNat ma.toNat 0) (encMK 0x28 md ma 0x0 0xd)
    0 0 0 none [] s

/-- MSOF (R205). -/
def execMsof (md : BitVec 7) (ma : BitVec 7) (s : State) : Out :=
  issue (.mask .sof md.toNat ma.toNat 0) (encMK 0x28 md ma 0x0 0xe)
    0 0 0 none [] s

/-- MPOPC (R205). -/
def execMpopc (md : BitVec 7) (ma : BitVec 7) (s : State) : Out :=
  issue (.mask .popc md.toNat ma.toNat 0) (encMK 0x28 md ma 0x0 0xf)
    0 0 0 (some md.toNat) [] s

/-- MFIRST (R205). -/
def execMfirst (md : BitVec 7) (ma : BitVec 7) (s : State) : Out :=
  issue (.mask .first md.toNat ma.toNat 0) (encMK 0x28 md ma 0x0 0x10)
    0 0 0 (some md.toNat) [] s

/-- MLD (R206). -/
def execMld (md : BitVec 7) (ma : BitVec 7) (s : State) : Out :=
  issue (.mask .ld md.toNat ma.toNat 0) (encMK 0x28 md ma 0x0 0x11)
    0 ma.toNat 0 none [ma.toNat] s

/-- MST (R206). -/
def execMst (md : BitVec 7) (ma : BitVec 7) (s : State) : Out :=
  issue (.mask .st md.toNat ma.toNat 0) (encMK 0x28 md ma 0x0 0x12)
    md.toNat 0 0 none [md.toNat] s

/-- VCEQ (R183). -/
def execVceq (vd : BitVec 5) (va : BitVec 5) (vb : BitVec 5) (m : BitVec 1) (ms : BitVec 3) (ds : BitVec 2) (s : State) : Out :=
  issue (.vcmp .eq false (vf vd va vb m ms ds 0)) (encV3 0x29 vd va vb m ms ds 0x0 0x0)
    0 0 0 none [] s

/-- VCNE (R183). -/
def execVcne (vd : BitVec 5) (va : BitVec 5) (vb : BitVec 5) (m : BitVec 1) (ms : BitVec 3) (ds : BitVec 2) (s : State) : Out :=
  issue (.vcmp .ne false (vf vd va vb m ms ds 0)) (encV3 0x29 vd va vb m ms ds 0x0 0x1)
    0 0 0 none [] s

/-- VCLT (R183). -/
def execVclt (vd : BitVec 5) (va : BitVec 5) (vb : BitVec 5) (m : BitVec 1) (ms : BitVec 3) (ds : BitVec 2) (s : State) : Out :=
  issue (.vcmp .lt false (vf vd va vb m ms ds 0)) (encV3 0x29 vd va vb m ms ds 0x0 0x2)
    0 0 0 none [] s

/-- VCLTU (R183). -/
def execVcltu (vd : BitVec 5) (va : BitVec 5) (vb : BitVec 5) (m : BitVec 1) (ms : BitVec 3) (ds : BitVec 2) (s : State) : Out :=
  issue (.vcmp .ltu false (vf vd va vb m ms ds 0)) (encV3 0x29 vd va vb m ms ds 0x0 0x3)
    0 0 0 none [] s

/-- VCLE (R183). -/
def execVcle (vd : BitVec 5) (va : BitVec 5) (vb : BitVec 5) (m : BitVec 1) (ms : BitVec 3) (ds : BitVec 2) (s : State) : Out :=
  issue (.vcmp .le false (vf vd va vb m ms ds 0)) (encV3 0x29 vd va vb m ms ds 0x0 0x4)
    0 0 0 none [] s

/-- VCLEU (R183). -/
def execVcleu (vd : BitVec 5) (va : BitVec 5) (vb : BitVec 5) (m : BitVec 1) (ms : BitVec 3) (ds : BitVec 2) (s : State) : Out :=
  issue (.vcmp .leu false (vf vd va vb m ms ds 0)) (encV3 0x29 vd va vb m ms ds 0x0 0x5)
    0 0 0 none [] s

/-- VCGT (R183). -/
def execVcgt (vd : BitVec 5) (va : BitVec 5) (vb : BitVec 5) (m : BitVec 1) (ms : BitVec 3) (ds : BitVec 2) (s : State) : Out :=
  issue (.vcmp .gt false (vf vd va vb m ms ds 0)) (encV3 0x29 vd va vb m ms ds 0x0 0x6)
    0 0 0 none [] s

/-- VCGTU (R183). -/
def execVcgtu (vd : BitVec 5) (va : BitVec 5) (vb : BitVec 5) (m : BitVec 1) (ms : BitVec 3) (ds : BitVec 2) (s : State) : Out :=
  issue (.vcmp .gtu false (vf vd va vb m ms ds 0)) (encV3 0x29 vd va vb m ms ds 0x0 0x7)
    0 0 0 none [] s

/-- VFCEQ (R183). -/
def execVfceq (vd : BitVec 5) (va : BitVec 5) (vb : BitVec 5) (m : BitVec 1) (ms : BitVec 3) (ds : BitVec 2) (x : BitVec 1) (s : State) : Out :=
  issue (.vcmp .feq false (vf vd va vb m ms ds x)) (encV3 0x29 vd va vb m ms ds x 0x8)
    0 0 0 none [] s

/-- VFCNE (R183). -/
def execVfcne (vd : BitVec 5) (va : BitVec 5) (vb : BitVec 5) (m : BitVec 1) (ms : BitVec 3) (ds : BitVec 2) (x : BitVec 1) (s : State) : Out :=
  issue (.vcmp .fne false (vf vd va vb m ms ds x)) (encV3 0x29 vd va vb m ms ds x 0x9)
    0 0 0 none [] s

/-- VFCLT (R183). -/
def execVfclt (vd : BitVec 5) (va : BitVec 5) (vb : BitVec 5) (m : BitVec 1) (ms : BitVec 3) (ds : BitVec 2) (x : BitVec 1) (s : State) : Out :=
  issue (.vcmp .flt false (vf vd va vb m ms ds x)) (encV3 0x29 vd va vb m ms ds x 0xa)
    0 0 0 none [] s

/-- VFCLE (R183). -/
def execVfcle (vd : BitVec 5) (va : BitVec 5) (vb : BitVec 5) (m : BitVec 1) (ms : BitVec 3) (ds : BitVec 2) (x : BitVec 1) (s : State) : Out :=
  issue (.vcmp .fle false (vf vd va vb m ms ds x)) (encV3 0x29 vd va vb m ms ds x 0xb)
    0 0 0 none [] s

/-- VFCGT (R183). -/
def execVfcgt (vd : BitVec 5) (va : BitVec 5) (vb : BitVec 5) (m : BitVec 1) (ms : BitVec 3) (ds : BitVec 2) (x : BitVec 1) (s : State) : Out :=
  issue (.vcmp .fgt false (vf vd va vb m ms ds x)) (encV3 0x29 vd va vb m ms ds x 0xc)
    0 0 0 none [] s

/-- VFCGE (R183). -/
def execVfcge (vd : BitVec 5) (va : BitVec 5) (vb : BitVec 5) (m : BitVec 1) (ms : BitVec 3) (ds : BitVec 2) (x : BitVec 1) (s : State) : Out :=
  issue (.vcmp .fge false (vf vd va vb m ms ds x)) (encV3 0x29 vd va vb m ms ds x 0xd)
    0 0 0 none [] s

/-- VFCUN (R183). -/
def execVfcun (vd : BitVec 5) (va : BitVec 5) (vb : BitVec 5) (m : BitVec 1) (ms : BitVec 3) (ds : BitVec 2) (x : BitVec 1) (s : State) : Out :=
  issue (.vcmp .fcun false (vf vd va vb m ms ds x)) (encV3 0x29 vd va vb m ms ds x 0xe)
    0 0 0 none [] s

/-- VCEQ_VS (R183). -/
def execVceqVs (vd : BitVec 5) (va : BitVec 5) (vb : BitVec 5) (m : BitVec 1) (ms : BitVec 3) (ds : BitVec 2) (s : State) : Out :=
  issue (.vcmp .eq true (vf vd va vb m ms ds 0)) (encV3 0x2a vd va vb m ms ds 0x0 0x0)
    0 0 vb.toNat none [vb.toNat] s

/-- VCNE_VS (R183). -/
def execVcneVs (vd : BitVec 5) (va : BitVec 5) (vb : BitVec 5) (m : BitVec 1) (ms : BitVec 3) (ds : BitVec 2) (s : State) : Out :=
  issue (.vcmp .ne true (vf vd va vb m ms ds 0)) (encV3 0x2a vd va vb m ms ds 0x0 0x1)
    0 0 vb.toNat none [vb.toNat] s

/-- VCLT_VS (R183). -/
def execVcltVs (vd : BitVec 5) (va : BitVec 5) (vb : BitVec 5) (m : BitVec 1) (ms : BitVec 3) (ds : BitVec 2) (s : State) : Out :=
  issue (.vcmp .lt true (vf vd va vb m ms ds 0)) (encV3 0x2a vd va vb m ms ds 0x0 0x2)
    0 0 vb.toNat none [vb.toNat] s

/-- VCLTU_VS (R183). -/
def execVcltuVs (vd : BitVec 5) (va : BitVec 5) (vb : BitVec 5) (m : BitVec 1) (ms : BitVec 3) (ds : BitVec 2) (s : State) : Out :=
  issue (.vcmp .ltu true (vf vd va vb m ms ds 0)) (encV3 0x2a vd va vb m ms ds 0x0 0x3)
    0 0 vb.toNat none [vb.toNat] s

/-- VCLE_VS (R183). -/
def execVcleVs (vd : BitVec 5) (va : BitVec 5) (vb : BitVec 5) (m : BitVec 1) (ms : BitVec 3) (ds : BitVec 2) (s : State) : Out :=
  issue (.vcmp .le true (vf vd va vb m ms ds 0)) (encV3 0x2a vd va vb m ms ds 0x0 0x4)
    0 0 vb.toNat none [vb.toNat] s

/-- VCLEU_VS (R183). -/
def execVcleuVs (vd : BitVec 5) (va : BitVec 5) (vb : BitVec 5) (m : BitVec 1) (ms : BitVec 3) (ds : BitVec 2) (s : State) : Out :=
  issue (.vcmp .leu true (vf vd va vb m ms ds 0)) (encV3 0x2a vd va vb m ms ds 0x0 0x5)
    0 0 vb.toNat none [vb.toNat] s

/-- VCGT_VS (R183). -/
def execVcgtVs (vd : BitVec 5) (va : BitVec 5) (vb : BitVec 5) (m : BitVec 1) (ms : BitVec 3) (ds : BitVec 2) (s : State) : Out :=
  issue (.vcmp .gt true (vf vd va vb m ms ds 0)) (encV3 0x2a vd va vb m ms ds 0x0 0x6)
    0 0 vb.toNat none [vb.toNat] s

/-- VCGTU_VS (R183). -/
def execVcgtuVs (vd : BitVec 5) (va : BitVec 5) (vb : BitVec 5) (m : BitVec 1) (ms : BitVec 3) (ds : BitVec 2) (s : State) : Out :=
  issue (.vcmp .gtu true (vf vd va vb m ms ds 0)) (encV3 0x2a vd va vb m ms ds 0x0 0x7)
    0 0 vb.toNat none [vb.toNat] s

/-- VFCEQ_VS (R183). -/
def execVfceqVs (vd : BitVec 5) (va : BitVec 5) (vb : BitVec 5) (m : BitVec 1) (ms : BitVec 3) (ds : BitVec 2) (x : BitVec 1) (s : State) : Out :=
  issue (.vcmp .feq true (vf vd va vb m ms ds x)) (encV3 0x2a vd va vb m ms ds x 0x8)
    0 0 vb.toNat none [vb.toNat] s

/-- VFCNE_VS (R183). -/
def execVfcneVs (vd : BitVec 5) (va : BitVec 5) (vb : BitVec 5) (m : BitVec 1) (ms : BitVec 3) (ds : BitVec 2) (x : BitVec 1) (s : State) : Out :=
  issue (.vcmp .fne true (vf vd va vb m ms ds x)) (encV3 0x2a vd va vb m ms ds x 0x9)
    0 0 vb.toNat none [vb.toNat] s

/-- VFCLT_VS (R183). -/
def execVfcltVs (vd : BitVec 5) (va : BitVec 5) (vb : BitVec 5) (m : BitVec 1) (ms : BitVec 3) (ds : BitVec 2) (x : BitVec 1) (s : State) : Out :=
  issue (.vcmp .flt true (vf vd va vb m ms ds x)) (encV3 0x2a vd va vb m ms ds x 0xa)
    0 0 vb.toNat none [vb.toNat] s

/-- VFCLE_VS (R183). -/
def execVfcleVs (vd : BitVec 5) (va : BitVec 5) (vb : BitVec 5) (m : BitVec 1) (ms : BitVec 3) (ds : BitVec 2) (x : BitVec 1) (s : State) : Out :=
  issue (.vcmp .fle true (vf vd va vb m ms ds x)) (encV3 0x2a vd va vb m ms ds x 0xb)
    0 0 vb.toNat none [vb.toNat] s

/-- VFCGT_VS (R183). -/
def execVfcgtVs (vd : BitVec 5) (va : BitVec 5) (vb : BitVec 5) (m : BitVec 1) (ms : BitVec 3) (ds : BitVec 2) (x : BitVec 1) (s : State) : Out :=
  issue (.vcmp .fgt true (vf vd va vb m ms ds x)) (encV3 0x2a vd va vb m ms ds x 0xc)
    0 0 vb.toNat none [vb.toNat] s

/-- VFCGE_VS (R183). -/
def execVfcgeVs (vd : BitVec 5) (va : BitVec 5) (vb : BitVec 5) (m : BitVec 1) (ms : BitVec 3) (ds : BitVec 2) (x : BitVec 1) (s : State) : Out :=
  issue (.vcmp .fge true (vf vd va vb m ms ds x)) (encV3 0x2a vd va vb m ms ds x 0xd)
    0 0 vb.toNat none [vb.toNat] s

/-- VFCUN_VS (R183). -/
def execVfcunVs (vd : BitVec 5) (va : BitVec 5) (vb : BitVec 5) (m : BitVec 1) (ms : BitVec 3) (ds : BitVec 2) (x : BitVec 1) (s : State) : Out :=
  issue (.vcmp .fcun true (vf vd va vb m ms ds x)) (encV3 0x2a vd va vb m ms ds x 0xe)
    0 0 vb.toNat none [vb.toNat] s

end Sys2Proof.Machine
end

