-- ==== Sys2Proof/Machine/Units.lean ====
section
/-!
DEFINITION. The instructions of the tile, stream, copy, storage, link and fabric units as they issue, and of the f64 vector
major, which this device leaves out (03 R99, R110 to R112).
-/

namespace Sys2Proof.Machine

/-- The MX gang codes of TMULSP, which this device leaves out (03 R110). -/
def tmulspAbsent (gc : BitVec 5) : Bool := decide (6 ≤ gc.toNat) && decide (gc.toNat ≤ 13)

/-- The register that BATOM captures beside its operand: the expected value of a CAS (R366), else none. -/
def batomExpect (ctl : Word) (rb : Nat) : Nat := if ctl.extractLsb' 0 4 = 9 then rb + 1 else 0

/-- TMUL (R300). -/
def execTmul (qc : BitVec 5) (qr : BitVec 5) (sk : BitVec 5) (p : BitVec 1) (acc : BitVec 3) (ds : BitVec 2) (gc : BitVec 5) (s : State) : Out :=
  issue (.tmul qc.toNat qr.toNat sk.toNat (p == 1) acc.toNat ds.toNat gc.toNat) (encTL 0x2c qc qr sk p acc ds gc)
    0 0 sk.toNat none [sk.toNat] s

/-- TMULSP (R302). -/
def execTmulsp (qc : BitVec 5) (qr : BitVec 5) (sk : BitVec 5) (p : BitVec 1) (acc : BitVec 3) (ds : BitVec 2) (gc : BitVec 5) (s : State) : Out :=
  if tmulspAbsent gc then .next (s.trapHere (s.coreTrap (encTL 0x2d qc qr sk p acc ds gc) (absentTrap (encTL 0x2d qc qr sk p acc ds gc))))
  else issue (.tmulsp qc.toNat qr.toNat sk.toNat (p == 1) acc.toNat ds.toNat gc.toNat) (encTL 0x2d qc qr sk p acc ds gc)
    0 0 0 none [] s

/-- TMODE_ON (R286). -/
def execTmodeOn (vb : BitVec 5) (s : State) : Out :=
  issue (.tmodeOn (vb.toNat % 16)) (encV3 0x2e 0x0 0x0 vb 0x0 0x0 0x0 0x0 0x0)
    0 0 0 none [] s

/-- TMODE_OFF (R287). -/
def execTmodeOff (vb : BitVec 5) (s : State) : Out :=
  issue (.tmodeOff (vb.toNat % 16)) (encV3 0x2e 0x0 0x0 vb 0x0 0x0 0x0 0x0 0x1)
    0 0 0 none [] s

/-- TSHAPE (R289). -/
def execTshape (vd : BitVec 5) (va : BitVec 5) (vb : BitVec 5) (ds : BitVec 2) (s : State) : Out :=
  issue (.tshape ds.toNat) (encV3 0x2e vd va vb 0x0 0x0 ds 0x0 0x2)
    vd.toNat va.toNat vb.toNat none [vd.toNat, va.toNat, vb.toNat] s

/-- TZERO (R291). -/
def execTzero (vb : BitVec 5) (ds : BitVec 2) (s : State) : Out :=
  issue (.tzero vb.toNat ds.toNat) (encV3 0x2e 0x0 0x0 vb 0x0 0x0 ds 0x0 0x3)
    0 0 0 none [] s

/-- TRDR (R292). -/
def execTrdr (vd : BitVec 5) (va : BitVec 5) (ds : BitVec 2) (s : State) : Out :=
  issue (.trd false vd.toNat ds.toNat) (encV3 0x2e vd va 0x0 0x0 0x0 ds 0x0 0x4)
    0 va.toNat 0 none [va.toNat] s

/-- TRDC (R292). -/
def execTrdc (vd : BitVec 5) (va : BitVec 5) (ds : BitVec 2) (s : State) : Out :=
  issue (.trd true vd.toNat ds.toNat) (encV3 0x2e vd va 0x0 0x0 0x0 ds 0x0 0x5)
    0 va.toNat 0 none [va.toNat] s

/-- TWRR (R292). -/
def execTwrr (vd : BitVec 5) (va : BitVec 5) (ds : BitVec 2) (s : State) : Out :=
  issue (.twr false va.toNat ds.toNat) (encV3 0x2e vd va 0x0 0x0 0x0 ds 0x0 0x6)
    vd.toNat 0 0 none [vd.toNat] s

/-- TWRC (R292). -/
def execTwrc (vd : BitVec 5) (va : BitVec 5) (ds : BitVec 2) (s : State) : Out :=
  issue (.twr true va.toNat ds.toNat) (encV3 0x2e vd va 0x0 0x0 0x0 ds 0x0 0x7)
    vd.toNat 0 0 none [vd.toNat] s

/-- TPRED (R290). -/
def execTpred (ds : BitVec 2) (s : State) : Out :=
  issue (.tpred ds.toNat) (encV3 0x2e 0x0 0x0 0x0 0x0 0x0 ds 0x0 0x8)
    0 0 0 none [] s

/-- TSYNC (R293). -/
def execTsync (s : State) : Out :=
  issue (.tsync) (encV3 0x2e 0x0 0x0 0x0 0x0 0x0 0x0 0x0 0x9)
    0 0 0 none [] s

/-- SOPEN (R233). -/
def execSopen (qn : BitVec 5) (ra : BitVec 5) (ds : BitVec 2) (s : State) : Out :=
  issue (.strm .sopen qn.toNat 0 0 ds.toNat) (encST 0x30 qn ra 0x0 0x0 ds 0x0 0x0)
    0 ra.toNat 0 none [ra.toNat] s

/-- SCLOSE (R234). -/
def execSclose (qn : BitVec 5) (ds : BitVec 2) (s : State) : Out :=
  issue (.strm .sclose qn.toNat 0 0 ds.toNat) (encST 0x30 qn 0x0 0x0 0x0 ds 0x0 0x1)
    0 0 0 none [] s

/-- SAVAIL (R235). -/
def execSavail (qn : BitVec 5) (rd : BitVec 5) (ds : BitVec 2) (s : State) : Out :=
  issue (.strm .savail qn.toNat 0 0 ds.toNat) (encST 0x30 qn rd 0x0 0x0 ds 0x0 0x2)
    0 0 0 (some rd.toNat) [] s

/-- SWAIT (R236). -/
def execSwait (qn : BitVec 5) (ra : BitVec 5) (ds : BitVec 2) (s : State) : Out :=
  issue (.strm .swait qn.toNat 0 0 ds.toNat) (encST 0x30 qn ra 0x0 0x0 ds 0x0 0x3)
    0 ra.toNat 0 none [ra.toNat] s

/-- SSKIP (R237). -/
def execSskip (qn : BitVec 5) (ra : BitVec 5) (ds : BitVec 2) (s : State) : Out :=
  issue (.strm .sskip qn.toNat 0 0 ds.toNat) (encST 0x30 qn ra 0x0 0x0 ds 0x0 0x4)
    0 ra.toNat 0 none [ra.toNat] s

/-- SDRAIN (R238). -/
def execSdrain (qn : BitVec 5) (ds : BitVec 2) (s : State) : Out :=
  issue (.strm .sdrain qn.toNat 0 0 ds.toNat) (encST 0x30 qn 0x0 0x0 0x0 ds 0x0 0x5)
    0 0 0 none [] s

/-- SREWIND (R239). -/
def execSrewind (qn : BitVec 5) (ds : BitVec 2) (s : State) : Out :=
  issue (.strm .srewind qn.toNat 0 0 ds.toNat) (encST 0x30 qn 0x0 0x0 0x0 ds 0x0 0x6)
    0 0 0 none [] s

/-- SPREF (R240). -/
def execSpref (qn : BitVec 5) (ra : BitVec 5) (ds : BitVec 2) (s : State) : Out :=
  issue (.strm .spref qn.toNat 0 0 ds.toNat) (encST 0x30 qn ra 0x0 0x0 ds 0x0 0x7)
    0 ra.toNat 0 none [ra.toNat] s

/-- SGATHER (R244). -/
def execSgather (qn : BitVec 5) (ra : BitVec 5) (ds : BitVec 2) (s : State) : Out :=
  issue (.strm .sgather qn.toNat ra.toNat 0 ds.toNat) (encST 0x30 qn ra 0x0 0x0 ds 0x0 0x8)
    0 0 0 none [] s

/-- SLDX_BG (R243). -/
def execSldxBg (qn : BitVec 5) (ra : BitVec 5) (rb : BitVec 5) (ds : BitVec 2) (s : State) : Out :=
  issue (.strm .sldxBg qn.toNat ra.toNat rb.toNat ds.toNat) (encST 0x30 qn ra rb 0x0 ds 0x0 0x9)
    0 0 0 none [] s

/-- STRANS (R233). -/
def execStrans (qn : BitVec 5) (ra : BitVec 5) (ds : BitVec 2) (s : State) : Out :=
  issue (.strm .strans qn.toNat 0 0 ds.toNat) (encST 0x30 qn ra 0x0 0x0 ds 0x0 0xa)
    0 ra.toNat 0 none [ra.toNat] s

/-- SSTAT (R235). -/
def execSstat (qn : BitVec 5) (rd : BitVec 5) (ds : BitVec 2) (s : State) : Out :=
  issue (.strm .sstat qn.toNat 0 0 ds.toNat) (encST 0x30 qn rd 0x0 0x0 ds 0x0 0xb)
    0 0 0 (some rd.toNat) [] s

/-- CPY (R256). -/
def execCpy (rd : BitVec 5) (ra : BitVec 5) (spd : BitVec 1) (sps : BitVec 1) (ds : BitVec 2) (s : State) : Out :=
  issue (.copy .cpy (spd == 1) (sps == 1) ds.toNat 0) (encEN 0x32 rd ra 0x0 spd sps 0x0 ds 0x0 0x0)
    rd.toNat ra.toNat 0 none [rd.toNat, ra.toNat] s

/-- CPFILL (R256). -/
def execCpfill (rd : BitVec 5) (rb : BitVec 5) (spd : BitVec 1) (ds : BitVec 2) (s : State) : Out :=
  issue (.copy .cpfill (spd == 1) false ds.toNat 0) (encEN 0x32 rd 0x0 rb spd 0x0 0x0 ds 0x0 0x1)
    rd.toNat 0 rb.toNat none [rd.toNat, rb.toNat] s

/-- CPCVT (R257). -/
def execCpcvt (rd : BitVec 5) (ra : BitVec 5) (rb : BitVec 5) (spd : BitVec 1) (sps : BitVec 1) (ds : BitVec 2) (s : State) : Out :=
  issue (.copy .cpcvt (spd == 1) (sps == 1) ds.toNat 0) (encEN 0x32 rd ra rb spd sps 0x0 ds 0x0 0x2)
    rd.toNat ra.toNat rb.toNat none [rd.toNat, ra.toNat, rb.toNat] s

/-- CPLZ (R262). -/
def execCplz (rd : BitVec 5) (ra : BitVec 5) (rb : BitVec 5) (sps : BitVec 1) (ds : BitVec 2) (s : State) : Out :=
  issue (.copy .cplz false (sps == 1) ds.toNat 0) (encEN 0x32 rd ra rb 0x0 sps 0x0 ds 0x0 0x3)
    rd.toNat ra.toNat rb.toNat none [rd.toNat, ra.toNat, rb.toNat] s

/-- CPXP (R263). -/
def execCpxp (rd : BitVec 5) (ra : BitVec 5) (rb : BitVec 5) (spd : BitVec 1) (ds : BitVec 2) (s : State) : Out :=
  issue (.copy .cpxp (spd == 1) false ds.toNat 0) (encEN 0x32 rd ra rb spd 0x0 0x0 ds 0x0 0x4)
    rd.toNat ra.toNat rb.toNat none [rd.toNat, ra.toNat, rb.toNat] s

/-- CPCRC (R265). -/
def execCpcrc (rd : BitVec 5) (ra : BitVec 5) (rb : BitVec 5) (sps : BitVec 1) (ds : BitVec 2) (s : State) : Out :=
  issue (.copy .cpcrc false (sps == 1) ds.toNat 0) (encEN 0x32 rd ra rb 0x0 sps 0x0 ds 0x0 0x5)
    0 ra.toNat rb.toNat (some rd.toNat) [ra.toNat, rb.toNat] s

/-- CPCRC64 (R265). -/
def execCpcrc64 (rd : BitVec 5) (ra : BitVec 5) (rb : BitVec 5) (sps : BitVec 1) (ds : BitVec 2) (s : State) : Out :=
  issue (.copy .cpcrc64 false (sps == 1) ds.toNat 0) (encEN 0x32 rd ra rb 0x0 sps 0x0 ds 0x0 0x6)
    0 ra.toNat rb.toNat (some rd.toNat) [ra.toNat, rb.toNat] s

/-- CPREL (R267). -/
def execCprel (rd : BitVec 5) (ra : BitVec 5) (rb : BitVec 5) (ds : BitVec 2) (s : State) : Out :=
  issue (.copy .cprel false false ds.toNat 0) (encEN 0x32 rd ra rb 0x0 0x0 0x0 ds 0x0 0x7)
    rd.toNat ra.toNat rb.toNat none [rd.toNat, ra.toNat, rb.toNat] s

/-- CPSHAD (R272). -/
def execCpshad (rd : BitVec 5) (ra : BitVec 5) (s : State) : Out :=
  issue (.copy .cpshad false false 0 0) (encEN 0x32 rd ra 0x0 0x0 0x0 0x0 0x0 0x0 0x8)
    rd.toNat ra.toNat 0 none [rd.toNat, ra.toNat] s

/-- CPBL (R273). -/
def execCpbl (rd : BitVec 5) (sc : BitVec 2) (s : State) : Out :=
  issue (.copy .cpbl false false 0 sc.toNat) (encEB 0x32 rd 0x0 0x0 sc 0x0 0x0 0x0 0x9)
    rd.toNat 0 0 none [rd.toNat] s

/-- CPWAIT (R275). -/
def execCpwait (s : State) : Out :=
  issue (.copy .cpwait false false 0 0) (encEN 0x32 0x0 0x0 0x0 0x0 0x0 0x0 0x0 0x0 0xa)
    0 0 0 none [] s

/-- NRING (R321). -/
def execNring (ra : BitVec 5) (rb : BitVec 5) (s : State) : Out :=
  issue (.stor .nring) (encEN 0x33 ra rb 0x0 0x0 0x0 0x0 0x0 0x0 0x0)
    ra.toNat rb.toNat 0 none [ra.toNat, rb.toNat] s

/-- NCQHD (R325). -/
def execNcqhd (ra : BitVec 5) (rb : BitVec 5) (s : State) : Out :=
  issue (.stor .ncqhd) (encEN 0x33 ra rb 0x0 0x0 0x0 0x0 0x0 0x0 0x1)
    ra.toNat rb.toNat 0 none [ra.toNat, rb.toNat] s

/-- NQSTAT (R322). -/
def execNqstat (rd : BitVec 5) (ra : BitVec 5) (s : State) : Out :=
  issue (.stor .nqstat) (encEN 0x33 rd ra 0x0 0x0 0x0 0x0 0x0 0x0 0x2)
    0 ra.toNat 0 (some rd.toNat) [ra.toNat] s

/-- NCQPOLL (R326). -/
def execNcqpoll (rd : BitVec 5) (ra : BitVec 5) (s : State) : Out :=
  issue (.stor .ncqpoll) (encEN 0x33 rd ra 0x0 0x0 0x0 0x0 0x0 0x0 0x3)
    0 ra.toNat 0 (some rd.toNat) [ra.toNat] s

/-- LTURN (R348). -/
def execLturn (rd : BitVec 5) (ra : BitVec 5) (rb : BitVec 5) (s : State) : Out :=
  issue (.link .lturn) (encEN 0x34 rd ra rb 0x0 0x0 0x0 0x0 0x0 0x0)
    0 ra.toNat rb.toNat (some rd.toNat) [ra.toNat, rb.toNat] s

/-- LSTAT (R350). -/
def execLstat (rd : BitVec 5) (ra : BitVec 5) (s : State) : Out :=
  issue (.link .lstat) (encEN 0x34 rd ra 0x0 0x0 0x0 0x0 0x0 0x0 0x1)
    0 ra.toNat 0 (some rd.toNat) [ra.toNat] s

/-- A privileged queue-class word: PRIV in user mode (03 R97, 10 R346). -/
def issuePriv (op : QOp) (word : BitVec 32) (rd ra rb : Nat) (dst : Option Nat) (regs : List Nat) (s : State) : Out :=
  if !s.me.super then .next (s.trapHere (privTrap word)) else issue op word rd ra rb dst regs s

/-- LPAUSE (R354). -/
def execLpause (ra : BitVec 5) (s : State) : Out :=
  issuePriv (.link .lpause) (encEN 0x34 ra 0x0 0x0 0x0 0x0 0x0 0x0 0x0 0x2)
    ra.toNat 0 0 none [ra.toNat] s

/-- LRESUME (R355). -/
def execLresume (ra : BitVec 5) (s : State) : Out :=
  issuePriv (.link .lresume) (encEN 0x34 ra 0x0 0x0 0x0 0x0 0x0 0x0 0x0 0x3)
    ra.toNat 0 0 none [ra.toNat] s

/-- LREMAP (R356). -/
def execLremap (ra : BitVec 5) (rb : BitVec 5) (s : State) : Out :=
  issuePriv (.link .lremap) (encEN 0x34 ra rb 0x0 0x0 0x0 0x0 0x0 0x0 0x4)
    ra.toNat rb.toNat 0 none [ra.toNat, rb.toNat] s

/-- LTRAIN (R357). -/
def execLtrain (ra : BitVec 5) (rb : BitVec 5) (s : State) : Out :=
  issuePriv (.link .ltrain) (encEN 0x34 ra rb 0x0 0x0 0x0 0x0 0x0 0x0 0x5)
    ra.toNat rb.toNat 0 none [ra.toNat, rb.toNat] s

/-- LWAIT (R349). -/
def execLwait (rd : BitVec 5) (ra : BitVec 5) (s : State) : Out :=
  issue (.link .lwait) (encEN 0x34 rd ra 0x0 0x0 0x0 0x0 0x0 0x0 0x6)
    0 ra.toNat 0 (some rd.toNat) [ra.toNat] s

/-- BPUT (R365). -/
def execBput (rd : BitVec 5) (ra : BitVec 5) (rb : BitVec 5) (s : State) : Out :=
  issue (.beacon .bput) (encEN 0x35 rd ra rb 0x0 0x0 0x0 0x0 0x0 0x0)
    rd.toNat ra.toNat rb.toNat none [rd.toNat, ra.toNat, rb.toNat] s

/-- BGET (R365). -/
def execBget (rd : BitVec 5) (ra : BitVec 5) (rb : BitVec 5) (s : State) : Out :=
  issue (.beacon .bget) (encEN 0x35 rd ra rb 0x0 0x0 0x0 0x0 0x0 0x1)
    rd.toNat ra.toNat rb.toNat none [rd.toNat, ra.toNat, rb.toNat] s

/-- BATOM (R366). -/
def execBatom (rd : BitVec 5) (ra : BitVec 5) (rb : BitVec 5) (s : State) : Out :=
  issue (.beacon .batom) (encEN 0x35 rd ra rb 0x0 0x0 0x0 0x0 0x0 0x2)
    rd.toNat ra.toNat rb.toNat (some rd.toNat) [rd.toNat, ra.toNat, rb.toNat, (batomExpect (s.me.s rd.toNat) rb.toNat)] s

/-- BNOTIFY (R367). -/
def execBnotify (rd : BitVec 5) (ra : BitVec 5) (rb : BitVec 5) (s : State) : Out :=
  issue (.beacon .bnotify) (encEN 0x35 rd ra rb 0x0 0x0 0x0 0x0 0x0 0x3)
    rd.toNat ra.toNat rb.toNat none [rd.toNat, ra.toNat, rb.toNat] s

/-- BWAIT (R369). -/
def execBwait (rd : BitVec 5) (ra : BitVec 5) (s : State) : Out :=
  issue (.beacon .bwait) (encEN 0x35 rd ra 0x0 0x0 0x0 0x0 0x0 0x0 0x4)
    0 ra.toNat 0 (some rd.toNat) [ra.toNat] s

/-- BPOLL (R369). -/
def execBpoll (rd : BitVec 5) (ra : BitVec 5) (s : State) : Out :=
  issue (.beacon .bpoll) (encEN 0x35 rd ra 0x0 0x0 0x0 0x0 0x0 0x0 0x5)
    0 ra.toNat 0 (some rd.toNat) [ra.toNat] s

/-- BFENCE (R370). -/
def execBfence (s : State) : Out :=
  issue (.beacon .bfence) (encEN 0x35 0x0 0x0 0x0 0x0 0x0 0x0 0x0 0x0 0x6)
    0 0 0 none [] s

/-- BSTAT (R371). -/
def execBstat (rd : BitVec 5) (ra : BitVec 5) (s : State) : Out :=
  issue (.beacon .bstat) (encEN 0x35 rd ra 0x0 0x0 0x0 0x0 0x0 0x0 0x7)
    0 ra.toNat 0 (some rd.toNat) [ra.toNat] s

/-- BLPORT (R371). -/
def execBlport (rd : BitVec 5) (ra : BitVec 5) (s : State) : Out :=
  issue (.beacon .blport) (encEN 0x35 rd ra 0x0 0x0 0x0 0x0 0x0 0x0 0x8)
    0 ra.toNat 0 (some rd.toNat) [ra.toNat] s

/-- VDADD (R181), which this device leaves out (R97). -/
def execVdadd (vd : BitVec 5) (va : BitVec 5) (vb : BitVec 5) (m : BitVec 1) (ms : BitVec 3) (ds : BitVec 2) (x : BitVec 1) (s : State) : Out :=
  .next (s.trapHere (absentTrap (encV3 0x38 vd va vb m ms ds x 0x0)))

/-- VDSUB (R181), which this device leaves out (R97). -/
def execVdsub (vd : BitVec 5) (va : BitVec 5) (vb : BitVec 5) (m : BitVec 1) (ms : BitVec 3) (ds : BitVec 2) (x : BitVec 1) (s : State) : Out :=
  .next (s.trapHere (absentTrap (encV3 0x38 vd va vb m ms ds x 0x1)))

/-- VDMUL (R181), which this device leaves out (R97). -/
def execVdmul (vd : BitVec 5) (va : BitVec 5) (vb : BitVec 5) (m : BitVec 1) (ms : BitVec 3) (ds : BitVec 2) (x : BitVec 1) (s : State) : Out :=
  .next (s.trapHere (absentTrap (encV3 0x38 vd va vb m ms ds x 0x2)))

/-- VDDIV (R181), which this device leaves out (R97). -/
def execVddiv (vd : BitVec 5) (va : BitVec 5) (vb : BitVec 5) (m : BitVec 1) (ms : BitVec 3) (ds : BitVec 2) (x : BitVec 1) (s : State) : Out :=
  .next (s.trapHere (absentTrap (encV3 0x38 vd va vb m ms ds x 0x3)))

/-- VDMIN (R181), which this device leaves out (R97). -/
def execVdmin (vd : BitVec 5) (va : BitVec 5) (vb : BitVec 5) (m : BitVec 1) (ms : BitVec 3) (ds : BitVec 2) (x : BitVec 1) (s : State) : Out :=
  .next (s.trapHere (absentTrap (encV3 0x38 vd va vb m ms ds x 0x4)))

/-- VDMAX (R181), which this device leaves out (R97). -/
def execVdmax (vd : BitVec 5) (va : BitVec 5) (vb : BitVec 5) (m : BitVec 1) (ms : BitVec 3) (ds : BitVec 2) (x : BitVec 1) (s : State) : Out :=
  .next (s.trapHere (absentTrap (encV3 0x38 vd va vb m ms ds x 0x5)))

/-- VDFMA (R181), which this device leaves out (R97). -/
def execVdfma (vd : BitVec 5) (va : BitVec 5) (vb : BitVec 5) (m : BitVec 1) (ms : BitVec 3) (ds : BitVec 2) (x : BitVec 1) (s : State) : Out :=
  .next (s.trapHere (absentTrap (encV3 0x38 vd va vb m ms ds x 0x6)))

/-- VDFNMA (R181), which this device leaves out (R97). -/
def execVdfnma (vd : BitVec 5) (va : BitVec 5) (vb : BitVec 5) (m : BitVec 1) (ms : BitVec 3) (ds : BitVec 2) (x : BitVec 1) (s : State) : Out :=
  .next (s.trapHere (absentTrap (encV3 0x38 vd va vb m ms ds x 0x7)))

/-- VDFMS (R181), which this device leaves out (R97). -/
def execVdfms (vd : BitVec 5) (va : BitVec 5) (vb : BitVec 5) (m : BitVec 1) (ms : BitVec 3) (ds : BitVec 2) (x : BitVec 1) (s : State) : Out :=
  .next (s.trapHere (absentTrap (encV3 0x38 vd va vb m ms ds x 0x8)))

/-- VDCSIGN (R181), which this device leaves out (R97). -/
def execVdcsign (vd : BitVec 5) (va : BitVec 5) (vb : BitVec 5) (m : BitVec 1) (ms : BitVec 3) (ds : BitVec 2) (x : BitVec 1) (s : State) : Out :=
  .next (s.trapHere (absentTrap (encV3 0x38 vd va vb m ms ds x 0x9)))

/-- VDNSIGN (R181), which this device leaves out (R97). -/
def execVdnsign (vd : BitVec 5) (va : BitVec 5) (vb : BitVec 5) (m : BitVec 1) (ms : BitVec 3) (ds : BitVec 2) (x : BitVec 1) (s : State) : Out :=
  .next (s.trapHere (absentTrap (encV3 0x38 vd va vb m ms ds x 0xa)))

/-- VDXSIGN (R181), which this device leaves out (R97). -/
def execVdxsign (vd : BitVec 5) (va : BitVec 5) (vb : BitVec 5) (m : BitVec 1) (ms : BitVec 3) (ds : BitVec 2) (x : BitVec 1) (s : State) : Out :=
  .next (s.trapHere (absentTrap (encV3 0x38 vd va vb m ms ds x 0xb)))

/-- VDKIND (R181), which this device leaves out (R97). -/
def execVdkind (vd : BitVec 5) (va : BitVec 5) (m : BitVec 1) (ms : BitVec 3) (ds : BitVec 2) (x : BitVec 1) (s : State) : Out :=
  .next (s.trapHere (absentTrap (encV3 0x38 vd va 0x0 m ms ds x 0xc)))

/-- VDSUBR (R181), which this device leaves out (R97). -/
def execVdsubr (vd : BitVec 5) (va : BitVec 5) (vb : BitVec 5) (m : BitVec 1) (ms : BitVec 3) (ds : BitVec 2) (x : BitVec 1) (s : State) : Out :=
  .next (s.trapHere (absentTrap (encV3 0x38 vd va vb m ms ds x 0xd)))

/-- VDSQRT (R181), which this device leaves out (R97). -/
def execVdsqrt (vd : BitVec 5) (va : BitVec 5) (m : BitVec 1) (ms : BitVec 3) (ds : BitVec 2) (x : BitVec 1) (s : State) : Out :=
  .next (s.trapHere (absentTrap (encV3 0x38 vd va 0x0 m ms ds x 0xe)))

end Sys2Proof.Machine
end

