-- ==== Sys2Proof/Machine/WordOp.lean ====
section
/-!
DEFINITION. The operation of a queue-class word, read from its fields by the formats and function tables of 03 R91 and R100
to R114: what a context restore (12 R399), an emulation routine (R402) and a portable body (R403) run from a word. The
instructions as they issue are in Vector and Units.
-/

namespace Sys2Proof.Machine

/-- The register and control fields of a V3, VS or VQ word (R91). -/
def vfOf (w : BitVec 32) : VF :=
  { vd := wfld w 21 5, va := wfld w 16 5, vb := wfld w 11 5, m := w.getLsbD 10, ms := wfld w 7 3, ds := wfld w 5 2
    x := w.getLsbD 4 }

def intOps : List IntOp :=
  [.add, .sub, .subr, .mul, .mulh, .mulhu, .min, .max, .minu, .maxu, .and, .or, .xor, .sll, .srl, .sra]

def fpOps : List FpOp :=
  [.add, .sub, .mul, .div, .min, .max, .fma, .fnma, .fms, .csign, .nsign, .xsign, .kind, .subr]

def specOps : List SpecOp :=
  [.sqrt, .rcp, .rsqrt, .exp2, .log2, .exp, .log, .tanh, .sigm, .gelu, .silu, .sin, .cos, .erf]

def cmpOps : List CmpOp := [.eq, .ne, .lt, .ltu, .le, .leu, .gt, .gtu, .feq, .fne, .flt, .fle, .fgt, .fge, .fcun]

def redOps : List RedOp := [.sum, .max, .min, .maxu, .minu, .and, .or, .xor, .fsum, .fmax, .fmin]

def permOps : List PermOp :=
  [.shup, .shdn, .gather, .compress, .expand, .merge, .move, .splat, .head, .acnt, .xup, .xdn, .xbc, .xrev]

def bitOps : List BitOp := [.unpack, .bext, .fsl, .fsr, .lut, .clz, .ctz, .popc, .brev]

def qsrcOps : List QsrcOp := [.mv, .add, .sub, .mul, .fadd, .fsub, .fmul, .fma, .and, .or, .xor]

def maskOps : List MaskOp :=
  [.and, .or, .xor, .andn, .orn, .nand, .nor, .xnor, .mv, .not, .set, .clr, .sbf, .sif, .sof, .popc, .first, .ld, .st]

def strmOps : List StrmOp :=
  [.sopen, .sclose, .savail, .swait, .sskip, .sdrain, .srewind, .spref, .sgather, .sldxBg, .strans, .sstat]

def copyOps : List CopyOp :=
  [.cpy, .cpfill, .cpcvt, .cplz, .cpxp, .cpcrc, .cpcrc64, .cprel, .cpshad, .cpbl, .cpwait]

def storOps : List StorOp := [.nring, .ncqhd, .nqstat, .ncqpoll]

def linkOps : List LinkOp := [.lturn, .lstat, .lpause, .lresume, .lremap, .ltrain, .lwait]

def beaconOps : List BeaconOp := [.bput, .bget, .batom, .bnotify, .bwait, .bpoll, .bfence, .bstat, .blport]

/-- The functions of VMEM (R107). -/
def memOpOf (fn : Nat) : Option MemOp :=
  match fn with
  | 0 => some .ld | 1 => some .lds | 2 => some .ldx | 3 => some .ldff
  | 4 => some (.st false) | 5 => some (.sts false) | 6 => some (.stx false)
  | 12 => some (.st true) | 13 => some (.sts true) | 14 => some (.stx true)
  | _ => none

/-- The functions of VMX (R105). -/
def mxOpOf (fn fmt : Nat) (f : VF) : Option QOp :=
  match fn with
  | 0 => some (.vmxpack fmt { f with vb := 0 }) | 1 => some (.vmxunpack fmt { f with vb := 0 })
  | 2 => some (.vamax f) | 3 => some (.vscale fmt)
  | 4 => some (.vquant f) | 5 => some (.vdequant f) | 6 => some (.vbamax f)
  | _ => none

/-- The functions of the slice major (R108). -/
def gridOpOf (fn : Nat) (f : VF) : Option QOp :=
  match fn with
  | 0 => some (.gslice .row false f) | 1 => some (.gslice .col false f) | 2 => some (.gslice .diag false f)
  | 4 => some (.gslice .row true f) | 5 => some (.gslice .col true f) | 6 => some (.gslice .diag true f)
  | 8 => some (.gpass f.vb)
  | _ => none

/-- The functions of TILE (R112). -/
def tileOpOf (fn : Nat) (f : VF) : Option QOp :=
  match fn with
  | 0 => some (.tmodeOn (f.vb % 16)) | 1 => some (.tmodeOff (f.vb % 16)) | 2 => some (.tshape f.ds)
  | 3 => some (.tzero f.vb f.ds) | 4 => some (.trd false f.vd f.ds) | 5 => some (.trd true f.vd f.ds)
  | 6 => some (.twr false f.va f.ds) | 7 => some (.twr true f.va f.ds) | 8 => some (.tpred f.ds) | 9 => some .tsync
  | _ => none

/-- The operation of a queue-class word whose captured s[RA] and s[RB] are given. -/
def qopOfWord (w : BitVec 32) (opa opb : Word) : Option QOp :=
  let f := vfOf w
  let fn := wfld w 0 4
  let qn4 := wfld w 11 4
  match wfld w 26 6 with
  | 0x18 => intOps[fn]?.map (fun o => .vint o false f)
  | 0x19 => intOps[fn]?.map (fun o => .vint o true f)
  | 0x1A => fpOps[fn]?.map (fun o => .vfp o false f)
  | 0x1B => fpOps[fn]?.map (fun o => .vfp o true f)
  | 0x1C => specOps[fn]?.map (fun o => .vspec o f)
  | 0x1D =>
    let g := { f with vb := 0 }
    match fn with
    | 0 => some (.vcvt .cvt f.vb g) | 1 => some (.vcvt .widen f.vb g) | 2 => some (.vcvt .narrow f.vb g)
    | 3 => some (.vcvt .narrows f.vb g) | _ => none
  | 0x1E => mxOpOf fn f.vb f
  | 0x1F => redOps[fn]?.map (fun o => .vred o f)
  | 0x20 => permOps[fn]?.map (fun o => .vperm o f)
  | 0x21 => bitOps[fn]?.map (fun o => .vbits o f)
  | 0x22 =>
    match fn with
    | 0 => some (.vcfg (2 ^ (f.vb + 2)))
    | 1 => some (.vset (opb.extractLsb' 0 16) f.ds (if f.va = 0 then 16384 else opa.toNat))
    | _ => none
  | 0x23 => some (.vset (w.extractLsb' 0 16) 0 (if f.va = 0 then 16384 else opa.toNat))
  | 0x24 => (memOpOf fn).map (fun o => .vmem o f)
  | 0x25 => gridOpOf fn f
  | 0x26 => qsrcOps[fn]?.map (fun o => .vqsrc o (w.getLsbD 15) qn4 { f with vb := 0 })
  | 0x27 => if fn = 0 then some (.venq qn4 { f with vb := 0 }) else none
  | 0x28 => maskOps[wfld w 0 5]?.map (fun o => .mask o (wfld w 19 7) (wfld w 12 7) (wfld w 5 7))
  | 0x29 => cmpOps[fn]?.map (fun o => .vcmp o false f)
  | 0x2A => cmpOps[fn]?.map (fun o => .vcmp o true f)
  | 0x2C => some (.tmul f.vd f.va f.vb (w.getLsbD 10) (wfld w 7 3) f.ds (wfld w 0 5))
  | 0x2D => some (.tmulsp f.vd f.va f.vb (w.getLsbD 10) (wfld w 7 3) f.ds (wfld w 0 5))
  | 0x2E => tileOpOf fn f
  | 0x30 => strmOps[fn]?.map (fun o => .strm o f.vd (if fn = 8 || fn = 9 then f.va else 0) f.vb f.ds)
  | 0x32 =>
    copyOps[fn]?.map (fun o =>
      if fn = 9 then .copy o false false 0 (wfld w 9 2) else .copy o (w.getLsbD 10) (w.getLsbD 9) f.ds 0)
  | 0x33 => storOps[fn]?.map .stor
  | 0x34 => linkOps[fn]?.map .link
  | 0x35 => beaconOps[fn]?.map .beacon
  | 0x38 => (fpOps ++ [.sqrt])[fn]?.map (fun o => .vfp64 o f)
  | _ => none

/-- The scalar register that a queue-class word writes, if any. -/
def dstOfWord (w : BitVec 32) : Option Nat :=
  let fn := wfld w 0 4
  let hi := wfld w 21 5
  let is (l : List Nat) (r : Nat) : Option Nat := if l.contains fn then some r else none
  match wfld w 26 6 with
  | 0x1E => is [2, 3] hi
  | 0x1F => some hi
  | 0x20 => if fn = 3 then some (wfld w 11 5) else is [8] hi
  | 0x22 => is [1] hi
  | 0x23 => some hi
  | 0x28 => if [15, 16].contains (wfld w 0 5) then some (wfld w 19 7) else none
  | 0x30 => is [2, 11] (wfld w 16 5)
  | 0x32 => is [5, 6] hi
  | 0x33 => is [2, 3] hi
  | 0x34 => is [0, 1, 6] hi
  | 0x35 => is [2, 4, 5, 7, 8] hi
  | _ => none

/-- Whether a word raises ABSENT on this device (R97 steps 2 and 4). -/
def absentWord (w : BitVec 32) : Bool :=
  match wfld w 26 6 with
  | 0x38 => true
  | 0x03 => wfld w 0 6 == 0x23 || wfld w 0 6 == 0x24
  | 0x1C => wfld w 0 4 == 0xD
  | 0x2D => decide (6 ≤ wfld w 0 5) && decide (wfld w 0 5 ≤ 13)
  | _ => false

end Sys2Proof.Machine
end

