-- ==== Sys2Proof/Machine/HostQueue.lean ====
section
/-!
DEFINITION. The host queues (12 R380 to R385): their registers, doorbells, the reading of submission slots, and the
completion entries.
-/

namespace Sys2Proof.Machine

/-- A queue by key: 0 is the MQ, 1 + 8t + k queue k of tenant t. -/
def State.hq (s : State) (q : Nat) : HostQueue := smGet {} s.hostq q

def State.setHq (s : State) (q : Nat) (x : HostQueue) : State := { s with hostq := smSet {} s.hostq q x }

def State.updHq (s : State) (q : Nat) (f : HostQueue → HostQueue) : State := s.setHq q (f (s.hq q))

/-- The tenant that owns a queue; the MQ has none. -/
def queueTenant (q : Nat) : Option Nat := if q = 0 then none else some ((q - 1) / 8)

/-- The queues of a tenant. -/
def tenantQueues (t : Nat) : List Nat := (List.range 8).map (fun k => 1 + 8 * t + k)

/-- The keys of the queues that exist. -/
def queueExists (q : Nat) : Bool := decide (q ≤ 128)

/-! ### Command blocks (R381) -/

/-- Bytes `lo` to `lo + n - 1` of a 64-byte block. -/
def blkField (b : BitVec 512) (lo n : Nat) : Nat := b.toNat / 2 ^ (8 * lo) % 2 ^ (8 * n)

/-- Every byte of a block outside the listed ranges is zero. -/
def blkZero (b : BitVec 512) (used : List (Nat × Nat)) : Bool :=
  (List.range 64).all (fun i => used.any (fun u => decide (u.1 ≤ i) && decide (i < u.1 + u.2)) || blkField b i 1 == 0)

/-- The command in a submission block, with the second block of a GANG_SWITCH. -/
def cmdOf (q : Nat) (b b2 : BitVec 512) : HostCmd :=
  { queue := q, seq := b.extractLsb' 64 64, opcode := b.extractLsb' 0 8, flags := b.extractLsb' 16 8, block := b, block2 := b2 }

/-- The FENCE and IRQ flags. -/
def cmdFence (c : HostCmd) : Bool := c.flags.getLsbD 0
def cmdIrq (c : HostCmd) : Bool := c.flags.getLsbD 1

/-- Whether the header of an accepted command is well formed (R381, R382). -/
def headerOk (c : HostCmd) : Bool :=
  blkField c.block 1 1 == 1 && c.flags.extractLsb' 2 6 == 0 && blkField c.block 3 5 == 0

/-! ### Completions (R382) -/

/-- A command has ended: its completion waits for the ring. -/
def complete (c : HostCmd) (status : Nat) (rest : BitVec 360) (s : State) : State :=
  s.updHq c.queue (fun x =>
    { x with
      running := x.running.filter (fun r => r.seq ≠ c.seq)
      comps := x.comps ++ [{ seq := c.seq, opcode := c.opcode, status := status, rest := rest, irq := cmdIrq c, counts := true }] })

/-- The entry bytes 19 to 63 that hold only a result, at bytes 24 to 31. -/
def resultRest (v : Word) : BitVec 360 := BitVec.ofNat 360 (v.toNat * 2 ^ 40)

/-- A command ended with a status and a result. -/
def completeWith (c : HostCmd) (status : Nat) (result : Word) (s : State) : State := complete c status (resultRest result) s

/-- The end of a management action reported to what waits for it: a completion, or the status for a hart. -/
def answer (w : Waiter) (status : Nat) (result : Word) (s : State) : State :=
  match w with
  | .cmd c => completeWith c status result s
  | .hart h => s.updHart h (fun x => { x with ctx := x.ctx.map (fun p => (p.1, some status)) })

/-- LASTDONE moves up over completed sequence numbers; `n` bounds the walk. DEDUCED, log 39. -/
def raiseDone : Nat → BitVec 64 → List (BitVec 64) → BitVec 64 × List (BitVec 64)
  | 0, d, l => (d, l)
  | n + 1, d, l => if l.contains (d + 1) then raiseDone n (d + 1) (l.filter (· ≠ d + 1)) else (d, l)

/-- The index after `i` in a ring of size `n` + 1, as the size fields give it. DEDUCED, log 39. -/
def ringNext (i n : Nat) : Nat := if i ≥ n then 0 else i + 1

/-- Whether the device may reach `n` bytes of a queue's ring: host memory only inside a DMA window of the queue's owner (13 R413).
DEDUCED, log 39. -/
def State.ringOk (s : State) (q pa n : Nat) (wr : Bool) : Bool :=
  !isHost pa || s.inWindow pa n ((queueTenant q).getD 16) wr (!wr)

/-- The hops that hold up the sequencer's access to a ring (10 R354). -/
def State.ringHops (s : State) (pa : Nat) : List (Sender × Nat × Bool) := s.shutHops sequencerSender 8 (servedAt pa)

/-- Whether the device takes commands and doorbells: it has booted and is not frozen (13 R409, R427). -/
def State.serving (s : State) : Bool := s.boot.bstate == 2

/-- The oldest waiting completion of a queue is written, if CQHEAD has freed its slot; one slot stays unused, so that a full ring differs
from an empty one. DEDUCED, log 39. -/
def putCompletion (q : Nat) (s : State) : State :=
  let x := s.hq q
  match x.comps with
  | [] => s
  | c :: rest =>
    if !x.enable || ringNext x.cqtail x.cqsize = x.cqhead || !s.ringOk q (x.cqbase.toNat + 64 * x.cqtail) 64 true then s
    else match s.ringHops (x.cqbase.toNat + 64 * x.cqtail) with
    | hop :: _ => s.noteFlit hop
    | [] =>
      let dseq := x.dseq + 1
      let v := c.seq.toNat + dseq.toNat * 2 ^ 64 + c.opcode.toNat * 2 ^ 128 + c.status % 256 * 2 ^ 136 +
        (if x.phase then 1 else 0) * 2 ^ 144 + c.rest.toNat * 2 ^ 152
      let s := s.setBytes (x.cqbase.toNat + 64 * x.cqtail) 64 v
      let above := if c.counts then c.seq :: x.above else x.above
      let (done, above) := raiseDone (above.length) x.lastDone above
      let next := ringNext x.cqtail x.cqsize
      let s := s.setHq q { x with
        comps := rest, dseq := dseq, cqtail := next, phase := if next = 0 then !x.phase else x.phase
        lastDone := done, above := above }
      if c.irq then { s with irqs := s.irqs ++ [(x.vector.toNat, q)] } else s

/-- COMPLETION_ENTRY_WRITE (R382). -/
def writeCompletion (q : Nat) (s : State) : State := s.attempts (completionFlit q) (putCompletion q)

/-! ### Submission (R382) -/

/-- A slot handled by its SEQ (R382). DEDUCED, log 39. -/
def acceptCommand (c : HostCmd) (x : HostQueue) : HostQueue :=
  let refuse (status : Nat) : HostQueue :=
    { x with comps := x.comps ++ [{ seq := c.seq, opcode := c.opcode, status := status, irq := cmdIrq c, counts := false }] }
  if c.seq = x.lastAcc + 1 then { x with lastAcc := c.seq, waiting := x.waiting ++ [c] }
  else if (x.lastAcc - c.seq).toNat < 2 ^ 63 then refuse 0x80
  else refuse 0x81

/-- One slot read, or the pair of slots of a GANG_SWITCH; false when there is none, a pair is not whole yet, or the ring cannot be
read. -/
def readSlot (q : Nat) (s : State) : Bool × State :=
  let x := s.hq q
  let pa (i : Nat) : Nat := x.sqbase.toNat + 64 * i
  let at' (i : Nat) : BitVec 512 := BitVec.ofNat 512 (s.bytesAt (pa i) 64)
  let b := at' x.sqhead
  let next := ringNext x.sqhead x.sqsize
  let pair := q == 0 && b.extractLsb' 0 8 == 0x0B
  if x.sqhead == x.sqtail || !s.ringOk q (pa x.sqhead) 64 false || (pair && (next == x.sqtail || !s.ringOk q (pa next) 64 false)) then
    (false, s)
  else match s.ringHops (pa x.sqhead) ++ (if pair then s.ringHops (pa next) else []) with
    | hop :: _ => (false, s.noteFlit hop)
    | [] => (true, s.setHq q (acceptCommand (cmdOf q b (if pair then at' next else 0))
        { x with sqhead := if pair then ringNext next x.sqsize else next }))

/-- The slots read in ring order up to SQTAIL. DEDUCED, log 39. -/
def readSlots (q : Nat) : Nat → State → State
  | 0, s => s
  | n + 1, s =>
    match s.attempt (ringFlit q) (readSlot q) with
    | (some true, s) => readSlots q n s
    | (_, s) => s

/-- The sequencer reads the slots of a queue as far as it can. -/
def readRing (q : Nat) (s : State) : State :=
  let x := s.hq q
  if !s.serving || !x.enable then s else readSlots q (x.sqsize + 1) s

/-- SQTAIL (R380, R382). -/
def sqtailBell (q : Nat) (v : BitVec 64) (s : State) : State :=
  let x := s.hq q
  if !s.serving || !x.enable || !decide (v.toNat ≤ x.sqsize) then s
  else
    readRing q (s.setHq q { x with sqtail := v.toNat })

/-- CQHEAD (R380). -/
def cqheadBell (q : Nat) (v : BitVec 64) (s : State) : State :=
  let x := s.hq q
  if !s.serving || !x.enable || !decide (v.toNat ≤ x.cqsize) then s else s.setHq q { x with cqhead := v.toNat }

/-- A write of the word at offset 0x10 (R380). A 1 to ENABLE takes effect only under the conditions of R380, and then starts
the rings anew. -/
def enableWrite (q : Nat) (v : BitVec 64) (s : State) : State :=
  let x := s.hq q
  let cqsize := (v.extractLsb' 16 16).toNat
  let sqsize := (v.extractLsb' 0 16).toNat
  let x := { x with vector := v.extractLsb' 32 16 }
  let x := if x.enable then x else { x with cqsize := cqsize, sqsize := sqsize }
  if !v.getLsbD 63 then s.setHq q { x with enable := false }
  else if x.enable then s.setHq q x
  else
    let active := match queueTenant q with
      | none => true
      | some t => (s.tenant t).status == .active
    if active && decide (1 ≤ x.sqsize) && decide (x.sqsize ≤ 4095) && decide (1 ≤ x.cqsize) && decide (x.cqsize ≤ 4095) &&
        decide (x.sqbase.toNat % 4096 = 0) && decide (x.cqbase.toNat % 4096 = 0) then
      s.setHq q { x with
        enable := true, lastAcc := 0, lastDone := 0, dseq := 0, sqhead := 0, sqtail := 0, cqtail := 0, cqhead := 0, phase := true
        waiting := [], running := [], comps := [], above := [] }
    else s.setHq q x

/-- A write of a queue register by its offset in the queue's block (R380). -/
def queueRegWrite (q off : Nat) (v : BitVec 64) (s : State) : State :=
  let x := s.hq q
  match off with
  | 0x00 => if x.enable then s else s.setHq q { x with sqbase := v &&& ~~~(0xFFF : Word) }
  | 0x08 => if x.enable then s else s.setHq q { x with cqbase := v }
  | 0x10 => enableWrite q v s
  | 0x18 => sqtailBell q v s
  | 0x20 => cqheadBell q v s
  | _ => s

/-- The queue and the offset in its block that an offset of the host's register page names (R380). -/
def queueReg (off : Nat) : Option (Nat × Nat) :=
  if off < 0x40 then some (0, off)
  else if 0x10000 ≤ off ∧ off < 0x20000 ∧ (off - 0x10000) % 0x1000 < 0x200 then
    some (1 + 8 * ((off - 0x10000) / 0x1000) + (off - 0x10000) % 0x1000 / 0x40, (off - 0x10000) % 0x40)
  else none

end Sys2Proof.Machine
end

