-- ==== Sys2Proof/Machine/Save.lean ====
section
/-!
DEFINITION. The save engine (12 R397 to R401, 06 R246, 07 R280, 08 R313): stopping a hart, the records of a save area, and
restoring from one.
-/

namespace Sys2Proof.Machine

/-! ### Stopping and releasing (R397, R398) -/

/-- R397: a hart stops. A trap that is ready is taken first, so that the saved pc is TVEC. The watch pass marker is cleared (13 R422). -/
def stopHart (x : Hart) : Hart :=
  if x.run ≠ .running then x
  else
    let x := match x.pending with
      | t :: rest => takeTrap { x with pending := rest } t.vec t.qsn x.pc t.info
      | [] => x
    if x.run ≠ .running then x
    else if x.holding || !x.queue.any (·.open) then { x with run := .preempted, watchPass := none }
    else { stopQueue x with run := .preempted, release := true, issueHold := false, watchPass := none }

/-- R398: a restored hart goes on: its entries stopped by the pre-emption are released, each at its own index, unless it takes a
cause from outside first. -/
def resumeHart (note : Option TrapInfo) (x : Hart) : Hart :=
  if x.run ≠ .preempted then x
  else
    let x := { x with run := .running }
    match note with
    | some t => takeTrap { x with release := false } false 0 x.pc t
    | none => if x.release then { x.releaseAt (fun e => e.restart.getD 0) with release := false } else x

/-! ### Records (R399, R401) -/

/-- A record of a save: whether an incremental save writes it, and the bytes it writes, as address offset, length and value. -/
structure SaveRec where
  dirty : Bool
  bytes : List (Nat × Nat × Nat)
  /-- The grid cells that it reads, whose ECC the read checks (05 R207), and the dies on which what it reads stands. -/
  cells : List Nat := []
  dies : List Nat := []

/-- The number of roles of a launch, its role groups, and its scratchpad range. -/
def Launch.groups (l : Launch) : Nat := (l.roles.length + 3) / 4
def Launch.splo (l : Launch) : Nat := (l.kdesc.extractLsb' 256 32).toNat
def Launch.splen (l : Launch) : Nat := (l.kdesc.extractLsb' 288 32).toNat

/-- SPB (R399). -/
def Launch.spb (l : Launch) : Nat := (8 * l.splen * 4128 + 4095) / 4096 * 4096

/-- The bytes that a save area needs (R399). -/
def Launch.areaSize (l : Launch) : Nat := 0x1000 + l.roles.length * 0x2C0000 + l.groups * l.spb

/-- The hart block of a role and the scratchpad block of a group. -/
def hartBlock (r : Nat) : Nat := 0x1000 + r * 0x2C0000
def Launch.spBlock (l : Launch) (g : Nat) : Nat := 0x1000 + l.roles.length * 0x2C0000 + g * l.spb

/-- The harts of a launch by role. -/
def State.hartOf (s : State) (slot role : Nat) : Option Nat :=
  (s.harts.find? (fun p => p.2.launch == some slot && p.2.role == role)).map (·.1)

/-- The harts of a launch. -/
def State.hartsOf (s : State) (slot : Nat) : List Nat := (s.harts.filter (fun p => p.2.launch == some slot)).map (·.1)

/-- A bit list as a number. -/
def bitsOf (l : List Bool) : Nat := l.foldr (fun b acc => b.toNat + 2 * acc) 0

/-- The control page (R399). -/
def controlPage (s : State) (h : Nat) : List (Nat × Nat × Nat) :=
  let x := s.hart h
  let held (i : Nat) : Bool := match smFind x.fexcMark i with
    | some u => x.queue.any (fun e => e.st == .held && e.uid == u)
    | none => false
  [(0x000, 8, x.pc.toNat), (0x008, 8, x.nextQsn.toNat + if x.run = .halted then 2 ^ 16 else 0)] ++
  (match x.bar with
   | some (a, g) => [(0x010, 8, a.toNat), (0x018, 8, g.toNat + 2 ^ 63)]
   | none => [(0x010, 16, 0)]) ++
  [(0x020, 16, bitsOf ((List.range 32).map x.vdirty.contains ++ (List.range 96).map x.maskDirty.contains)),
   (0x030, 208, bitsOf ((List.range 5).map held))] ++
  (List.range 32).map (fun r => (0x100 + 8 * r, 8, (x.s r).toNat)) ++
  (List.range 0x80).map (fun i => (0x200 + 8 * i, 8, if cwListed i && decide (i < 0x070) then (cwValue s h i).toNat else 0)) ++
  (List.range 32).map (fun n => (0x600 + 4 * n, 4, smGet 0 x.vhw n)) ++ [(0x680, 0x180, 0)] ++
  (List.range 512).map (fun i => (0x800 + 4 * i, 4, (x.laneLfsr i).toNat))

/-- The selector that the DS field of a vector, tile or stream word names. -/
def Entry.selOf (x : Hart) (e : Entry) : Word := x.dsel (wfld e.word 5 2)

/-- A copy command. -/
def Entry.isCopy (e : Entry) : Bool := match e.op with | .copy .. => true | _ => false

/-- VL and VTYPE as an entry leaves them to the next. -/
def Entry.shapeAfter (e : Entry) (p : Nat × BitVec 16) : Nat × BitVec 16 :=
  match e.op with
  | .vset vt .. => (e.vlNew, vt)
  | .setVl n => (n, p.2)
  | .vcfg _ => (0, p.2)
  | .tmodeOn _ | .tmodeOff _ => (0, 0x000A)
  | _ => p

/-- The entries of a hart, each with the VL and VTYPE that it captures: those that a started command has captured, or those that
the earlier entries leave. DEDUCED, log 37. -/
def shapedEntries : Nat × BitVec 16 → List Entry → List (Entry × Nat × BitVec 16)
  | _, [] => []
  | p, e :: es =>
    (e, match e.cap with
      | some c => (c.vl, c.vtype)
      | none => p) :: shapedEntries (e.shapeAfter p) es

/-- The entries of a hart that have a record, those not yet complete: the VL that CLAIM writes stands in the records of the entries after
it. -/
def recordedEntries (x : Hart) : List (Entry × Nat × BitVec 16) :=
  (shapedEntries (x.vl.toNat, x.vtype) (x.queue.filter (fun e => e.st != .complete))).filter
    (fun p => match p.1.op with | .setVl _ => false | _ => true)

/-- The record of an entry other than a copy command (R399); of VSETVLI and VSETVL its VL is the one that they fixed at issue. Every
saved entry is held (R397); the dump of a frozen device has waiting ones too, and gives one that had started as held at its index.
DEDUCED, log 37. -/
def entryRecord (x : Hart) (e : Entry) (vl : Nat) (vt : BitVec 16) : Nat :=
  let sel := match e.cap with
    | some c => c.sel
    | none => e.selOf x
  let vl := match e.op with
    | .vset .. => e.vlNew
    | _ => vl
  e.word.toNat + e.qsn.toNat * 2 ^ 32 + (if e.st == .waiting then 0 else 2 ^ 48) + e.stopAt % 2 ^ 32 * 2 ^ 64 + e.opd.toNat * 2 ^ 128 +
  e.opa.toNat * 2 ^ 192 + e.opb.toNat * 2 ^ 256 + vl % 2 ^ 16 * 2 ^ 320 + vt.toNat * 2 ^ 336 + sel.toNat * 2 ^ 352

/-- The page of entries. -/
def entriesPage (x : Hart) : List (Nat × Nat × Nat) :=
  let es := (recordedEntries x).filter (fun p => !p.1.isCopy)
  (List.range 64).map (fun i =>
    (0x1000 + 64 * i, 64, match es[i]? with | some (e, vl, vt) => entryRecord x e vl vt | none => 0))

/-- The elements of a die stream of a store queue that are not written, in the order in which they were enqueued. -/
def StreamQ.unwritten (q : StreamQ) (p : Nat) : SMap (BitVec 272) := q.buf.filter (fun e => e.1 % 8 = p)

/-- The position of a die stream as a record holds it: for the indexed sources the elements requested of it, so that the record says
how many requests are outstanding. DEDUCED, log 41. -/
def StreamQ.streamPos (q : StreamQ) (p : Nat) : Nat :=
  if q.src = 2 || q.src = 3 then (if p < q.dies.length then q.countOf p q.nreqs else 0) else q.dpos.getD p 0

/-- The record of a stream queue (R399). -/
def streamRecord (x : Hart) (n : Nat) : List (Nat × Nat × Nat) :=
  let q := x.q n
  let b := 0x2000 + 256 * n
  [(b, 64, q.desc.toNat), (b + 64, 8, q.pos)] ++
  (List.range 8).map (fun p => (b + 72 + 8 * p, 8, q.streamPos p)) ++
  [(b + 136, 4, q.window), (b + 140, 2, sstatWord x n / 2 ^ 48), (b + 142, 2, if q.isOpen && q.src = 2 then dIq q.desc else 0)] ++
  (List.range 8).map (fun p => (b + 144 + 4 * p, 4, if 8 ≤ n then (q.unwritten p).length else 0)) ++ [(b + 176, 80, 0)]

/-- The record of a copy entry (07 R280). A command that has not started has as SEL the selector that its DS field names, DS0's value for a
CPSHAD, whose word names none. DESIGN CHOICE, log 58. -/
def copyRecord (x : Hart) (e : Entry) (vl : Nat) (vt : BitVec 16) : Nat :=
  let c := e.cap.getD { vl := vl, vtype := vt, sel := e.selOf x, dies := [] }
  e.word.toNat + e.qsn.toNat * 2 ^ 32 + (if e.cap.isSome then 2 ^ 48 else 0) + e.opd.toNat * 2 ^ 64 + e.opa.toNat * 2 ^ 128 +
  e.opb.toNat * 2 ^ 192 + c.vl % 2 ^ 15 * 2 ^ 256 + c.vtype.toNat * 2 ^ 272 + c.sel.toNat * 2 ^ 288 +
  (c.dies.map (fun d => 2 ^ d)).sum * 2 ^ 352 +
  ((List.range 8).map (fun p =>
    (smGet 0 e.prog.done p % 2 ^ 32 + smGet 0 e.prog.cur p % 2 ^ 32 * 2 ^ 32 + (smGet 0 e.prog.part p).toNat * 2 ^ 64) *
      2 ^ (512 + 128 * p))).sum

/-- The copy entries and the copy LFSRs. -/
def copyRecords (x : Hart) : List (Nat × Nat × Nat) :=
  let es := (recordedEntries x).filter (·.1.isCopy)
  (List.range 64).map (fun i =>
    (0x3000 + 192 * i, 192, match es[i]? with | some (e, vl, vt) => copyRecord x e vl vt | none => 0)) ++
  (List.range 128).map (fun i => (0x6000 + 4 * i, 4, (x.copyLfsrAt (i / 16) (i % 16)).toNat))

/-- The cells of a whole quarter: column j of 512 rows at 2,048 j. -/
def quarterCells (core q base : Nat) : List (Nat × Nat) :=
  (List.range (192 * 512)).map (fun i => (base + 4 * i, cellKey core (i % 512) (192 * q + i / 512)))

/-- The cells of register n in the order of 01 R38 at SEW 32 under all enabled dies. -/
def registerCells (s : State) (h n : Nat) : List Nat :=
  let x := s.hart h
  let core := coreOf h
  let cpr := if x.nreg = 0 then 0 else x.cfgCols.length / x.nreg
  (s.dies 0xFF).flatMap (fun d =>
    let ls := s.lanes core d
    (List.range cpr).flatMap (fun c => ls.map (fun l => cellKey core (64 * d + l) (x.cfgCols.getD (n * cpr + c) 0))))

/-- The grid records (R399, R401), each with its cells: whether an incremental save writes it, and how many of its cells. -/
def gridRecords (s : State) (h : Nat) : List (Bool × List (Nat × Nat)) :=
  let x := s.hart h
  let core := coreOf h
  let tq := (List.range 4).filter (fun q => x.tile.getLsbD q)
  let tiles := tq.zipIdx.map (fun (q, i) => (true, quarterCells core q (0x38000 + 0x60000 * i)))
  let base := 0x38000 + 0x60000 * tq.length
  match x.cfg with
  | none =>
    let vq := (List.range 4).filter (fun q => x.owned.getLsbD q && !x.tile.getLsbD q)
    tiles ++ vq.zipIdx.map (fun (q, i) => (true, quarterCells core q (base + 0x60000 * i)))
  | some c =>
    let cpr := x.cfgCols.length / c.nreg
    tiles ++ (List.range c.nreg).map (fun n =>
      (x.vdirty.contains n, (registerCells s h n).zipIdx.map (fun (k, i) => (base + 2048 * n * cpr + 4 * i, k))))

/-- A cell as the save engine reads it: of one whose error the ECC does not correct, a free value. DESIGN CHOICE, log 18. -/
def State.savedCell (s : State) (key : Nat) : BitVec 32 :=
  if s.badCells.contains key then Config.freeCell s.free key else s.cell key

/-- Register records hold the cells below VHW; the others every cell. -/
def gridSave (s : State) (h : Nat) : List SaveRec :=
  let x := s.hart h
  let nt := ((List.range 4).filter (fun q => x.tile.getLsbD q)).length
  (gridRecords s h).zipIdx.map (fun (r, i) =>
    let cells := if x.cfg.isSome && decide (nt ≤ i) then r.2.take (smGet 0 x.vhw (i - nt)) else r.2
    { dirty := r.1, bytes := cells.map (fun c => (c.1, 4, (s.savedCell c.2).toNat)), cells := cells.map (·.2) })

/-- The unwritten elements of the store queues (R399), each die stream's packed in the order in which they were enqueued. -/
def storeElements (x : Hart) : List (Nat × Nat × Nat) :=
  (List.range 8).flatMap (fun i =>
    let q := x.q (8 + i)
    let w := dWidth q.desc
    (List.range 8).map (fun p =>
      let es := q.unwritten p
      (0x1B8000 + 0x20000 * i + 0x4000 * p, (es.length * w + 7) / 8,
        es.foldr (fun e acc => e.2.toNat % 2 ^ w + 2 ^ w * acc) 0)))

/-- The records of a role's hart. -/
def hartRecords (s : State) (h : Nat) : List SaveRec :=
  let x := s.hart h
  let rs : List SaveRec :=
   [{ dirty := true, bytes := controlPage s h }, { dirty := true, bytes := entriesPage x },
    { dirty := true, bytes := (List.range 16).flatMap (streamRecord x) }, { dirty := true, bytes := copyRecords x }] ++
   (List.range 96).map (fun m => { dirty := x.maskDirty.contains m, bytes := [(0x8000 + 2048 * m, 2048, (x.mask m).toNat)] }) ++
   gridSave s h ++ [{ dirty := true, bytes := storeElements x }]
  rs.map (fun r => { r with dies := s.dies 0xFF })

/-- The offsets of scratchpad page p of the die at position d in its block, and of its granule bits (R399). -/
def pageOff (splen d p : Nat) : Nat × Nat := (4096 * (d * splen + p), 32768 * splen + 32 * (d * splen + p))

/-- The records of a group's scratchpad range. -/
def spRecords (s : State) (l : Launch) (core : Nat) : List SaveRec :=
  (s.dies 0xFF).zipIdx.flatMap (fun (die, d) =>
    (List.range l.splen).map (fun p =>
      let lo := 4096 * (l.splo + p)
      let o := pageOff l.splen d p
      { dies := [die]
        dirty := s.spDirty.contains (spKey core die lo / 4096)
        bytes := [(o.1, 4096, (List.range 4096).foldr (fun i acc => (s.spByte core die (lo + i)).toNat + 256 * acc) 0),
                  (o.2, 32, bitsOf ((List.range 256).map (fun g => s.isFull core die (lo + 16 * g))))] }))

/-- Every record of a launch in the order of R401, at offsets from SAVEPA. DEDUCED, log 41. -/
def saveRecords (s : State) (slot : Nat) (l : Launch) : List SaveRec :=
  let shift (b : Nat) (r : SaveRec) : SaveRec := { r with bytes := r.bytes.map (fun (o, n, v) => (b + o, n, v)) }
  (List.range l.roles.length).flatMap (fun r =>
    match s.hartOf slot r with
    | some h => (hartRecords s h).map (shift (hartBlock r))
    | none => []) ++
  (List.range l.groups).flatMap (fun g => (spRecords s l (l.cores.getD g 0)).map (shift (l.spBlock g)))

/-! ### The header and the save (R400, R401) -/

/-- The id of a launch: its slot in bits 15 to 0 and its generation in bits 62 to 16 (R404). -/
def launchId (slot : Nat) (l : Launch) : Nat := slot % 2 ^ 16 + l.gen % 2 ^ 47 * 2 ^ 16

def State.headState (s : State) (pa : Nat) : Nat := s.bytesAt (pa + 2) 1
def State.headGen (s : State) (pa : Nat) : Nat := s.bytesAt (pa + 8) 8

/-- The header as a save begins (R400). -/
def writeHeader (slot : Nat) (l : Launch) (s : State) : State :=
  let gen := s.headGen l.savepa
  let entries := (List.range l.roles.length).map (fun r =>
    match s.hartOf slot r with
    | some h =>
      let x := s.hart h
      (64 + 16 * r, 16, x.owned.toNat + 16 * x.tile.toNat + if x.run = .halted then 2 ^ 8 else 0)
    | none => (64 + 16 * r, 16, 0))
  ([(0, 2, 1), (2, 2, 1), (4, 4, 0), (8, 8, gen), (16, 8, launchId slot l), (24, 1, l.tenant),
    (25, 1, l.roles.length - 1), (26, 2, l.prio + if l.pnote then 16 else 0), (28, 4, l.preemptn), (32, 4, l.splo),
    (36, 4, l.splen), (40, 24, 0)] ++ entries).foldl (fun s (o, n, v) => s.setBytes (l.savepa + o) n v) s

/-- The save engine as the sender of its flits, which count against no tenant (10 R342, R343). -/
def saveSender (o : FlitOwner) : Sender := { owner := o, payer := none, cls := .swp }

/-- The errors of cells that the save engine reads: those that the ECC corrects are corrected and counted (05 R207). -/
def scrubCells (cells : List Nat) (s : State) : State :=
  (s.softCells.filter cells.contains).foldl (fun s key =>
    let k := homeCluster key
    let n := smGet 0 s.errCount k
    { s with
      softCells := s.softCells.filter (· ≠ key)
      errCount := smSet 0 s.errCount k (if n = 0xFFFFFFFF then n else n + 1) }) s
where
  /-- The key of the error count of a cell's die, core and lane cluster. -/
  homeCluster (key : Nat) : Nat :=
    let row := key % 512
    row / 64 * 128 + key / 512 / 768 * 4 + row % 64 / 16

/-- Records of a launch written from `i` on, with PROGRESS after each; a held-up route to what a record reads or to its place stops the
engine (R401, 10 R354). -/
def writeRecords (slot pa : Nat) (full : Bool) : List SaveRec → Nat → State → Option Nat × State
  | [], _, s => (none, s)
  | r :: rest, i, s =>
    let o := saveFlit slot
    match (r.dies ++ r.bytes.map (fun b => homeDie (pa + b.1))).flatMap (s.shutHops (saveSender o) 8 ·) with
    | hop :: _ => (some i, s.noteFlit hop)
    | [] =>
      let s := s.sent o
      let s := if full || r.dirty then scrubCells r.cells (r.bytes.foldl (fun s (o, n, v) => s.setBytes (pa + o) n v) s) else s
      writeRecords slot pa full rest (i + 1) (s.setBytes (pa + 4) 4 (i + 1))

/-! ### Shadows of harts off the device (07 R271) -/

/-- The owner of a region whose hart a save has taken off the device: its launch and role stand above its old number. -/
def parkedOwner (slot role h : Nat) : Nat := 2 ^ 16 * (1 + slot * 128 + role) + h % 2 ^ 16

/-- The launch of a parked owner. -/
def parkedSlot (o : Nat) : Option Nat := if 2 ^ 16 ≤ o then some ((o / 2 ^ 16 - 1) / 128) else none

/-- Owners of open regions replaced. -/
def State.mapOwners (s : State) (t : Nat) (f : Nat → Option Nat) : State :=
  let x := s.tenant t
  s.setTenant t { x with regions := x.regions.map (fun (i, r) => (i, { r with owner := r.owner.bind f })) }

/-- The harts of a launch leave their core. -/
def releaseHarts (slot : Nat) (s : State) : State :=
  (s.hartsOf slot).foldl (fun s h => s.setHart h {}) s

/-- Whether the bytes from an address on, at least one, lie in DRAM that a tenant owns throughout (02 R67). -/
def State.ownsRange (s : State) (t pa size : Nat) : Bool :=
  (List.range ((size + 0x1FFFFF) / 0x200000 + 1)).all (fun i =>
    let a := Nat.min (pa + i * 0x200000) (pa + Nat.max 1 size - 1)
    s.inDram a && (let o := s.ownerAt a; o.getLsbD 7 && decide ((o.extractLsb' 0 4).toNat = t)))

/-- Whether a launch has a save area, in memory that the tenant owns throughout (R399). -/
def areaOk (s : State) (t pa size : Nat) : Bool := decide (pa ≠ 0) && s.ownsRange t pa size

/-- The dirty bits that a completed save clears. -/
def clearDirty (slot : Nat) (l : Launch) (s : State) : State :=
  let pages := l.cores.flatMap (fun core => (s.dies 0xFF).flatMap (fun die =>
    (List.range l.splen).map (fun p => spKey core die (4096 * (l.splo + p)) / 4096)))
  let s := { s with spDirty := s.spDirty.filter (fun p => !pages.contains p) }
  (s.hartsOf slot).foldl (fun s h => s.updHart h (fun x => { x with vdirty := [], maskDirty := [] })) s

def State.setLaunch (s : State) (slot : Nat) (l : Launch) : State := { s with launches := smPut s.launches slot l }

/-- 06 R229: the enqueued parts of the open visits of a hart's store queues are written before its context is saved. -/
def flushVisits (h : Nat) (s : State) : State :=
  (List.range 8).foldl (fun s i =>
    let q := (s.hart h).q (8 + i)
    if q.isOpen && q.src = 1 then pumpStores h (8 + i) true q.fuel s else s) s

/-- CONTEXT_SAVE (R401): the save engine writes the records of a launch whose harts have stopped; when it has written the
last, the launch is off the device, suspended or pending again (R396). While the route to the header is held up it writes nothing
(10 R354). DEDUCED, log 41. -/
def contextSave (slot : Nat) (s : State) : State :=
  match smFind s.launches slot with
  | none => s
  | some l =>
    if l.stage ≠ .saving then s
    else match s.shutHops (saveSender (saveFlit slot)) 8 (homeDie l.savepa) with
    | hop :: _ => s.noteFlit hop
    | [] =>
      let s := s.sent (saveFlit slot)
      let fresh := l.progress.isNone
      let full := if fresh then
          l.moved || !(decide (l.savepa = l.lastPa) && decide (s.headGen l.savepa = l.lastGen) && decide (s.headState l.savepa = 2))
        else l.full
      let l := { l with preemptn := if fresh then l.preemptn + 1 else l.preemptn, full := full }
      let s := if fresh then writeHeader slot l ((s.hartsOf slot).foldl (fun s h => flushVisits h s) s) else s
      let start := l.progress.getD 0
      match writeRecords slot l.savepa full ((saveRecords s slot l).drop start) start { s with free := s.free + 1 } with
      | (some i, s') => if i = start && !fresh then { s with flits := s'.flits } else s'.setLaunch slot { l with progress := some i }
      | (none, s) =>
        let gen := s.headGen l.savepa + 1
        let s := (s.setBytes (l.savepa + 8) 8 gen).setBytes (l.savepa + 2) 1 2
        let s := clearDirty slot l s
        let hs := s.harts.filter (fun p => p.2.launch == some slot)
        let kept := hs.foldl (fun m p => smPut m p.2.role p.2) []
        let s := s.mapOwners l.tenant (fun o =>
          some (match hs.find? (fun p => p.1 == o) with | some p => parkedOwner slot p.2.role o | none => o))
        let s := releaseHarts slot s
        let s := s.setLaunch slot { l with
          stage := if l.suspend then .suspended else .pending
          hasSave := true, suspend := false, moved := false, progress := none, cores := []
          lastPa := l.savepa, lastGen := gen, kept := kept, waiter := none }
        match l.waiter with
        | some w => answer w 0 (BitVec.ofNat 64 gen) s
        | none => s

/-! ### Restoring (R401) -/

/-- A control word of the saved page put back (R399); the words that name the new place are not. -/
def restoreWord (x : Hart) (i : Nat) (v : Nat) : Hart :=
  let w := BitVec.ofNat 64 v
  match i with
  | 0x000 => { x with vl := BitVec.ofNat 15 v }
  | 0x001 => { x with vstart := BitVec.ofNat 14 v }
  | 0x002 => { x with vtype := BitVec.ofNat 16 v }
  | 0x010 => { x with fflags := BitVec.ofNat _ v }
  | 0x016 => { x with satcnt := BitVec.ofNat 32 v }
  | 0x018 => { x with lfsrIdx := BitVec.ofNat 9 v }
  | 0x020 => { x with tm := v }
  | 0x021 => { x with tn := v }
  | 0x022 => { x with tk := v }
  | 0x023 => { x with tkprog := v }
  | 0x043 => { x with owned := BitVec.ofNat 4 v, tile := BitVec.ofNat 4 (v / 16) }
  | 0x050 => { x with tvec := w }
  | 0x051 => { x with tcause := BitVec.ofNat 9 v }
  | 0x052 => { x with tpc := w }
  | 0x053 => { x with tqsn := BitVec.ofNat 16 v }
  | 0x054 => { x with tinfo0 := w }
  | 0x055 => { x with tinfo1 := w }
  | 0x056 => { x with tinfo2 := w }
  | 0x057 => { x with tinfo3 := w }
  | 0x058 => { x with tscratch := w }
  | 0x060 => { x with emubase := w }
  | _ =>
    if 0x008 ≤ i ∧ i ≤ 0x00B then { x with ds := smSet 0x00010000000000FF x.ds (i - 8) w }
    else if 0x011 ≤ i ∧ i ≤ 0x015 then { x with fexc := smSet 0 x.fexc (i - 0x011) w }
    else x

/-- The configuration that VGEOM tells of (R399, 03 R117): the quarters in vector mode, and for columns that lie in tile storage
those that the stopped hart had, or else the lowest. DEDUCED, log 41. -/
def restoreGeometry (v : Nat) (x : Hart) : Option VConfig :=
  let code := v % 8
  if code = 7 then none
  else
    let nreg := if code = 0 then 4 else if code = 1 then 8 else if code = 2 then 16 else 32
    let n := v / 2 ^ 8 % 2 ^ 8 * nreg / 192
    let fits (q : BitVec 4) : Bool :=
      (quarterCols q).length == 192 * n && q &&& x.owned == q && x.owned &&& ~~~x.tile &&& ~~~q == 0
    let kept := match x.cfg with
      | some c => if c.nreg = nreg && fits c.quarters then some c.quarters else none
      | none => none
    let low := ((List.range 16).map (BitVec.ofNat 4)).find? fits
    some { nreg := nreg, quarters := kept.getD (low.getD (x.owned &&& ~~~x.tile)) }

/-- The scalar registers, control words, lane LFSRs and the rest of the control page. -/
def restoreControl (s : State) (b : Nat) (x : Hart) : Hart :=
  let rd (o n : Nat) : Nat := s.bytesAt (b + o) n
  let x := (List.range 0x80).foldl (fun x i => restoreWord x i (rd (0x200 + 8 * i) 8)) x
  let x := (List.range 32).foldl (fun x r => x.setS r (BitVec.ofNat 64 (rd (0x100 + 8 * r) 8))) x
  let x := (List.range 512).foldl (fun x i => x.setLaneLfsr i (BitVec.ofNat 32 (rd (0x800 + 4 * i) 4))) x
  { x with
    cfg := restoreGeometry (rd (0x200 + 8 * 0x004) 8) x
    pc := BitVec.ofNat 64 (rd 0 8)
    nextQsn := BitVec.ofNat 16 (rd 8 2)
    run := if rd 10 1 % 2 = 1 then .halted else .preempted
    bar := if rd 0x1F 1 ≥ 128 then some (BitVec.ofNat 64 (rd 0x10 8), BitVec.ofNat 32 (rd 0x18 4)) else none
    vhw := (List.range 32).foldl (fun m n => smSet 0 m n (rd (0x600 + 4 * n) 4)) []
    vdirty := [], maskDirty := [] }

/-- The held entry of a hart with a QSN and a word. -/
def Hart.heldLike (x : Hart) (qsn : BitVec 16) (word : BitVec 32) : Option Entry :=
  x.queue.find? (fun e => e.st == .held && e.qsn == qsn && e.word == word)

/-- An entry as a restore starts to make it from its record: what the layout has no place for comes from the entry with the same
QSN and word that the stopped hart had. DEDUCED, log 41. -/
def blankEntry (x : Hart) (qsn : BitVec 16) (word : BitVec 32) (op : QOp) : Entry :=
  match x.heldLike qsn word with
  | some e => e
  | none =>
    { uid := 0, qsn := qsn, op := op, word := word, pc := x.pc, opd := 0, opa := 0, opb := 0
      opc := x.s (wfld word 11 5 + 1), dst := dstOfWord word, st := .held, restart := none, cap := none
      prog := {}, lazyTile := false, began := false }

/-- An entry read back from its record, with the VL that the record gives it. A rank update with an index above 0 had
started (08 R308). The layout has no place for its columns and its K: they follow the stopped hart's entry, or else the tile state of
now, so that of a quarter which TMODE.OFF has returned since they are no column and the current TK. DESIGN CHOICE, log 41. -/
def restoreEntry (s : State) (v : Nat) (x : Hart) : Option (Entry × Nat) :=
  let f (lo n : Nat) : Nat := v / 2 ^ (8 * lo) % 2 ^ (8 * n)
  let word := BitVec.ofNat 32 (f 0 4)
  let opa := BitVec.ofNat 64 (f 24 8)
  let opb := BitVec.ofNat 64 (f 32 8)
  let vl := f 40 2
  if f 6 1 = 0 then none
  else (qopOfWord word opa opb).map fun op =>
    let old := blankEntry x (BitVec.ofNat 16 (f 4 2)) word op
    let sel : Word := BitVec.ofNat 64 (f 44 8)
    let dies := (old.cap.map (·.dies)).getD (s.dies sel)
    let (cols, kTotal) := match op with
      | .tmul _ _ sk _ acc .. =>
        ((x.tileCols.drop (64 * acc)).take x.tn, if sk = 0 then x.tk else opb.toNat)
      | .tmulsp _ _ _ _ acc .. => ((x.tileCols.drop (64 * acc)).take x.tn, x.tk)
      | _ => ([], 0)
    ({ old with
      op := op, opd := BitVec.ofNat 64 (f 16 8), opa := opa, opb := opb, st := .held, restart := some (f 8 4)
      vlNew := match op with | .vset .. => vl | _ => 0
      cap := if op.isTmul && f 8 4 ≠ 0 then some { vl := vl, vtype := BitVec.ofNat 16 (f 42 2), sel := sel, dies := dies } else none
      cols := if old.cols.isEmpty then cols else old.cols
      kTotal := if old.kTotal = 0 then kTotal else old.kTotal }, vl)

/-- A copy entry read back from its record (07 R280) at address `o`, with its VL; the regions whose shadows it uses are those that were
open when it started. The record has no place for the flags and the clamp count of the units that a CPCVT has done: they follow the stopped
hart's entry, and are free values where none is kept. DEDUCED and UNVERIFIED, log 41. -/
def restoreCopy (o v : Nat) (x : Hart) : Option (Entry × Nat) :=
  let f (lo n : Nat) : Nat := v / 2 ^ (8 * lo) % 2 ^ (8 * n)
  let word := BitVec.ofNat 32 (f 0 4)
  let opa := BitVec.ofNat 64 (f 16 8)
  let opb := BitVec.ofNat 64 (f 24 8)
  let vl := f 32 2 % 2 ^ 15
  if word = 0 then none
  else (qopOfWord word opa opb).map fun op =>
    let old := blankEntry x (BitVec.ofNat 16 (f 4 2)) word op
    let ps := List.range 8
    let done (p : Nat) : Nat := f (64 + 16 * p) 4
    let units := (ps.map done).sum
    let (flags, sat) := if units = 0 || (x.heldLike old.qsn word).isSome then (old.prog.flags, old.prog.sat)
      else ((Config.freeSaved o 0).setWidth _, (Config.freeSaved o 1).toNat % (units + 1))
    ({ old with
      op := op, opd := BitVec.ofNat 64 (f 8 8), opa := opa, opb := opb, st := .held
      restart := if f 6 1 = 1 then old.restart else some (old.restart.getD 0)
      cap := if f 6 1 = 1 then
          some { vl := vl, vtype := BitVec.ofNat 16 (f 34 2), sel := BitVec.ofNat 64 (f 36 8)
                 dies := ps.filter (fun d => (f 44 1).testBit d) }
        else none
      prog := { old.prog with
        flags := flags, sat := sat
        done := ps.foldl (fun m p => smSet 0 m p (done p)) []
        cur := ps.foldl (fun m p => smSet 0 m p (f (68 + 16 * p) 4)) []
        part := ps.foldl (fun m p => if done p = 0 then m else smPut m p (BitVec.ofNat 64 (f (72 + 16 * p) 8))) [] } }, vl)

/-- An entry put into a list in QSN order; `n` is the next QSN. -/
def insertQsn (n : BitVec 16) (e : Entry × Nat) : List (Entry × Nat) → List (Entry × Nat)
  | [] => [e]
  | o :: os => if (n - o.1.qsn).toNat < (n - e.1.qsn).toNat then e :: o :: os else o :: insertQsn n e os

/-- A VL that CLAIM wrote, as an entry. -/
def vlEntry (x : Hart) (qsn : BitVec 16) (vl : Nat) : Entry :=
  { uid := 0, qsn := qsn, op := .setVl vl, word := 0, pc := x.pc, opd := 0, opa := 0, opb := 0, dst := none, st := .held
    restart := some 0, cap := none, prog := {}, lazyTile := false, began := false }

/-- The restored entries with the VL that CLAIM had written before one: where an entry has another VL than those before it leave. -/
def withVl (x : Hart) : Nat × BitVec 16 → List (Entry × Nat) → List Entry
  | p, [] =>
    match x.queue.getLast? with
    | some o =>
      match o.op with
      | .setVl n => if n = p.1 then [] else [vlEntry x x.nextQsn n]
      | _ => []
    | none => []
  | p, (e, vl) :: es =>
    let fixed := e.cap.isSome || (match e.op with | .vset .. => true | _ => false)
    if fixed || vl = p.1 then e :: withVl x (e.shapeAfter p) es
    else vlEntry x e.qsn vl :: e :: withVl x (e.shapeAfter (vl, p.2)) es

/-- The queue of a restored hart: the entry and copy records in QSN order. What an entry has no record of, and what a FENCE still
holds back, follows the stopped hart's. DEDUCED, log 41. -/
def restoreQueue (s : State) (b : Nat) (x : Hart) : Hart :=
  -- the number 0 is that of an operation that the hart's table was given back on another device (11 R379)
  let x := { x with nextUid := Nat.max 1 x.nextUid }
  let es := (List.range 64).filterMap (fun i => restoreEntry s (s.bytesAt (b + 0x1000 + 64 * i) 64) x)
  let cs := (List.range 64).filterMap (fun i => restoreCopy (b + 0x3000 + 192 * i) (s.bytesAt (b + 0x3000 + 192 * i) 192) x)
  let all := withVl x (x.vl.toNat, x.vtype) ((es ++ cs).foldr (insertQsn x.nextQsn) [])
  let q := all.zipIdx.map (fun (e, i) => { e with uid := x.nextUid + i })
  let uidOf (p : Entry → Bool) : Option Nat := (q.find? p).map (·.uid)
  let fault : Option (BitVec 16) := match x.faultUid with
    | some u => (x.queue.find? (fun e => e.uid = u)).map (·.qsn)
    | none => if x.queue.isEmpty && x.tcause.getLsbD 8 then some x.tqsn else none
  { x with
    queue := q
    nextUid := x.nextUid + q.length
    tileIssue := q.foldl (fun t e => tileIssueAfter { x with tileIssue := t } e.op) x.tile
    fence := x.fence.map (fun f =>
      { f with before := (uidOf (fun e => decide ((e.qsn - f.qsn).toNat < 2 ^ 15))).getD (x.nextUid + q.length)
               held := f.held.filterMap (fun o => (heldOf q o.2).map (fun e => (e.uid, e.qsn))) })
    faultUid := fault.bind (fun n => (heldOf q n).map (·.uid))
    fexcMark := (List.range 5).foldl (fun m i =>
      if (s.bytesAt (b + 0x30) 1).testBit i then
        match uidOf (fun e => e.qsn == (smGet 0 x.fexc i).extractLsb' 32 16) with
        | some u => smPut m i u
        | none => m
      else m) []
    copyLfsr := (List.range 128).foldl (fun m i =>
      smSet (BitVec.ofNat 32 (513 + i)) m i (BitVec.ofNat 32 (s.bytesAt (b + 0x6000 + 4 * i) 4))) [] }

/-- The unwritten elements of a die stream of a store queue read back. Which elements they are, and the QSN of each, follows the
stopped hart's queue, or else they are the last ones enqueued. -/
def restoreElements (s : State) (b n p cnt : Nat) (q : StreamQ) : SMap (BitVec 272) :=
  let w := dWidth q.desc
  let at' := b + 0x1B8000 + 0x20000 * (n - 8) + 0x4000 * p
  let v := s.bytesAt at' ((cnt * w + 7) / 8)
  let old := q.unwritten p
  let keys := if old.length = cnt then old.map (fun e => (e.1, e.2.extractLsb' 256 16))
    else (List.range cnt).map (fun j => (elemKey p (q.dpos.getD p 0 - cnt + j), q.qsn))
  keys.zipIdx.map (fun (k, j) => (k.1, BitVec.ofNat 272 (v / 2 ^ (w * j) % 2 ^ w + k.2.toNat * 2 ^ 256)))

/-- The die position whose run is current in queue order and the elements left of it, when a queue of `n` die streams of `e` elements
stands at position `pos` (R225). -/
def placeAt (run n e pos : Nat) : Nat × Nat :=
  if n = 0 then (0, run)
  else
    let whole := e / run * run * n
    if pos < whole then (pos / run % n, run - pos % run)
    else
      let rest := e % run
      if rest = 0 then (n - 1, 0) else (Nat.min ((pos - whole) / rest) (n - 1), run - (pos - whole) % rest)

/-- How many of the first `k` elements of a queue of `n` die streams of `e` elements die stream `p` supplies (06 R214, R225). -/
def supplied (run n e k p : Nat) : Nat :=
  let whole := e / run * run * n
  if k < whole then k / (run * n) * run + Nat.min run (k % (run * n) - p * run)
  else e / run * run + Nat.min (e % run) (k - whole - p * (e % run))

/-- The requests numbered from `k` on of a queue of a moved context, `n` in all (06 R246): the record has no place for their addresses,
nor for the dies of staged rows, of which `dpos` were asked for by die. UNVERIFIED, log 41. -/
def movedReqs (q : StreamQ) (o k n : Nat) (dpos : List Nat) : SMap StreamReq :=
  let asked := (List.range 8).filter (fun d => decide (dpos.getD d 0 ≠ 0))
  let dieOf (j : Nat) : Nat :=
    if q.src = 3 then q.dies.getD (q.posOf j) 0 else asked.getD ((Config.freeSaved o (3 + 2 * j)).toNat % asked.length) 0
  (List.range (n - k)).map fun i =>
    let j := k + i
    let later := (List.range (n - j)).countP (fun t => dieOf (j + t) == dieOf j)
    (j, { addr := Config.freeSaved o (2 + 2 * j), die := dieOf j, qsn := 0
          slot := if q.src = 3 then 0 else dpos.getD (dieOf j) 0 - later
          data := if q.src = 4 && j == k && decide (q.pos % dCount q.desc 0 ≠ 0) then some 0 else none })

/-- The number of the k-th free value of a record at an address, beside those of a queue's dies, die step and requests. -/
def savedNo (k : Nat) : Nat := 2 ^ 64 + k

/-- The place within a run of an affine queue of a moved context, with its record at `o`. The layout has no place for it: it follows from
POS where the positions of the die streams are those of R214, unless a TMUL has had the order reckoned afresh (R225) and they have come
to be the same again. UNVERIFIED, log 41. -/
def movedPlace (o : Nat) (q : StreamQ) : Nat × Nat :=
  let run := dDrun q.desc
  let n := q.dies.length
  let inOrder := (List.range n).all (fun p => q.dpos.getD p 0 == supplied run n q.e q.pos p)
  if inOrder && !(Config.freeSaved o (savedNo 0)).getLsbD 0 then placeAt run n q.e q.pos
  else ((Config.freeSaved o (savedNo 1)).toNat % Nat.max 1 n, (Config.freeSaved o (savedNo 2)).toNat % (run + 1))

/-- A queue of a context that no stopped hart of this device is kept of, with its record at `o`. The layout has no place for its
participating dies, its die step and the addresses of its requests. An SRC 2 queue takes its indices anew. UNVERIFIED, log 41. -/
def movedQueue (s : State) (o : Nat) (d : BitVec 512) (pos : Nat) (dpos : List Nat) : StreamQ :=
  let some' := (s.dies 0xFF).filter (fun d => (Config.freeSaved o 0).getLsbD d)
  let dies := if some'.isEmpty then s.dies 0xFF else some'
  let q : StreamQ := { openQueue d { vl := 0, vtype := 0, sel := 0, dies := dies } 0 with pos := pos, dstep := Config.freeSaved o 1 }
  let q : StreamQ := if q.src = 4 then { q with dpos := dpos } else if q.affine then { q with dpos := dpos.take dies.length } else q
  let at' := if q.affine then movedPlace o q else placeAt (dDrun d) dies.length q.e pos
  let first := if q.src = 4 then pos / Nat.max 1 (dCount d 0) else pos
  let n := if q.src = 2 then pos else if q.src ≤ 1 then 0 else dpos.sum
  { q with
    cur := at'.1, left := at'.2, nreqs := n
    reqs := if q.src ≤ 2 then [] else movedReqs q o first n dpos }

/-- The positions of die streams set back by `m` elements, each of a die stream that the record at `o` does not tell. -/
def backFree (o : Nat) : Nat → List Nat → List Nat
  | 0, dpos => dpos
  | m + 1, dpos =>
    let ps := (List.range dpos.length).filter (fun p => dpos.getD p 0 ≠ 0)
    let p := ps.getD ((Config.freeSaved o (savedNo (8 + m))).toNat % Nat.max 1 ps.length) 0
    backFree o m (dpos.set p (dpos.getD p 0 - 1))

/-- An index queue of a moved context, with its record at `o`, set back by the indices that its SRC 2 queue has taken and not used, to
take them anew (06 R242, R246). Where it stands in the order of R214 they are the last ones of that order. UNVERIFIED, log 41. -/
def StreamQ.back (z : StreamQ) (o m : Nat) : StreamQ :=
  let k := z.pos - m
  let run := dDrun z.desc
  let n := z.dies.length
  let plain := (List.range n).all (fun p => z.dpos.getD p 0 == supplied run n z.e z.pos p) &&
    decide ((z.cur, z.left) = placeAt run n z.e z.pos)
  let dpos := if plain then (List.range n).map (supplied run n z.e k) else backFree o m z.dpos
  let at' := if plain then placeAt run n z.e k
    else ((Config.freeSaved o (savedNo 3)).toNat % Nat.max 1 n, (Config.freeSaved o (savedNo 4)).toNat % (run + 1))
  if m = 0 then z else { z with pos := k, dpos := dpos, fpos := dpos, cur := at'.1, left := at'.2 }

/-- The positions of the die streams that a queue's record at `o` holds. -/
def State.savedPos (s : State) (o : Nat) : List Nat := (List.range 8).map (fun p => s.bytesAt (o + 72 + 8 * p) 8)

/-- The index queues of a moved context, as their queues take their indices anew. -/
def restoreIndices (s : State) (b : Nat) (x : Hart) : Hart :=
  (List.range 8).foldl (fun x n =>
    let q := x.q n
    if q.isOpen && q.src = 2 then
      let z := dIq q.desc
      x.setQ z ((x.q z).back (b + 0x2000 + 256 * z) ((s.savedPos (b + 0x2000 + 256 * n)).sum - q.pos))
    else x) x

/-- The rows that a moved context's staged gathers have in the scratchpad (06 R246): a request whose slot holds a full granule and
belongs to no earlier one has been served. DEDUCED, log 41. -/
def servedRows (h : Nat) (s : State) : State :=
  (List.range 8).foldl (fun s n =>
    s.updQ h n (fun q =>
      let rb := dCount q.desc 0 * dWidth q.desc / 8
      let ring := dN q.desc 1
      let served (k : Nat) (r : StreamReq) : Bool :=
        (granules (dSpbase q.desc + r.slot % ring * rb) rb).any (fun g => s.isFull (coreOf h) r.die g) &&
        q.reqs.all (fun o => decide (k ≤ o.1) || o.2.die != r.die || o.2.slot % ring != r.slot % ring)
      if q.isOpen && q.src = 4 then
        { q with reqs := q.reqs.map (fun (k, r) => (k, if served k r then { r with data := some 0 } else r)) }
      else q)) s

/-- The cause of a DENIED bit whose STORE_DENIED_REMOTE the model does not keep (02 R68): the record at `o` has no place for its address,
element and die. UNVERIFIED, log 41. -/
def deniedCause (o : Nat) : TrapInfo :=
  { code := 8, i0 := Config.freeSaved o (savedNo 5), i1 := 0x20B, i2 := Config.freeSaved o (savedNo 6)
    i3 := BitVec.ofNat 64 ((Config.freeSaved o (savedNo 7)).toNat % 9) }

/-- A stream queue read back (06 R246): a load queue fetches again what it had buffered and makes its requests again, a store queue
holds its unwritten elements. A request stays held
until its reply comes, and a reply that came meanwhile holds (02 R66). What the layout has no place for (the participating dies, the
place within a run, the requests, sequence numbers and QSNs, the causes of ABORT and DENIED) follows the stopped hart's queue, and is a
free value where none is kept. DEDUCED and UNVERIFIED, log 41. -/
def restoreStream (s : State) (b n : Nat) (x : Hart) : Hart :=
  let o := b + 0x2000 + 256 * n
  let st := s.bytesAt (o + 140) 2
  if !st.testBit 15 then x.setQ n {}
  else
    let pos := s.bytesAt (o + 64) 8
    let q := if (x.q n).dies.isEmpty then movedQueue s o (BitVec.ofNat 512 (s.bytesAt o 64)) pos (s.savedPos o) else x.q n
    let dpos := (List.range q.dpos.length).map (fun p => s.bytesAt (o + 72 + 8 * p) 8)
    let q := { q with
      isOpen := true, desc := BitVec.ofNat 512 (s.bytesAt o 64), pos := pos, window := s.bytesAt (o + 136) 4
      stale := []
      abort := if st.testBit 11 then some (q.abort.getD (Config.freeSaved o (savedNo 5))) else q.abort
      denied := if st.testBit 10 then some (q.denied.getD (deniedCause o)) else none
      range := if st.testBit 8 then q.range.filter (fun p => q.fpos.getD p 0 = q.dpos.getD p 0) else [] }
    let q := if q.affine || q.src = 4 then { q with dpos := dpos } else q
    if 8 ≤ n then
      let q' : StreamQ := { q with
        buf := (List.range 8).foldl (fun m p =>
          (restoreElements s b n p (s.bytesAt (o + 144 + 4 * p) 4) q).foldl (fun m e => smPut m e.1 e.2) m) [] }
      x.setQ n (if q'.abort.isSome then q'.dropWrites else q')
    else
      x.setQ n { q with
        buf := [], fpos := q.dpos
        reqs := if q.src = 4 then q.reqs else q.reqs.map (fun r => (r.1, { r.2 with data := none })) }

/-- The index queues bound to the queues that the records name (06 R242). -/
def restoreBound (s : State) (b : Nat) (x : Hart) : Hart :=
  (List.range 8).foldl (fun x n =>
    let q := x.q n
    if q.isOpen && q.src = 2 then
      let z := s.bytesAt (b + 0x2000 + 256 * n + 142) 1 % 16
      x.setQ z { x.q z with bound := some n }
    else x) ((List.range 8).foldl (fun x n => x.setQ n { x.q n with bound := none }) x)

/-- The masks of a hart block. -/
def restoreMasks (s : State) (b : Nat) (x : Hart) : Hart :=
  { x with masks := (List.range 96).foldl (fun m i => smSet 0 m i (BitVec.ofNat 16384 (s.bytesAt (b + 0x8000 + 2048 * i) 2048))) [] }

/-- The grid cells of a hart block: a register's cells from VHW on become +0. The tile-mode quarters come last: where a register still
has columns in one, an incremental save leaves that record as it was, and the tile record holds the cells (R401, 08 R313). -/
def restoreGrid (h b : Nat) (s : State) : State :=
  let x := s.hart h
  let nt := ((List.range 4).filter (fun q => x.tile.getLsbD q)).length
  (gridRecords s h).zipIdx.reverse.foldl (fun s (r, i) =>
    let hw := if x.cfg.isSome && decide (nt ≤ i) then smGet 0 x.vhw (i - nt) else r.2.length
    r.2.zipIdx.foldl (fun s (c, k) =>
      s.setCell c.2 (if k < hw then BitVec.ofNat 32 (s.bytesAt (b + c.1) 4) else 0)) s) s

/-- The scratchpad range of a group. -/
def restoreSp (l : Launch) (g core : Nat) (s : State) : State :=
  (s.dies 0xFF).zipIdx.foldl (fun s (die, d) =>
    (List.range l.splen).foldl (fun s p =>
      let lo := 4096 * (l.splo + p)
      let o := pageOff l.splen d p
      let b := l.savepa + l.spBlock g
      let s := (List.range 4096).foldl (fun s i => s.setSpByte core die (lo + i) (s.byteAt (b + o.1 + i))) s
      (List.range 256).foldl (fun s k =>
        s.setFull core die (lo + 16 * k) ((s.bytesAt (b + o.2) 32).testBit k)) s) s) s

/-- A hart put back from its block (R401). Its launch, core and role are the new binding's, and it owns the shadows that it had open
(07 R271). DEDUCED, log 41. -/
def restoreHart (slot : Nat) (l : Launch) (r h : Nat) (s : State) : State :=
  let b := l.savepa + hartBlock r
  let x := { smGet {} l.kept r with launch := some slot, role := r, tenant := l.tenant, fkey := l.arrival * 128 + r }
  let x := restoreControl s b x
  let x := restoreMasks s b (restoreQueue s b x)
  let oldest := (x.queue.find? (fun e => e.st == .held)).map (fun e => e.restart.getD 0)
  -- a context moved here: its entries are those held at the trap that it handles, or were stopped by the pre-emption
  let x := if (smFind l.kept r).isSome then x
    else { x with
      release := x.holding && x.tcause.extractLsb' 0 8 == 0, vstartSet := oldest.any (fun i => i ≠ x.vstart.toNat) }
  let x := restoreBound s b ((List.range 16).foldl (fun x n => restoreStream s b n x) x)
  let x := if (smFind l.kept r).isSome then x else restoreIndices s b x
  let s := s.mapOwners l.tenant (fun o => some (if 2 ^ 16 ≤ o && o / 2 ^ 16 = 1 + slot * 128 + r then h else o))
  restoreGrid h b (s.setHart h x)

/-- R398: a restored hart resumes, through PREEMPT when its launch asks for it. -/
def restartHart (l : Launch) (h : Nat) (s : State) : State :=
  s.updHart h (resumeHart
    (if l.pnote then some { code := 0x13, i0 := BitVec.ofNat 64 l.preemptn, i1 := BitVec.ofNat 64 (coreOf h) } else none))

/-- R398: a restored hart has LANE_RETIRED to take when it lies on a core whose lanes differ from those of its save. -/
def markLanes (oldMask : BitVec 32) (h : Nat) (s : State) : State :=
  s.updHart h (fun x => { x with laneRetired := x.laneRetired || decide (s.laneMask (coreOf h) ≠ oldMask) })

/-- The saved lane mask of a role's control page. -/
def savedMask (s : State) (l : Launch) (r : Nat) : BitVec 32 :=
  BitVec.ofNat 32 (s.bytesAt (l.savepa + hartBlock r + 0x200 + 8 * 0x042) 8)

end Sys2Proof.Machine
end

