-- ==== Sys2Proof/Machine/Launch.lean ====
section
/-!
DEFINITION. The launch sequencer and the kernel loader (12 R389 to R398, R402 to R404): the checks of a launch, binding,
portable kernels, completion, pre-emption and resumption.
-/

namespace Sys2Proof.Machine

/-! ### What a launch says (R389, R390) -/

/-- The agent that reads for the sequencer and the loader on behalf of a tenant. -/
def loaderAgent (t : Nat) : Agent := { tenant := t }

/-- Fields of the kernel descriptor (R390). -/
def Launch.kd (l : Launch) (lo n : Nat) : Nat := blkField l.kdesc lo n
def Launch.form (l : Launch) : Nat := l.kd 2 1
def Launch.code (l : Launch) : Word := BitVec.ofNat 64 (l.kd 8 8)
def Launch.codelen (l : Launch) : Nat := l.kd 16 8
def Launch.dsh (l : Launch) : Word := BitVec.ofNat 64 (l.kd 24 8)
def Launch.emusec (l : Launch) : Word := BitVec.ofNat 64 (l.kd 40 8)
def Launch.emulen (l : Launch) : Nat := l.kd 48 4

/-- Whether the native code is for this device's stepping (R402). -/
def Launch.isNative (l : Launch) : Bool := l.form % 2 == 1 && l.kd 4 4 == 0xA0

/-- Role entries read from bytes (R390), with whether their reserved bytes are zero. -/
def roleOf (v : Nat) : Role := { entry := v % 2 ^ 32, quarters := BitVec.ofNat 4 (v / 2 ^ 32), tileq := BitVec.ofNat 4 (v / 2 ^ 36) }

/-- The roles of group g. -/
def Launch.groupRoles (l : Launch) (g : Nat) : List Role := (l.roles.drop (4 * g)).take 4

/-- No two of the quarter sets meet. -/
def quartersApart : List Role → BitVec 4 → Bool
  | [], _ => true
  | r :: rs, u => (u &&& r.quarters == 0) && quartersApart rs (u ||| r.quarters)

/-- The checks of R390 that give FORMAT. DEDUCED, log 40. -/
def Launch.descOk (l : Launch) : Bool :=
  l.kd 0 2 == 1 && decide (l.form < 4) && l.kd 52 12 == 0 && decide (l.splo + l.splen ≤ 1024) && decide (l.kd 3 1 < 128) &&
  l.roles.all (fun r => r.tileq &&& ~~~r.quarters == 0) && (List.range l.groups).all (fun g => quartersApart (l.groupRoles g) 0) &&
  (l.form != 2 || l.roles.length == 1)

/-- A range read under a tenant's translation in pieces; the address of the first byte that cannot be read.
DEDUCED, log 40. -/
def readRange (t : Nat) : Nat → Word → Nat → State → Except Word (List Nat) × State
  | 0, _, _, s => (.ok [], s)
  | fuel + 1, va, n, s =>
    if n = 0 then (.ok [], s)
    else
      let k := Nat.min 4 n
      match engineRead (loaderAgent t) va k s with
      | (.error (a, _), s) => (.error a, s)
      | (.ok v, s) =>
        match readRange t fuel (va + BitVec.ofNat 64 k) (n - k) s with
        | (.error a, s) => (.error a, s)
        | (.ok vs, s) => (.ok (v :: vs), s)

/-- A range of `n` bytes as 32-bit words. -/
def readWords (t : Nat) (va : Word) (n : Nat) (s : State) : Except Word (List Nat) × State := readRange t (n / 4 + 1) va n s

/-- The 12 arguments (R389). -/
def readArgs (t : Nat) (argp : Word) (s : State) : Except Word (List Word) × State :=
  if argp = 0 then (.ok (List.replicate 12 0), s)
  else match readWords t argp 96 s with
    | (.error a, s) => (.error a, s)
    | (.ok ws, s) =>
      (.ok ((List.range 12).map (fun i => BitVec.ofNat 64 (ws.getD (2 * i) 0 + 2 ^ 32 * ws.getD (2 * i + 1) 0))), s)

/-! ### Portable kernels (R403) -/

/-- The operand sets that a portable body word may use: its operation and the sizes of its formats, given VTYPE.FMT. -/
def bodyFmtOk (op : QOp) (fmt : Nat) (q : Nat → Option Nat) (sb : Word) : Bool :=
  match op with
  | .vint .. => fmtInt fmt
  | .vfp .. | .vspec .. => (fmtFp fmt).isSome
  | .vcvt o d _ =>
    let ints := fmtAnyInt fmt && fmtAnyInt d
    fmtOk d && (match o with
      | .cvt => !fmtIsMx fmt && !fmtIsMx d && !ints
      | .widen => ints && decide (fmtSew fmt < fmtSew d)
      | .narrow | .narrows => ints && decide (fmtSew d < fmtSew fmt))
  | .vquant _ =>
    let d := (sb.extractLsb' 32 5).toNat
    (fmtFp fmt).isSome && (fmtAnyInt d || d == 11 || d == 12 || d == 13)
  | .vdequant _ =>
    let d := (sb.extractLsb' 32 5).toNat
    (fmtFp fmt).isSome && fmtOk d && !fmtIsMx d
  | .vcmp o _ _ => if o.isInt then fmtInt fmt else (fmtFp fmt).isSome
  | .vqsrc o _ n _ =>
    q n == some fmt && (match o.intOp, o.fpOp with
      | some _, _ => fmtInt fmt
      | none, some _ => (fmtFp fmt).isSome
      | none, none => !fmtIsMx fmt)
  | .venq n _ => q n == some fmt
  | .vbits o _ => fmtInt fmt && (o != .bext || decide (16 ≤ fmtSew fmt))
  | .vperm .. => !fmtIsMx fmt
  | .mask .. => true
  | _ => false

/-- Whether a word may stand in a portable body: its function, and the registers it names (R403). -/
def bodyWordOk (w : BitVec 32) : Bool :=
  let fn := wfld w 0 4
  let vd := decide (wfld w 21 5 < 16)
  let va := decide (wfld w 16 5 < 16)
  let vb := decide (wfld w 11 5 < 16)
  let sb := decide (20 ≤ wfld w 11 5)
  let x := w.getLsbD 4
  -- R109: MS is 0 where M and X are
  let ds := wfld w 5 2 == 0 && (w.getLsbD 10 || x || wfld w 7 3 == 0)
  match wfld w 26 6 with
  | 0x18 => vd && va && vb && ds && !w.getLsbD 4
  | 0x19 => vd && va && sb && ds && !w.getLsbD 4
  | 0x1A => vd && va && vb && ds && decide (fn < 14)
  | 0x1B => vd && va && sb && ds && decide (fn < 14)
  | 0x1C => vd && va && ds && wfld w 11 5 == 0 && decide (fn < 14)
  | 0x1D => vd && va && ds && decide (fn < 4)
  | 0x1E => (fn == 4 || fn == 5) && vd && va && sb && ds
  | 0x20 =>
    ds && !w.getLsbD 4 && vd &&
    ((fn == 5 && va && vb) || (fn == 6 && va && wfld w 11 5 == 0) || (fn == 7 && decide (20 ≤ wfld w 16 5) && wfld w 11 5 == 0))
  | 0x21 =>
    ds && !w.getLsbD 4 && vd && va && ((decide (1 ≤ fn) && decide (fn ≤ 3) && vb) ||
      (decide (5 ≤ fn) && decide (fn ≤ 8) && wfld w 11 5 == 0))
  | 0x26 => ds && vd && va && decide (fn < 11) && wfld w 14 1 == 0 && (fn != 0 || wfld w 16 5 == 0) &&
    (!x || (decide (4 ≤ fn) && decide (fn ≤ 7)))
  | 0x27 => ds && va && wfld w 21 5 == 0 && fn == 0 && decide (8 ≤ wfld w 11 4) && !w.getLsbD 15 && !w.getLsbD 4
  | 0x28 =>
    -- R110: MMV and MNOT name no MB, MSET and MCLR neither MA nor MB
    let f := wfld w 0 5
    decide (f < 12) && decide (wfld w 19 7 < 8) && decide (wfld w 12 7 < 8) && decide (wfld w 5 7 < 8) &&
    (decide (f < 8) || wfld w 5 7 == 0) && (decide (f < 10) || wfld w 12 7 == 0)
  | 0x29 => decide (wfld w 21 5 < 8) && va && vb && ds && decide (fn < 15) && (!x || decide (8 ≤ fn))
  | 0x2A => decide (wfld w 21 5 < 8) && va && sb && ds && decide (fn < 15) && (!x || decide (8 ≤ fn))
  | _ => false

/-- A portable section (R403): the header, the streams with their descriptors, and the body. -/
structure DshSection where
  cnt : Nat
  fmt : Nat
  rm : Nat
  repro : Bool
  streams : List (Nat × Nat × BitVec 512)
  body : List (BitVec 32)
  base : Word

/-- A portable section read and checked: the address that cannot be read (R389), or none for a breach of R403. -/
def readDsh (t : Nat) (l : Launch) (args : List Word) (s : State) : Except (Option Word) DshSection × State :=
  match readWords t l.dsh 16 s with
  | (.error a, s) => (.error (some a), s)
  | (.ok h, s) =>
    let v := h.zipIdx.foldl (fun acc (w, i) => acc + w * 2 ^ (32 * i)) 0
    let f (lo n : Nat) : Nat := v / 2 ^ (8 * lo) % 2 ^ (8 * n)
    let nstr := f 2 1
    let nbody := f 3 1
    let cnt := f 4 1
    let fmt := f 5 1
    let rm := f 6 1 % 8
    let headOk := f 0 2 == 1 && decide (1 ≤ nstr) && decide (nstr ≤ 16) && decide (1 ≤ nbody) && decide (20 ≤ cnt) &&
      decide (cnt ≤ 31) && fmtOk fmt && decide (f 6 1 < 16) && decide (rm < 6) && f 7 9 == 0
    if !headOk then (.error none, s)
    else match readWords t (l.dsh + 16) (80 * nstr + 4 * nbody) s with
      | (.error a, s) => (.error (some a), s)
      | (.ok ws, s) =>
        let word (i : Nat) : Nat := ws.getD i 0
        let arg (r : Nat) : Word := args.getD (r - 20) 0
        let str := (List.range nstr).map (fun k =>
          let d := (List.range 16).foldl (fun acc i => acc + word (20 * k + i) * 2 ^ (32 * i)) 0
          let tail := (List.range 4).foldl (fun acc i => acc + word (20 * k + 16 + i) * 2 ^ (32 * i)) 0
          let ba := tail / 256 % 256
          let base := BitVec.ofNat 64 d + (if ba = 0 then 0 else arg ba)
          let desc := BitVec.ofNat 512 (d / 2 ^ 64 * 2 ^ 64 + base.toNat)
          (tail % 256, ba + tail / 2 ^ 16 * 256, desc))
        let body := (List.range nbody).map (fun i => BitVec.ofNat 32 (word (20 * nstr + i)))
        let queueFmt (n : Nat) : Option Nat := (str.find? (fun q => q.1 = n)).map (fun q => dFmt q.2.2)
        let strOk := str.all (fun q =>
          decide (q.1 < 16) && (q.2.1 == 0 || (decide (20 ≤ q.2.1) && decide (q.2.1 ≤ 31))) && decide (dSrc q.2.2 ≤ 1)) &&
          (str.map (·.1)).eraseDups.length == nstr
        let bodyOk := body.all (fun w => bodyWordOk w &&
          (match qopOfWord w 0 0 with
           | some op => bodyFmtOk op fmt queueFmt (arg (wfld w 11 5))
           | none => false))
        if strOk && bodyOk then
          (.ok { cnt := cnt, fmt := fmt, rm := rm, repro := (f 6 1).testBit 3, streams := str, body := body
                 base := l.dsh + BitVec.ofNat 64 (16 + 80 * nstr) }, s)
        else (.error none, s)

/-- A stream queue as the loader opens it under DS0's reset value; none where SOPEN would trap. DEDUCED, log 42. -/
def loaderQueue (s : State) (x : Hart) (n : Nat) (d : BitVec 512) : Option StreamQ :=
  let sel := x.dsel 0
  let dies := s.dies sel
  if !descOk x n d dies || (subByte d).isSome || (groupBreach d).isSome then none
  else some (openQueue d { vl := x.vl.toNat, vtype := x.vtype, sel := sel, dies := dies } 0)

/-- A hart set to run a portable body: one element at a time, which gives the results of every strip length.
DEDUCED, log 42. -/
def portableHart (s : State) (sec : DshSection) (args : List Word) (x : Hart) : Option Hart :=
  let vt := BitVec.ofNat 16 (sec.fmt + sec.rm * 2 ^ 12 + if sec.repro then 2 ^ 15 else 0)
  let x := sec.streams.foldl (fun x q =>
    x.bind (fun x => (loaderQueue s x q.1 q.2.2).map (fun z => x.setQ q.1 z))) (some { x with vtype := vt, pc := sec.base })
  x.map (fun x =>
    { x with portable := some { base := sec.base, body := sec.body, count := (args.getD (sec.cnt - 20) 0).toNat } })

/-! ### Absent words (R402) -/

/-- Whether the code of a launch on the device, or what is loaded of this one, calls the routine at an address. -/
def State.called (s : State) (l : Launch) (va : Nat) : Bool :=
  l.calls.contains va || s.launches.any (fun (_, o) => o.tenant == l.tenant && o.calls.contains va)

/-- The address of a routine for a word in the launch's EMUSEC: one that stands there already, or the first slot that holds none, or
the first whose routine no launch on the device calls. DESIGN CHOICE, log 15. -/
def routineFor (s : State) (l : Launch) (w : BitVec 32) : Option Word :=
  let at' (va : Word) : Option (BitVec 32) := smFind s.emu (l.tenant * 2 ^ 64 + va.toNat)
  let slots := (List.range (l.emulen / 4)).map (fun i => l.emusec + BitVec.ofNat 64 (4 * i))
  (slots.find? (fun va => at' va == some w)).or
    ((slots.find? (fun va => (at' va).isNone)).or (slots.find? (fun va => !s.called l va.toNat)))

/-- Bytes written by the loader where a tenant's address translates for a load. -/
def loaderWrite (t : Nat) (va : Word) (v : Nat) (s : State) : Option State :=
  match resolve (loaderAgent t) false va 4 .load s with
  | (.ok p, s) => if p.attr = 2 then none else some (s.setBytes p.pa 4 v)
  | (.error (.paused _), s) => some s
  | (.error _, _) => none

/-- The routine of a word placed in EMUSEC, where its slot holds the word that it performs: its address, none without room for it.
DESIGN CHOICE, log 15. -/
def placeRoutine (l : Launch) (w : BitVec 32) (s : State) : Option (Word × Launch × State) :=
  (routineFor s l w).bind fun r =>
    (loaderWrite l.tenant r w.toNat s).map fun s =>
      (r, { l with calls := r.toNat :: l.calls.filter (· ≠ r.toNat) }, { s with emu := smPut s.emu (l.tenant * 2 ^ 64 + r.toNat) w })

/-- One word of the code replaced by `jal s29, routine` (R402, 03 R131): none when the launch completes with NATIVE.
DESIGN CHOICE, log 15. -/
def patchWord (l : Launch) (va : Word) (w : BitVec 32) (s : State) : Option (Launch × State) :=
  if wfld w 26 6 = 0x2D then none
  else (placeRoutine l w s).bind fun (r, l, s) =>
    let d : Int := (r - va).toInt
    if d % 4 ≠ 0 ∨ d < -(2 ^ 22) ∨ 2 ^ 22 ≤ d then none
    else
      let call := encSJ 0x11 29 (BitVec.ofInt 21 (d / 4))
      (loaderWrite l.tenant va call.toNat s).map fun s =>
        (l, { s with patched := smPut s.patched (l.tenant * 2 ^ 64 + va.toNat) (call, w) })

/-- The word of the code that stands for a word read at an address: where the loader wrote that one, the word that it replaced.
DESIGN CHOICE, log 15. -/
def State.unpatched (s : State) (t : Nat) (va : Word) (w : BitVec 32) : BitVec 32 :=
  match smFind s.patched (t * 2 ^ 64 + va.toNat) with
  | some (call, v) => if w = call then v else w
  | none => w

/-- Every absent word of the code replaced, those that an earlier launch of the code had replaced included. DESIGN CHOICE, log 15. -/
def patchCode : List Nat → Word → Launch → State → Option (Launch × State)
  | [], _, l, s => some (l, s)
  | w :: ws, va, l, s =>
    let w' := s.unpatched l.tenant va (BitVec.ofNat 32 w)
    if absentWord w' then (patchWord l va w' s).bind (fun (l, s) => patchCode ws (va + 4) l s) else patchCode ws (va + 4) l s

/-- The routines of the absent words of a portable body, which the regenerated code calls: none when EMUSEC has no room for them.
DESIGN CHOICE, log 15. -/
def bodyRoutines : List (BitVec 32) → Launch → State → Option (Launch × State)
  | [], l, s => some (l, s)
  | w :: ws, l, s =>
    if absentWord w then (placeRoutine l w s).bind (fun (_, l, s) => bodyRoutines ws l s) else bodyRoutines ws l s

/-! ### The checks of a launch (R389, R390, R391) -/

/-- The launch that a body asks for, with its roles still to be read. The body's offsets are those of R389. -/
def launchOf (t : Nat) (b : BitVec 512) (cmd : Option HostCmd) : Launch :=
  { gen := 0, tenant := t, cmd := cmd, prio := blkField b 40 1 % 8, preempt := b.getLsbD 323, pnote := b.getLsbD 324
    savepa := blkField b 32 8, affinity := BitVec.ofNat 32 (blkField b 44 4), emup := BitVec.ofNat 64 (blkField b 48 8)
    doneaddr := BitVec.ofNat 64 (blkField b 56 8), kdesc := 0, roles := [], args := [], arrival := 0 }

/-- The format of a launch body (R389). -/
def launchBodyOk (t : Tenant) (b : BitVec 512) (l : Launch) : Bool :=
  decide (blkField b 40 1 < 32) && blkField b 41 3 == 0 && blkField b 16 8 % 64 == 0 && l.savepa % 4096 == 0 &&
  l.emup.toNat % 8192 == 0 && l.doneaddr.toNat % 8 == 0 && decide (l.prio ≤ t.priomax) && !(l.preempt && l.savepa == 0)

/-- The cores that AFFINITY allows. -/
def Launch.allowed (l : Launch) : List Nat :=
  (List.range 32).filter (fun c => l.affinity == 0 || l.affinity.getLsbD c)

/-- Whether a kernel is the one that a tenant's KDESC names. -/
def Kernel.at (k : Kernel) (t : Nat) (va : Word) : Bool := k.tenant == t && k.va == va

/-- A kernel taken into the descriptor cache of 64 entries (R393). The least recently read one makes room. DEDUCED, log 40. -/
def State.cacheKernel (s : State) (k : Kernel) : State :=
  { s with kernels := (k :: s.kernels.filter (fun o => !o.at k.tenant k.va)).take 64 }

/-- The descriptor and the role entries of a kernel, out of the descriptor cache or of memory (R390, R393). -/
def readKernel (t : Nat) (va : Word) (s : State) : Except Word Kernel × State :=
  match s.kernels.find? (·.at t va) with
  | some k => (.ok k, s)
  | none =>
    match readWords t va 64 s with
    | (.error a, s) => (.error a, s)
    | (.ok ws, s) =>
      let kd := BitVec.ofNat 512 (ws.zipIdx.foldl (fun acc (w, i) => acc + w * 2 ^ (32 * i)) 0)
      let n := blkField kd 3 1 + 1
      match readWords t (va + 64) (16 * n) s with
      | (.error a, s) => (.error a, s)
      | (.ok rs, s) =>
        let rv (r : Nat) : Nat := (List.range 4).foldl (fun acc i => acc + rs.getD (4 * r + i) 0 * 2 ^ (32 * i)) 0
        (.ok { tenant := t, va := va, desc := kd, roles := (List.range n).map rv }, s)

/-- R393: whether an INVALIDATE of a range of a tenant covers a cached kernel's descriptor, code or Dishaif pages. The bytes of a
portable section are at most its header, 16 streams and 255 words. DEDUCED, log 40. -/
def Kernel.covered (k : Kernel) (t va n : Nat) : Bool :=
  let meets (a len : Nat) : Bool :=
    decide (len ≠ 0) && (n == 0 || (decide (a / 4096 * 4096 < va + 4096 * n) && decide (va < (a + len + 4095) / 4096 * 4096)))
  let f := blkField k.desc
  k.tenant == t && (meets k.va.toNat (64 + 16 * k.roles.length) || meets (f 8 8) (f 16 8) ||
    meets (f 24 8) (if f 2 1 / 2 % 2 = 1 then 16 + 80 * 16 + 4 * 255 else 0))

/-- Whether no state of an idle device could bind a launch: AFFINITY allows it fewer cores than it has groups (R391). -/
def Launch.unfit (l : Launch) : Bool := decide (l.allowed.length < l.groups)

/-- What R391, R402 and R403 make a launch end with at once: no code for this device, of a section too for more than its one role; a
breach of the section; no cores. DEDUCED, log 40 and 42. -/
def Launch.doomed (l : Launch) (broken : Bool) : Option Nat :=
  if !l.isNative && (decide (l.form < 2) || l.roles.length != 1) then some 0x87
  else if broken then some 0x82
  else if l.unfit then some 0x88
  else none

/-- The checks of R389 and R390 made before a launch is queued: the launch, with the status with which it ends at once if it is to,
or the status and result that refuse it. DEDUCED, log 40. -/
def checkLaunch (t : Nat) (b : BitVec 512) (cmd : Option HostCmd) (s : State) :
    Except (Nat × Word) (Launch × Option Nat) × State :=
  let l := launchOf t b cmd
  if !launchBodyOk (s.tenant t) b l then (.error (0x82, 0), s)
  else
    let kva := BitVec.ofNat 64 (blkField b 16 8)
    match readKernel t kva s with
    | (.error a, s) => (.error (0x82, a), s)
    | (.ok k, s) =>
      let l := { l with kdesc := k.desc, roles := k.roles.map roleOf }
      if !l.descOk || k.roles.any (fun v => decide (v ≥ 2 ^ 40)) then (.error (0x82, 0), s)
      else
        match readArgs t (BitVec.ofNat 64 (blkField b 24 8)) (s.cacheKernel k) with
        | (.error a, s) => (.error (0x82, a), s)
        | (.ok args, s) =>
          let l := { l with args := args }
          if l.isNative then
            match readWords t l.code l.codelen s with
            | (.error a, s) => (.error (0x82, a), s)
            | (.ok _, s) => (.ok (l, l.doomed false), s)
          else if l.form < 2 then (.ok (l, l.doomed false), s)
          else match readDsh t l args s with
            | (.error (some a), s) => (.error (0x82, a), s)
            | (r, s) => (.ok (l, l.doomed (match r with | .error _ => true | .ok _ => false)), s)

/-- A launch queued: the lowest free slot, with the slot's next generation. -/
def queueLaunch (l : Launch) (s : State) : Nat × State :=
  let slot := ((List.range (s.launches.length + 1)).find? (fun k => (smFind s.launches k).isNone)).getD 0
  let gen := smGet 0 s.launchGen slot + 1
  let l := { l with gen := gen, arrival := s.arrivals }
  (slot, { s with
    launches := smPut s.launches slot l
    launchGen := smPut s.launchGen slot gen
    arrivals := s.arrivals + 1 })

/-! ### Completion (R394) -/

/-- The DONEADDR word; a write that fails is not made. -/
def writeDone (l : Launch) (status : Nat) (s : State) : State :=
  if l.doneaddr = 0 then s
  else (deviceWrite (loaderAgent l.tenant) l.doneaddr 8 (2 ^ 63 + status) s).2

/-- A launch reported as complete: DONEADDR, then the completion of its command. -/
def reportLaunch (l : Launch) (status : Nat) (rest : BitVec 360) (s : State) : State :=
  if l.closed then s
  else
    let s := writeDone l status s
    match l.cmd with
    | some c => complete c status rest s
    | none => s

/-- 07 R271: the shadows that the harts of a launch have open close, those of harts that a save took off the device too. -/
def closeLaunch (slot : Nat) (l : Launch) (s : State) : State :=
  ((s.hartsOf slot).foldl (fun s h => closeShadows h s) s).mapOwners l.tenant
    (fun o => if parkedSlot o = some slot then none else some o)

/-- A launch leaves the device for good: what waited for it is told, its harts are released. -/
def endLaunch (slot : Nat) (status : Nat) (rest : BitVec 360) (s : State) : State :=
  match smFind s.launches slot with
  | none => s
  | some l =>
    let s := closeLaunch slot l s
    let s := releaseHarts slot { s with launches := smErase s.launches slot }
    let s := reportLaunch l status rest s
    match l.waiter with
    | some w => answer w (if status = 0x85 then 0x85 else 0x8A) 0 s
    | none => s

/-- The bytes 19 to 63 of a KERNEL_FAULT entry (R382). DEDUCED, log 31. -/
def faultRest (x : Hart) : BitVec 360 :=
  BitVec.ofNat 360 (x.role + (x.tcause.toNat + x.tqsn.toNat * 2 ^ 16) * 2 ^ 8 + x.tpc.toNat * 2 ^ 40 +
    x.tinfo0.toNat * 2 ^ 104 + x.tinfo1.toNat * 2 ^ 168 + x.tinfo2.toNat * 2 ^ 232 + x.tinfo3.toNat * 2 ^ 296)

/-- The store queues of a halted hart are written out. -/
def flushStores (h : Nat) (s : State) : State :=
  (List.range 8).foldl (fun s i => pumpStores h (8 + i) true (((s.hart h).q (8 + i)).fuel) s) s

/-- Whether every accepted store element of a hart is written or will not be. -/
def storesDone (x : Hart) : Bool :=
  (List.range 8).all (fun i =>
    let q := x.q (8 + i)
    !q.isOpen || q.buf.isEmpty || q.abort.isSome || q.denied.isSome)

/-- The end of a launch whose harts have ended. -/
def endedLaunch (slot : Nat) (s : State) : State :=
  match smFind s.launches slot with
  | none => s
  | some l =>
    if l.stage ≠ .running then s
    else
      let hs := s.hartsOf slot
      let failed := (List.range l.roles.length).filterMap (fun r =>
        (s.hartOf slot r).bind (fun h => if (s.hart h).run = .failed then some h else none))
      match failed with
      | h :: _ =>
        let s := hs.foldl (fun s g => flushStores g (haltOne g s)) s
        endLaunch slot 0x86 (faultRest (s.hart h)) s
      | [] =>
        if hs.all (fun h => (s.hart h).run == .halted) then
          let s := hs.foldl (fun s h => flushStores h s) s
          if hs.all (fun h => storesDone (s.hart h)) then
            endLaunch slot 0 (resultRest (BitVec.ofNat 64 (launchId slot l))) s
          else s
        else s
where
  /-- Every other hart stops, as at HALT without its waits. -/
  haltOne (h : Nat) (s : State) : State := if (s.hart h).run = .failed then s else haltHart h s

/-- R394: a launch ends when a hart has ended in ContextFault, or when every hart has halted and every access of its stream
queues has performed. -/
def launchDone (slot : Nat) (s : State) : State := s.attempts (launchFlit slot) (endedLaunch slot)

/-- A launch that has passed its checks is queued, or ends at once; answers its id. -/
def acceptLaunch (l : Launch) (ends : Option Nat) (s : State) : Nat × State :=
  let (slot, s) := queueLaunch l s
  let id := launchId slot { l with gen := smGet 0 s.launchGen slot }
  match ends with
  | some st => (id, endLaunch slot st (resultRest (BitVec.ofNat 64 id)) s)
  | none => (id, s)

/-! ### Binding (R391, R392) -/

/-- Whether group `g` of a launch fits on a core that holds what it holds (R391). -/
def State.groupFits (s : State) (l : Launch) (g c : Nat) : Bool :=
  let hs := coreHarts c
  let used := hs.filter (fun h => (s.hart h).run != .free)
  let rs := l.groupRoles g
  let q := rs.foldl (fun acc r => acc ||| r.quarters) 0
  let taken := used.foldl (fun acc h => acc ||| (s.hart h).owned) 0
  decide (rs.length + used.length ≤ 4) && (q &&& taken == 0) && used.all (fun h => (s.hart h).tenant == l.tenant) &&
  s.launches.all (fun (_, o) =>
    !o.cores.contains c || o.splen == 0 || l.splen == 0 || decide (l.splo + l.splen ≤ o.splo) || decide (o.splo + o.splen ≤ l.splo))

/-- A core for every group from `g` on, the lowest that fits. DEDUCED, log 40. -/
def chooseCores (s : State) (l : Launch) : List Nat → List Nat → Option (List Nat)
  | [], _ => some []
  | g :: gs, used =>
    match (l.allowed.filter (fun c => !used.contains c)).find? (s.groupFits l g) with
    | none => none
    | some c => (chooseCores s l gs (c :: used)).map (c :: ·)

/-- The cores on which a launch could be bound now. DEDUCED, log 40. -/
def State.placeFor (s : State) (l : Launch) : Option (List Nat) := chooseCores s l (List.range l.groups) []

/-- The whole grid and scratchpad of a core become +0 and empty (R392). -/
def clearCore (c : Nat) (s : State) : State :=
  { s with
    grid := s.grid.filter (fun e => e.1 / 512 / 768 ≠ c)
    gridGen := s.gridGen.filter (fun e => e.1 / 4 ≠ c)
    badCells := s.badCells.filter (fun k => k / 512 / 768 ≠ c)
    softCells := s.softCells.filter (fun k => k / 512 / 768 ≠ c)
    spad := s.spad.filter (fun e => e.1 / 2 ^ 22 / 8 ≠ c)
    full := s.full.filter (fun e => e.1 * 16 / 2 ^ 22 / 8 ≠ c)
    spDirty := s.spDirty.filter (fun p => p * 4096 / 2 ^ 22 / 8 ≠ c) }

/-- A quarter's cells become +0. -/
def clearQuarter (c q : Nat) (s : State) : State :=
  { s with
    grid := s.grid.filter (fun e => quarterOf e.1 ≠ c * 4 + q)
    gridGen := smErase s.gridGen (c * 4 + q)
    badCells := s.badCells.filter (fun k => quarterOf k ≠ c * 4 + q)
    softCells := s.softCells.filter (fun k => quarterOf k ≠ c * 4 + q) }

/-- A launch's scratchpad range on every die of a core becomes 0 and empty. -/
def clearRange (l : Launch) (c : Nat) (s : State) : State :=
  let inRange (off : Nat) : Bool :=
    decide (off / 2 ^ 22 / 8 = c) && decide (4096 * l.splo ≤ off % 2 ^ 22) && decide (off % 2 ^ 22 < 4096 * (l.splo + l.splen))
  { s with
    spad := s.spad.filter (fun e => !inRange e.1)
    full := s.full.filter (fun e => !inRange (e.1 * 16))
    spDirty := s.spDirty.filter (fun p => !inRange (p * 4096)) }

/-- A core taken for a group: passed to the tenant, the range and the quarters of the group cleared. -/
def takeCore (l : Launch) (g c : Nat) (s : State) : State :=
  let s := if (s.core c).tenant = some l.tenant then s else clearCore c s
  let s := { s with cores := smPut s.cores c { s.core c with tenant := some l.tenant } }
  let s := clearRange l c s
  (l.groupRoles g).foldl (fun s r =>
    (List.range 4).foldl (fun s q => if r.quarters.getLsbD q then clearQuarter c q s else s) s) s

/-- A hart as binding sets it (R392). DESIGN CHOICE, log 16. -/
def freshHart (slot : Nat) (l : Launch) (serial r : Nat) (role : Role) : Hart :=
  { run := .running, pc := l.code + BitVec.ofNat 64 role.entry
    sregs := (List.range 12).foldl (fun m i => smSet 0 m (20 + i) (l.args.getD i 0)) []
    owned := role.quarters, tile := role.tileq, tileIssue := role.tileq
    emubase := (l.emup + BitVec.ofNat 64 (8192 * r)) &&& ~~~(0x1FFF : Word)
    tenant := l.tenant, launch := some slot, role := r, fkey := serial * 128 + r }

/-- The harts that the roles of a group take: the lowest free ones of the core. -/
def groupHarts (s : State) (c n : Nat) : List Nat := ((coreHarts c).filter (fun h => (s.hart h).run == .free)).take n

/-- The loader's part of a binding (R402): the absent words of native code, or the portable section. The state, or the status
and the address of the byte that cannot be read (R389), if that is why, with which the launch completes. DEDUCED, log 40. -/
def runLoader (l : Launch) (s : State) : Except (Nat × Option Word) (Launch × Option DshSection) × State :=
  if l.isNative then
    match readWords l.tenant l.code l.codelen s with
    | (.error a, s) => (.error (0x82, some a), s)
    | (.ok ws, s) =>
      match patchCode (ws.take (l.codelen / 4)) l.code l s with
      | none => (.error (0x87, none), s)
      | some (l, s) => (.ok (l, none), s)
  else match readDsh l.tenant l l.args s with
    | (.error a, s) => (.error (0x82, a), s)
    | (.ok d, s) =>
      match bodyRoutines d.body l s with
      | none => (.error (0x87, none), s)
      | some (l, s) => (.ok (l, some d), s)

/-- The groups of a launch put on their cores. -/
def placeGroups (l : Launch) (cores : List Nat) (f : Nat → Nat → State → State) (s : State) : State :=
  cores.zipIdx.foldl (fun s (c, g) =>
    let rs := l.groupRoles g
    let hs := groupHarts s c rs.length
    let s := takeCore l g c s
    hs.zipIdx.foldl (fun s (h, i) => f (4 * g + i) h s) s) s

/-- A first binding. -/
def bindFresh (slot : Nat) (l : Launch) (cores : List Nat) (s : State) : State :=
  match runLoader l s with
  | (.error (st, a), s) => endLaunch slot st (resultRest (a.getD (BitVec.ofNat 64 (launchId slot l)))) s
  | (.ok (l, sec), s) =>
    let l := { l with stage := .running, started := true, cores := cores, bound := s.bindings }
    let s := { s with bindings := s.bindings + 1, lastTenant := l.tenant }.setLaunch slot l
    let s := placeGroups l cores (fun r h s =>
      s.setHart h (freshHart slot l l.arrival r (l.roles.getD r { entry := 0, quarters := 0, tileq := 0 }))) s
    match sec with
    | none => s
    | some d =>
      match s.hartOf slot 0 with
      | none => s
      | some h =>
        match portableHart s d l.args (s.hart h) with
        | none => endLaunch slot 0x82 (resultRest (BitVec.ofNat 64 (launchId slot l))) s
        | some x => configure (s.setHart h x) h 16

/-- 11 R379: the released hart of a launch's lowest role takes LATE_PACKET. -/
def lateNote (slot : Nat) (l : Launch) (s : State) : State :=
  match l.late, ((List.range l.roles.length).filterMap (s.hartOf slot)).find? (fun h => (s.hart h).run == .running) with
  | some (n, first, gpn), some h =>
    s.updHart h (fun x => { x with pending := x.pending ++ [{
      info := { code := 0x12, i0 := BitVec.ofNat 64 n, i1 := BitVec.ofNat 64 first, i2 := BitVec.ofNat 64 gpn }
      vec := false, qsn := 0, outside := true }] })
  | _, _ => s

/-- The restored harts of a launch go on (R398). -/
def releaseLaunch (slot : Nat) (s : State) : State :=
  match smFind s.launches slot with
  | none => s
  | some l =>
    lateNote slot l ((s.hartsOf slot).foldl (fun s h => restartHart l h s) (s.setLaunch slot { l with gang := false, late := none }))

/-- A launch whose save area holds no complete save is not restored (R401): its LAUNCH_RESUME completes with SAVEFAIL and leaves it
suspended, and one that waits for no LAUNCH_RESUME ends with that status. DEDUCED, log 41. -/
def refuseSaved (slot : Nat) (l : Launch) (s : State) : State :=
  match l.waiter with
  | some w => answer w 0x8B 0 (s.setLaunch slot { l with stage := .suspended, waiter := none })
  | none => endLaunch slot 0x8B (resultRest (BitVec.ofNat 64 (launchId slot l))) s

/-- A launch restored from its save area (R401), once the routes of the save engine are open (10 R354). The harts of a gang's job wait
for its release (11 R379). -/
def bindSaved (slot : Nat) (l : Launch) (cores : List Nat) (s : State) : State :=
  match (s.dies 0xFF).flatMap (s.shutHops (saveSender acting) 8 ·) with
  | hop :: _ => s.noteFlit hop
  | [] =>
    if s.headState l.savepa ≠ 2 then refuseSaved slot l s else
    let masks := (List.range l.roles.length).map (savedMask s l)
    let s := s.setBytes (l.savepa + 2) 1 3
    let l' := { l with
      stage := .running, started := true, cores := cores, bound := s.bindings, lastPa := l.savepa, lastGen := s.headGen l.savepa
      waiter := none }
    let s := { s with bindings := s.bindings + 1, lastTenant := l.tenant }.setLaunch slot l'
    let s := placeGroups l cores (restoreHart slot l) s
    let s := cores.zipIdx.foldl (fun s (c, g) => restoreSp l g c s) s
    let s := (s.hartsOf slot).foldl (fun s h => if (smFind l.kept (s.hart h).role).isSome then s else servedRows h s) s
    let s := clearDirty slot l' s
    let s := s.setBytes (l.savepa + 2) 1 2
    let s := (s.hartsOf slot).foldl (fun s h => markLanes (masks.getD (s.hart h).role 0) h s) s
    let s := if l.gang then s else releaseLaunch slot s
    match l.waiter with
    | some w => answer w 0 0 s
    | none => s

/-- A launch that is the context of a gang's job moved from another device: its tenant's partition waits for a RESUME or resumes, and its
save area holds a complete save of a launch of the tenant with as many roles (11 R379). DESIGN CHOICE, log 43. -/
def State.movedJob (s : State) (l : Launch) : Bool :=
  l.stage == .pending && !l.hasSave && l.savepa != 0 && (s.part l.tenant).any (fun p => p.state == 3 || p.state == 4) &&
  s.bytesAt l.savepa 2 == 1 && s.headState l.savepa == 2 && s.bytesAt (l.savepa + 24) 1 == l.tenant &&
  s.bytesAt (l.savepa + 25) 1 + 1 == l.roles.length && areaOk s l.tenant l.savepa l.areaSize

/-- Whether a pending launch is the head of its queue: the device launch queue gives up its launches in arrival order. -/
def State.isHead (s : State) (l : Launch) : Bool :=
  l.cmd.isSome || l.hasSave ||
  s.launches.all (fun (_, o) =>
    !(o.cmd.isNone && o.tenant == l.tenant && o.stage == .pending && !o.hasSave && decide (o.arrival < l.arrival)))

/-- The place of a pending launch among those of its priority (R391, R396): round-robin among tenants, then arrival; a pre-empted one
stands directly before the first of those that arrived later. DEDUCED, log 40. -/
def Launch.turn (s : State) (l : Launch) : Nat :=
  let last := 16 * (s.arrivals + 1)
  let place (o : Launch) : Nat := (o.tenant + 31 - s.lastTenant) % 16 * (s.arrivals + 1) + o.arrival
  if l.hasSave then
    2 * s.launches.foldl (fun n (_, o) =>
      if o.stage == .pending && !o.hasSave && s.isHead o && o.prio == l.prio && decide (l.arrival < o.arrival) then Nat.min n (place o)
      else n) last
  else 2 * place l + 1

/-- The order in which pending launches are tried (R391): priority, then their place. DEDUCED, log 40. -/
def Launch.before (s : State) (a b : Launch) : Bool :=
  decide (b.prio < a.prio) ||
  (a.prio == b.prio && (decide (a.turn s < b.turn s) || (a.turn s == b.turn s && decide (a.arrival < b.arrival))))

/-- Whether a launch may be bound now: it is pending, its tenant active, and its groups have places. -/
def State.bindable (s : State) (l : Launch) : Bool :=
  l.stage == .pending && (s.tenant l.tenant).status == .active && s.isHead l && !s.movedJob l && (s.placeFor l).isSome

/-- The hops that hold up the launch control that a binding sends to the dies (10 R342). DESIGN CHOICE, log 55. -/
def State.bindHops (s : State) (l : Launch) : List (Sender × Nat × Bool) :=
  (s.dies 0xFF).flatMap (s.shutHops { owner := acting, payer := some l.tenant, cls := .ctl } 8 ·)

/-- A pending launch is bound, unless one that comes before it could be. DESIGN CHOICE, log 16; DEDUCED, log 40. -/
def bindNow (slot : Nat) (s : State) : State :=
  match smFind s.launches slot with
  | none => s
  | some l =>
    if !s.bindable l || s.launches.any (fun (_, o) => s.bindable o && o.before s l) then s
    else match s.placeFor l with
      | none => s
      | some cores =>
        match s.bindHops l with
        | hop :: _ => s.noteFlit hop
        | [] => if l.hasSave then bindSaved slot l cores s else bindFresh slot l cores s

/-- LAUNCH_BIND (R391). -/
def launchBind (slot : Nat) (s : State) : State := s.attempts (launchFlit slot) (bindNow slot)

/-! ### Pre-emption (R396, R397) -/

/-- The device with the resources of a launch released. -/
def State.without (s : State) (slot : Nat) : State := releaseHarts slot { s with launches := smErase s.launches slot }

/-- Whether releasing a running launch would let a pending one of higher priority be bound (R396). -/
def State.blocks (s : State) (slot : Nat) (l p : Launch) : Bool :=
  l.stage == .running && l.preempt && !l.closed && !l.gang && p.stage == .pending && s.isHead p && decide (l.prio < p.prio) &&
  (s.tenant p.tenant).status == .active && (s.placeFor p).isNone && ((s.without slot).placeFor p).isSome

/-- Whether a launch that is leaving the device makes room for a pending one, which then needs no other victim (R396). -/
def State.roomComing (s : State) (p : Launch) : Bool :=
  s.launches.any (fun (k, o) =>
    (o.stage == .saving || (o.stage == .running && o.suspend)) && ((s.without k).placeFor p).isSome)

/-- Whether a running launch is the one to pre-empt for a pending one: the lowest priority, then the most recently bound. -/
def State.victim (s : State) (slot : Nat) (l : Launch) : Bool :=
  s.launches.any (fun (_, p) =>
    s.blocks slot l p && !s.roomComing p &&
    s.launches.all (fun (k, o) => k == slot || !s.blocks k o p || decide (l.prio < o.prio) ||
      (l.prio == o.prio && decide (o.bound < l.bound))))

/-- PRE_EMPTION (R397): the harts of a launch that a LAUNCH_SUSPEND or a gang SAVE names, or that stands in the way of one of
higher priority, stop; the save follows. A save area that cannot hold the context ends the launch's pre-emptibility (R399).
DEDUCED, log 41. -/
def preEmption (slot : Nat) (s : State) : State :=
  match smFind s.launches slot with
  | none => s
  | some l =>
    if l.stage ≠ .running || !(l.suspend || s.victim slot l) then s
    else if !areaOk s l.tenant l.savepa l.areaSize then
      let s := reportLaunch l 0x8B (resultRest (BitVec.ofNat 64 (launchId slot l))) (s.setLaunch slot { l with preempt := false, closed := true, suspend := false, waiter := none })
      match l.waiter with
      | some w => answer w 0x8B 0 s
      | none => s
    else
      let hs := s.hartsOf slot
      let s := hs.foldl (fun s h => s.updHart h stopHart) s
      if hs.all (fun h => (s.hart h).run == .halted) || hs.any (fun h => (s.hart h).run == .failed) then
        launchDone slot s
      else s.setLaunch slot { l with stage := .saving }

/-- LAUNCH_SUSPEND (R396) and CTXSAVE (R404): the save of a launch is asked for; answers a status when there is none to wait
for. DEDUCED, log 41. -/
def askSuspend (t id : Nat) (w : Waiter) (s : State) : Option Nat × State :=
  let slot := id % 2 ^ 16
  match smFind s.launches slot with
  | none => (some 0x89, s)
  | some l =>
    if launchId slot l ≠ id ∨ l.tenant ≠ t then (some 0x89, s)
    else if l.stage ≠ .running ∨ l.waiter.isSome ∨ l.savepa = 0 ∨ l.closed then (some 0x8A, s)
    else (none, s.setLaunch slot { l with suspend := true, waiter := some w })

/-- LAUNCH_RESUME (R398) and CTXLOAD (R404): a suspended launch becomes pending again. Under an AFFINITY with which no state of an idle
device could bind it, it ends with NOFIT (R391), and so does the LAUNCH_RESUME. DEDUCED, log 41. -/
def askResume (t id savepa : Nat) (affinity : BitVec 32) (w : Waiter) (s : State) : Option Nat × State :=
  let slot := id % 2 ^ 16
  match smFind s.launches slot with
  | none => (some 0x89, s)
  | some l =>
    if launchId slot l ≠ id ∨ l.tenant ≠ t then (some 0x89, s)
    else if l.stage ≠ .suspended then (some 0x8A, s)
    else if savepa % 4096 ≠ 0 then (some 0x82, s)
    else
      let pa := if savepa = 0 then l.savepa else savepa
      let l := { l with
        moved := l.moved || decide (pa ≠ l.savepa), savepa := pa, affinity := if affinity = 0 then l.affinity else affinity }
      if !areaOk s t l.savepa l.areaSize then (some 0x8B, s)
      else match s.shutHops sequencerSender 8 (homeDie l.savepa) with
      | hop :: _ => (none, s.noteFlit hop)
      | [] =>
        if s.headState l.savepa ≠ 2 then (some 0x8B, s)
        else if l.unfit then
          (some 0x88, endLaunch slot 0x88 (resultRest (BitVec.ofNat 64 (launchId slot l))) (s.setLaunch slot l))
        else (none, s.setLaunch slot { l with stage := .pending, waiter := some w })

end Sys2Proof.Machine
end

