-- ==== Sys2Proof/Machine/GangSwitch.lean ====
section
/-!
DEFINITION. Gang partitions as the host makes and switches them (11 R361, R374 to R379).
-/

namespace Sys2Proof.Machine

/-! ### Creation and deletion (R361, R375) -/

/-- Whether a partition descriptor with its route table is one that the supervisor accepts (R361). -/
def partOk (s : State) (p : Partition) : Bool :=
  let phs := p.lports.filterMap p.phys
  let quota := p.quota
  p.desc.extractLsb' 13 3 == 0 && p.desc.extractLsb' 28 4 == 0 && p.desc.extractLsb' 45 3 == 0 && p.desc.extractLsb' 52 12 == 0 &&
  p.desc.extractLsb' 288 224 == 0 && decide (1 ≤ p.gsize) && decide (p.gsize ≤ 4096) && decide (p.rank < p.gsize) &&
  decide (p.cbase.toNat % 4096 = 0) && (List.range 16).all (fun k => (p.pmap k).extractLsb' 4 3 == 0) &&
  decide (quota % 0x10000 = 0) && decide (0x40000 ≤ quota) && decide (quota ≤ 0x400000) &&
  decide ((s.parts.map (fun o => o.2.quota)).sum + quota ≤ 7 * 0x100000) && phs.eraseDups.length == phs.length &&
  p.routes.zipIdx.all (fun (b, d) =>
    b.extractLsb' 5 2 == 0 &&
    (if d = p.rank then b.extractLsb' 0 5 == 16
     else !b.getLsbD 7 || (p.phys (b.extractLsb' 0 5).toNat).isSome))

/-- GANG_CREATE: the status of R384. -/
def createPartition (pa : Nat) (s : State) : Nat × State :=
  let desc := BitVec.ofNat 512 (s.bytesAt pa 64)
  let p : Partition := { desc := desc, routes := s.byteList (pa + 64) (desc.extractLsb' 32 13).toNat }
  let p := { p with state := if desc.getLsbD 12 then 3 else 1 }
  if !partOk s p then (0x82, s)
  else if (s.tenant p.tenant).status ≠ .active then (if (s.tenant p.tenant).status = .none then 0x89 else 0x8A, s)
  else if (s.part p.tenant).isSome || s.parts.any (fun o => o.2.gpn = p.gpn) then (0x8A, s)
  else (0, s.setPart p.tenant p)

/-- The partition of a number. -/
def State.partNumbered (s : State) (gpn : Nat) : Option (Nat × Partition) := s.parts.find? (fun o => o.2.gpn.toNat = gpn)

/-- GANG_DELETE (R375). A switch under way ends with RESET. -/
def deletePartition (gpn : Nat) (s : State) : Nat × State :=
  match s.partNumbered gpn with
  | none => (0x89, s)
  | some (t, p) =>
    let s := { s with parts := smErase s.parts t }
    (0, match p.cmd with
      | some c => completeWith c 0x85 0 s
      | none => s)

/-! ### The switch command (R374, R385) -/

/-- The 64-byte block of a GANG_SWITCH, from its two slots. -/
def switchBlock (c : HostCmd) : BitVec 512 :=
  BitVec.ofNat 512 (c.block.toNat / 2 ^ 128 % 2 ^ 384 + c.block2.toNat / 2 ^ 128 % 2 ^ 128 * 2 ^ 384)

/-- NETMIN (R374). DEDUCED, log 43. -/
def netMin (s : State) (t : Nat) (p : Partition) : Nat :=
  64 + 2 * p.quota + 68608 + 4096 * ((s.launches.filter (fun l => l.2.tenant = t)).map (fun l => l.2.roles.length)).sum

/-- SHAPE (R378). -/
def shapeOf (p : Partition) : Nat :=
  let valid := bitsOf ((List.range 16).map (fun k => (p.phys k).isSome))
  let routes := p.routes.foldr (fun b acc => b.toNat + 256 * acc) 0
  let v := p.gsize + valid * 2 ^ 16 + routes * 2 ^ 32
  (crcNot .cpcrc (crcFold (crcPoly .cpcrc) (4 + p.routes.length) v 0xFFFFFFFF)).toNat

/-- The checks of a switch in the order of R374's table, FORMAT first: the tenant and partition, or the status that refuses.
DEDUCED, log 43. -/
def switchCheck (action : Nat) (c : HostCmd) (s : State) : Except Nat (Nat × Partition) :=
  let b := switchBlock c
  let base := blkField b 8 8
  let size := blkField b 16 8
  let formOk := blkField b 0 1 == action && blkField b 1 1 == 0 && decide (blkField b 2 2 < 4096) && blkField b 4 4 == 0 &&
    b.extractLsb' 192 320 == 0 && decide (base % 4096 = 0) && c.block2.extractLsb' 64 64 == c.seq &&
    c.block2.extractLsb' 0 64 == 0 && c.block2.extractLsb' 256 256 == 0
  if !formOk then .error 7
  else match s.partNumbered (blkField b 2 2) with
    | none => .error 3
    | some (t, p) =>
      if !s.ownsRange t base size then .error 7
      else if p.state ≠ (if action = 1 then 1 else 3) then .error 3
      else if s.launches.any (fun l => l.2.tenant = t && l.2.savepa = 0) then .error 8
      else if size < netMin s t p then .error 4
      else if action = 2 && s.bytesAt (base + 2) 1 = 2 then .error 6
      else if action = 2 && (s.bytesAt base 2 ≠ 1 || s.bytesAt (base + 2) 1 ≠ 1 || s.bytesAt (base + 6) 2 ≠ p.rank ||
          s.bytesAt (base + 8) 2 ≠ p.gsize || s.bytesAt (base + 12) 4 ≠ shapeOf p) then .error 5
      else .ok (t, p)

/-- A marker packet of a partition for an output channel. -/
def marker (p : Partition) (typ : BitVec 4) (vc : Nat) : Packet :=
  { gpn := p.gpn, typ := typ, dst := 0, vc := BitVec.ofNat 1 vc, last := 0, src := BitVec.ofNat 12 p.rank, role := 0, slot := 0
    addr := 0, plen := 0, rcnt := 0, opw := 0, xlen := 0, payload := [] }

/-- A marker sent on both channels of every valid logical port, behind what the queues hold. -/
def sendMarkers (typ : BitVec 4) (p : Partition) : Partition :=
  p.lports.foldl (fun p l => [0, 1].foldl (fun p vc => p.enqueue (2 * l + vc) 16 (marker p typ vc)) p) p

/-- GANG_SWITCH_SAVE (R376): the harts of the job are to stop, the request in service completes, the output queues are swept, the bells
are sent. Responses of the request take up at most QUOTA more, so that the section keeps its bound (R378). DEDUCED, log 43. -/
def gangSave (c : HostCmd) (s : State) : State :=
  match switchCheck 1 c s with
  | .error st => completeWith c st 0 s
  | .ok (t, p) =>
    let b := switchBlock c
    let p := { p with
      saveBase := blkField b 8 8, hasSave := true, cmd := some c, captured := [], late := [], lost := 0, netLost := false
      rbelled := [] }
    let s := { s with launches := s.launches.map (fun ((k, l) : Nat × Launch) =>
      if l.tenant = t then
        match l.stage with
        | .running => (k, { l with suspend := true, gang := true })
        | .saving => (k, { l with suspend := true, gang := true })
        | .pending => if l.hasSave then (k, { l with stage := .suspended, gang := true }) else (k, l)
        | .suspended => (k, l)
      else (k, l)) }
    let s := (s.launches.map (fun (l : Nat × Launch) => l.1)).foldl (fun s k =>
      match smFind s.launches k with
      | some l => if l.tenant = t && l.gang then preEmption k s else s
      | none => s) s
    let s := finishService t (p.used + p.quota) (2 ^ 14) (s.setPart t p)
    let p := (s.part t).getD p
    let s := s.setBytes p.saveBase 64 1
    let p := { p with
      state := 2, serving := false, tfail := [], tails := [], ahead := []
      out := p.between.foldr (fun e out => smPut out e.1 ((16, e.2) :: smGet [] out e.1)) p.out }
    let pkts := p.out.flatMap (fun (q : Nat × List (Nat × Packet)) => q.2.filter (fun e => !pktMarker e.2))
    let (off, s) := writePkts p 0 pkts 64 s
    let p := { p with out := p.out.filterMap (fun (q : Nat × List (Nat × Packet)) =>
      let m := q.2.filter (fun (e : Nat × Packet) => pktMarker e.2)
      if m.isEmpty then none else some (q.1, m)) }
    s.setPart t (sendMarkers 14 { p with swept := pkts.length, captOff := off })

/-- Whether an input channel counts as belled (R376, R377): its bell came, or its port has never been up or has gone down.
DEDUCED, log 43. -/
def State.channelBelled (s : State) (p : Partition) (l vc : Nat) : Bool :=
  p.belled.contains (2 * l + vc) || (match p.phys l with
    | some ph => !(smGet {} s.ports ph).up
    | none => true)

/-- The last 8 bytes of an operation's table record: a BATOM's result; of a BPUT the bytes that it has read ahead for its next packet, at
most 7, and their number above them (R368). DESIGN CHOICE, log 43. -/
def FabOp.lastWord (o : FabOp) : Nat :=
  if o.typ = 1 then numOf o.ahead + o.ahead.length * 2 ^ 56 else o.result.toNat

/-- The slots of the job's harts in ROLE, SLOT order, as table records (R378). -/
def tableRecords (p : Partition) : List (Nat × FabOp) :=
  p.ops.map (fun (k, o) =>
    (k / 256 % 128 + k % 256 * 2 ^ 8 + (o.typ + (if o.done then 16 else 0) + (if o.status ≠ 0 then 32 else 0)) * 2 ^ 16 +
      o.lcnt * 2 ^ 32 + o.qsn.toNat * 2 ^ 48 + o.lastWord * 2 ^ 64, o))

/-- The save section's header (R378). -/
def switchHeader (p : Partition) (lateOff tabN : Nat) : Nat :=
  1 + (if p.netLost then 2 else 1) * 2 ^ 16 + p.gpn.toNat * 2 ^ 32 + p.rank * 2 ^ 48 + p.gsize * 2 ^ 64 + shapeOf p * 2 ^ 96 +
  p.swept * 2 ^ 128 + p.captured.length * 2 ^ 160 + p.late.length * 2 ^ 192 + ((p.late.head?.map (·.1)).getD 0) * 2 ^ 200 +
  p.lost * 2 ^ 208 + tabN * 2 ^ 224 + p.captOff * 2 ^ 256 + lateOff * 2 ^ 288 + (lateOff + 68608) * 2 ^ 320

/-- The end of a SAVE, once every input is belled and every launch of the job off the device. A launch whose save failed stays on it, and
the SAVE does not complete (R376). DEDUCED, log 43. -/
def endSave (t : Nat) (s : State) : State :=
  match s.part t with
  | none => s
  | some p =>
    let allBelled := p.lports.all (fun l => [0, 1].all (s.channelBelled p l))
    let off := s.launches.all (fun (_, l) => l.tenant ≠ t || !l.gang || l.stage == .suspended)
    if p.state ≠ 2 || !allBelled || !off then s
    else match s.sweepHops with
    | hop :: _ => s.noteFlit hop
    | [] =>
      let lostPort := p.lports.any (fun l => match p.phys l with
        | some ph => (smGet {} s.ports ph).failed && !(p.belled.contains (2 * l) && p.belled.contains (2 * l + 1))
        | none => false)
      let p := { p with netLost := p.netLost || lostPort, state := 3 }
      let (lateOff, s) := writePkts p 1 p.captured p.captOff s
      let (_, s) := writePkts p 2 p.late lateOff s
      let recs := tableRecords p
      let s := recs.zipIdx.foldl (fun s (r, i) => s.setBytes (p.saveBase + lateOff + 68608 + 16 * i) 16 r.1) s
      let s := s.setBytes p.saveBase 64 (switchHeader p lateOff recs.length)
      let s := s.setPart t { p with cmd := none }
      match p.cmd with
      | some c => completeWith c (if p.netLost then 2 else 0) 0 s
      | none => s

/-- The end of a SAVE (R375), and late records that a link held up (R377). -/
def finishSave (t : Nat) (s : State) : State :=
  if (s.part t).any (fun p => p.state == 3 && p.lateDue) then writeLate t s else s.attempts (switchFlit t) (endSave t)

/-- Packet records read back from the save section, `n` of them from an offset. -/
def readPkts (s : State) (base : Nat) (gpn : BitVec 12) : Nat → Nat → List (Nat × Packet)
  | 0, _ => []
  | n + 1, off =>
    let h := BitVec.ofNat 256 (s.bytesAt (base + off + 16) 32)
    let k := packetOf h []
    let k := { k with
      gpn := gpn, payload := s.byteList (base + off + 48) k.plen.toNat, bad := !pktMarker k && s.badWord (base + off + 8) }
    (s.bytesAt (base + off) 1 % 32, k) :: readPkts s base gpn n (off + s.bytesAt (base + off + 4) 2)

/-- A table record read back: its key and operation (R379). A record names ROLE and SLOT alone: of several launches of the job it is that
of the first, in the order of their arrival, whose slot the records before have not filled. What the record has no place for follows
the operation that this device saved; on another device the addresses are not known, and of an operation that has failed the status,
REASON and address are free values. DESIGN CHOICE, log 43. -/
def readTable (s : State) (t : Nat) (p : Partition) (m : SMap FabOp) (at' : Nat) : Option (Nat × FabOp) :=
  let v := s.bytesAt at' 16
  let role := v % 128
  let slot := v / 2 ^ 8 % 256
  let typ := v / 2 ^ 16 % 256
  let (key, o) : Option Nat × FabOp :=
    match p.ops.find? (fun o => o.1 / 256 % 128 = role ∧ o.1 % 256 = slot ∧ smFind m o.1 = none) with
    | some (k, o) => (some k, o)
    | none =>
      let free (i : Nat) : Nat := (Config.freeByte s.free (at' + i)).toNat
      let o : FabOp := { typ := 0, lcnt := 0, qsn := 0, uid := 0, dest := 0 }
      let key (l : Nat × Launch) : Nat := (l.2.arrival * 128 + role) * 256 + slot
      let mine := s.launches.filter (fun l => l.2.tenant = t && l.2.gang && decide (role < l.2.roles.length) && (smFind m (key l)).isNone)
      ((mine.map key).foldl (fun a k => some (match a with | some b => Nat.min b k | none => k)) none,
        if typ.testBit 5 then { o with
          status := 1 + free 0 % 5, reason := free 1, va := BitVec.ofNat 64 ((List.range 8).foldl (fun a i => a * 256 + free (2 + i)) 0) }
        else o)
  let w := v / 2 ^ 64
  let o := if typ % 16 = 1 then { o with ahead := (List.range (Nat.min 7 (w / 2 ^ 56))).map (fun i => BitVec.ofNat 8 (w / 256 ^ i)) }
    else { o with result := BitVec.ofNat 64 w }
  key.map (fun k => (k, { o with
    typ := typ % 16, done := typ.testBit 4, lcnt := v / 2 ^ 32 % 2 ^ 16, qsn := BitVec.ofNat 16 (v / 2 ^ 48) }))

/-- The launches of a job that a RESUME restores: those that a SAVE took off the device, and those whose contexts were moved here
(R379). DESIGN CHOICE, log 43. -/
def claimJob (t : Nat) (s : State) : State :=
  { s with launches := s.launches.map (fun ((k, l) : Nat × Launch) =>
      if l.tenant = t && s.movedJob l then
        (k, { l with stage := .suspended, hasSave := true, gang := true, preemptn := s.bytesAt (l.savepa + 28) 4 })
      else (k, l)) }

/-- GANG_SWITCH_RESUME (R379): the records are placed, the tables restored, the resume bells sent; the number of late packets and
FIRSTLATE stay known for LATE_PACKET. DEDUCED, log 43. -/
def gangResume (c : HostCmd) (s : State) : State :=
  match switchCheck 2 c s with
  | .error st => completeWith c st 0 s
  | .ok (t, p) =>
    let s := claimJob t ((if p.lateDue then putLate t s else s).nextFree).2
    let p := { p with lateDue := false }
    let base := blkField (switchBlock c) 8 8
    let f (o n : Nat) : Nat := s.bytesAt (base + o) n
    let late := readPkts s base p.gpn (f 24 1) (f 36 4)
    let pkts := readPkts s base p.gpn (f 16 4) 64 ++ readPkts s base p.gpn (f 20 4) (f 32 4) ++ late
    let ops := (List.range (f 28 4)).foldl (fun m i =>
      match readTable s t p m (base + f 40 4 + 16 * i) with
      | some (k, o) => smPut m k o
      | none => m) []
    let p := { p with
      state := 4, ops := ops, cmd := some c, belled := [], saveBase := base, hasSave := true
      late := late.map (fun e => (f 25 1, e.2)) }
    let p := pkts.foldl (fun p e => p.place e.1 e.2) p
    s.setPart t (sendMarkers 15 p)

/-- The restoring of R379: once every record is placed and every resume bell has come, the job's launches are to be bound again.
DEDUCED, log 43. -/
def releaseGang (t : Nat) (s : State) : State :=
  match s.part t with
  | none => s
  | some p =>
    if p.state ≠ 4 || !p.lports.all (fun l => [0, 1].all (fun vc => p.rbelled.contains (2 * l + vc))) then s
    else
      let first := (s.launches.find? (fun l => l.2.tenant = t && l.2.gang)).map (·.1)
      let note := p.late.head?.map (fun e => (p.late.length, e.1, p.gpn.toNat))
      { s with launches := s.launches.map (fun ((k, l) : Nat × Launch) =>
        if l.tenant = t && l.gang && l.stage == Stage.suspended then
          (k, { l with stage := .pending, late := if some k = first then note else none })
        else (k, l)) }

/-- The end of a RESUME (R375, R379): every resume bell has come and every launch of the job is on the device again: its harts are
released, and the partition runs. DEDUCED, log 43. -/
def finishResume (t : Nat) (s : State) : State :=
  match s.part t with
  | none => s
  | some p =>
    let job := s.launches.filter (fun l => l.2.tenant = t && l.2.gang)
    if p.state ≠ 4 || !p.lports.all (fun l => [0, 1].all (fun vc => p.rbelled.contains (2 * l + vc))) ||
        !job.all (fun l => l.2.stage == .running) then s
    else
      let s := s.setPart t { p with
        state := 1, rbelled := [], hasSave := false, captured := [], late := [], lost := 0, netLost := false, cmd := none }
      let s := job.foldl (fun s l => releaseLaunch l.1 s) s
      match p.cmd with
      | some c => completeWith c (if p.late.isEmpty then 0 else 1) 0 s
      | none => s

/-- BELL (R376): the channel's job packets have all arrived. DEDUCED, log 43. -/
def bellArrives (port vc : Nat) (gpn : BitVec 12) (s : State) : State :=
  match s.partOn gpn port with
  | none => s.logPacket { marker { desc := 0, routes := [] } 14 vc with gpn := gpn }
  | some (t, p, lin) =>
    let k := 2 * lin + vc % 2
    finishSave t (s.setPart t { p with belled := if p.belled.contains k then p.belled else k :: p.belled })

/-- RBELL (R379). DEDUCED, log 43. -/
def rbellArrives (port vc : Nat) (gpn : BitVec 12) (s : State) : State :=
  match s.partOn gpn port with
  | none => s.logPacket { marker { desc := 0, routes := [] } 15 vc with gpn := gpn }
  | some (t, p, lin) =>
    let k := 2 * lin + vc % 2
    releaseGang t (s.setPart t { p with rbelled := if p.rbelled.contains k then p.rbelled else k :: p.rbelled })

/-- A packet as its header's bits: of a TYPE that R360 does not list, or with a reserved bit set, it is discarded and recorded; else it
arrives as the packet or the marker that it is. -/
def headerArrives (port : Nat) (h : BitVec 256) (payload : List (BitVec 8)) (s : State) : State :=
  let k := packetOf h payload
  if pktHeader k ≠ h then s.logHeader h
  else match k.typ.toNat with
  | 1 | 2 | 3 | 4 | 8 | 9 | 10 => packetArrives k.typ port k s
  | 14 => bellArrives port k.vc.toNat k.gpn s
  | 15 => rbellArrives port k.vc.toNat k.gpn s
  | _ => s.logHeader h

end Sys2Proof.Machine
end

