-- ==== Sys2Proof/Machine/Manage.lean ====
section
/-!
DEFINITION. The commands of the host queues (12 R382 to R388, R404, 02 R61, R66, 13 R416, R424): one definition for each, the
order in which the commands of a queue start, and the two ends of a tenant reset.
-/

namespace Sys2Proof.Machine

/-! ### Reading what a command names (R383) -/

/-- Whether the sequencer may read `n` bytes of physical memory for the MQ. DEDUCED, log 44. -/
def State.mqReadable (s : State) (pa n : Nat) : Bool :=
  if isHost pa then s.inWindow pa n 16 false true else s.inDram pa && s.inDram (pa + n - 1)

/-- A management descriptor of `n` bytes, read at DEVICE scope. -/
def State.mqBlock (s : State) (pa n : Nat) : Option (BitVec 512) :=
  if s.mqReadable pa n then some (BitVec.ofNat 512 (s.bytesAt pa n)) else none

/-- The bytes of a command block used by its header and by the fields listed. -/
def bodyOk (c : HostCmd) (used : List (Nat × Nat)) : Bool := blkZero c.block ((0, 16) :: used)

/-- A command that ends at once. -/
def ends (c : HostCmd) (r : Nat × State) : State := completeWith c r.1 0 r.2

/-! ### Tenants (R386 to R388) -/

/-- What a management command answers for a tenant that is not active (R384): NOENT where it does not exist, STATE while it resets. -/
def State.tenantRefusal (s : State) (t : Nat) : Option Nat :=
  match (s.tenant t).status with
  | .none => some 0x89
  | .resetting => some 0x8A
  | .active => none

/-- The TLBs and the descriptor cache hold nothing of a tenant any more. DEDUCED, log 6; DESIGN CHOICE, log 40. -/
def State.forget (s : State) (t : Nat) : State :=
  { s.dropTlb (fun e => e.tenant == t) with kernels := s.kernels.filter (fun k => k.tenant != t) }

/-- No routine of a tenant stands in memory any more. DESIGN CHOICE, log 15. -/
def State.dropRoutines (s : State) (t : Nat) : State :=
  { s with emu := s.emu.filter (fun r => r.1 / 2 ^ 64 != t), patched := s.patched.filter (fun r => r.1 / 2 ^ 64 != t) }

/-- TENANT_CREATE (R386, R387). DEDUCED, log 44. -/
def startTenantCreate (c : HostCmd) (s : State) : State :=
  let f := blkField c.block
  let t := f 16 1 % 16
  if f 16 1 ≥ 128 || !bodyOk c [(16, 1), (24, 34)] || f 24 8 % 4096 ≠ 0 || f 32 8 % 8192 ≠ 0 then completeWith c 0x82 0 s
  else if (s.tenant t).status ≠ .none then completeWith c 0x8A 0 s
  else
    completeWith c 0 0 (((s.forget t).dropRoutines t).setTenant t {
      status := .active, priomax := f 16 1 / 16, root := BitVec.ofNat 64 (f 24 8), fqbase := BitVec.ofNat 64 (f 32 8)
      fqvec := BitVec.ofNat 16 (f 40 2), evvec := BitVec.ofNat 16 (f 42 2)
      weights := (List.range 14).foldl (fun m l => smSet 0 m l (BitVec.ofNat 8 (f (44 + l) 1))) [] })

/-- R388 step 1: a queue's commands that have not started complete with RESET. -/
def flushQueue (q : Nat) (s : State) : State :=
  s.updHq q (fun x => { x with
    waiting := []
    comps := x.comps ++ x.waiting.map (fun c =>
      { seq := c.seq, opcode := c.opcode, status := 0x85, irq := cmdIrq c, counts := true }) })

/-- The grants of a tenant end (13 R416), and its watchpoints are disarmed with WATCHn 0 (13 R424). -/
def endTrust (t : Nat) (s : State) : State :=
  { s with
    grants := s.grants.filter (fun g => g.2.tenant ≠ t)
    watch := s.watch.filter (fun w => w.2.tenant ≠ t)
    watchReg := s.watchReg.filter (fun w => (smFind s.watch w.1).all (fun p => p.tenant ≠ t)) }

/-- R388: the steps of a tenant reset, up to the deletion of its storage pairs. -/
def resetBegin (t : Nat) (s : State) : State :=
  let s := (s.forget t).setTenant t { s.tenant t with status := .resetting }
  let s := (tenantQueues t).foldl (fun s q => flushQueue q s) s
  let s := (s.launches.filter (fun l => l.2.tenant = t)).foldl (fun s l =>
    endLaunch l.1 0x85 (resultRest (BitVec.ofNat 64 (launchId l.1 l.2))) s) s
  let x := s.tenant t
  let s := s.setTenant t { x with
    faults := [], regions := x.regions.map (fun (r : Nat × Region) => (r.1, { r.2 with owner := none })) }
  let s := withdrawTurns t s
  let s := { s with pairs := s.pairs.map (fun (p : Nat × Pair) => (p.1, if p.2.tenant = t then { p.2 with state := 3 } else p.2)) }
  let s := match s.part t with
    | some p => (deletePartition p.gpn.toNat s).2
    | none => s
  endTrust t s

/-- A pair's queues on its drive are deleted: it is FREE, and the command that deletes it completes (09 R316). -/
def pairGone (h : Nat) (s : State) : State :=
  match smFind s.pairs h with
  | none => s
  | some p =>
    let s := { s with pairs := smErase s.pairs h }
    match p.deleter with
    | some c => completeWith c 0 0 s
    | none => s

/-- The end of a PAIR_DELETE (09 R316): a pair in DELETING by host deletion becomes FREE. DESIGN CHOICE, log 19. -/
def pairDeleted (h : Nat) (s : State) : State :=
  match smFind s.pairs h with
  | some p => if p.state = 3 ∧ p.deleter.isSome then pairGone h s else s
  | none => s

/-- The last step of a tenant reset: its pairs are FREE, the tenant is ACTIVE again, or NONE with its queues disabled when a
TENANT_DELETE asked for the reset; the commands complete. DEDUCED, log 44. -/
def resetEnd (t : Nat) (s : State) : State :=
  match smFind s.resets t with
  | none => s
  | some cs =>
    let s := (s.pairs.filter (fun p => p.2.tenant = t)).foldl (fun s p => pairGone p.1 s) { s with resets := smErase s.resets t }
    let s := if cs.any (·.2) then
        let s := { s with tenants := smErase s.tenants t }
        (tenantQueues t).foldl (fun s q => s.updHq q (fun x => { x with enable := false })) s
      else s.setTenant t { s.tenant t with status := .active }
    cs.foldl (fun s c => completeWith c.1 0 0 s) s

/-- TENANT_RESET and TENANT_DELETE (R383, R388): a reset begins, or the command joins the one under way. DEDUCED, log 44. -/
def startReset (del : Bool) (c : HostCmd) (s : State) : State :=
  let t := blkField c.block 16 1
  if !bodyOk c [(16, 1)] || t ≥ 16 then completeWith c 0x82 0 s
  else match (s.tenant t).status with
    | .none => completeWith c 0x89 0 s
    | .resetting => { s with resets := smPut s.resets t (smGet [] s.resets t ++ [(c, del)]) }
    | .active => resetBegin t { s with resets := smPut s.resets t [(c, del)] }

/-! ### Owner entries, pairs, regions, partitions -/

/-- OWNER_SET (R383, 13 R415). DEDUCED, log 44. -/
def startOwnerSet (c : HostCmd) (s : State) : State :=
  let f := blkField c.block
  let n := f 24 4
  if !bodyOk c [(16, 13)] || f 16 8 % 0x200000 ≠ 0 || f 28 1 / 16 % 8 ≠ 0 || f 16 8 / 0x200000 + n > 0x80000 then
    completeWith c 0x82 0 s
  else match (if 128 ≤ f 28 1 then s.tenantRefusal (f 28 1 % 16) else none) with
  | some st => completeWith c st 0 s
  | none =>
    completeWith c 0 0 ((List.range n).foldl (fun s i => s.writeOwner (f 16 8 / 0x200000 + i) (BitVec.ofNat 8 (f 28 1))) s)

/-- PAIR_CREATE (R383, 09 R316). -/
def startPairCreate (c : HostCmd) (s : State) : State :=
  if !bodyOk c [(16, 8)] then completeWith c 0x82 0 s
  else match s.mqBlock (blkField c.block 16 8) 64 with
    | none => completeWith c 0x82 0 s
    | some d => ends c (createPair d s)

/-- PAIR_DELETE (R383): the pair enters DELETING, and its queues on the drive are deleted (09 R316). -/
def startPairDelete (c : HostCmd) (s : State) : State :=
  let h := blkField c.block 16 2
  if !bodyOk c [(16, 2)] then completeWith c 0x82 0 s
  else match smFind s.pairs h with
    | none => completeWith c 0x89 0 s
    | some p =>
      if p.state = 3 then completeWith c 0x8A 0 s else s.setPair h { p with state := 3, deleter := some c }

/-- Whether a region descriptor is well formed (07 R268). -/
def regionOk (s : State) (r : Region) : Bool :=
  let span := 4096 * r.pages
  let canon (a : Nat) : Bool := decide (a < 2 ^ 56) || decide (2 ^ 64 - 2 ^ 56 ≤ a)
  let side (b : Nat) : Bool := decide (b % 4096 = 0) && s.frameOk r.attr b && s.frameOk r.attr (b + span - 4096)
  canon r.vbase && decide (r.vbase % 4096 = 0) && decide (1 ≤ r.pages) && decide (r.pages ≤ 262144) &&
  canon (r.vbase + span - 1) && (r.attr == 0 || r.attr == 1 || r.attr == 4) && r.desc.extractLsb' 101 27 == 0 &&
  side (r.sideBase false) && side (r.sideBase true) && r.desc.extractLsb' 224 32 == 0

/-- REGION_CREATE (R383, 07 R268). DEDUCED, log 44. -/
def startRegionCreate (c : HostCmd) (s : State) : State :=
  let t := blkField c.block 16 1
  if !bodyOk c [(16, 1), (24, 8)] || t ≥ 16 then completeWith c 0x82 0 s
  else match s.tenantRefusal t, s.mqBlock (blkField c.block 24 8) 32 with
    | some st, _ => completeWith c st 0 s
    | none, none => completeWith c 0x82 0 s
    | none, some d =>
      let r : Region := { desc := d.extractLsb' 0 256, side := false, owner := none, spoiled := false }
      let x := s.tenant t
      let apart (o : Region) : Bool :=
        decide (r.vbase + 4096 * r.pages ≤ o.vbase) || decide (o.vbase + 4096 * o.pages ≤ r.vbase)
      if !regionOk s r then completeWith c 0x82 0 s
      else match (List.range 16).find? (fun i => (smFind x.regions i).isNone) with
        | none => completeWith c 0x8A 0 s
        | some i =>
          if !x.regions.all (fun o => apart o.2) then completeWith c 0x8A 0 s
          else completeWith c 0 0 (s.setTenant t { x with regions := smPut x.regions i r })

/-- REGION_DELETE (R383). -/
def startRegionDelete (c : HostCmd) (s : State) : State :=
  let t := blkField c.block 16 1
  if !bodyOk c [(16, 1), (24, 8)] || t ≥ 16 then completeWith c 0x82 0 s
  else
    let x := s.tenant t
    match x.regions.find? (fun r => r.2.vbase = blkField c.block 24 8) with
    | none => completeWith c 0x89 0 s
    | some (i, _) => completeWith c 0 0 (s.setTenant t { x with regions := smErase x.regions i })

/-- GANG_CREATE (R383, 11 R361). DEDUCED, log 44. -/
def startGangCreate (c : HostCmd) (s : State) : State :=
  let pa := blkField c.block 16 8
  match s.mqBlock pa 64 with
  | none => completeWith c 0x82 0 s
  | some d =>
    let n := (d.extractLsb' 32 13).toNat
    if !bodyOk c [(16, 8)] || !(n == 0 || s.mqReadable (pa + 64) n) then completeWith c 0x82 0 s
    else ends c (createPartition pa s)

/-- GANG_DELETE (R383, 11 R375). -/
def startGangDelete (c : HostCmd) (s : State) : State :=
  if !bodyOk c [(16, 2)] then completeWith c 0x82 0 s else ends c (deletePartition (blkField c.block 16 2) s)

/-- GANG_SWITCH (R385, 11 R374): SAVE or RESUME. -/
def startGangSwitch (c : HostCmd) (s : State) : State :=
  if blkField c.block 16 1 = 2 then gangResume c s else gangSave c s

/-! ### Launches, debug grants -/

/-- LAUNCH_SUSPEND (R383, R396). -/
def startSuspend (c : HostCmd) (s : State) : State :=
  let t := blkField c.block 16 1
  if !bodyOk c [(16, 1), (24, 8)] || t ≥ 16 then completeWith c 0x82 0 s
  else match askSuspend t (blkField c.block 24 8) (.cmd c) s with
    | (some st, s) => completeWith c st 0 s
    | (none, s) => s

/-- LAUNCH_RESUME (R383, R398). -/
def startResume (c : HostCmd) (s : State) : State :=
  let f := blkField c.block
  let t := f 16 1
  if !bodyOk c [(16, 1), (24, 20)] || t ≥ 16 then completeWith c 0x82 0 s
  else match askResume t (f 24 8) (f 32 8) (BitVec.ofNat 32 (f 40 4)) (.cmd c) s with
    | (some st, s) => completeWith c st 0 s
    | (none, s) => s

/-- A revocation disarms the watchpoints that the tenant's grants covered and leaves WATCHn (13 R424). -/
def revokeGrants (t : Nat) (s : State) : State :=
  let covered (w : WatchPt) : Bool := s.grants.any (fun (_, g) =>
    g.tenant == t && g.watch && w.tenant == t && decide (g.base ≤ w.pa) && decide (w.pa < g.base + g.count * 0x200000))
  { s with watch := s.watch.filter (fun w => !covered w.2), grants := s.grants.filter (fun g => g.2.tenant ≠ t) }

/-- DEBUG_GRANT (13 R416). -/
def startDebugGrant (c : HostCmd) (s : State) : State :=
  let f := blkField c.block
  let t := f 16 1
  let n := f 32 4
  let base := f 24 8
  if !bodyOk c [(16, 2), (24, 12)] || t ≥ 16 || f 17 1 ≥ 8 || base % 0x200000 ≠ 0 || ((n == 0) != (f 17 1 == 0)) ||
      (n != 0 && !(s.inDram base && s.inDram (base + n * 0x200000 - 1))) then completeWith c 0x82 0 s
  else if (s.tenant t).status ≠ .active then completeWith c 0x89 0 s
  else if n = 0 then completeWith c 0 0 (revokeGrants t s)
  else match (List.range 16).find? (fun i => (smFind s.grants i).isNone) with
    | none => completeWith c 0x8A 0 s
    | some i =>
      let g : Grant :=
        { tenant := t, read := (f 17 1).testBit 0, write := (f 17 1).testBit 1, watch := (f 17 1).testBit 2, base := base, count := n }
      completeWith c 0 (BitVec.ofNat 64 i) { s with grants := smPut s.grants i g }

/-- LAUNCH (R389): checked, then queued until it is bound. It completes when the launch does. -/
def startLaunch (c : HostCmd) (s : State) : State :=
  let t := (queueTenant c.queue).getD 0
  match checkLaunch t c.block (some c) s with
  | (.error (st, r), s) => completeWith c st r s
  | (.ok (l, e), s) => (acceptLaunch l e s).2

/-! ### Translations and faults (02 R61, R66) -/

/-- INVALIDATE (R383, R393, 02 R61): no TLB holds a translation of the range any more, nor the descriptor cache a kernel that it covers.
DEDUCED, log 6. -/
def startInvalidate (c : HostCmd) (s : State) : State :=
  let t := (queueTenant c.queue).getD 0
  let va := blkField c.block 16 8
  let n := blkField c.block 24 8
  if !bodyOk c [(16, 16)] || va % 4096 ≠ 0 then completeWith c 0x82 0 s
  else
    let hit (e : TlbEntry) : Bool := e.tenant == t && (n == 0 || (decide (e.va < va + 4096 * n) && decide (va < e.va + e.size)))
    completeWith c 0 0 { s.dropTlb hit with kernels := s.kernels.filter (fun k => !k.covered t va n) }

/-- A reply to the held request of a sequence number, in a hart (02 R66): RETRY makes it again, ABORT ends the stream queue or
the copy command. DEDUCED, log 31. -/
def replyHart (seq : BitVec 64) (retry : Bool) (x : Hart) : Hart :=
  let named (r : Option HeldReq) : Bool := r.any (fun r => r.seq == some seq)
  { x with
    queues := x.queues.map (fun (n, q) =>
      (n, if named q.held then
          if retry then { q with held := none }
          else
            let q := { q with held := none, abort := some seq }
            if 8 ≤ n then q.dropWrites else q
        else q))
    queue := x.queue.map (fun e =>
      if named e.prog.held then
        if retry then { e with prog := { e.prog with held := none } }
        else
          let r := e.prog.held.getD { seq := none, va := 0, reason := 0, kind := 1, die := 0, source := 0 }
          { e with prog := { e.prog with held := none, fail := some (engineFault seq r.die r.unit 0) } }
      else e) }

/-- FAULT_REPLY (R383, 02 R65, R66): the slot is free, and the request, of a hart of the tenant or of one that a save took off
the device, is made again or ended. DEDUCED, log 31. -/
def startFaultReply (c : HostCmd) (s : State) : State :=
  let t := (queueTenant c.queue).getD 0
  let seq := blkField c.block 16 8
  let act := blkField c.block 24 1
  let x := s.tenant t
  if !bodyOk c [(16, 9)] || !(act == 1 || act == 2) then completeWith c 0x82 0 s
  else if (smFind x.faults seq).isNone then completeWith c 0x89 0 s
  else
    let reply (h : Hart) : Hart := if h.tenant = t then replyHart (BitVec.ofNat 64 seq) (act == 1) h else h
    let s := s.setTenant t { x with faults := smErase x.faults seq }
    completeWith c 0 0 { s with
      harts := s.harts.map (fun (p : Nat × Hart) => (p.1, reply p.2))
      launches := s.launches.map (fun (l : Nat × Launch) =>
        (l.1, { l.2 with kept := l.2.kept.map (fun (p : Nat × Hart) => (p.1, reply p.2)) })) }

/-- NOP (R383). -/
def startNop (c : HostCmd) (s : State) : State := if bodyOk c [] then completeWith c 0 0 s else completeWith c 0x82 0 s

/-! ### The order of commands (R382, R383) -/

/-- Whether a command's opcode is one of the MQ's (R383). -/
def managementOp (c : HostCmd) : Bool := decide (1 ≤ c.opcode.toNat) && decide (c.opcode.toNat ≤ 0x0E)

/-- Whether it is one of a tenant queue's. -/
def tenantOp (c : HostCmd) : Bool := decide (0x20 ≤ c.opcode.toNat) && decide (c.opcode.toNat ≤ 0x23)

/-- The status with which a command ends before its own checks (R382, R383, R388). DEDUCED, log 44. -/
def refusal (c : HostCmd) (s : State) : Option Nat :=
  match queueTenant c.queue with
  | none => if !headerOk c then some 0x82 else if managementOp c then none else some 0x83
  | some t =>
    if (s.tenant t).status = .resetting then some 0x85
    else if !headerOk c then some 0x82
    else if tenantOp c then none
    else if managementOp c then some 0x84
    else some 0x83

/-- What a command does (R383). -/
def perform (c : HostCmd) (s : State) : State :=
  match c.opcode.toNat with
  | 0x01 => startTenantCreate c s
  | 0x02 => startReset false c s
  | 0x03 => startReset true c s
  | 0x04 => startOwnerSet c s
  | 0x05 => startPairCreate c s
  | 0x06 => startPairDelete c s
  | 0x07 => startRegionCreate c s
  | 0x08 => startRegionDelete c s
  | 0x09 => startGangCreate c s
  | 0x0A => startGangDelete c s
  | 0x0B => startGangSwitch c s
  | 0x0C => startSuspend c s
  | 0x0D => startResume c s
  | 0x0E => startDebugGrant c s
  | 0x20 => startLaunch c s
  | 0x21 => startInvalidate c s
  | 0x22 => startFaultReply c s
  | _ => startNop c s

/-- The physical addresses of what a command names in memory, whose home dies the sequencer reaches over links (10 R354): descriptors, and
the route table behind that of a GANG_CREATE, on whatever pages it lies. -/
def cmdReads (s : State) (c : HostCmd) : List Nat :=
  match c.opcode.toNat with
  | 0x05 => [blkField c.block 16 8]
  | 0x09 =>
    let pa := blkField c.block 16 8
    let gsize := s.bytesAt (pa + 4) 2 % 2 ^ 13
    pa :: (List.range ((gsize + 4095) / 4096 + 1)).map (fun i => Nat.min (pa + 64 + 4096 * i) (pa + 63 + gsize))
  | 0x07 => [blkField c.block 24 8]
  | 0x0B => (List.range 8).map (fun d => blkField (switchBlock c) 8 8 + 4096 * d)
  | _ => []

/-- What the flits of a command's own accesses are sent as: a gang switch sweeps and re-injects as save traffic (10 R342). -/
def commandSender (c : HostCmd) : Sender := if c.opcode = 0x0B then { sequencerSender with cls := .swp } else sequencerSender

/-- A command starts: it leaves those that wait, and is refused or performed. -/
def commandStart (c : HostCmd) (s : State) : State :=
  let s := s.updHq c.queue (fun x => { x with waiting := x.waiting.filter (· ≠ c), running := x.running ++ [c] })
  match refusal c s with
  | some st => completeWith c st 0 s
  | none =>
    match (cmdReads s c).flatMap (fun pa => s.shutHops (commandSender c) 8 (servedAt pa)) with
    | hop :: _ => s.noteFlit hop
    | [] => perform c s

/-- A command starts, unless a link holds up what it has to read or write. -/
def startCommand (c : HostCmd) (s : State) : State := s.attempts (commandFlit c.queue) (commandStart c)

/-- Whether a launch of a queue is still to be bound, so that the queue's later commands are held (R382). -/
def State.queueHeld (s : State) (q : Nat) : Bool :=
  s.launches.any (fun (_, l) => !l.started && l.cmd.any (fun c => c.queue == q))

/-- Whether a command may start: it is the oldest that waits, no unbound launch holds the queue, and with FENCE every earlier
one has completed (R382). -/
def State.mayStart (s : State) (c : HostCmd) : Bool :=
  let x := s.hq c.queue
  x.waiting.head? == some c && !s.queueHeld c.queue &&
  (!cmdFence c || (x.running.isEmpty && x.comps.all (fun k => !k.counts)))

/-- The oldest waiting command of a queue starts, if it may. -/
def startNext (q : Nat) (s : State) : State :=
  match (s.hq q).waiting with
  | c :: _ => if s.serving && s.mayStart c then startCommand c s else s
  | [] => s

/-- A host command of the opcode table: one that waits in its queue starts when its turn has come; one that the queue does not
hold is accepted first by its SEQ (R382). A command that is not the row's changes nothing. DESIGN CHOICE, log 52. -/
def hostCommand (row : HostCmd → Bool) (c : HostCmd) (s : State) : State :=
  let x := s.hq c.queue
  if !s.serving || !x.enable || !queueExists c.queue || !row c then s
  else
    let s := if x.waiting.contains c then s else s.setHq c.queue (acceptCommand c x)
    if s.mayStart c then startCommand c s else s

end Sys2Proof.Machine
end

