-- ==== Sys2Proof/Machine/Context.lean ====
section
/-!
DEFINITION. The context instructions (12 R404) and the supervisor instructions (13 R417 to R419, R424).
-/

namespace Sys2Proof.Machine

/-! ### KLAUNCH and KWAIT (R404) -/

/-- Waits as a FENCE with the kinds P in its predecessor set: until every earlier entry of those kinds has performed. -/
def fenceWait (ps : BitVec 5) : M Unit := do
  let s ← get
  if s.fenceBusy s.cur (s.me.fenceFrom ps 0 2) then block

/-- The priority of the launch that a hart belongs to. DEDUCED, log 45. -/
def State.prioOf (s : State) (x : Hart) : Option Nat := x.launch.bind (fun k => (smFind s.launches k).map (·.prio))

/-- The launch that a 64-byte block asks for, from a hart: its id, or 2^63 + the status of the checks of R389 and R390 (R404). A launch
that ends with another status at once completes through its DONEADDR. -/
def deviceLaunch (x : Hart) (blk : BitVec 512) (s : State) : Nat × State :=
  let b := blk <<< 128
  if blk.extractLsb' 384 128 ≠ 0 || blkField b 56 8 = 0 then (2 ^ 63 + 0x82, s)
  else match checkLaunch x.tenant b none s with
    | (.error (st, _), s) => (2 ^ 63 + st, s)
    | (.ok (l, e), s) => acceptLaunch { l with prio := Nat.min l.prio ((s.prioOf x).getD 7) } e s

/-- KLAUNCH (R404). DEDUCED, log 45. -/
def execKlaunch (rd : BitVec 5) (ra : BitVec 5) (s : State) : Out :=
  memInstr [rd.toNat, ra.toNat] 0b00001 (do
    let x ← meM
    let a := x.s ra.toNat
    alignCheck a 64 0
    fenceWait 0b01111
    let v ← memRead none 0 a 64 .load 0
    let r ← attemptM (hartFlit (← get).cur) (deviceLaunch x (BitVec.ofNat 512 v))
    updMeM (fun x => x.setS rd.toNat (BitVec.ofNat 64 r))) s

/-- Whether an id names a launch of a tenant that has not completed (R404). DEDUCED, log 45. -/
def State.launchUnder (s : State) (t id : Nat) : Bool :=
  match smFind s.launches (id % 2 ^ 16) with
  | some l => launchId (id % 2 ^ 16) l == id && l.tenant == t && !l.closed
  | none => false

/-- KWAIT (R404). DEDUCED, log 45. -/
def execKwait (ra : BitVec 5) (s : State) : Out :=
  scalarRun [ra.toNat] (do
    let s ← get
    if s.launchUnder s.me.tenant (s.me.s ra.toNat).toNat then block) s

/-! ### CTXSAVE and CTXLOAD (R404) -/

/-- A context request of a supervisor-mode hart: `ask` starts the action, and the status is written once it has ended.
DEDUCED, log 45. -/
def contextOp (word : BitVec 32) (ra : BitVec 5) (ask : Nat → Nat → Waiter → State → Option Nat × State) (s : State) : Out :=
  if !s.me.super then .next (s.trapHere (privTrap word))
  else
    memInstr [ra.toNat] 0b00011 (do
      let x ← meM
      let a := x.s ra.toNat
      alignCheck a 16 0
      let rq ← memRead none 0 a 16 .load 0
      let id := rq % 2 ^ 64
      let finish (st : Nat) : M Unit := do
        memWrite none 0 (a + 9) 1 st .store 0
        updMeM (fun x => { x with ctx := none })
      let start : M Unit := do
        let h := (← get).cur
        match ← attemptM (hartFlit h) (ask (rq / 2 ^ 64 % 256) id (.hart h)) with
        | some st =>
          updMeM (fun x => { x with ctx := some (id, some st) })
          finish st
        | none =>
          updMeM (fun x => { x with ctx := some (id, none) })
          block
      match x.ctx with
      | some (k, st) =>
        if k ≠ id then start
        else match st with
          | some st => finish st
          | none => block
      | none => start) s

/-- CTXSAVE (R404). -/
def execCtxsave (ra : BitVec 5) (s : State) : Out := contextOp (encSY 0x36 0x0 ra 0x0 0x2) ra askSuspend s

/-- CTXLOAD (R404): with the same SAVEPA and AFFINITY. -/
def execCtxload (ra : BitVec 5) (s : State) : Out :=
  contextOp (encSY 0x36 0x0 ra 0x0 0x3) ra (fun t id w s => askResume t id 0 0 w s) s

/-! ### SVRD and SVWR (R418) -/

/-- SVRD (R418). -/
def execSvrd (rd : BitVec 5) (ra : BitVec 5) (s : State) : Out :=
  if !s.me.super then .next (s.trapHere (privTrap (encSY 0x37 rd ra 0x0 0x0)))
  else
    memInstr [rd.toNat, ra.toNat] 0b00001 (do
      let x ← meM
      let a := x.s ra.toNat
      alignCheck a 8 0
      let ag := (← get).supvAccess
      let v ← accM (fun s => match physRead ag a.toNat 8 .load s with
        | (.error e, s) => (.error e, physErr s e)
        | r => r) (faultTrap a .load 0)
      updMeM (fun x => x.setS rd.toNat (BitVec.ofNat 64 v))) s

/-- SVWR (R418). -/
def execSvwr (rd : BitVec 5) (ra : BitVec 5) (s : State) : Out :=
  if !s.me.super then .next (s.trapHere (privTrap (encSY 0x37 rd ra 0x0 0x1)))
  else
    memInstr [rd.toNat, ra.toNat] 0b00010 (do
      let x ← meM
      let a := x.s rd.toNat
      alignCheck a 8 0
      let ag := (← get).supvAccess
      accM (fun s => match physWrite ag a.toNat 8 (x.s ra.toNat).toNat .store s with
        | (.error e, s) => (.error e, physErr s e)
        | r => r) (faultTrap a .store 0)) s

/-! ### WARM and WDISARM (R419, R424) -/

/-- A watch descriptor of 16 bytes: the watchpoint, or none where WARM raises ILLEGAL reason 4. -/
def watchOf (s : State) (v : Nat) : Option WatchPt :=
  let w : WatchPt :=
    { pa := v % 2 ^ 48, bmask := BitVec.ofNat 16 (v / 2 ^ 48), kinds := BitVec.ofNat 4 (v / 2 ^ 64), tenant := v / 2 ^ 72 % 16 }
  let o := s.ownerAt w.pa
  if w.pa % 16 = 0 && v / 2 ^ 68 % 16 = 0 && v / 2 ^ 76 = 0 && w.bmask ≠ 0 && w.kinds ≠ 0 && s.inDram w.pa &&
      o.getLsbD 7 && (o.extractLsb' 0 4).toNat = w.tenant && s.granted w.pa (·.watch) then some w
  else none

/-- WARM (R419). -/
def execWarm (ra : BitVec 5) (n : BitVec 2) (s : State) : Out :=
  let word := encSY 0x37 0x0 ra (n.setWidth 12) 0x2
  if !s.me.super then .next (s.trapHere (privTrap word))
  else
    memInstr [ra.toNat] 0b00001 (do
      let x ← meM
      let a := x.s ra.toNat
      alignCheck a 16 0
      let v ← memRead none 0 a 16 .load 0
      match watchOf (← get) v with
      | none => raise (illegal word 4)
      | some w =>
        fenceWait 0b11111
        modify (fun s => { s with watch := smPut s.watch n.toNat w, watchReg := smSet 0 s.watchReg n.toNat 0 })) s

/-- WDISARM (R419): WATCHn is left unchanged. -/
def execWdisarm (n : BitVec 2) (s : State) : Out :=
  if !s.me.super then .next (s.trapHere (privTrap (encSY 0x37 0x0 0x0 (n.setWidth 12) 0x3)))
  else
    scalarRun [] (do
      fenceWait 0b11111
      modify (fun s => { s with watch := smErase s.watch n.toNat })) s

end Sys2Proof.Machine
end

