-- ==== Sys2Proof/Machine/Keccak.lean ====
section
/-!
DEFINITION. SHAKE256 (FIPS 202), which 13 R409 and R410 name.
-/

namespace Sys2Proof.Machine

/-- The lanes of the state of Keccak-f[1600], lane (x, y) at x + 5 y. -/
abbrev KState := List (BitVec 64)

def kLane (a : KState) (x y : Nat) : BitVec 64 := a.getD (x % 5 + 5 * (y % 5)) 0

/-- A state from a function of the lane's coordinates. -/
def kBuild (f : Nat → Nat → BitVec 64) : KState := (List.range 25).map (fun i => f (i % 5) (i / 5))

/-- θ. -/
def kTheta (a : KState) : KState :=
  let c := (List.range 5).map (fun x => (List.range 5).foldl (fun acc y => acc ^^^ kLane a x y) 0)
  kBuild (fun x y => kLane a x y ^^^ c.getD ((x + 4) % 5) 0 ^^^ (c.getD ((x + 1) % 5) 0).rotateLeft 1)

/-- The walk over the lanes that gives ρ its offsets: from lane (x, y) at step `t`, lane `i`'s triangular number. -/
def kOffset (i : Nat) : Nat → Nat → Nat → Nat → Nat
  | 0, _, _, _ => 0
  | n + 1, t, x, y => if x + 5 * y = i then (t + 1) * (t + 2) / 2 % 64 else kOffset i n (t + 1) y ((2 * x + 3 * y) % 5)

/-- ρ and π: lane (x, y) comes from lane (x + 3y, x). The walk starts at lane (1, 0) and never meets lane (0, 0). -/
def kRhoPi (a : KState) : KState :=
  kBuild (fun x y => (kLane a (x + 3 * y) x).rotateLeft (kOffset ((x + 3 * y) % 5 + 5 * x) 24 0 1 0))

/-- χ. -/
def kChi (a : KState) : KState := kBuild (fun x y => kLane a x y ^^^ (~~~(kLane a (x + 1) y) &&& kLane a (x + 2) y))

/-- One step of the register behind ι's constants, which feeds bit 8 back into bits 0, 4, 5 and 6. -/
def kShift (r : Nat) : Nat := if r < 128 then 2 * r else Nat.xor (2 * r) 0x171

/-- A round's constant from the register: output j stands at bit 2^j − 1. -/
def kConst (r : Nat) : BitVec 64 × Nat :=
  (List.range 7).foldl (fun (c, r) j => (if r % 2 = 1 then c ^^^ (1#64 <<< (2 ^ j - 1)) else c, kShift r)) (0, r)

/-- `n` rounds of the permutation, the register at `r` before the first. -/
def kPermute : Nat → Nat → KState → KState
  | 0, _, a => a
  | n + 1, r, a =>
    let b := kChi (kRhoPi (kTheta a))
    kPermute n (kConst r).2 (b.modifyHead (· ^^^ (kConst r).1))

/-- The permutation: 24 rounds. -/
def keccakF (a : KState) : KState := kPermute 24 1 a

/-- Up to 8 bytes as a lane. -/
def kWord (bs : List (BitVec 8)) : BitVec 64 := BitVec.ofNat 64 (bs.foldr (fun b acc => b.toNat + 256 * acc) 0)

/-- A block of 136 bytes taken in. -/
def kBlock (a : KState) (blk : List (BitVec 8)) : KState :=
  keccakF ((List.range 25).map (fun i => a.getD i 0 ^^^ (if i < 17 then kWord ((blk.drop (8 * i)).take 8) else 0)))

/-- The blocks of a padded message. -/
def kAbsorb : Nat → KState → List (BitVec 8) → KState
  | 0, a, _ => a
  | n + 1, a, m => kAbsorb n (kBlock a (m.take 136)) (m.drop 136)

/-- `n` bytes of output. -/
def kSqueeze : Nat → KState → Nat → List (BitVec 8)
  | 0, _, _ => []
  | k + 1, a, n =>
    let bs := ((a.take 17).flatMap (fun w => (List.range 8).map (fun i => w.extractLsb' (8 * i) 8))).take n
    if n ≤ 136 then bs else bs ++ kSqueeze k (keccakF a) (n - 136)

/-- SHAKE256 of a message, `n` bytes. -/
def shake256 (m : List (BitVec 8)) (n : Nat) : List (BitVec 8) :=
  let room := 136 - m.length % 136
  let pad : List (BitVec 8) := if room = 1 then [0x9F] else 0x1F :: (List.replicate (room - 2) 0 ++ [0x80])
  kSqueeze (n / 136 + 1) (kAbsorb (m.length / 136 + 1) (List.replicate 25 0) (m ++ pad)) n

end Sys2Proof.Machine
end

