-- ==== Sys2Proof/Machine/Slh.lean ====
section
/-!
DEFINITION. SLH-DSA-SHAKE-256s (FIPS 205), which 13 R408 to R410 name: verification, key generation from seeds, signing.
The names are the standard's. n = 32, h = 64, d = 8, h' = 8, a = 14, k = 22, w = 16.
-/

namespace Sys2Proof.Machine

/-- A string of bytes. -/
abbrev Bytes := List (BitVec 8)

/-- toByte: a number in `n` bytes, the highest first. -/
def beBytes (x n : Nat) : Bytes := ((List.range n).map (fun i => BitVec.ofNat 8 (x / 256 ^ i))).reverse

/-- toInt. -/
def beInt (bs : Bytes) : Nat := bs.foldl (fun acc b => acc * 256 + b.toNat) 0

/-- base_2b: the first `out` digits of `b` bits. -/
def base2b (x : Bytes) (b out : Nat) : List Nat :=
  let v := beInt x
  (List.range out).map (fun i => v / 2 ^ (8 * x.length - b * (i + 1)) % 2 ^ b)

/-- `n` bytes from offset `o`. -/
def slice (bs : Bytes) (o n : Nat) : Bytes := (bs.drop o).take n

/-- ADRS: layer, tree, type, and the three words that follow. -/
structure SlhAdrs where
  layer : Nat := 0
  tree : Nat := 0
  type : Nat := 0
  pair : Nat := 0
  mid : Nat := 0
  last : Nat := 0
  deriving DecidableEq, Repr

def SlhAdrs.bytes (a : SlhAdrs) : Bytes :=
  beBytes a.layer 4 ++ beBytes a.tree 12 ++ beBytes a.type 4 ++ beBytes a.pair 4 ++ beBytes a.mid 4 ++ beBytes a.last 4

/-- setTypeAndClear, with the key pair address then set. -/
def SlhAdrs.as (a : SlhAdrs) (type pair : Nat) : SlhAdrs := { layer := a.layer, tree := a.tree, type := type, pair := pair }

/-- F, H, T_l, and PRF, whose last argument is then SK.seed. -/
def slhHash (pkSeed : Bytes) (a : SlhAdrs) (m : Bytes) : Bytes := shake256 (pkSeed ++ a.bytes ++ m) 32

/-! ### WOTS+ -/

/-- chain: `s` steps from the index `i`. -/
def slhChain (pkSeed : Bytes) (a : SlhAdrs) : Nat → Nat → Bytes → Bytes
  | 0, _, x => x
  | s + 1, i, x => slhChain pkSeed a s (i + 1) (slhHash pkSeed { a with last := i } x)

/-- The 67 digits of a message of 32 bytes with its checksum. -/
def wotsDigits (m : Bytes) : List Nat :=
  let ds := base2b m 4 64
  ds ++ base2b (beBytes ((ds.map (15 - ·)).sum * 16) 2) 4 3

/-- The secret of a chain. -/
def wotsSecret (skSeed pkSeed : Bytes) (a : SlhAdrs) (i : Nat) : Bytes := slhHash pkSeed { a.as 5 a.pair with mid := i } skSeed

/-- The public key of chain ends. -/
def wotsRoot (pkSeed : Bytes) (a : SlhAdrs) (ends : Bytes) : Bytes := slhHash pkSeed (a.as 1 a.pair) ends

/-- wots_pkGen. -/
def wotsPkGen (skSeed pkSeed : Bytes) (a : SlhAdrs) : Bytes :=
  wotsRoot pkSeed a ((List.range 67).flatMap (fun i =>
    slhChain pkSeed { a with mid := i } 15 0 (wotsSecret skSeed pkSeed a i)))

/-- wots_sign. -/
def wotsSign (m skSeed pkSeed : Bytes) (a : SlhAdrs) : Bytes :=
  (wotsDigits m).zipIdx.flatMap (fun p => slhChain pkSeed { a with mid := p.2 } p.1 0 (wotsSecret skSeed pkSeed a p.2))

/-- wots_pkFromSig. -/
def wotsPkFromSig (sig m pkSeed : Bytes) (a : SlhAdrs) : Bytes :=
  wotsRoot pkSeed a ((wotsDigits m).zipIdx.flatMap (fun p =>
    slhChain pkSeed { a with mid := p.2 } (15 - p.1) p.1 (slice sig (32 * p.2) 32)))

/-! ### XMSS and the hypertree -/

/-- xmss_node: node `i` at height `z`. -/
def xmssNode (skSeed pkSeed : Bytes) (a : SlhAdrs) : Nat → Nat → Bytes
  | 0, i => wotsPkGen skSeed pkSeed (a.as 0 i)
  | z + 1, i =>
    slhHash pkSeed { a.as 2 0 with mid := z + 1, last := i }
      (xmssNode skSeed pkSeed a z (2 * i) ++ xmssNode skSeed pkSeed a z (2 * i + 1))

/-- The root above a node, from its authentication path: the height of the node, its index, the siblings. -/
def climb (pkSeed : Bytes) (a : SlhAdrs) : Nat → Nat → List Bytes → Bytes → Bytes
  | _, _, [], node => node
  | z, i, s :: ss, node =>
    climb pkSeed a (z + 1) (i / 2) ss
      (slhHash pkSeed { a with mid := z + 1, last := i / 2 } (if i % 2 = 0 then node ++ s else s ++ node))

/-- A string of 32-byte values. -/
def paths (bs : Bytes) (o n : Nat) : List Bytes := (List.range n).map (fun j => slice bs (o + 32 * j) 32)

/-- xmss_pkFromSig. -/
def xmssPkFromSig (idx : Nat) (sig m pkSeed : Bytes) (a : SlhAdrs) : Bytes :=
  climb pkSeed (a.as 2 0) 0 idx (paths sig 2144 8) (wotsPkFromSig sig m pkSeed (a.as 0 idx))

/-- The sibling of an index. -/
def sibling (i : Nat) : Nat := if i % 2 = 0 then i + 1 else i - 1

/-- xmss_sign. -/
def xmssSign (m skSeed : Bytes) (idx : Nat) (pkSeed : Bytes) (a : SlhAdrs) : Bytes :=
  wotsSign m skSeed pkSeed (a.as 0 idx) ++
  (List.range 8).flatMap (fun j => xmssNode skSeed pkSeed a j (sibling (idx / 2 ^ j)))

/-- The layers of a hypertree signature from a layer up: the root that each signature gives is signed by the next. -/
def htRoot (sig pkSeed : Bytes) : Nat → Nat → Nat → Nat → Bytes → Bytes
  | 0, _, _, _, m => m
  | n + 1, j, tree, leaf, m =>
    htRoot sig pkSeed n (j + 1) (tree / 256) (tree % 256)
      (xmssPkFromSig leaf (slice sig (2400 * j) 2400) m pkSeed { layer := j, tree := tree })

/-- ht_sign, from a layer up. -/
def htSign (skSeed pkSeed : Bytes) : Nat → Nat → Nat → Nat → Bytes → Bytes
  | 0, _, _, _, _ => []
  | n + 1, j, tree, leaf, m =>
    let a : SlhAdrs := { layer := j, tree := tree }
    let sig := xmssSign m skSeed leaf pkSeed a
    sig ++ htSign skSeed pkSeed n (j + 1) (tree / 256) (tree % 256) (xmssPkFromSig leaf sig m pkSeed a)

/-! ### FORS -/

/-- fors_skGen. -/
def forsSecret (skSeed pkSeed : Bytes) (a : SlhAdrs) (i : Nat) : Bytes := slhHash pkSeed { a.as 6 a.pair with last := i } skSeed

/-- fors_node: node `i` at height `z`. -/
def forsNode (skSeed pkSeed : Bytes) (a : SlhAdrs) : Nat → Nat → Bytes
  | 0, i => slhHash pkSeed { a with mid := 0, last := i } (forsSecret skSeed pkSeed a i)
  | z + 1, i =>
    slhHash pkSeed { a with mid := z + 1, last := i }
      (forsNode skSeed pkSeed a z (2 * i) ++ forsNode skSeed pkSeed a z (2 * i + 1))

/-- fors_sign. -/
def forsSign (md skSeed pkSeed : Bytes) (a : SlhAdrs) : Bytes :=
  (base2b md 14 22).zipIdx.flatMap (fun p =>
    let leaf := p.2 * 2 ^ 14 + p.1
    forsSecret skSeed pkSeed a leaf ++
    (List.range 14).flatMap (fun j => forsNode skSeed pkSeed a j (sibling (leaf / 2 ^ j))))

/-- fors_pkFromSig. -/
def forsPkFromSig (sig md pkSeed : Bytes) (a : SlhAdrs) : Bytes :=
  slhHash pkSeed (a.as 4 a.pair) ((base2b md 14 22).zipIdx.flatMap (fun p =>
    let leaf := p.2 * 2 ^ 14 + p.1
    climb pkSeed a 0 leaf (paths sig (480 * p.2 + 32) 14)
      (slhHash pkSeed { a with mid := 0, last := leaf } (slice sig (480 * p.2) 32))))

/-! ### SLH-DSA -/

/-- A message with the empty context string. -/
def slhMessage (m : Bytes) : Bytes := 0 :: 0 :: m

/-- What the digest of a message selects: md, the tree and the leaf. -/
def slhDigest (r pkSeed pkRoot m : Bytes) : Bytes × Nat × Nat :=
  let g := shake256 (r ++ pkSeed ++ pkRoot ++ m) 47
  (slice g 0 39, beInt (slice g 39 7), beInt (slice g 46 1))

/-- slh_verify. -/
def slhVerify (pk m sig : Bytes) : Bool :=
  let pkSeed := slice pk 0 32
  let pkRoot := slice pk 32 32
  let r := slice sig 0 32
  let (md, tree, leaf) := slhDigest r pkSeed pkRoot (slhMessage m)
  let fors := forsPkFromSig (slice sig 32 10560) md pkSeed { tree := tree, type := 3, pair := leaf }
  sig.length == 29792 && htRoot (slice sig 10592 19200) pkSeed 8 0 tree leaf fors == pkRoot

/-- The public key that 96 bytes of seeds give: SK.seed, SK.prf, PK.seed. -/
def slhPublic (seeds : Bytes) : Bytes :=
  slice seeds 64 32 ++ xmssNode (slice seeds 0 32) (slice seeds 64 32) { layer := 7 } 8 0

/-- slh_sign with the key of 96 bytes of seeds and the randomness of a signing. -/
def slhSign (seeds m rnd : Bytes) : Bytes :=
  let skSeed := slice seeds 0 32
  let pkSeed := slice seeds 64 32
  let pkRoot := slice (slhPublic seeds) 32 32
  let r := shake256 (slice seeds 32 32 ++ rnd ++ slhMessage m) 32
  let (md, tree, leaf) := slhDigest r pkSeed pkRoot (slhMessage m)
  let a : SlhAdrs := { tree := tree, type := 3, pair := leaf }
  let fors := forsSign md skSeed pkSeed a
  r ++ fors ++ htSign skSeed pkSeed 8 0 tree leaf (forsPkFromSig fors md pkSeed a)

end Sys2Proof.Machine
end

