-- ==== Sys2Proof/Machine/Boot.lean ====
section
/-!
DEFINITION. Boot, attestation, the host's register page, power, device reset and the fatal dump (13 R407 to R412, R425 to R428).
-/

namespace Sys2Proof.Machine

/-! ### Device reset (R425) -/

/-- What device reset leaves: the reset values, and what is not the device's or is fused: host memory, the drives, the packets
and interrupts that have left, the image in flash, the blown fuses; the schedule goes on. DEDUCED, log 48. -/
def deviceReset (s : State) : State :=
  { State.reset with
    mem := s.mem.filter (fun c => isHost c.1)
    drives := s.drives, doorbells := s.doorbells, wire := s.wire, irqs := s.irqs
    supv := { State.reset.supv with svn := s.supv.svn, flash := s.supv.flash }
    cur := s.cur, agenda := s.agenda, cycle := s.cycle, free := s.free }

/-! ### Boot (R408, R409) -/

/-- The bytes of a signature of SLH-DSA-SHAKE-256s (R408). -/
def sigLen : Nat := 29792

/-- A byte of the image: from flash, or from host memory. -/
def imageByte (s : State) (i : Nat) : BitVec 8 :=
  if s.boot.imgsrc = 0 then s.supv.flash.getD i 0 else s.byteAt (s.boot.imgsrc.toNat + i)

def imageBytes (s : State) (lo n : Nat) : List (BitVec 8) := (List.range n).map (fun i => imageByte s (lo + i))

def imageNat (s : State) (lo n : Nat) : Nat := (imageBytes s lo n).foldr (fun b acc => b.toNat + 256 * acc) 0

/-- The checks of R409 after the read: the reason for a failure, or none. PRESUMED, log 13; DEDUCED, log 46. -/
def imageFault (s : State) : Option Nat :=
  let len := imageNat s 4 4
  let entry := imageNat s 8 4
  let pk := imageBytes s 64 64
  if imageNat s 0 2 ≠ 1 ∨ imageNat s 3 1 ≠ 0xA0 ∨ len % 4 ≠ 0 ∨ len < 4 ∨ 4194048 < len ∨
      entry % 4 ≠ 0 ∨ len ≤ entry ∨ imageNat s 12 52 ≠ 0 ∨ imageNat s 128 128 ≠ 0 then some 2
  else if shake256 pk 64 ≠ (List.range 64).map Config.keyDigest then some 3
  else if imageNat s 2 1 < s.supv.svn then some 4
  else if !slhVerify pk (imageBytes s 0 (256 + len)) (imageBytes s (256 + len) sigLen) then some 5
  else none

/-- Bytes as a number, the first the lowest. -/
def bytesNat (bs : List (BitVec 8)) : Nat := bs.foldr (fun b acc => b.toNat + 256 * acc) 0

/-- Boot from BOOTGO on (R409): DIEDIS takes effect, the image is read, checked and measured, and the supervisor core starts. Where
BSTATE is not 0, BOOTGO is set and nothing starts (R407).
PRESUMED, log 13; DESIGN CHOICE, log 14 and 16. -/
def bootRun (readError : Bool) (s : State) : State :=
  let s := { s with boot := { s.boot with bootgo := true } }
  if s.boot.bstate ≠ 0 then s
  else
    let s := { s with
      boot := { s.boot with bstate := 1 }
      diedis := s.boot.diedis, split := if s.boot.diedis = 0 then s.split else 0 }
    let fail (n : Nat) : State := { s with boot := { s.boot with bfail := BitVec.ofNat 8 n, bstate := 3 } }
    if readError then fail 1
    else match imageFault s with
      | some n => fail n
      | none =>
        let len := imageNat s 4 4
        let image := imageBytes s 0 (256 + len)
        let s := { s with
          boot := { s.boot with measure := BitVec.ofNat 512 (bytesNat (shake256 image 64)), bstate := 2 }
          supv := { s.supv with imgSvn := imageNat s 2 1 } }
        let s := s.setHart supvHart
          { run := .running, super := true, pc := BitVec.ofNat 64 (supvBase + 256 + imageNat s 8 4) }
        s.setBytes supvBase (256 + len) (bytesNat image)

/-! ### Attestation (R410) -/

/-- A byte string of opaque bytes. -/
def opaqueBytes (n : Nat) (f : Nat → BitVec 8) : List (BitVec 8) := (List.range n).map f

/-- The seeds of the device key and of the key of the running image. -/
def dkSeeds : List (BitVec 8) := shake256 (opaqueBytes 64 Config.deviceSecret ++ [0x01]) 96

def akSeeds (measure : BitVec 512) : List (BitVec 8) :=
  shake256 (opaqueBytes 64 Config.deviceSecret ++ 0x02 :: (List.range 64).map (fun i => measure.extractLsb' (8 * i) 8)) 96

/-- The attestation report (R410). PRESUMED, log 13. -/
def attReport (s : State) : List (BitVec 8) :=
  let m := s.boot.measure
  let head : List (BitVec 8) := [1, 0, BitVec.ofNat 8 s.supv.imgSvn, 0xA0] ++ List.replicate 12 0 ++
    (List.range 32).map (fun i => s.boot.attnonce.extractLsb' (8 * i) 8)
  let subject : List (BitVec 8) := (List.range 64).map (fun i => m.extractLsb' (8 * i) 8) ++ slhPublic (akSeeds m)
  let first := head ++ subject ++ slhPublic dkSeeds ++ slhSign dkSeeds subject (opaqueBytes 32 (Config.slhRandom s.free))
  first ++ slhSign (akSeeds m) first (opaqueBytes 32 (Config.slhRandom (s.free + 1)))

/-- ATTREQ (R410): the report is written at ATTADDR, in the host window, and ATTREQ is clear again; the hardware that builds it is
none of what a fatal error stops (R427). PRESUMED, log 13; DEDUCED, log 46. -/
def attest (s : State) : State :=
  let r := attReport s
  let a := s.boot.attaddr.toNat
  let s := { s with free := s.free + 2, boot := { s.boot with attreq := false } }
  if isHost a && isHost (a + r.length - 1) then s.setBytes a r.length (bytesNat r) else s

/-! ### Power (R411, R412) -/

/-- The power limit in force (R411). DEDUCED, log 49. -/
def powerLimit (s : State) : Nat := Nat.min 3200 (Nat.min s.boot.pwrlim.toNat s.supv.fwlim.toNat)

def State.setSupv (s : State) (x : Supv) : State := { s with supv := x }

/-- The clock 100 MHz lower, down to 1.2 GHz. DEDUCED, log 49. -/
def lowerClock (s : State) : State := s.setSupv { s.supv with clock := Nat.max 1200 (s.supv.clock - 100) }

/-- A window of 36,000 cycles with its average power (R412). DEDUCED, log 49. -/
def powerWindow (watts : Nat) (s : State) : State :=
  let s := { s with cycle := s.cycle + 36000 }
  if powerLimit s < watts then
    if s.supv.clock ≤ 1200 then
      let n := s.supv.overWin + 1
      let s := s.setSupv { s.supv with overWin := n }
      if 16 ≤ n then s.fatalFreeze 5 8 else s
    else lowerClock (s.setSupv { s.supv with overWin := 0 })
  else
    let s := s.setSupv { s.supv with overWin := 0 }
    if 100 * watts < 95 * powerLimit s then s.setSupv { s.supv with clock := Nat.min 3600 (s.supv.clock + 100) } else s

/-! ### The fatal dump (R427, R428) -/

/-- 8-byte words written at an offset of the dump window. DESIGN CHOICE, log 47. -/
def dumpWords : Nat → List Nat → State → State
  | _, [], s => s
  | off, w :: ws, s => dumpWords (off + 8) ws (s.dumpBytes off 8 w)

/-- The pages of a hart, as parts: whole, or the words that R428 leaves of a tenant's hart without a READ grant. -/
def dumpHart (s : State) (h : Nat) : List (Nat × Nat × Nat) :=
  let x := s.hart h
  if x.super || x.run == .free || s.grants.any (fun (_, g) => g.tenant == x.tenant && g.read) then controlPage s h ++ entriesPage x
  else
    (0, 8, x.pc.toNat) ::
      [0x040, 0x041, 0x051, 0x053, 0x054, 0x055, 0x056, 0x057].map (fun i => (0x200 + 8 * i, 8, (cwValue s h i).toNat))

/-- The denial log and count of a die, 8 for CD, in 16-byte units. -/
def dumpLog (s : State) (die : Nat) : List Nat :=
  ((List.range 32).flatMap (fun i =>
    let e := (smGet [] s.denyLog die).getD i 0
    [(e.extractLsb' 0 64).toNat, (e.extractLsb' 64 64).toNat])) ++ [(sat32 (smGet 0 s.denyCount die)).toNat, 0]

/-- The words of sections 2 to 6. DESIGN CHOICE, log 47. -/
def dumpSection (s : State) : Nat → List Nat
  | 2 => (List.range 9).flatMap (dumpLog s)
  | 3 => (List.range 8).flatMap (fun d =>
      (List.range 128).map (fun i => (smGet 0 s.errCount (d * 128 + i)).toNat) ++
      (List.range 32).map (fun c => (s.core c).retired.toNat / 2 ^ (4 * d) % 16))
  | 4 => (List.range 14).flatMap (fun l => (List.range 8).flatMap (fun g =>
      let k := s.link l
      [linkWord k, groupWord (k.group g) s.cycle, (k.group g).laneErr.toNat,
       s.permitWord l false, s.permitWord l true]))
  | 5 => (List.range 64).flatMap (fun i =>
      let e := s.supv.beaconLog.getD i 0
      (List.range 4).map (fun w => (e.extractLsb' (64 * w) 64).toNat)) ++
      [(sat32 s.supv.beaconCount).toNat, 0] ++ (List.range 16).map (fun p => portWord s (BitVec.ofNat 8 (0x80 + p)))
  | 6 => (List.range 4).flatMap (fun n => match smFind s.watch n with
      | some w => [w.pa + w.bmask.toNat * 2 ^ 48, w.kinds.toNat + w.tenant * 2 ^ 8]
      | none => [0, 0]) ++ (List.range 4).map (fun n => (smGet 0 s.watchReg n).toNat)
  | _ => []

/-- The sections that a firmware dump writes: type, words and bytes; a hart's pages stand in section 1. -/
def dumpSizes (s : State) : List (Nat × Nat) := (1, 128 * 8192) :: [2, 3, 4, 5, 6, 7].map (fun t => (t, 8 * (dumpSection s t).length))

/-- Firmware writes the dump, as far as the window reaches. DESIGN CHOICE, log 47. -/
def writeDump (s : State) : State :=
  let sizes := dumpSizes s
  let offs := (List.range 8).map (fun i => 4096 + ((sizes.take i).map (·.2)).sum)
  let total := offs.getD 7 0
  let size := s.boot.dumpsize.toNat
  if size = 0 then s
  else
    let t := s.dumpBytes 0 4096 0
    let t := t.dumpBytes 0 2 1
    let t := t.dumpBytes 2 2 (s.boot.cause.toNat + s.boot.die.toNat * 256)
    let t := t.dumpBytes 4 2 ((if size < total then 2 else 0) + 0xA0 * 256)
    let t := t.dumpBytes 8 8 (Nat.min size total)
    let t := t.dumpBytes 16 64 s.boot.measure.toNat
    let t := t.dumpBytes 80 4 7
    let t := sizes.zipIdx.foldl (fun t (e, i) =>
      t.dumpBytes (128 + 16 * i) 16 (e.1 + e.2 / 16 * 2 ^ 32 + offs.getD i 0 * 2 ^ 64)) t
    let t := (List.range 128).foldl (fun t h =>
      (dumpHart s h).foldl (fun t p => t.dumpBytes (4096 + 8192 * h + p.1) p.2.1 p.2.2)
        (t.dumpBytes (4096 + 8192 * h) 8192 0)) t
    [2, 3, 4, 5, 6].foldl (fun t k => dumpWords (offs.getD (k - 1) 0) (dumpSection s k) t) t

/-- DUMPDONE (R427): firmware has written the dump; the MQ's vector is signalled. -/
def dumpDone (s : State) : State :=
  if !s.boot.fatal || s.boot.dumpdone then s
  else
    let s := writeDump s
    { s with boot := { s.boot with dumpdone := true } }.raiseIrq (s.hq 0).vector.toNat 0

/-! ### The register block that the host sees (12 R380, R407) -/

def State.setBoot (s : State) (b : Boot) : State := { s with boot := b }

/-- A write of a register of DMA window `w` by its word (R407). DEDUCED, log 46. -/
def dmawWrite (w word : Nat) (v : BitVec 64) (s : State) : State :=
  let x := smGet {} s.dmaw w
  let put (x : DmaWin) : State := { s with dmaw := smSet {} s.dmaw w x }
  match word with
  | 0 => if v.toNat % 4096 = 0 then put { x with base := v.toNat } else s
  | 1 => if v.toNat % 4096 = 0 then put { x with size := v.toNat } else s
  | 2 => put { x with
      valid := v.getLsbD 63, write := v.getLsbD 9, read := v.getLsbD 8
      owner := if (v.extractLsb' 0 5).toNat ≤ 16 then v.extractLsb' 0 5 else x.owner }
  | _ => s

/-- A write of a word of the boot page (R407), by its Access code (00 R8 to R10). DEDUCED, log 46. -/
def bootPageWrite (off : Nat) (v : BitVec 64) (s : State) : State :=
  let b := s.boot
  match off with
  | 0x000 => if v.getLsbD 63 then bootRun false s else s
  | 0x008 => if v.extractLsb' 0 8 = 0xA5 then deviceReset s else s
  | 0x010 => if b.bstate = 0 then s.setBoot { b with diedis := v.extractLsb' 0 8 } else s
  | 0x018 =>
    let w := v.extractLsb' 0 12
    if 500 ≤ w.toNat ∧ w.toNat ≤ 3200 then s.setBoot { b with pwrlim := w } else s
  | 0x020 => if b.bstate = 0 ∧ v.toNat % 4096 = 0 then s.setBoot { b with imgsrc := v } else s
  | 0x028 => if b.fatal = false ∧ v.toNat % 4096 = 0 then s.setBoot { b with dumpbase := v } else s
  | 0x030 => if b.fatal = false ∧ v.toNat % 4096 = 0 then s.setBoot { b with dumpsize := v } else s
  | 0x040 => if v.toNat % 4096 = 0 then s.setBoot { b with attaddr := v } else s
  | 0x048 => if v.getLsbD 0 then attest s else s.setBoot { b with attreq := false }
  | _ =>
    if 0x060 ≤ off ∧ off < 0x080 then
      let sh := 8 * (off - 0x060)
      let keep := b.attnonce &&& ~~~((0xFFFFFFFFFFFFFFFF : BitVec 256) <<< sh)
      s.setBoot { b with attnonce := keep ||| (v.setWidth 256 <<< sh) }
    else if 0x100 ≤ off ∧ off < 0x300 then dmawWrite ((off - 0x100) / 0x20) (off % 0x20 / 8) v s
    else s

/-- A write of an 8-byte word of the host's register block: a queue's register, or a word of the boot page.
DEDUCED, log 46. -/
def registerWrite (off : Nat) (v : BitVec 64) (s : State) : State :=
  if off % 8 ≠ 0 then s
  else if 0x8000 ≤ off ∧ off < 0x9000 then bootPageWrite (off - 0x8000) v s
  else match queueReg off with
    | some (q, o) => queueRegWrite q o v s
    | none => s

/-- A bit at a place of a word. -/
def flagAt (b : Bool) (i : Nat) : Nat := if b then 2 ^ i else 0

/-- What a word of the boot page reads (R407). -/
def bootPageRead (off : Nat) (s : State) : Nat :=
  let b := s.boot
  match off with
  | 0x000 => flagAt b.bootgo 63 + b.bfail.toNat * 2 ^ 8 + b.bstate
  | 0x010 => b.diedis.toNat
  | 0x018 => b.pwrlim.toNat
  | 0x020 => b.imgsrc.toNat
  | 0x028 => b.dumpbase.toNat
  | 0x030 => b.dumpsize.toNat
  | 0x038 => flagAt b.fatal 63 + flagAt b.dumpdone 62 + flagAt b.fwdead 61 + b.die.toNat * 2 ^ 8 + b.cause.toNat
  | 0x040 => b.attaddr.toNat
  | 0x048 => flagAt b.attreq 0
  | _ =>
    if 0x060 ≤ off ∧ off < 0x080 then b.attnonce.toNat / 2 ^ (8 * (off - 0x060)) % 2 ^ 64
    else if 0x080 ≤ off ∧ off < 0x0C0 then b.measure.toNat / 2 ^ (8 * (off - 0x080)) % 2 ^ 64
    else if 0x100 ≤ off ∧ off < 0x300 then
      let w := smGet {} s.dmaw ((off - 0x100) / 0x20)
      match off % 0x20 / 8 with
      | 0 => w.base
      | 1 => w.size
      | 2 => flagAt w.valid 63 + flagAt w.write 9 + flagAt w.read 8 + w.owner.toNat
      | _ => 0
    else 0

/-- What a word of a queue's block reads (12 R380). -/
def queueRegRead (q off : Nat) (s : State) : Nat :=
  let x := s.hq q
  match off with
  | 0x00 => x.sqbase.toNat
  | 0x08 => x.cqbase.toNat
  | 0x10 => flagAt x.enable 63 + x.vector.toNat * 2 ^ 32 + x.cqsize * 2 ^ 16 + x.sqsize
  | 0x28 => x.lastAcc.toNat
  | 0x30 => x.lastDone.toNat
  | 0x38 => x.dseq.toNat
  | _ => 0

/-- What the host reads at an 8-aligned offset of the register block. -/
def registerRead (off : Nat) (s : State) : Nat :=
  if 0x8000 ≤ off ∧ off < 0x9000 then bootPageRead (off - 0x8000) s
  else match queueReg off with
    | some (q, o) => queueRegRead q o s
    | none => 0

/-- Firmware launches a supervisor-mode hart on a free hart of a control core (04 R132). DESIGN CHOICE, log 14. -/
def launchSuper (h : Nat) (pc : Word) (tenant : Nat) (s : State) : State :=
  if h < supvHart ∧ (s.hart h).run = .free ∧ s.boot.bstate = 2 then
    s.setHart h { run := .running, super := true, pc := pc &&& ~~~(3 : Word), tenant := tenant % 16 }
  else s

end Sys2Proof.Machine
end

