-- ==== Sys2Proof/Machine/Fetch.lean ====
section
/-!
DEFINITION. What a hart does before an instruction's own meaning: taking a trap from outside, fetching (02 R62, 04 R163), an
emulation call (03 R131, 12 R402), and a portable kernel's body (12 R403); the wait of a BAR (04 R155).
-/

namespace Sys2Proof.Machine

/-! ### Fetching -/

/-- The word at a hart's pc, or why it cannot be fetched. The supervisor core addresses physical memory (13 R405). -/
def fetchWord (h : Nat) (s : State) : Except AccErr (BitVec 32) × State :=
  let pc := (s.hart h).pc
  let r := if h = supvHart then
      match physRead { supvAgent with owner := .hart h pc } pc.toNat 4 .fetch s with
      | (.error e, s) => (.error e, physErr s e)
      | r => r
    else loadVirt (s.coreAgent h) true pc 4 .fetch s
  match r with
  | (.ok v, s) => (.ok (BitVec.ofNat 32 v), s)
  | (.error e, s) => (.error e, s)

/-! ### Traps from outside (04 R163) -/

/-- TRAP_ENTRY: the oldest trap from outside is taken. DESIGN CHOICE, log 22. -/
def takeOutside (h : Nat) (s : State) : State :=
  let x := s.hart h
  match x.pending with
  | t :: rest => if x.run = .running then s.setHart h (takeTrap { x with pending := rest } t.vec t.qsn x.pc t.info) else s
  | [] => s

/-! ### The end of a BAR's wait (04 R155) -/

/-- Whether a word is a BAR, with the number of its address register. -/
def barRegister (w : BitVec 32) : Option Nat :=
  if wfld w 26 6 = 0x13 ∧ wfld w 0 4 = 9 ∧ wfld w 21 5 = 0 then some (wfld w 16 5) else none

/-- BAR_WAIT_END: the BAR that a hart waits in goes on, if the generation has changed. -/
def barEnds (h : Nat) (s : State) : State :=
  let x := s.hart h
  match x.bar with
  | none => s
  | some (a, g) =>
    match fetchWord h s with
    | (.error _, _) => s
    | (.ok w, s') =>
      if x.run = .running ∧ (barRegister w).map x.s = some a then
        match runM (do barWait a g; updMeM Hart.adv) { s' with cur := h } with
        | (.ok (), s'') => { s'' with cur := s.cur }
        | (.error _, _) => s
      else s

/-! ### Emulation calls (03 R131, 12 R402) -/

/-- The word whose routine stands at a hart's pc, when the fetched word is the one that the loader put there.
DESIGN CHOICE, log 15. -/
def emulated (s : State) (w : BitVec 32) : Option (BitVec 32) :=
  match smFind s.emu (s.me.tenant * 2 ^ 64 + s.me.pc.toNat) with
  | some v => if v = w then some v else none
  | none => none

/-- R97 steps 3 and 6, on a device that leaves nothing out: the reason for which a word of an assigned major is ILLEGAL, if it is. -/
noncomputable def wordFault (w : BitVec 32) : Option Nat :=
  match (decodeRow w).join with
  | none => some 2
  | some r => if r.zero && r.instr.zeroOk then none else some 3

/-- A routine's effect in one step: what the word it stands for does, as if at the address of the call, from which the hart
goes on; a word with no function, or with bits set that are zero, VFERF's and those of the scalar FDIV and FSQRT included, is ILLEGAL, as
on a device that leaves nothing out (05 R181, R182). It reads and writes nothing of the scratch at EMUBASE, of which the spec says that a
routine uses it and not how, and no access of that scratch faults. DESIGN CHOICE, log 15. -/
noncomputable def emulate (w : BitVec 32) (s : State) : Out :=
  let s := s.updMe (fun x => { x with pc := x.s 29 - 4 })
  let r (lo : Nat) : BitVec 5 := BitVec.ofNat 5 (wfld w lo 5)
  match wordFault w with
  | some reason => .next (s.trapHere (illegal w reason))
  | none =>
    if wfld w 26 6 = 0x03 then
      if wfld w 0 6 = 0x23 then fdivDEffect (r 21) (r 16) (r 11) s else fsqrtDEffect (r 21) (r 16) s
    else match qopOfWord w 0 0 with
      | some op => issue op w 0 0 0 none [] s
      | none => .next (s.trapHere (illegal w 2))

/-! ### Portable kernels (12 R403) -/

/-- The word after the one that has issued. DEDUCED, log 42. -/
def Portable.after (p : Portable) : Portable :=
  if p.word + 1 < p.body.length then { p with word := p.word + 1 } else { p with word := 0, elem := p.elem + 1 }

/-- A step of a portable kernel: the next word of the body for the next element issues; after the last the hart halts, once its
entries have completed. DEDUCED, log 42. -/
def portableStep (p : Portable) (s : State) : Out :=
  if p.elem < p.count then
    let w := p.body.getD p.word 0
    let s := s.updMe (fun x => { x with pc := p.base + BitVec.ofNat 64 (4 * p.word), vl := 1 })
    let x := s.me
    match qopOfWord w (x.s (wfld w 16 5)) (x.s (wfld w 11 5)) with
    | none => .next (haltHart s.cur s)
    | some op =>
      match issue op w (wfld w 21 5) (wfld w 16 5) (wfld w 11 5) none [] s with
      | .next t =>
        .next (if t.me.nextUid = x.nextUid then t else t.updMe (fun y => { y with portable := some p.after }))
      | r => r
  else if s.me.queue.any (·.open) then .next s
  else .next (haltHart s.cur s)

end Sys2Proof.Machine
end

