-- ==== Sys2Proof/Machine/Events.lean ====
section
/-!
DEFINITION. The events and host commands of the opcode table: what a move that no hart's instruction makes does to the machine.
A frozen device takes none but resets, register writes and the end of its dump (13 R427).
-/

namespace Sys2Proof.Machine

/-- A move of a device that is not frozen. DESIGN CHOICE, log 52. -/
def ifLive (f : State → State) (s : State) : State := if s.boot.fatal then s else f s

/-- A move of a link that exists. DESIGN CHOICE, log 52. -/
def onLink (l : Nat) (f : Nat → State → State) (s : State) : State := if l < 14 then f l s else s

/-- A move of a host queue that exists. DESIGN CHOICE, log 52. -/
def onQueue (q : Nat) (f : Nat → State → State) (s : State) : State := if queueExists q then f q s else s

/-- ENTRY_COMPLETE (04 R158): the oldest open entry of a hart is worked on, though the schedule holds the hart back. -/
def completeOldest (h : Nat) (s : State) : State :=
  let x := s.hart h
  match x.queue.find? (·.open) with
  | some e => if x.run == .running && x.mayRun e then runEntry h e.uid s else s
  | none => s

/-- YIELD_EXPIRY (04 R153): the 16 cycles are over. -/
def yieldEnds (h : Nat) (s : State) : State :=
  { s with cycle := Nat.max s.cycle (s.hart h).yield }.updHart h (fun x => { x with yield := 0 })

/-- RESETKEY (13 R407, R425). -/
def resetKey (v : BitVec 64) (s : State) : State := if v.extractLsb' 0 8 = 0xA5 then deviceReset s else s

/-- FATALREQ (13 R406, R426). -/
def State.fatalRequest (s : State) : State := s.fatalFreeze 6 8

/-- SVNFUSE (13 R406). -/
def blowFuses (v : BitVec 64) (s : State) : State := (s.supvWrite 0x2000018 v (BitVec.allOnes 64)).getD s

/-- CLUSTER_RETIRE (01 R32, 05 R208). -/
def retireAt (core die cluster : Nat) (s : State) : State :=
  if core < 32 ∧ die < 8 ∧ cluster < 4 then s.retireCluster core die cluster else s

/-- OWNER_ENTRY_WRITE (13 R415). -/
def ownerWriteAt (entry : Nat) (v : BitVec 8) (s : State) : State := if entry < 0x80000 then s.writeOwner entry v else s

/-- JUNCTION_HOT (13 R412), of a lane die or of CD, 8. -/
def hotDie (die : Nat) (s : State) : State := if die = 8 || s.dieOn die then lowerClock s else s

/-- THERMAL (13 R412, R426). -/
def thermalAt (die : Nat) (s : State) : State := if die ≤ 8 then s.fatalFreeze 4 die else s

/-- CD_MEMORY (13 R426). -/
def State.memoryError (s : State) : State := s.fatalFreeze 2 8

/-- TRAP_ENTRY (R160). -/
def execTrapEntry (hart : Nat) (s : State) : Out := .next (ifLive (takeOutside hart) s)

/-- ENTRY_COMPLETE (R158). -/
def execEntryComplete (hart : Nat) (s : State) : Out := .next (ifLive (completeOldest hart) s)

/-- BAR_WAIT_END (R155). -/
def execBarWaitEnd (hart : Nat) (s : State) : Out := .next (ifLive (barEnds hart) s)

/-- YIELD_EXPIRY (R153). -/
def execYieldExpiry (hart : Nat) (s : State) : Out := .next (ifLive (yieldEnds hart) s)

/-- STREAM_FETCH (R223). -/
def execStreamFetch (hart q pos : Nat) (s : State) : Out := .next (ifLive (streamFetch hart q pos) s)

/-- STREAM_STORE_WRITE (R229). -/
def execStreamStoreWrite (hart q pos : Nat) (s : State) : Out := .next (ifLive (streamStoreWrite hart q pos false) s)

/-- SGATHER_ROW (R244). -/
def execSgatherRow (hart q engine : Nat) (s : State) : Out := .next (ifLive (sgatherRow hart q engine) s)

/-- COPY_CHUNK (R252). -/
def execCopyChunk (hart uid pos engine : Nat) (s : State) : Out := .next (ifLive (copyChunk hart uid pos engine) s)

/-- DRIVE_REQUEST (R318). -/
def execDriveRequest (port : Nat) (rid : BitVec 16) (addr : BitVec 64) (write : Bool) (len : Nat) (data : List (BitVec 8)) (s : State) : Out :=
  .next (ifLive (driveServe port rid addr write len data) s)

/-- PAIR_ERROR (R333). -/
def execPairError (handle : Nat) (s : State) : Out := .next (ifLive (pairFails handle) s)

/-- TURN_BEGIN (R339). -/
def execTurnBegin (link : Nat) (s : State) : Out := .next (ifLive (onLink link turnBegin) s)

/-- AUTO_TURN (R340). -/
def execAutoTurn (link : Nat) (toB : Bool) (s : State) : Out :=
  .next (ifLive (onLink link (fun l => Sys2Proof.Machine.autoTurn l toB)) s)

/-- TURN_DRAIN_END (R338). -/
def execTurnDrainEnd (link : Nat) (s : State) : Out := .next (ifLive (onLink link turnDrainEnd) s)

/-- TURN_DEAD_TIME_END (R338). -/
def execTurnDeadTimeEnd (link : Nat) (s : State) : Out := .next (ifLive (onLink link turnDeadTimeEnd) s)

/-- LINK_PAUSED (R354). -/
def execLinkPaused (link : Nat) (s : State) : Out := .next (ifLive (onLink link linkPaused) s)

/-- LTRAIN_DONE (R357). -/
def execLtrainDone (link : Nat) (failed : BitVec 8) (badSpares : BitVec 32) (s : State) : Out :=
  .next (ifLive (onLink link (fun l => Sys2Proof.Machine.ltrainDone l failed badSpares)) s)

/-- FLIT_REPLAY (R345). -/
def execFlitReplay (link group lane : Nat) (again : Bool) (s : State) : Out :=
  .next (ifLive (onLink link (fun l => Sys2Proof.Machine.flitReplay l group lane again)) s)

/-- PUT (R365). -/
def execPut (port : Nat) (pkt : Packet) (s : State) : Out := .next (ifLive (packetArrives 1 port pkt) s)

/-- GETREQ (R365). -/
def execGetreq (port : Nat) (pkt : Packet) (s : State) : Out := .next (ifLive (packetArrives 2 port pkt) s)

/-- ATOM (R366). -/
def execAtom (port : Nat) (pkt : Packet) (s : State) : Out := .next (ifLive (packetArrives 3 port pkt) s)

/-- NOTIFY (R367). -/
def execNotify (port : Nat) (pkt : Packet) (s : State) : Out := .next (ifLive (packetArrives 4 port pkt) s)

/-- ACK (R365). -/
def execAck (port : Nat) (pkt : Packet) (s : State) : Out := .next (ifLive (packetArrives 8 port pkt) s)

/-- GETDATA (R365). -/
def execGetdata (port : Nat) (pkt : Packet) (s : State) : Out := .next (ifLive (packetArrives 9 port pkt) s)

/-- ATOMRSP (R366). -/
def execAtomrsp (port : Nat) (pkt : Packet) (s : State) : Out := .next (ifLive (packetArrives 10 port pkt) s)

/-- BELL (R376). -/
def execBell (port vc : Nat) (gpn : BitVec 12) (s : State) : Out := .next (ifLive (bellArrives port vc gpn) s)

/-- RBELL (R379). -/
def execRbell (port vc : Nat) (gpn : BitVec 12) (s : State) : Out := .next (ifLive (rbellArrives port vc gpn) s)

/-- BEACON_FLIT_REPLAY (R359). -/
def execBeaconFlitReplay (port : Nat) (again : Bool) (s : State) : Out := .next (ifLive (beaconFlitReplay port again) s)

/-- PORT_UP (R362). -/
def execPortUp (port : Nat) (s : State) : Out := .next (ifLive (portUp port) s)

/-- LAUNCH_BIND (R391). -/
def execLaunchBind (slot : Nat) (s : State) : Out := .next (ifLive (launchBind slot) s)

/-- PRE_EMPTION (R397). -/
def execPreEmption (slot : Nat) (s : State) : Out := .next (ifLive (preEmption slot) s)

/-- CONTEXT_SAVE (R401). -/
def execContextSave (slot : Nat) (s : State) : Out := .next (ifLive (contextSave slot) s)

/-- COMPLETION_ENTRY_WRITE (R382). -/
def execCompletionEntryWrite (queue : Nat) (s : State) : Out := .next (ifLive (onQueue queue writeCompletion) s)

/-- SQTAIL (R382). -/
def execSqtail (queue : Nat) (value : BitVec 64) (s : State) : Out :=
  .next (ifLive (onQueue queue (fun q => sqtailBell q value)) s)

/-- CQHEAD (R382). -/
def execCqhead (queue : Nat) (value : BitVec 64) (s : State) : Out :=
  .next (ifLive (onQueue queue (fun q => cqheadBell q value)) s)

/-- ENABLE (R380), which a frozen device takes too: it ignores doorbells alone (13 R427). -/
def execEnable (queue : Nat) (value : BitVec 64) (s : State) : Out :=
  .next (onQueue queue (fun q => enableWrite q value) s)

/-- TENANT_CREATE (R386). -/
def execTenantCreate (cmd : HostCmd) (s : State) : Out := .next (hostCommand (fun c => c.opcode == 0x01) cmd s)

/-- TENANT_RESET (R388). -/
def execTenantReset (cmd : HostCmd) (s : State) : Out := .next (hostCommand (fun c => c.opcode == 0x02) cmd s)

/-- TENANT_DELETE (R383). -/
def execTenantDelete (cmd : HostCmd) (s : State) : Out := .next (hostCommand (fun c => c.opcode == 0x03) cmd s)

/-- OWNER_SET (R415). -/
def execOwnerSet (cmd : HostCmd) (s : State) : Out := .next (hostCommand (fun c => c.opcode == 0x04) cmd s)

/-- PAIR_CREATE (R316). -/
def execPairCreate (cmd : HostCmd) (s : State) : Out := .next (hostCommand (fun c => c.opcode == 0x05) cmd s)

/-- PAIR_DELETE (R383). -/
def execPairDelete (cmd : HostCmd) (s : State) : Out := .next (hostCommand (fun c => c.opcode == 0x06) cmd s)

/-- REGION_CREATE (R268). -/
def execRegionCreate (cmd : HostCmd) (s : State) : Out := .next (hostCommand (fun c => c.opcode == 0x07) cmd s)

/-- REGION_DELETE (R383). -/
def execRegionDelete (cmd : HostCmd) (s : State) : Out := .next (hostCommand (fun c => c.opcode == 0x08) cmd s)

/-- GANG_CREATE (R361). -/
def execGangCreate (cmd : HostCmd) (s : State) : Out := .next (hostCommand (fun c => c.opcode == 0x09) cmd s)

/-- GANG_DELETE (R375). -/
def execGangDelete (cmd : HostCmd) (s : State) : Out := .next (hostCommand (fun c => c.opcode == 0x0A) cmd s)

/-- GANG_SWITCH_SAVE (R376). -/
def execGangSwitchSave (cmd : HostCmd) (s : State) : Out :=
  .next (hostCommand (fun c => c.opcode == 0x0B && blkField c.block 16 1 != 2) cmd s)

/-- GANG_SWITCH_RESUME (R379). -/
def execGangSwitchResume (cmd : HostCmd) (s : State) : Out :=
  .next (hostCommand (fun c => c.opcode == 0x0B && blkField c.block 16 1 == 2) cmd s)

/-- LAUNCH_SUSPEND (R396). -/
def execLaunchSuspend (cmd : HostCmd) (s : State) : Out := .next (hostCommand (fun c => c.opcode == 0x0C) cmd s)

/-- LAUNCH_RESUME (R398). -/
def execLaunchResume (cmd : HostCmd) (s : State) : Out := .next (hostCommand (fun c => c.opcode == 0x0D) cmd s)

/-- DEBUG_GRANT (R416). -/
def execDebugGrant (cmd : HostCmd) (s : State) : Out := .next (hostCommand (fun c => c.opcode == 0x0E) cmd s)

/-- LAUNCH (R389). -/
def execLaunch (cmd : HostCmd) (s : State) : Out := .next (hostCommand (fun c => c.opcode == 0x20) cmd s)

/-- INVALIDATE (R61). -/
def execInvalidate (cmd : HostCmd) (s : State) : Out := .next (hostCommand (fun c => c.opcode == 0x21) cmd s)

/-- FAULT_REPLY_RETRY (R66). -/
def execFaultReplyRetry (cmd : HostCmd) (s : State) : Out :=
  .next (hostCommand (fun c => c.opcode == 0x22 && blkField c.block 24 1 != 2) cmd s)

/-- FAULT_REPLY_ABORT (R66). -/
def execFaultReplyAbort (cmd : HostCmd) (s : State) : Out :=
  .next (hostCommand (fun c => c.opcode == 0x22 && blkField c.block 24 1 == 2) cmd s)

/-- NOP (R383). -/
def execNop (cmd : HostCmd) (s : State) : Out := .next (hostCommand (fun c => c.opcode == 0x23) cmd s)

/-- BOOTGO (R409). -/
def execBootgo (readError : Bool) (s : State) : Out := .next (bootRun readError s)

/-- RESETKEY (R425). -/
def execResetkey (value : BitVec 64) (s : State) : Out := .next (resetKey value s)

/-- POWER_ON (R425). -/
def execPowerOn (s : State) : Out := .next (deviceReset s)

/-- ATTREQ (R410). -/
def execAttreq (s : State) : Out := .next (attest s)

/-- FATALREQ (R406). -/
def execFatalreq (s : State) : Out := .next (State.fatalRequest s)

/-- SVNFUSE (R406). -/
def execSvnfuse (value : BitVec 64) (s : State) : Out := .next (ifLive (blowFuses value) s)

/-- CLUSTER_RETIRE (R208). -/
def execClusterRetire (core die cluster : Nat) (s : State) : Out := .next (ifLive (retireAt core die cluster) s)

/-- OWNER_ENTRY_WRITE (R415). -/
def execOwnerEntryWrite (entry : Nat) (value : BitVec 8) (s : State) : Out := .next (ifLive (ownerWriteAt entry value) s)

/-- REGISTER_WRITE (R8). -/
def execRegisterWrite (offset : Nat) (value : BitVec 64) (s : State) : Out :=
  .next (Sys2Proof.Machine.registerWrite offset value s)

/-- POWER_CLAMP_WINDOW (R412). -/
def execPowerClampWindow (watts : Nat) (s : State) : Out := .next (ifLive (powerWindow watts) s)

/-- JUNCTION_HOT (R412). -/
def execJunctionHot (die : Nat) (s : State) : Out := .next (ifLive (hotDie die) s)

/-- THERMAL (R426). -/
def execThermal (die : Nat) (s : State) : Out := .next (thermalAt die s)

/-- CD_MEMORY (R426). -/
def execCdMemory (s : State) : Out := .next (State.memoryError s)

/-- DUMPDONE (R427). -/
def execDumpdone (s : State) : Out := .next (dumpDone s)

end Sys2Proof.Machine
end

