-- ==== Sys2Proof/Machine/Dispatch.lean ====
section
/-!
DEFINITION. The meaning of every instruction: one arm for each constructor, each a direct call.
-/

namespace Sys2Proof.Machine

/-- What an instruction does, when the hart whose turn it is runs it, or the device when it is an event or a command. -/
def exec (i : Instr) (s : State) : Host.Outcome State Fault Refusal :=
  match i with
  | .add rd ra rb => Sys2Proof.Machine.execAdd rd ra rb s
  | .sub rd ra rb => Sys2Proof.Machine.execSub rd ra rb s
  | .and rd ra rb => Sys2Proof.Machine.execAnd rd ra rb s
  | .or rd ra rb => Sys2Proof.Machine.execOr rd ra rb s
  | .xor rd ra rb => Sys2Proof.Machine.execXor rd ra rb s
  | .andn rd ra rb => Sys2Proof.Machine.execAndn rd ra rb s
  | .orn rd ra rb => Sys2Proof.Machine.execOrn rd ra rb s
  | .xnor rd ra rb => Sys2Proof.Machine.execXnor rd ra rb s
  | .sll rd ra rb => Sys2Proof.Machine.execSll rd ra rb s
  | .srl rd ra rb => Sys2Proof.Machine.execSrl rd ra rb s
  | .sra rd ra rb => Sys2Proof.Machine.execSra rd ra rb s
  | .rol rd ra rb => Sys2Proof.Machine.execRol rd ra rb s
  | .ror rd ra rb => Sys2Proof.Machine.execRor rd ra rb s
  | .slt rd ra rb => Sys2Proof.Machine.execSlt rd ra rb s
  | .sltu rd ra rb => Sys2Proof.Machine.execSltu rd ra rb s
  | .mul rd ra rb => Sys2Proof.Machine.execMul rd ra rb s
  | .mulh rd ra rb => Sys2Proof.Machine.execMulh rd ra rb s
  | .mulhu rd ra rb => Sys2Proof.Machine.execMulhu rd ra rb s
  | .mulhsu rd ra rb => Sys2Proof.Machine.execMulhsu rd ra rb s
  | .div rd ra rb => Sys2Proof.Machine.execDiv rd ra rb s
  | .divu rd ra rb => Sys2Proof.Machine.execDivu rd ra rb s
  | .rem rd ra rb => Sys2Proof.Machine.execRem rd ra rb s
  | .remu rd ra rb => Sys2Proof.Machine.execRemu rd ra rb s
  | .min rd ra rb => Sys2Proof.Machine.execMin rd ra rb s
  | .max rd ra rb => Sys2Proof.Machine.execMax rd ra rb s
  | .minu rd ra rb => Sys2Proof.Machine.execMinu rd ra rb s
  | .maxu rd ra rb => Sys2Proof.Machine.execMaxu rd ra rb s
  | .clz rd ra => Sys2Proof.Machine.execClz rd ra s
  | .ctz rd ra => Sys2Proof.Machine.execCtz rd ra s
  | .popc rd ra => Sys2Proof.Machine.execPopc rd ra s
  | .rev8 rd ra => Sys2Proof.Machine.execRev8 rd ra s
  | .slli rd ra sh => Sys2Proof.Machine.execSlli rd ra sh s
  | .srli rd ra sh => Sys2Proof.Machine.execSrli rd ra sh s
  | .srai rd ra sh => Sys2Proof.Machine.execSrai rd ra sh s
  | .rori rd ra sh => Sys2Proof.Machine.execRori rd ra sh s
  | .sextb rd ra => Sys2Proof.Machine.execSextb rd ra s
  | .sexth rd ra => Sys2Proof.Machine.execSexth rd ra s
  | .sextw rd ra => Sys2Proof.Machine.execSextw rd ra s
  | .zextw rd ra => Sys2Proof.Machine.execZextw rd ra s
  | .selz rd ra rb rc => Sys2Proof.Machine.execSelz rd ra rb rc s
  | .selnz rd ra rb rc => Sys2Proof.Machine.execSelnz rd ra rb rc s
  | .fsl rd ra rb rc => Sys2Proof.Machine.execFsl rd ra rb rc s
  | .fsr rd ra rb rc => Sys2Proof.Machine.execFsr rd ra rb rc s
  | .bfx rd ra rb rc => Sys2Proof.Machine.execBfx rd ra rb rc s
  | .bfxs rd ra rb rc => Sys2Proof.Machine.execBfxs rd ra rb rc s
  | .bfi rd ra rb rc => Sys2Proof.Machine.execBfi rd ra rb rc s
  | .bdep rd ra rb => Sys2Proof.Machine.execBdep rd ra rb s
  | .bcmpr rd ra rb => Sys2Proof.Machine.execBcmpr rd ra rb s
  | .brev rd ra => Sys2Proof.Machine.execBrev rd ra s
  | .faddS rd ra rb => Sys2Proof.Machine.execFaddS rd ra rb s
  | .fsubS rd ra rb => Sys2Proof.Machine.execFsubS rd ra rb s
  | .fmulS rd ra rb => Sys2Proof.Machine.execFmulS rd ra rb s
  | .fdivS rd ra rb => Sys2Proof.Machine.execFdivS rd ra rb s
  | .fsqrtS rd ra => Sys2Proof.Machine.execFsqrtS rd ra s
  | .fminS rd ra rb => Sys2Proof.Machine.execFminS rd ra rb s
  | .fmaxS rd ra rb => Sys2Proof.Machine.execFmaxS rd ra rb s
  | .fmaS rd ra rb rc => Sys2Proof.Machine.execFmaS rd ra rb rc s
  | .fnmaS rd ra rb rc => Sys2Proof.Machine.execFnmaS rd ra rb rc s
  | .fcsignS rd ra rb => Sys2Proof.Machine.execFcsignS rd ra rb s
  | .fnsignS rd ra rb => Sys2Proof.Machine.execFnsignS rd ra rb s
  | .fxsignS rd ra rb => Sys2Proof.Machine.execFxsignS rd ra rb s
  | .feqS rd ra rb => Sys2Proof.Machine.execFeqS rd ra rb s
  | .fltS rd ra rb => Sys2Proof.Machine.execFltS rd ra rb s
  | .fleS rd ra rb => Sys2Proof.Machine.execFleS rd ra rb s
  | .fkindS rd ra => Sys2Proof.Machine.execFkindS rd ra s
  | .ftoiS rd ra => Sys2Proof.Machine.execFtoiS rd ra s
  | .ftoiuS rd ra => Sys2Proof.Machine.execFtoiuS rd ra s
  | .itofS rd ra => Sys2Proof.Machine.execItofS rd ra s
  | .utofS rd ra => Sys2Proof.Machine.execUtofS rd ra s
  | .ftohS rd ra => Sys2Proof.Machine.execFtohS rd ra s
  | .ftobS rd ra => Sys2Proof.Machine.execFtobS rd ra s
  | .htofS rd ra => Sys2Proof.Machine.execHtofS rd ra s
  | .btofS rd ra => Sys2Proof.Machine.execBtofS rd ra s
  | .fcvtxS rd ra => Sys2Proof.Machine.execFcvtxS rd ra s
  | .faddD rd ra rb => Sys2Proof.Machine.execFaddD rd ra rb s
  | .fsubD rd ra rb => Sys2Proof.Machine.execFsubD rd ra rb s
  | .fmulD rd ra rb => Sys2Proof.Machine.execFmulD rd ra rb s
  | .fdivD rd ra rb => Sys2Proof.Machine.execFdivD rd ra rb s
  | .fsqrtD rd ra => Sys2Proof.Machine.execFsqrtD rd ra s
  | .fminD rd ra rb => Sys2Proof.Machine.execFminD rd ra rb s
  | .fmaxD rd ra rb => Sys2Proof.Machine.execFmaxD rd ra rb s
  | .fmaD rd ra rb rc => Sys2Proof.Machine.execFmaD rd ra rb rc s
  | .fnmaD rd ra rb rc => Sys2Proof.Machine.execFnmaD rd ra rb rc s
  | .fcsignD rd ra rb => Sys2Proof.Machine.execFcsignD rd ra rb s
  | .fnsignD rd ra rb => Sys2Proof.Machine.execFnsignD rd ra rb s
  | .fxsignD rd ra rb => Sys2Proof.Machine.execFxsignD rd ra rb s
  | .feqD rd ra rb => Sys2Proof.Machine.execFeqD rd ra rb s
  | .fltD rd ra rb => Sys2Proof.Machine.execFltD rd ra rb s
  | .fleD rd ra rb => Sys2Proof.Machine.execFleD rd ra rb s
  | .fkindD rd ra => Sys2Proof.Machine.execFkindD rd ra s
  | .ftoiD rd ra => Sys2Proof.Machine.execFtoiD rd ra s
  | .ftoiuD rd ra => Sys2Proof.Machine.execFtoiuD rd ra s
  | .itofD rd ra => Sys2Proof.Machine.execItofD rd ra s
  | .utofD rd ra => Sys2Proof.Machine.execUtofD rd ra s
  | .ftohD rd ra => Sys2Proof.Machine.execFtohD rd ra s
  | .ftobD rd ra => Sys2Proof.Machine.execFtobD rd ra s
  | .htofD rd ra => Sys2Proof.Machine.execHtofD rd ra s
  | .btofD rd ra => Sys2Proof.Machine.execBtofD rd ra s
  | .fcvtxD rd ra => Sys2Proof.Machine.execFcvtxD rd ra s
  | .addi rd ra imm => Sys2Proof.Machine.execAddi rd ra imm s
  | .andi rd ra imm => Sys2Proof.Machine.execAndi rd ra imm s
  | .ori rd ra imm => Sys2Proof.Machine.execOri rd ra imm s
  | .xori rd ra imm => Sys2Proof.Machine.execXori rd ra imm s
  | .slti rd ra imm => Sys2Proof.Machine.execSlti rd ra imm s
  | .sltiu rd ra imm => Sys2Proof.Machine.execSltiu rd ra imm s
  | .lui rd imm => Sys2Proof.Machine.execLui rd imm s
  | .addhi rd ra imm => Sys2Proof.Machine.execAddhi rd ra imm s
  | .ldb rd ra off => Sys2Proof.Machine.execLdb rd ra off s
  | .ldh rd ra off => Sys2Proof.Machine.execLdh rd ra off s
  | .ldw rd ra off => Sys2Proof.Machine.execLdw rd ra off s
  | .ldd rd ra off => Sys2Proof.Machine.execLdd rd ra off s
  | .ldbu rd ra off => Sys2Proof.Machine.execLdbu rd ra off s
  | .ldhu rd ra off => Sys2Proof.Machine.execLdhu rd ra off s
  | .ldwu rd ra off => Sys2Proof.Machine.execLdwu rd ra off s
  | .stb rd ra off => Sys2Proof.Machine.execStb rd ra off s
  | .sth rd ra off => Sys2Proof.Machine.execSth rd ra off s
  | .stw rd ra off => Sys2Proof.Machine.execStw rd ra off s
  | .std rd ra off => Sys2Proof.Machine.execStd rd ra off s
  | .rmswap rd ra rb sc aq rl w => Sys2Proof.Machine.execRmswap rd ra rb sc aq rl w s
  | .rmadd rd ra rb sc aq rl w => Sys2Proof.Machine.execRmadd rd ra rb sc aq rl w s
  | .rmand rd ra rb sc aq rl w => Sys2Proof.Machine.execRmand rd ra rb sc aq rl w s
  | .rmor rd ra rb sc aq rl w => Sys2Proof.Machine.execRmor rd ra rb sc aq rl w s
  | .rmxor rd ra rb sc aq rl w => Sys2Proof.Machine.execRmxor rd ra rb sc aq rl w s
  | .rmmin rd ra rb sc aq rl w => Sys2Proof.Machine.execRmmin rd ra rb sc aq rl w s
  | .rmmax rd ra rb sc aq rl w => Sys2Proof.Machine.execRmmax rd ra rb sc aq rl w s
  | .rmminu rd ra rb sc aq rl w => Sys2Proof.Machine.execRmminu rd ra rb sc aq rl w s
  | .rmmaxu rd ra rb sc aq rl w => Sys2Proof.Machine.execRmmaxu rd ra rb sc aq rl w s
  | .cas rd ra rb sc aq rl w => Sys2Proof.Machine.execCas rd ra rb sc aq rl w s
  | .lda rd ra sc w => Sys2Proof.Machine.execLda rd ra sc w s
  | .stl ra rb sc w => Sys2Proof.Machine.execStl ra rb sc w s
  | .claim rd ra rb sc aq rl => Sys2Proof.Machine.execClaim rd ra rb sc aq rl s
  | .jalr rd ra imm => Sys2Proof.Machine.execJalr rd ra imm s
  | .beq ra rb off => Sys2Proof.Machine.execBeq ra rb off s
  | .bne ra rb off => Sys2Proof.Machine.execBne ra rb off s
  | .blt ra rb off => Sys2Proof.Machine.execBlt ra rb off s
  | .bge ra rb off => Sys2Proof.Machine.execBge ra rb off s
  | .bltu ra rb off => Sys2Proof.Machine.execBltu ra rb off s
  | .bgeu ra rb off => Sys2Proof.Machine.execBgeu ra rb off s
  | .jal rd off => Sys2Proof.Machine.execJal rd off s
  | .loopv rc rp np esh off => Sys2Proof.Machine.execLoopv rc rp np esh off s
  | .cwread rd cw => Sys2Proof.Machine.execCwread rd cw s
  | .cwwrite ra cw => Sys2Proof.Machine.execCwwrite ra cw s
  | .cwset ra cw => Sys2Proof.Machine.execCwset ra cw s
  | .cwclr ra cw => Sys2Proof.Machine.execCwclr ra cw s
  | .trap n => Sys2Proof.Machine.execTrap n s
  | .brk n => Sys2Proof.Machine.execBrk n s
  | .rett => Sys2Proof.Machine.execRett s
  | .yield => Sys2Proof.Machine.execYield s
  | .halt => Sys2Proof.Machine.execHalt s
  | .bar ra n => Sys2Proof.Machine.execBar ra n s
  | .fence ps qs sc => Sys2Proof.Machine.execFence ps qs sc s
  | .vadd vd va vb m ms ds => Sys2Proof.Machine.execVadd vd va vb m ms ds s
  | .vsub vd va vb m ms ds => Sys2Proof.Machine.execVsub vd va vb m ms ds s
  | .vsubr vd va vb m ms ds => Sys2Proof.Machine.execVsubr vd va vb m ms ds s
  | .vmul vd va vb m ms ds => Sys2Proof.Machine.execVmul vd va vb m ms ds s
  | .vmulh vd va vb m ms ds => Sys2Proof.Machine.execVmulh vd va vb m ms ds s
  | .vmulhu vd va vb m ms ds => Sys2Proof.Machine.execVmulhu vd va vb m ms ds s
  | .vmin vd va vb m ms ds => Sys2Proof.Machine.execVmin vd va vb m ms ds s
  | .vmax vd va vb m ms ds => Sys2Proof.Machine.execVmax vd va vb m ms ds s
  | .vminu vd va vb m ms ds => Sys2Proof.Machine.execVminu vd va vb m ms ds s
  | .vmaxu vd va vb m ms ds => Sys2Proof.Machine.execVmaxu vd va vb m ms ds s
  | .vand vd va vb m ms ds => Sys2Proof.Machine.execVand vd va vb m ms ds s
  | .vor vd va vb m ms ds => Sys2Proof.Machine.execVor vd va vb m ms ds s
  | .vxor vd va vb m ms ds => Sys2Proof.Machine.execVxor vd va vb m ms ds s
  | .vsll vd va vb m ms ds => Sys2Proof.Machine.execVsll vd va vb m ms ds s
  | .vsrl vd va vb m ms ds => Sys2Proof.Machine.execVsrl vd va vb m ms ds s
  | .vsra vd va vb m ms ds => Sys2Proof.Machine.execVsra vd va vb m ms ds s
  | .vaddVs vd va vb m ms ds => Sys2Proof.Machine.execVaddVs vd va vb m ms ds s
  | .vsubVs vd va vb m ms ds => Sys2Proof.Machine.execVsubVs vd va vb m ms ds s
  | .vsubrVs vd va vb m ms ds => Sys2Proof.Machine.execVsubrVs vd va vb m ms ds s
  | .vmulVs vd va vb m ms ds => Sys2Proof.Machine.execVmulVs vd va vb m ms ds s
  | .vmulhVs vd va vb m ms ds => Sys2Proof.Machine.execVmulhVs vd va vb m ms ds s
  | .vmulhuVs vd va vb m ms ds => Sys2Proof.Machine.execVmulhuVs vd va vb m ms ds s
  | .vminVs vd va vb m ms ds => Sys2Proof.Machine.execVminVs vd va vb m ms ds s
  | .vmaxVs vd va vb m ms ds => Sys2Proof.Machine.execVmaxVs vd va vb m ms ds s
  | .vminuVs vd va vb m ms ds => Sys2Proof.Machine.execVminuVs vd va vb m ms ds s
  | .vmaxuVs vd va vb m ms ds => Sys2Proof.Machine.execVmaxuVs vd va vb m ms ds s
  | .vandVs vd va vb m ms ds => Sys2Proof.Machine.execVandVs vd va vb m ms ds s
  | .vorVs vd va vb m ms ds => Sys2Proof.Machine.execVorVs vd va vb m ms ds s
  | .vxorVs vd va vb m ms ds => Sys2Proof.Machine.execVxorVs vd va vb m ms ds s
  | .vsllVs vd va vb m ms ds => Sys2Proof.Machine.execVsllVs vd va vb m ms ds s
  | .vsrlVs vd va vb m ms ds => Sys2Proof.Machine.execVsrlVs vd va vb m ms ds s
  | .vsraVs vd va vb m ms ds => Sys2Proof.Machine.execVsraVs vd va vb m ms ds s
  | .vfadd vd va vb m ms ds x => Sys2Proof.Machine.execVfadd vd va vb m ms ds x s
  | .vfsub vd va vb m ms ds x => Sys2Proof.Machine.execVfsub vd va vb m ms ds x s
  | .vfmul vd va vb m ms ds x => Sys2Proof.Machine.execVfmul vd va vb m ms ds x s
  | .vfdiv vd va vb m ms ds x => Sys2Proof.Machine.execVfdiv vd va vb m ms ds x s
  | .vfmin vd va vb m ms ds x => Sys2Proof.Machine.execVfmin vd va vb m ms ds x s
  | .vfmax vd va vb m ms ds x => Sys2Proof.Machine.execVfmax vd va vb m ms ds x s
  | .vfma vd va vb m ms ds x => Sys2Proof.Machine.execVfma vd va vb m ms ds x s
  | .vfnma vd va vb m ms ds x => Sys2Proof.Machine.execVfnma vd va vb m ms ds x s
  | .vfms vd va vb m ms ds x => Sys2Proof.Machine.execVfms vd va vb m ms ds x s
  | .vfcsign vd va vb m ms ds x => Sys2Proof.Machine.execVfcsign vd va vb m ms ds x s
  | .vfnsign vd va vb m ms ds x => Sys2Proof.Machine.execVfnsign vd va vb m ms ds x s
  | .vfxsign vd va vb m ms ds x => Sys2Proof.Machine.execVfxsign vd va vb m ms ds x s
  | .vfkind vd va vb m ms ds x => Sys2Proof.Machine.execVfkind vd va vb m ms ds x s
  | .vfsubr vd va vb m ms ds x => Sys2Proof.Machine.execVfsubr vd va vb m ms ds x s
  | .vfaddVs vd va vb m ms ds x => Sys2Proof.Machine.execVfaddVs vd va vb m ms ds x s
  | .vfsubVs vd va vb m ms ds x => Sys2Proof.Machine.execVfsubVs vd va vb m ms ds x s
  | .vfmulVs vd va vb m ms ds x => Sys2Proof.Machine.execVfmulVs vd va vb m ms ds x s
  | .vfdivVs vd va vb m ms ds x => Sys2Proof.Machine.execVfdivVs vd va vb m ms ds x s
  | .vfminVs vd va vb m ms ds x => Sys2Proof.Machine.execVfminVs vd va vb m ms ds x s
  | .vfmaxVs vd va vb m ms ds x => Sys2Proof.Machine.execVfmaxVs vd va vb m ms ds x s
  | .vfmaVs vd va vb m ms ds x => Sys2Proof.Machine.execVfmaVs vd va vb m ms ds x s
  | .vfnmaVs vd va vb m ms ds x => Sys2Proof.Machine.execVfnmaVs vd va vb m ms ds x s
  | .vfmsVs vd va vb m ms ds x => Sys2Proof.Machine.execVfmsVs vd va vb m ms ds x s
  | .vfcsignVs vd va vb m ms ds x => Sys2Proof.Machine.execVfcsignVs vd va vb m ms ds x s
  | .vfnsignVs vd va vb m ms ds x => Sys2Proof.Machine.execVfnsignVs vd va vb m ms ds x s
  | .vfxsignVs vd va vb m ms ds x => Sys2Proof.Machine.execVfxsignVs vd va vb m ms ds x s
  | .vfkindVs vd va vb m ms ds x => Sys2Proof.Machine.execVfkindVs vd va vb m ms ds x s
  | .vfsubrVs vd va vb m ms ds x => Sys2Proof.Machine.execVfsubrVs vd va vb m ms ds x s
  | .vfsqrt vd va m ms ds x => Sys2Proof.Machine.execVfsqrt vd va m ms ds x s
  | .vfrcp vd va m ms ds x => Sys2Proof.Machine.execVfrcp vd va m ms ds x s
  | .vfrsqrt vd va m ms ds x => Sys2Proof.Machine.execVfrsqrt vd va m ms ds x s
  | .vfexp2 vd va m ms ds x => Sys2Proof.Machine.execVfexp2 vd va m ms ds x s
  | .vflog2 vd va m ms ds x => Sys2Proof.Machine.execVflog2 vd va m ms ds x s
  | .vfexp vd va m ms ds x => Sys2Proof.Machine.execVfexp vd va m ms ds x s
  | .vflog vd va m ms ds x => Sys2Proof.Machine.execVflog vd va m ms ds x s
  | .vftanh vd va m ms ds x => Sys2Proof.Machine.execVftanh vd va m ms ds x s
  | .vfsigm vd va m ms ds x => Sys2Proof.Machine.execVfsigm vd va m ms ds x s
  | .vfgelu vd va m ms ds x => Sys2Proof.Machine.execVfgelu vd va m ms ds x s
  | .vfsilu vd va m ms ds x => Sys2Proof.Machine.execVfsilu vd va m ms ds x s
  | .vfsin vd va m ms ds x => Sys2Proof.Machine.execVfsin vd va m ms ds x s
  | .vfcos vd va m ms ds x => Sys2Proof.Machine.execVfcos vd va m ms ds x s
  | .vferf vd va m ms ds x => Sys2Proof.Machine.execVferf vd va m ms ds x s
  | .vcvt vd va fmt m ms ds x => Sys2Proof.Machine.execVcvt vd va fmt m ms ds x s
  | .vwiden vd va fmt m ms ds x => Sys2Proof.Machine.execVwiden vd va fmt m ms ds x s
  | .vnarrow vd va fmt m ms ds x => Sys2Proof.Machine.execVnarrow vd va fmt m ms ds x s
  | .vnarrows vd va fmt m ms ds x => Sys2Proof.Machine.execVnarrows vd va fmt m ms ds x s
  | .vmxpack vd va fmt m ms ds x => Sys2Proof.Machine.execVmxpack vd va fmt m ms ds x s
  | .vmxunpack vd va fmt m ms ds x => Sys2Proof.Machine.execVmxunpack vd va fmt m ms ds x s
  | .vamax vd va m ms ds x => Sys2Proof.Machine.execVamax vd va m ms ds x s
  | .vscale vd va fmt x => Sys2Proof.Machine.execVscale vd va fmt x s
  | .vquant vd va vb m ms ds x => Sys2Proof.Machine.execVquant vd va vb m ms ds x s
  | .vdequant vd va vb m ms ds x => Sys2Proof.Machine.execVdequant vd va vb m ms ds x s
  | .vbamax vd va m ms ds x => Sys2Proof.Machine.execVbamax vd va m ms ds x s
  | .vsumr vd va vb m ms ds => Sys2Proof.Machine.execVsumr vd va vb m ms ds s
  | .vmaxr vd va vb m ms ds => Sys2Proof.Machine.execVmaxr vd va vb m ms ds s
  | .vminr vd va vb m ms ds => Sys2Proof.Machine.execVminr vd va vb m ms ds s
  | .vmaxur vd va vb m ms ds => Sys2Proof.Machine.execVmaxur vd va vb m ms ds s
  | .vminur vd va vb m ms ds => Sys2Proof.Machine.execVminur vd va vb m ms ds s
  | .vandr vd va vb m ms ds => Sys2Proof.Machine.execVandr vd va vb m ms ds s
  | .vorr vd va vb m ms ds => Sys2Proof.Machine.execVorr vd va vb m ms ds s
  | .vxorr vd va vb m ms ds => Sys2Proof.Machine.execVxorr vd va vb m ms ds s
  | .vfsumr vd va vb m ms ds x => Sys2Proof.Machine.execVfsumr vd va vb m ms ds x s
  | .vfmaxr vd va vb m ms ds x => Sys2Proof.Machine.execVfmaxr vd va vb m ms ds x s
  | .vfminr vd va vb m ms ds x => Sys2Proof.Machine.execVfminr vd va vb m ms ds x s
  | .vshup vd va vb m ms ds => Sys2Proof.Machine.execVshup vd va vb m ms ds s
  | .vshdn vd va vb m ms ds => Sys2Proof.Machine.execVshdn vd va vb m ms ds s
  | .vgather vd va vb m ms ds => Sys2Proof.Machine.execVgather vd va vb m ms ds s
  | .vcompress vd va vb m ms ds => Sys2Proof.Machine.execVcompress vd va vb m ms ds s
  | .vexpand vd va m ms ds => Sys2Proof.Machine.execVexpand vd va m ms ds s
  | .vmerge vd va vb m ms ds => Sys2Proof.Machine.execVmerge vd va vb m ms ds s
  | .vmove vd va m ms ds => Sys2Proof.Machine.execVmove vd va m ms ds s
  | .vsplat vd va m ms ds => Sys2Proof.Machine.execVsplat vd va m ms ds s
  | .vhead vd va ds => Sys2Proof.Machine.execVhead vd va ds s
  | .vacnt vd m ms ds => Sys2Proof.Machine.execVacnt vd m ms ds s
  | .vxup vd va vb m ms ds => Sys2Proof.Machine.execVxup vd va vb m ms ds s
  | .vxdn vd va vb m ms ds => Sys2Proof.Machine.execVxdn vd va vb m ms ds s
  | .vxbc vd va vb m ms ds => Sys2Proof.Machine.execVxbc vd va vb m ms ds s
  | .vxrev vd va m ms ds => Sys2Proof.Machine.execVxrev vd va m ms ds s
  | .vunpack vd va vb m ms ds => Sys2Proof.Machine.execVunpack vd va vb m ms ds s
  | .vbext vd va vb m ms ds => Sys2Proof.Machine.execVbext vd va vb m ms ds s
  | .vfsl vd va vb m ms ds => Sys2Proof.Machine.execVfsl vd va vb m ms ds s
  | .vfsr vd va vb m ms ds => Sys2Proof.Machine.execVfsr vd va vb m ms ds s
  | .vlut vd va vb m ms ds => Sys2Proof.Machine.execVlut vd va vb m ms ds s
  | .vclz vd va m ms ds => Sys2Proof.Machine.execVclz vd va m ms ds s
  | .vctz vd va m ms ds => Sys2Proof.Machine.execVctz vd va m ms ds s
  | .vpopc vd va m ms ds => Sys2Proof.Machine.execVpopc vd va m ms ds s
  | .vbrev vd va m ms ds => Sys2Proof.Machine.execVbrev vd va m ms ds s
  | .vcfg n => Sys2Proof.Machine.execVcfg n s
  | .vsetvl vd va vb ds => Sys2Proof.Machine.execVsetvl vd va vb ds s
  | .vsetvli rd ra imm => Sys2Proof.Machine.execVsetvli rd ra imm s
  | .vld vd va m ms ds => Sys2Proof.Machine.execVld vd va m ms ds s
  | .vlds vd va vb m ms ds => Sys2Proof.Machine.execVlds vd va vb m ms ds s
  | .vldx vd va vb m ms ds => Sys2Proof.Machine.execVldx vd va vb m ms ds s
  | .vldff vd va m ms ds => Sys2Proof.Machine.execVldff vd va m ms ds s
  | .vst vd va m ms ds => Sys2Proof.Machine.execVst vd va m ms ds s
  | .vsts vd va vb m ms ds => Sys2Proof.Machine.execVsts vd va vb m ms ds s
  | .vstx vd va vb m ms ds => Sys2Proof.Machine.execVstx vd va vb m ms ds s
  | .vstU vd va m ms ds => Sys2Proof.Machine.execVstU vd va m ms ds s
  | .vstsU vd va vb m ms ds => Sys2Proof.Machine.execVstsU vd va vb m ms ds s
  | .vstxU vd va vb m ms ds => Sys2Proof.Machine.execVstxU vd va vb m ms ds s
  | .grow vd va m ms ds => Sys2Proof.Machine.execGrow vd va m ms ds s
  | .gcol vd va m ms ds => Sys2Proof.Machine.execGcol vd va m ms ds s
  | .gdiag vd va m ms ds => Sys2Proof.Machine.execGdiag vd va m ms ds s
  | .grows vd va m ms ds => Sys2Proof.Machine.execGrows vd va m ms ds s
  | .gcols vd va m ms ds => Sys2Proof.Machine.execGcols vd va m ms ds s
  | .gdiags vd va m ms ds => Sys2Proof.Machine.execGdiags vd va m ms ds s
  | .gpass vd vb => Sys2Proof.Machine.execGpass vd vb s
  | .vmvq vd p qn m ms ds => Sys2Proof.Machine.execVmvq vd p qn m ms ds s
  | .vaddq vd va p qn m ms ds => Sys2Proof.Machine.execVaddq vd va p qn m ms ds s
  | .vsubq vd va p qn m ms ds => Sys2Proof.Machine.execVsubq vd va p qn m ms ds s
  | .vmulq vd va p qn m ms ds => Sys2Proof.Machine.execVmulq vd va p qn m ms ds s
  | .vfaddq vd va p qn m ms ds x => Sys2Proof.Machine.execVfaddq vd va p qn m ms ds x s
  | .vfsubq vd va p qn m ms ds x => Sys2Proof.Machine.execVfsubq vd va p qn m ms ds x s
  | .vfmulq vd va p qn m ms ds x => Sys2Proof.Machine.execVfmulq vd va p qn m ms ds x s
  | .vfmaq vd va p qn m ms ds x => Sys2Proof.Machine.execVfmaq vd va p qn m ms ds x s
  | .vandq vd va p qn m ms ds => Sys2Proof.Machine.execVandq vd va p qn m ms ds s
  | .vorq vd va p qn m ms ds => Sys2Proof.Machine.execVorq vd va p qn m ms ds s
  | .vxorq vd va p qn m ms ds => Sys2Proof.Machine.execVxorq vd va p qn m ms ds s
  | .venq va qn m ms ds => Sys2Proof.Machine.execVenq va qn m ms ds s
  | .mand md ma mb => Sys2Proof.Machine.execMand md ma mb s
  | .mor md ma mb => Sys2Proof.Machine.execMor md ma mb s
  | .mxor md ma mb => Sys2Proof.Machine.execMxor md ma mb s
  | .mandn md ma mb => Sys2Proof.Machine.execMandn md ma mb s
  | .morn md ma mb => Sys2Proof.Machine.execMorn md ma mb s
  | .mnand md ma mb => Sys2Proof.Machine.execMnand md ma mb s
  | .mnor md ma mb => Sys2Proof.Machine.execMnor md ma mb s
  | .mxnor md ma mb => Sys2Proof.Machine.execMxnor md ma mb s
  | .mmv md ma => Sys2Proof.Machine.execMmv md ma s
  | .mnot md ma => Sys2Proof.Machine.execMnot md ma s
  | .mset md => Sys2Proof.Machine.execMset md s
  | .mclr md => Sys2Proof.Machine.execMclr md s
  | .msbf md ma => Sys2Proof.Machine.execMsbf md ma s
  | .msif md ma => Sys2Proof.Machine.execMsif md ma s
  | .msof md ma => Sys2Proof.Machine.execMsof md ma s
  | .mpopc md ma => Sys2Proof.Machine.execMpopc md ma s
  | .mfirst md ma => Sys2Proof.Machine.execMfirst md ma s
  | .mld md ma => Sys2Proof.Machine.execMld md ma s
  | .mst md ma => Sys2Proof.Machine.execMst md ma s
  | .vceq vd va vb m ms ds => Sys2Proof.Machine.execVceq vd va vb m ms ds s
  | .vcne vd va vb m ms ds => Sys2Proof.Machine.execVcne vd va vb m ms ds s
  | .vclt vd va vb m ms ds => Sys2Proof.Machine.execVclt vd va vb m ms ds s
  | .vcltu vd va vb m ms ds => Sys2Proof.Machine.execVcltu vd va vb m ms ds s
  | .vcle vd va vb m ms ds => Sys2Proof.Machine.execVcle vd va vb m ms ds s
  | .vcleu vd va vb m ms ds => Sys2Proof.Machine.execVcleu vd va vb m ms ds s
  | .vcgt vd va vb m ms ds => Sys2Proof.Machine.execVcgt vd va vb m ms ds s
  | .vcgtu vd va vb m ms ds => Sys2Proof.Machine.execVcgtu vd va vb m ms ds s
  | .vfceq vd va vb m ms ds x => Sys2Proof.Machine.execVfceq vd va vb m ms ds x s
  | .vfcne vd va vb m ms ds x => Sys2Proof.Machine.execVfcne vd va vb m ms ds x s
  | .vfclt vd va vb m ms ds x => Sys2Proof.Machine.execVfclt vd va vb m ms ds x s
  | .vfcle vd va vb m ms ds x => Sys2Proof.Machine.execVfcle vd va vb m ms ds x s
  | .vfcgt vd va vb m ms ds x => Sys2Proof.Machine.execVfcgt vd va vb m ms ds x s
  | .vfcge vd va vb m ms ds x => Sys2Proof.Machine.execVfcge vd va vb m ms ds x s
  | .vfcun vd va vb m ms ds x => Sys2Proof.Machine.execVfcun vd va vb m ms ds x s
  | .vceqVs vd va vb m ms ds => Sys2Proof.Machine.execVceqVs vd va vb m ms ds s
  | .vcneVs vd va vb m ms ds => Sys2Proof.Machine.execVcneVs vd va vb m ms ds s
  | .vcltVs vd va vb m ms ds => Sys2Proof.Machine.execVcltVs vd va vb m ms ds s
  | .vcltuVs vd va vb m ms ds => Sys2Proof.Machine.execVcltuVs vd va vb m ms ds s
  | .vcleVs vd va vb m ms ds => Sys2Proof.Machine.execVcleVs vd va vb m ms ds s
  | .vcleuVs vd va vb m ms ds => Sys2Proof.Machine.execVcleuVs vd va vb m ms ds s
  | .vcgtVs vd va vb m ms ds => Sys2Proof.Machine.execVcgtVs vd va vb m ms ds s
  | .vcgtuVs vd va vb m ms ds => Sys2Proof.Machine.execVcgtuVs vd va vb m ms ds s
  | .vfceqVs vd va vb m ms ds x => Sys2Proof.Machine.execVfceqVs vd va vb m ms ds x s
  | .vfcneVs vd va vb m ms ds x => Sys2Proof.Machine.execVfcneVs vd va vb m ms ds x s
  | .vfcltVs vd va vb m ms ds x => Sys2Proof.Machine.execVfcltVs vd va vb m ms ds x s
  | .vfcleVs vd va vb m ms ds x => Sys2Proof.Machine.execVfcleVs vd va vb m ms ds x s
  | .vfcgtVs vd va vb m ms ds x => Sys2Proof.Machine.execVfcgtVs vd va vb m ms ds x s
  | .vfcgeVs vd va vb m ms ds x => Sys2Proof.Machine.execVfcgeVs vd va vb m ms ds x s
  | .vfcunVs vd va vb m ms ds x => Sys2Proof.Machine.execVfcunVs vd va vb m ms ds x s
  | .tmul qc qr sk p acc ds gc => Sys2Proof.Machine.execTmul qc qr sk p acc ds gc s
  | .tmulsp qc qr sk p acc ds gc => Sys2Proof.Machine.execTmulsp qc qr sk p acc ds gc s
  | .tmodeOn vb => Sys2Proof.Machine.execTmodeOn vb s
  | .tmodeOff vb => Sys2Proof.Machine.execTmodeOff vb s
  | .tshape vd va vb ds => Sys2Proof.Machine.execTshape vd va vb ds s
  | .tzero vb ds => Sys2Proof.Machine.execTzero vb ds s
  | .trdr vd va ds => Sys2Proof.Machine.execTrdr vd va ds s
  | .trdc vd va ds => Sys2Proof.Machine.execTrdc vd va ds s
  | .twrr vd va ds => Sys2Proof.Machine.execTwrr vd va ds s
  | .twrc vd va ds => Sys2Proof.Machine.execTwrc vd va ds s
  | .tpred ds => Sys2Proof.Machine.execTpred ds s
  | .tsync => Sys2Proof.Machine.execTsync s
  | .sopen qn ra ds => Sys2Proof.Machine.execSopen qn ra ds s
  | .sclose qn ds => Sys2Proof.Machine.execSclose qn ds s
  | .savail qn rd ds => Sys2Proof.Machine.execSavail qn rd ds s
  | .swait qn ra ds => Sys2Proof.Machine.execSwait qn ra ds s
  | .sskip qn ra ds => Sys2Proof.Machine.execSskip qn ra ds s
  | .sdrain qn ds => Sys2Proof.Machine.execSdrain qn ds s
  | .srewind qn ds => Sys2Proof.Machine.execSrewind qn ds s
  | .spref qn ra ds => Sys2Proof.Machine.execSpref qn ra ds s
  | .sgather qn ra ds => Sys2Proof.Machine.execSgather qn ra ds s
  | .sldxBg qn ra rb ds => Sys2Proof.Machine.execSldxBg qn ra rb ds s
  | .strans qn ra ds => Sys2Proof.Machine.execStrans qn ra ds s
  | .sstat qn rd ds => Sys2Proof.Machine.execSstat qn rd ds s
  | .cpy rd ra spd sps ds => Sys2Proof.Machine.execCpy rd ra spd sps ds s
  | .cpfill rd rb spd ds => Sys2Proof.Machine.execCpfill rd rb spd ds s
  | .cpcvt rd ra rb spd sps ds => Sys2Proof.Machine.execCpcvt rd ra rb spd sps ds s
  | .cplz rd ra rb sps ds => Sys2Proof.Machine.execCplz rd ra rb sps ds s
  | .cpxp rd ra rb spd ds => Sys2Proof.Machine.execCpxp rd ra rb spd ds s
  | .cpcrc rd ra rb sps ds => Sys2Proof.Machine.execCpcrc rd ra rb sps ds s
  | .cpcrc64 rd ra rb sps ds => Sys2Proof.Machine.execCpcrc64 rd ra rb sps ds s
  | .cprel rd ra rb ds => Sys2Proof.Machine.execCprel rd ra rb ds s
  | .cpshad rd ra => Sys2Proof.Machine.execCpshad rd ra s
  | .cpbl rd sc => Sys2Proof.Machine.execCpbl rd sc s
  | .cpwait => Sys2Proof.Machine.execCpwait s
  | .nring ra rb => Sys2Proof.Machine.execNring ra rb s
  | .ncqhd ra rb => Sys2Proof.Machine.execNcqhd ra rb s
  | .nqstat rd ra => Sys2Proof.Machine.execNqstat rd ra s
  | .ncqpoll rd ra => Sys2Proof.Machine.execNcqpoll rd ra s
  | .lturn rd ra rb => Sys2Proof.Machine.execLturn rd ra rb s
  | .lstat rd ra => Sys2Proof.Machine.execLstat rd ra s
  | .lpause ra => Sys2Proof.Machine.execLpause ra s
  | .lresume ra => Sys2Proof.Machine.execLresume ra s
  | .lremap ra rb => Sys2Proof.Machine.execLremap ra rb s
  | .ltrain ra rb => Sys2Proof.Machine.execLtrain ra rb s
  | .lwait rd ra => Sys2Proof.Machine.execLwait rd ra s
  | .bput rd ra rb => Sys2Proof.Machine.execBput rd ra rb s
  | .bget rd ra rb => Sys2Proof.Machine.execBget rd ra rb s
  | .batom rd ra rb => Sys2Proof.Machine.execBatom rd ra rb s
  | .bnotify rd ra rb => Sys2Proof.Machine.execBnotify rd ra rb s
  | .bwait rd ra => Sys2Proof.Machine.execBwait rd ra s
  | .bpoll rd ra => Sys2Proof.Machine.execBpoll rd ra s
  | .bfence => Sys2Proof.Machine.execBfence s
  | .bstat rd ra => Sys2Proof.Machine.execBstat rd ra s
  | .blport rd ra => Sys2Proof.Machine.execBlport rd ra s
  | .klaunch rd ra => Sys2Proof.Machine.execKlaunch rd ra s
  | .kwait ra => Sys2Proof.Machine.execKwait ra s
  | .ctxsave ra => Sys2Proof.Machine.execCtxsave ra s
  | .ctxload ra => Sys2Proof.Machine.execCtxload ra s
  | .svrd rd ra => Sys2Proof.Machine.execSvrd rd ra s
  | .svwr rd ra => Sys2Proof.Machine.execSvwr rd ra s
  | .warm ra n => Sys2Proof.Machine.execWarm ra n s
  | .wdisarm n => Sys2Proof.Machine.execWdisarm n s
  | .vdadd vd va vb m ms ds x => Sys2Proof.Machine.execVdadd vd va vb m ms ds x s
  | .vdsub vd va vb m ms ds x => Sys2Proof.Machine.execVdsub vd va vb m ms ds x s
  | .vdmul vd va vb m ms ds x => Sys2Proof.Machine.execVdmul vd va vb m ms ds x s
  | .vddiv vd va vb m ms ds x => Sys2Proof.Machine.execVddiv vd va vb m ms ds x s
  | .vdmin vd va vb m ms ds x => Sys2Proof.Machine.execVdmin vd va vb m ms ds x s
  | .vdmax vd va vb m ms ds x => Sys2Proof.Machine.execVdmax vd va vb m ms ds x s
  | .vdfma vd va vb m ms ds x => Sys2Proof.Machine.execVdfma vd va vb m ms ds x s
  | .vdfnma vd va vb m ms ds x => Sys2Proof.Machine.execVdfnma vd va vb m ms ds x s
  | .vdfms vd va vb m ms ds x => Sys2Proof.Machine.execVdfms vd va vb m ms ds x s
  | .vdcsign vd va vb m ms ds x => Sys2Proof.Machine.execVdcsign vd va vb m ms ds x s
  | .vdnsign vd va vb m ms ds x => Sys2Proof.Machine.execVdnsign vd va vb m ms ds x s
  | .vdxsign vd va vb m ms ds x => Sys2Proof.Machine.execVdxsign vd va vb m ms ds x s
  | .vdkind vd va m ms ds x => Sys2Proof.Machine.execVdkind vd va m ms ds x s
  | .vdsubr vd va vb m ms ds x => Sys2Proof.Machine.execVdsubr vd va vb m ms ds x s
  | .vdsqrt vd va m ms ds x => Sys2Proof.Machine.execVdsqrt vd va m ms ds x s
  | .trapEntry hart => Sys2Proof.Machine.execTrapEntry hart s
  | .entryComplete hart => Sys2Proof.Machine.execEntryComplete hart s
  | .barWaitEnd hart => Sys2Proof.Machine.execBarWaitEnd hart s
  | .yieldExpiry hart => Sys2Proof.Machine.execYieldExpiry hart s
  | .streamFetch hart q pos => Sys2Proof.Machine.execStreamFetch hart q pos s
  | .streamStoreWrite hart q pos => Sys2Proof.Machine.execStreamStoreWrite hart q pos s
  | .sgatherRow hart q engine => Sys2Proof.Machine.execSgatherRow hart q engine s
  | .copyChunk hart uid pos engine => Sys2Proof.Machine.execCopyChunk hart uid pos engine s
  | .driveRequest port rid addr write len data => Sys2Proof.Machine.execDriveRequest port rid addr write len data s
  | .pairError handle => Sys2Proof.Machine.execPairError handle s
  | .turnBegin link => Sys2Proof.Machine.execTurnBegin link s
  | .autoTurn link toB => Sys2Proof.Machine.execAutoTurn link toB s
  | .turnDrainEnd link => Sys2Proof.Machine.execTurnDrainEnd link s
  | .turnDeadTimeEnd link => Sys2Proof.Machine.execTurnDeadTimeEnd link s
  | .linkPaused link => Sys2Proof.Machine.execLinkPaused link s
  | .ltrainDone link failed badSpares => Sys2Proof.Machine.execLtrainDone link failed badSpares s
  | .flitReplay link group lane again => Sys2Proof.Machine.execFlitReplay link group lane again s
  | .put port pkt => Sys2Proof.Machine.execPut port pkt s
  | .getreq port pkt => Sys2Proof.Machine.execGetreq port pkt s
  | .atom port pkt => Sys2Proof.Machine.execAtom port pkt s
  | .notify port pkt => Sys2Proof.Machine.execNotify port pkt s
  | .ack port pkt => Sys2Proof.Machine.execAck port pkt s
  | .getdata port pkt => Sys2Proof.Machine.execGetdata port pkt s
  | .atomrsp port pkt => Sys2Proof.Machine.execAtomrsp port pkt s
  | .bell port vc gpn => Sys2Proof.Machine.execBell port vc gpn s
  | .rbell port vc gpn => Sys2Proof.Machine.execRbell port vc gpn s
  | .beaconFlitReplay port again => Sys2Proof.Machine.execBeaconFlitReplay port again s
  | .portUp port => Sys2Proof.Machine.execPortUp port s
  | .launchBind slot => Sys2Proof.Machine.execLaunchBind slot s
  | .preEmption slot => Sys2Proof.Machine.execPreEmption slot s
  | .contextSave slot => Sys2Proof.Machine.execContextSave slot s
  | .completionEntryWrite queue => Sys2Proof.Machine.execCompletionEntryWrite queue s
  | .sqtail queue value => Sys2Proof.Machine.execSqtail queue value s
  | .cqhead queue value => Sys2Proof.Machine.execCqhead queue value s
  | .enable queue value => Sys2Proof.Machine.execEnable queue value s
  | .tenantCreate cmd => Sys2Proof.Machine.execTenantCreate cmd s
  | .tenantReset cmd => Sys2Proof.Machine.execTenantReset cmd s
  | .tenantDelete cmd => Sys2Proof.Machine.execTenantDelete cmd s
  | .ownerSet cmd => Sys2Proof.Machine.execOwnerSet cmd s
  | .pairCreate cmd => Sys2Proof.Machine.execPairCreate cmd s
  | .pairDelete cmd => Sys2Proof.Machine.execPairDelete cmd s
  | .regionCreate cmd => Sys2Proof.Machine.execRegionCreate cmd s
  | .regionDelete cmd => Sys2Proof.Machine.execRegionDelete cmd s
  | .gangCreate cmd => Sys2Proof.Machine.execGangCreate cmd s
  | .gangDelete cmd => Sys2Proof.Machine.execGangDelete cmd s
  | .gangSwitchSave cmd => Sys2Proof.Machine.execGangSwitchSave cmd s
  | .gangSwitchResume cmd => Sys2Proof.Machine.execGangSwitchResume cmd s
  | .launchSuspend cmd => Sys2Proof.Machine.execLaunchSuspend cmd s
  | .launchResume cmd => Sys2Proof.Machine.execLaunchResume cmd s
  | .debugGrant cmd => Sys2Proof.Machine.execDebugGrant cmd s
  | .launch cmd => Sys2Proof.Machine.execLaunch cmd s
  | .invalidate cmd => Sys2Proof.Machine.execInvalidate cmd s
  | .faultReplyRetry cmd => Sys2Proof.Machine.execFaultReplyRetry cmd s
  | .faultReplyAbort cmd => Sys2Proof.Machine.execFaultReplyAbort cmd s
  | .nop cmd => Sys2Proof.Machine.execNop cmd s
  | .bootgo readError => Sys2Proof.Machine.execBootgo readError s
  | .resetkey value => Sys2Proof.Machine.execResetkey value s
  | .powerOn => Sys2Proof.Machine.execPowerOn s
  | .attreq => Sys2Proof.Machine.execAttreq s
  | .fatalreq => Sys2Proof.Machine.execFatalreq s
  | .svnfuse value => Sys2Proof.Machine.execSvnfuse value s
  | .clusterRetire core die cluster => Sys2Proof.Machine.execClusterRetire core die cluster s
  | .ownerEntryWrite entry value => Sys2Proof.Machine.execOwnerEntryWrite entry value s
  | .registerWrite offset value => Sys2Proof.Machine.execRegisterWrite offset value s
  | .powerClampWindow watts => Sys2Proof.Machine.execPowerClampWindow watts s
  | .junctionHot die => Sys2Proof.Machine.execJunctionHot die s
  | .thermal die => Sys2Proof.Machine.execThermal die s
  | .cdMemory => Sys2Proof.Machine.execCdMemory s
  | .dumpdone => Sys2Proof.Machine.execDumpdone s

end Sys2Proof.Machine
end

