-- ==== Sys2Proof/Machine/Run.lean ====
section
/-!
DEFINITION. What a step does: the moves of the schedule, the turn of a hart, the moves that the device makes by itself when the
schedule names none, and the settling that ends every step.
-/

namespace Sys2Proof.Machine

/-! ### A hart's turn -/

/-- The trap of a word that is no instruction (03 R97). -/
def rejectTrap (w : BitVec 32) : Reject → TrapInfo
  | .illegal r => illegal w r
  | .absent => absentTrap w
  | .priv => privTrap w

/-- The fetched word of the hart whose turn it is: an emulation routine, an instruction, or a trap. -/
noncomputable def runWord (w : BitVec 32) (s : State) : Out :=
  match emulated s w with
  | some v => emulate v s
  | none =>
    match decode s.me.super w with
    | .ok i => exec i s
    | .error e => if s.me.run = .running then .next (s.trapHere (s.coreTrap w (rejectTrap w e))) else .next s

/-- The next instruction of the hart `s.cur`: an element of a portable kernel, or the instruction at its pc. -/
noncomputable def runNext (s : State) : Out :=
  let x := s.me
  match x.portable with
  | some p => portableStep p s
  | none =>
    match fetchWord s.cur s with
    | (.ok w, s) => runWord w s
    | (.error (.paused _), s) => .next s
    | (.error e, s) => .next (s.trapHere (faultTrap x.pc .fetch 0 e))

/-- R163: whether the instruction that comes next has a trap of its own ready: with no TVEC to go to, that trap ends the hart. -/
noncomputable def ownTrap (s : State) : Bool :=
  match runNext (s.updMe (fun x => { x with tvec := 0 })) with
  | .next t => t.me.run == .failed
  | _ => false

/-- The turn of the hart `s.cur`: its own trap or, before its next instruction, a trap from outside (R163).
DESIGN CHOICE, log 22. -/
noncomputable def runTurn (s : State) : Out :=
  if s.me.run ≠ .running then .next s
  else if s.me.pending = [] || ownTrap s then runNext s
  else .next (takeOutside s.cur s)

/-- Whether harts take turns: not on a frozen device, but for the supervisor core that writes the dump (13 R427). -/
def State.mayTurn (s : State) (h : Nat) : Bool := !s.boot.fatal || (h == supvHart && !s.boot.fwdead)

/-- What shows that a hart has issued: the count of its instructions, its run state, a BAR's arrival, and a trap of its own.
DESIGN CHOICE, log 5. -/
def Hart.mark (x : Hart) : Nat × RunState × Option (Word × BitVec 32) × BitVec 9 := (x.issueCount, x.run, x.bar, x.tcause)

/-- Whether the hart `s.cur` stands at the BAR in whose wait it is, which has issued (R155, R161). -/
def State.inBarWait (s : State) (w : BitVec 32) : Bool :=
  match s.me.bar with
  | some (a, _) => (barRegister w).any (fun r => s.me.s r == a)
  | none => false

/-- Whether a turn of the hart `s.cur` comes to an instruction that is to issue: no trap from outside comes first, its word can be
fetched (R148), and it is no BAR that has issued. -/
noncomputable def State.reachesWord (s : State) : Bool :=
  s.me.run == .running && (s.me.pending.isEmpty || ownTrap s) &&
  (s.me.portable.isSome || (match fetchWord s.cur s with
    | (.ok w, s) => !s.inBarWait w
    | (.error _, _) => false))

/-- Whether the turn of a hart would issue: it runs and its next instruction is ready (R136). -/
noncomputable def State.issues (s : State) (h : Nat) : Bool :=
  s.mayTurn h && State.reachesWord { s with cur := h } && (match runTurn { s with cur := h } with
    | .next t => (t.hart h).mark != (s.hart h).mark
    | _ => false)

/-- Whether a hart is in the 16 cycles of a YIELD (R153). -/
def State.yielding (s : State) (h : Nat) : Bool := (s.hart h).yield != 0 && decide (s.cycle ≤ (s.hart h).yield)

/-- R153: a yielding hart has no turn while another hart of its core has a ready instruction. -/
noncomputable def State.standsBack (s : State) (h : Nat) : Bool :=
  s.yielding h && (List.range 4).any (fun i =>
    let g := 4 * coreOf h + i
    g != h && !s.yielding g && s.issues g)

/-- The rotation pointer of a core advances (R136). -/
def State.rotate (s : State) (c : Nat) : State :=
  let k := s.core c
  { s with cores := smPut s.cores c { k with rot := (k.rot + 1) % 4 } }

/-- What a turn of hart `h` that began in `s` leaves: the rotation pointer advances if the hart has issued (R136). -/
noncomputable def State.turned (s : State) (h : Nat) (t : State) : State :=
  -- a flit of the hart that could flow has flowed, or its access is no longer made (10 R355)
  let t := t.dropFlits (fun f => (match f.owner with | .hart g _ => g == h | _ => false) && s.flits.contains f && s.mayFlow f)
  if (t.hart h).mark = (s.hart h).mark || !State.reachesWord { s with cur := h } then t else t.rotate (coreOf h)

/-- The turn of hart `h`; its core's rotation pointer advances when it issues (R136). DESIGN CHOICE, log 5. -/
noncomputable def runHart (h : Nat) (s : State) : Out :=
  if !s.mayTurn h || s.standsBack h then .next s
  else match runTurn { s with cur := h } with
    | .next t => .next (s.turned h t)
    | r => r

/-! ### Settling -/

/-- A hart that has ended in ContextFault has no shadow open any more (07 R271), and every other hart of its launch stops, as at HALT
without its waits (12 R394): harts that fail in the same step have then failed in one cycle. DEDUCED, log 31. -/
def State.closeFailed (s : State) : State :=
  let failed := s.harts.filter (fun (p : Nat × Hart) => p.2.run == .failed)
  let stop (p : Nat × Hart) : Bool := p.2.run == .running && p.2.launch.any (fun l => failed.any (fun f => f.2.launch == some l))
  (s.harts.filter stop).foldl (fun s p => haltHart p.1 s) (failed.foldl (fun s p => closeShadows p.1 s) s)

/-- The queues of every hart advance, the flits of open links flow, and a trap of the supervisor core that it cannot take freezes the
device (13 R426). DESIGN CHOICE, log 3 and 22 and 47. -/
def settle (s : State) : State :=
  let all (f : Nat → State → State) (s : State) : State := s.harts.foldl (fun s (p : Nat × Hart) => f p.1 s) s
  let flow (s : State) : State := s.flowFlits (all drain) s.flits.length
  let s := if s.boot.fatal then s else (flow (all drain s).closeFailed).closeFailed
  if (s.hart supvHart).run = .failed then s.fatalFreeze 3 8 else s

/-! ### Moves of the schedule -/

/-- An upset sub-accumulator (08 R310): that of a cell of a column on which a started rank update of an MX format works.
DESIGN CHOICE, log 18. -/
def upsetSub (core row col : Nat) (s : State) : State :=
  let k := subKey (cellKey core row col)
  let used := (coreHarts core).any (fun h => (s.hart h).queue.any (fun e =>
    e.st == .started && e.cols.contains col && (match e.op with
      | .tmul (gc := gc) .. | .tmulsp (gc := gc) .. => decide (6 ≤ gc)
      | _ => false)))
  if used then { s with badCells := k :: s.badCells.filter (· ≠ k) } else s

/-- A translation leaves a TLB (02 R60): entry `i` of a control core's, or of a lane die's. DESIGN CHOICE, log 6. -/
def dropEntry (lane : Bool) (unit i : Nat) (s : State) : State :=
  if lane then { s with tlb2 := smSet [] s.tlb2 unit ((s.dieTlb unit).eraseIdx i) }
  else { s with tlb1 := smSet [] s.tlb1 unit ((s.coreTlb unit).eraseIdx i) }

/-- A word of DRAM comes to hold an uncorrectable error, or is sound again. DESIGN CHOICE, log 18. -/
def upsetWord (pa : Nat) (on : Bool) (s : State) : State :=
  let k := memKey pa / 8
  let rest := s.memBad.filter (· ≠ k)
  { s with memBad := if on && s.inDram pa then k :: rest else rest }

/-- A drive function answers on a port (09 R314): at most 32 on one, of the four. DESIGN CHOICE, log 19. -/
def attachDrive (port rid : Nat) (accepts : Bool) (s : State) : State :=
  let key := port * 2 ^ 16 + rid % 2 ^ 16
  let others := s.drives.countP (fun (d : Nat × Bool) => d.1 / 2 ^ 16 == port && d.1 != key)
  if port < 4 && decide (others < 32) then { s with drives := smPut s.drives key accepts } else s

/-- An upset grid cell (05 R207): its error is one that the ECC corrects, or not. DESIGN CHOICE, log 18. -/
def upsetCell (core row col : Nat) (correctable : Bool) (s : State) : State :=
  let k := cellKey core row col
  if correctable then { s with softCells := k :: s.softCells.filter (· ≠ k) }
  else { s with badCells := k :: s.badCells.filter (· ≠ k) }

/-- A move of the opcode table; a hart takes its own trap before one from outside (04 R163). -/
noncomputable def runEvent (i : Instr) (s : State) : Out :=
  match i with
  | .trapEntry h =>
    if (s.hart h).run = .running && !s.boot.fatal && ownTrap { s with cur := h } then runHart h s else exec (.trapEntry h) s
  | i => exec i s

/-- One move of the schedule. A hart that the device does not have is the one move that stops the machine.
DESIGN CHOICE, log 3 and 14. -/
noncomputable def runAct (a : Act) (s : State) : Out :=
  match a with
  | .hart h => if supvHart < h then .fault .noSuchAgent else runHart h s
  | .event i => runEvent i s
  | .hostWrite pa b => .next (s.setByte pa b)
  | .upset core row col c => .next (upsetCell core row col c s)
  | .subUpset core row col => .next (upsetSub core row col s)
  | .engineUpset h uid pos => .next (copyUpset h uid pos s)
  | .packetUpset t key => .next (packetUpset t key s)
  | .tlbDrop lane unit i => .next (dropEntry lane unit i s)
  | .memUpset pa on => .next (upsetWord pa on s)
  | .kernelDrop i => .next { s with kernels := s.kernels.eraseIdx i }
  | .flit link toB cls payer n => .next (s.putFlit link toB cls payer n)
  | .flitEnds n => .next { s with flits := s.flits.filter (fun f => f.owner != .outside n) }
  | .lag h on => .next (s.updHart h (fun x => { x with lag := on }))
  | .drive port rid acc => .next (attachDrive port rid acc s)
  | .driveGone port rid => .next (detachDrive port rid s)
  | .msix _ _ => .next s
  | .packet port h payload => .next (if s.boot.fatal then s else headerArrives port h payload s)
  | .stall port on => .next { s with ports := smPut s.ports port { smGet {} s.ports port with stalled := on } }
  | .superHart h pc t => .next (launchSuper h pc t s)
  | .flash image => .next (s.setSupv { s.supv with flash := image })

/-! ### Moves that the device makes by itself -/

/-- What a link does next: a turn goes on or begins, a direction that a flit waits for gets a group, a pause or a training ends.
DEDUCED, log 33. -/
def linkMoves (l : Nat) : List (State → State) :=
  [fun s => match (s.link l).turn with
     | some t => if t.dead then turnDeadTimeEnd l s else turnDrainEnd l s
     | none => s,
   fun s => if (s.facing l).1 then autoTurn l true s else s,
   fun s => if (s.facing l).2 then autoTurn l false s else s,
   turnBegin l, linkPaused l,
   fun s => if (s.link l).state = 3 then ltrainDone l 0 0 s else s]

/-- The moves in the order in which they are tried. DESIGN CHOICE, log 3. -/
def deviceMoves (s : State) : List (State → State) :=
  let qs := s.hostq.map (fun (p : Nat × HostQueue) => p.1)
  let ls := s.launches.map (fun (p : Nat × Launch) => p.1)
  let ts := s.parts.map (fun (p : Nat × Partition) => p.1)
  qs.map readRing ++ qs.map startNext ++ ls.map contextSave ++ ls.map launchDone ++ ls.map launchBind ++ ls.map preEmption ++
  (s.pairs.map (fun (p : Nat × Pair) => p.1)).map pairDeleted ++ ts.map finishSave ++ ts.map releaseGang ++ ts.map finishResume ++
  (s.resets.map (fun (p : Nat × List (HostCmd × Bool)) => p.1)).map resetEnd ++ qs.map writeCompletion ++
  [fun s => if s.driveWait.isEmpty then s else serveInTurn [] s.driveWait s] ++
  (List.range 14).flatMap linkMoves ++ [pumpFabric 64, State.dropUnneeded]

/-- The first of the moves that changes something. -/
def firstMove : List (State → State) → State → State
  | [], s => s
  | f :: fs, s =>
    let s' := f s
    if s' = s then firstMove fs s else s'

/-- The move that the device makes by itself, unless it is frozen or has not booted far enough to take commands. -/
def deviceMove (s : State) : State := if s.boot.fatal then s else firstMove (deviceMoves s) s

/-- The harts of a core in the order in which they are tried: from its rotation pointer (04 R136), yielding ones last (R153).
DESIGN CHOICE, log 5. -/
def coreTurns (s : State) (c : Nat) : List Nat :=
  let order := (List.range 4).map (fun i => 4 * c + ((s.core c).rot + i) % 4)
  let run := order.filter (fun h => (s.hart h).run == .running)
  run.filter (fun h => !s.yielding h) ++ run.filter s.yielding

/-- The first of some harts whose turn changes the state takes it. -/
noncomputable def firstTurn : List Nat → State → Out
  | [], s => .next s
  | h :: hs, s =>
    match runHart h s with
    | .next t => if t = { s with cur := h } || t = s then firstTurn hs s else .next t
    | r => r

/-- A step that the schedule says nothing about: a move of the device, then the turn of the next hart that is ready, of the cores in
rotation after the last one. DESIGN CHOICE, log 3. -/
noncomputable def runIdle (s : State) : Out :=
  let s := deviceMove s
  firstTurn (((List.range 33).map (fun i => (coreOf s.cur + 1 + i) % 33)).flatMap (coreTurns s)) s

/-- A step before it settles: the next move of the schedule, or what the device does by itself when the schedule is empty.
DESIGN CHOICE, log 3. -/
noncomputable def advance (s : State) : Out :=
  match s.agenda with
  | a :: rest => runAct a { s with agenda := rest }
  | [] => runIdle s

/-! ### A word placed for the next step -/

/-- The leaf entry of a page of the interleaved view with every permission, at frame 0. -/
def placedLeaf : BitVec 64 := 0x7F

/-- Hart 0 as firmware launches it, in supervisor mode, with its page in its core's TLB and a word at its pc.
DESIGN CHOICE, log 16. -/
def placeWord (w : Nat) (s : State) : State :=
  let x := s.hart 0
  let pc := x.pc.toNat
  let s := s.setHart 0 { x with run := .running, super := true, pending := [], portable := none, yield := 0 }
  { s.fillCore 0 { tenant := x.tenant, va := pc / 4096 * 4096, size := 4096, level := 5, pte := placedLeaf } with
    agenda := [.hart 0]
    boot := { s.boot with fatal := false }
  }.setBytes (pc % 4096) 4 w

end Sys2Proof.Machine
end

