-- ==== Sys2Proof/Machine/Step.lean ====
section
/-!
DEFINITION. One step of the machine: a cycle passes, the next move is made, and the queues of the harts settle.
-/

namespace Sys2Proof.Machine

/-- One step. -/
noncomputable def step (s : State) : Host.Outcome State Fault Refusal :=
  match advance { s with cycle := s.cycle + 1 } with
  | .next t => .next (settle t)
  | r => r

/-- The state with a 32-bit word placed where the next step fetches. Instructions are one word long (R90).
DESIGN CHOICE, log 16. -/
def State.withFetchWord (s : State) (_nbits w : Nat) : State := placeWord w s

end Sys2Proof.Machine
end

