-- ==== Sys2Proof/Machine/AsmText.lean ====
section
/-!
DEFINITION. The assembler's text (03 R122, R123): the parts of a source line, identifiers, the operands of a line, register
names and literals.
-/

namespace Sys2Proof.Machine

/-- Source text. -/
abbrev Text := List Char

/-- Why a line is an error; the assembler emits nothing for it (R125). -/
inductive AsmError where
  /-- The first word of a line is no mnemonic, pseudo-instruction or directive, or one whose operands are of another number. -/
  | unknownWord
  /-- A name that is no identifier. -/
  | badName
  /-- A line with too few or too many operands. -/
  | operandCount
  /-- An operand that is not written as its kind is (R123). -/
  | badOperand
  /-- A suffix the mnemonic does not take, or one written twice (R124). -/
  | badSuffix
  /-- A trailing operand the instruction does not take, or one written twice (R124). -/
  | badTrailing
  /-- Text that is no expression (R125). -/
  | badExpression
  /-- A symbol that nothing defines. -/
  | undefined
  /-- A symbol defined twice. -/
  | redefined
  /-- A divisor of zero (R125). -/
  | zeroDivisor
  /-- The operand of %hi lies outside its range (R125). -/
  | hiRange
  /-- A value that does not fit its field (R125). -/
  | range
  /-- A target that is no multiple of 4 from the instruction, or out of reach (R125). -/
  | target
  /-- An instruction at an address that is no multiple of 4 (R90). -/
  | misaligned
  /-- The operand of .align is no power of two (R128). -/
  | alignment
  /-- A kernel directive outside a kernel, a kernel in a kernel, or one left open (R128). -/
  | kernelNesting
  /-- A hart role given twice, left out below the highest (R129), or without an instruction. -/
  | roles
  /-- A tile quarter outside the role's quarters (R129). -/
  | tileQuarters
  /-- A relocation whose expression is no symbol plus a constant, or whose type is unassigned (R131). -/
  | badReloc
  /-- A relocated value that fails its test: a link error (R131). -/
  | linkRange
  /-- Data other than zero in .bss (R130). -/
  | bssData
  /-- The addresses do not settle. -/
  | unsettled
  deriving DecidableEq, Repr

/-- The white space between the parts of a line. -/
def isBlank (c : Char) : Bool := c = ' ' || c = '\t' || c = '\r'

def skipBlanks (t : Text) : Text := t.dropWhile isBlank

/-- The text without the white space at its ends. -/
def trim (t : Text) : Text := (skipBlanks (skipBlanks t).reverse).reverse

def lower (t : Text) : Text := t.map Char.toLower

/-- R122: identifiers consist of letters, digits, `_` and `.`, and do not begin with a digit. -/
def isNameStart (c : Char) : Bool := c.isAlpha || c = '_' || c = '.'
def isNameChar (c : Char) : Bool := isNameStart c || c.isDigit

def isName (t : Text) : Bool :=
  match t with
  | [] => false
  | c :: r => isNameStart c && r.all isNameChar

/-- The parts of a line (R122): the label, the word that starts the instruction or directive, and the operands' text. -/
structure AsmLine where
  label : Option Text
  head : Text
  rest : Text
  deriving DecidableEq, Repr

/-- R122: a comment runs from `;` to the end of the line, and a label is an identifier followed by a colon. -/
def asmLine (t : Text) : AsmLine :=
  let body := trim (t.takeWhile (· ≠ ';'))
  let name := body.takeWhile isNameChar
  let (label, body) :=
    match isName name, skipBlanks (body.dropWhile isNameChar) with
    | true, ':' :: more => (some name, trim more)
    | _, _ => (none, body)
  { label, head := body.takeWhile (fun c => !isBlank c), rest := trim (body.dropWhile (fun c => !isBlank c)) }

/-- The text cut at the commas outside parentheses: the depth, the characters of the current piece last first, the rest. -/
def cutAtCommas : Nat → Text → Text → List Text
  | _, cur, [] => [trim cur.reverse]
  | depth, cur, c :: t =>
    if c = ',' && depth = 0 then trim cur.reverse :: cutAtCommas 0 [] t
    else cutAtCommas (if c = '(' then depth + 1 else if c = ')' then depth - 1 else depth) (c :: cur) t

/-- The operands of a line. -/
def asmOperands (t : Text) : List Text := if (trim t).isEmpty then [] else cutAtCommas 0 [] t

/-- The digits of the largest base that a literal has, in the order of their values (R125). -/
def digitChars : Text := "0123456789abcdef".toList

/-- The value of a digit, its letters in either case. -/
def digitValue (c : Char) : Option Nat := digitChars.idxOf? c.toLower

/-- The number that digits write in a base after `acc`; underscores never change a value (R1). -/
def digitsFrom (base : Nat) : Nat → Text → Option Nat
  | acc, [] => some acc
  | acc, c :: t =>
    if c = '_' then digitsFrom base acc t
    else match digitValue c with
      | some d => if d < base then digitsFrom base (base * acc + d) t else none
      | none => none

/-- Digits, at least one. -/
def digits (base : Nat) (t : Text) : Option Nat := if t.any (· ≠ '_') then digitsFrom base 0 t else none

/-- A decimal, 0x or 0b literal (R125). -/
def literal (t : Text) : Option Nat :=
  match t with
  | '0' :: 'x' :: r | '0' :: 'X' :: r => digits 16 r
  | '0' :: 'b' :: r | '0' :: 'B' :: r => digits 2 r
  | _ => digits 10 t

/-- A register name: its letters, then a number below `count` without leading zeros (R123). -/
def numbered (letters : Text) (count : Nat) (t : Text) : Option Nat :=
  let t := lower t
  let ds := t.drop letters.length
  if letters.isPrefixOf t && ds.all Char.isDigit && (ds = ['0'] || ds.head? ≠ some '0') then
    (digits 10 ds).filter (· < count)
  else none

/-- s0 to s31, or `zero` for s0 (R123). -/
def scalarName (t : Text) : Option Nat := if lower t = "zero".toList then some 0 else numbered ['s'] 32 t

/-- A decimal value: its sign, its digits as a number, and the power of ten that scales them. -/
structure Decimal where
  neg : Bool
  mant : Nat
  exp : Int
  deriving DecidableEq, Repr

/-- An integer in decimal with an optional sign. -/
def signedDigits (t : Text) : Option Int :=
  match t with
  | '-' :: r => (digits 10 r).map (fun n => -(n : Int))
  | '+' :: r => (digits 10 r).map (fun n => (n : Int))
  | r => (digits 10 r).map (fun n => (n : Int))

/-- A decimal value as .f32 and .bf16 take it (R128): a sign, digits, a point and digits, an exponent after `e`. -/
def decimal (t : Text) : Option Decimal :=
  let (neg, t) := match trim t with
    | '-' :: r => (true, r)
    | '+' :: r => (false, r)
    | r => (false, r)
  let body := (lower t).takeWhile (· ≠ 'e')
  let whole := body.takeWhile (· ≠ '.')
  let frac := (body.dropWhile (· ≠ '.')).drop 1
  let exp := match (lower t).dropWhile (· ≠ 'e') with
    | [] => some 0
    | _ :: r => signedDigits r
  match digits 10 (whole ++ frac), exp with
  | some m, some e => some ⟨neg, m, e - (frac.filter (· ≠ '_')).length⟩
  | _, _ => none

/-- A decimal value rounded once with RNE to a format (R128). -/
def Decimal.round (f : FFmt) (d : Decimal) : Nat :=
  let a := if 0 ≤ d.exp then ⟨d.neg, d.mant * 10 ^ d.exp.toNat, 0, false⟩ else exactQuot d.neg d.mant 0 (10 ^ (-d.exp).toNat) 0
  (roundTo f .rne 0 a).1

end Sys2Proof.Machine
end

