-- ==== Sys2Proof/Machine/AsmExpr.lean ====
section
/-!
DEFINITION. The assembler's expressions (03 R125): tokens, a parser by precedence, and the value in 64-bit two's complement.
-/

namespace Sys2Proof.Machine

/-- A token of an expression; a symbol that is written with two characters, `<<` or `>>`, is one of its own. -/
inductive Tok where
  | num (n : Nat)
  | name (t : Text)
  | op (c : Char)
  | shl
  | shr
  deriving DecidableEq, Repr

/-- The tokens of a text, with as many steps as it has characters. -/
def tokensFrom : Nat → Text → Option (List Tok)
  | _, [] => some []
  | 0, _ :: _ => none
  | n + 1, c :: t =>
    if isBlank c then tokensFrom n t
    else if c.isDigit then
      let w := (c :: t).takeWhile (fun d => d.isAlphanum || d = '_')
      match literal w, tokensFrom n (t.drop (w.length - 1)) with
      | some v, some r => some (.num v :: r)
      | _, _ => none
    else if isNameStart c then
      let w := (c :: t).takeWhile isNameChar
      (tokensFrom n (t.drop (w.length - 1))).map (.name w :: ·)
    else match c, t with
      | '<', '<' :: r => (tokensFrom n r).map (.shl :: ·)
      | '>', '>' :: r => (tokensFrom n r).map (.shr :: ·)
      | _, _ => if "+-*/%&|^~()".toList.contains c then (tokensFrom n t).map (.op c :: ·) else none

def tokens (t : Text) : Option (List Tok) := tokensFrom t.length t

inductive BinOp where
  | mul | div | rem | add | sub | shl | shr | and | xor | or
  deriving DecidableEq, Repr

/-- R125: the operators in falling precedence, here with a rising number for the tighter ones; the unary ones bind
tightest. -/
def BinOp.level : BinOp → Nat
  | .mul | .div | .rem => 6
  | .add | .sub => 5
  | .shl | .shr => 4
  | .and => 3
  | .xor => 2
  | .or => 1

inductive AsmExpr where
  | lit (v : Word)
  | sym (name : Text)
  | here
  | neg (e : AsmExpr)
  | not (e : AsmExpr)
  | hi (e : AsmExpr)
  | lo (e : AsmExpr)
  | bin (o : BinOp) (a b : AsmExpr)
  deriving DecidableEq, Repr

/-- What waits while an expression is read: an open parenthesis, that of %hi or %lo, or an operator. -/
inductive Waiting where
  | paren
  | hi
  | lo
  | neg
  | not
  | bin (o : BinOp)
  deriving DecidableEq, Repr

/-- The operators that bind at least as tightly as `level` take their operands, down to an open parenthesis. -/
def applyWaiting (level : Nat) : List Waiting → List AsmExpr → Option (List Waiting × List AsmExpr)
  | .neg :: ws, a :: es => applyWaiting level ws (.neg a :: es)
  | .not :: ws, a :: es => applyWaiting level ws (.not a :: es)
  | .bin o :: ws, es =>
    if level ≤ o.level then
      match es with
      | b :: a :: es => applyWaiting level ws (.bin o a b :: es)
      | _ => none
    else some (.bin o :: ws, es)
  | ws, es => some (ws, es)

/-- The binary operator that a token writes. -/
def Tok.binOp : Tok → Option BinOp
  | .op '*' => some .mul
  | .op '/' => some .div
  | .op '%' => some .rem
  | .op '+' => some .add
  | .op '-' => some .sub
  | .shl => some .shl
  | .shr => some .shr
  | .op '&' => some .and
  | .op '^' => some .xor
  | .op '|' => some .or
  | _ => none

/-- An expression read from its tokens; `operand` says that an operand comes next. -/
def parseFrom : List Tok → Bool → List Waiting → List AsmExpr → Option AsmExpr
  | .op '%' :: .name n :: .op '(' :: ts, true, ws, es =>
    if n = "hi".toList then parseFrom ts true (.hi :: ws) es
    else if n = "lo".toList then parseFrom ts true (.lo :: ws) es
    else none
  | t :: ts, true, ws, es =>
    match t with
    | .num n => parseFrom ts false ws (.lit (BitVec.ofNat 64 n) :: es)
    | .name n => parseFrom ts false ws ((if n = ['.'] then .here else .sym n) :: es)
    | .op '-' => parseFrom ts true (.neg :: ws) es
    | .op '~' => parseFrom ts true (.not :: ws) es
    | .op '(' => parseFrom ts true (.paren :: ws) es
    | _ => none
  | t :: ts, false, ws, es =>
    if t = .op ')' then
      match applyWaiting 0 ws es with
      | some (.paren :: ws, es) => parseFrom ts false ws es
      | some (.hi :: ws, a :: es) => parseFrom ts false ws (.hi a :: es)
      | some (.lo :: ws, a :: es) => parseFrom ts false ws (.lo a :: es)
      | _ => none
    else match t.binOp with
      | some o =>
        match applyWaiting o.level ws es with
        | some (ws, es) => parseFrom ts true (.bin o :: ws) es
        | none => none
      | none => none
  | [], false, ws, es =>
    match applyWaiting 0 ws es with
    | some ([], [e]) => some e
    | _ => none
  | [], true, _, _ => none

/-- The expression that a text writes. -/
def asmExpr (t : Text) : Except AsmError AsmExpr :=
  match (tokens t).bind (fun ts => parseFrom ts true [] []) with
  | some e => .ok e
  | none => .error .badExpression

/-- The operators (R125): `/` and `%` as DIV and REM with a divisor of zero an error, logical shifts whose amount is unsigned,
every other result modulo 2^64. -/
def BinOp.eval (o : BinOp) (a b : Word) : Except AsmError Word :=
  match o with
  | .mul => .ok (a * b)
  | .div => if b = 0 then .error .zeroDivisor else .ok (a.sdiv b)
  | .rem => if b = 0 then .error .zeroDivisor else .ok (a.srem b)
  | .add => .ok (a + b)
  | .sub => .ok (a - b)
  | .shl => .ok (if b.toNat < 64 then a <<< b.toNat else 0)
  | .shr => .ok (if b.toNat < 64 then a >>> b.toNat else 0)
  | .and => .ok (a &&& b)
  | .xor => .ok (a ^^^ b)
  | .or => .ok (a ||| b)

/-- %lo(x): x[15:0] (R125). -/
def loPart (x : Word) : Word := (x.extractLsb' 0 16).setWidth 64

/-- %hi(x): ((x + 0x8000) >> 16)[15:0], in its range (R125). -/
def hiPart (x : Word) : Except AsmError Word :=
  if -(2 ^ 31) ≤ x.toInt && x.toInt ≤ 0x7FFF7FFF then .ok (((x + 0x8000).extractLsb' 16 16).setWidth 64) else .error .hiRange

/-- Where an expression stands: what symbols are worth, which of them .equ made absolute, and the address that `.` names. -/
structure AsmEnv where
  sym : Text → Option Word
  absolute : Text → Bool := fun _ => false
  here : Word

/-- The value of an expression (R125). -/
def AsmExpr.eval (env : AsmEnv) : AsmExpr → Except AsmError Word
  | .lit v => .ok v
  | .sym n => match env.sym n with
    | some v => .ok v
    | none => .error .undefined
  | .here => .ok env.here
  | .neg e => do return -(← e.eval env)
  | .not e => do return ~~~(← e.eval env)
  | .hi e => do hiPart (← e.eval env)
  | .lo e => do return loPart (← e.eval env)
  | .bin o a b => do o.eval (← a.eval env) (← b.eval env)

/-- The value of the expression that a text writes. -/
def AsmEnv.value (env : AsmEnv) (t : Text) : Except AsmError Word := do (← asmExpr t).eval env

/-- A value that must lie from `lo` to `hi`. -/
def fits (lo hi : Int) (v : Int) : Except AsmError Int := if lo ≤ v && v ≤ hi then .ok v else .error .range

/-- A value for an unsigned field of `len` bits. -/
def AsmEnv.unsigned (env : AsmEnv) (len : Nat) (t : Text) : Except AsmError Nat := do
  return (← fits 0 (2 ^ len - 1) (← env.value t).toInt).toNat

/-- Whether an expression names no address. -/
def AsmExpr.constant (env : AsmEnv) : AsmExpr → Bool
  | .lit _ => true
  | .sym n => env.absolute n
  | .here => false
  | .neg e | .not e | .hi e | .lo e => e.constant env
  | .bin _ a b => a.constant env && b.constant env

/-- The symbol and the addend of a relocation's expression (R128, R131). The rules do not say which expressions a record can hold:
the model takes a symbol plus or minus constants, or a constant, and refuses `.` and differences of labels.
DESIGN CHOICE, log 53. -/
def AsmExpr.symbolPlus (env : AsmEnv) : AsmExpr → Except AsmError (Option Text × Word)
  | .sym n => .ok (some n, 0)
  | .bin .add a b => do
    if b.constant env then
      let (n, x) ← a.symbolPlus env
      return (n, x + (← b.eval env))
    else if a.constant env then
      let (n, x) ← b.symbolPlus env
      return (n, x + (← a.eval env))
    else .error .badReloc
  | .bin .sub a b => do
    if b.constant env then
      let (n, x) ← a.symbolPlus env
      return (n, x - (← b.eval env))
    else .error .badReloc
  | e => if e.constant env then do return (none, ← e.eval env) else .error .badReloc

end Sys2Proof.Machine
end

