-- ==== Sys2Proof/Machine/AsmTable.lean ====
section
/-!
DEFINITION. The assembler's tables: for every mnemonic the fixed bits of its word (03 R91 to R115), the operands in the order
they are written, and from its format which trailing operands and suffixes it takes (R123, R124); and the names of control words, formats,
scopes and gang codes.
-/

namespace Sys2Proof.Machine

/-- An operand as it is written, and the lowest bit of the field that holds it (R123). -/
inductive Operand where
  /-- s0 to s31, or zero. -/
  | scalar (lo : Nat)
  /-- v0 to v31. -/
  | group (lo : Nat)
  /-- m0 up to `count`. -/
  | mask (lo count : Nat)
  /-- q0 to q15, in a field of `len` bits. -/
  | queue (lo len : Nat)
  /-- (sa). -/
  | mem (lo : Nat)
  /-- off(sa) of LOAD and STORE: RA at bit 16, OFF in bits [12:0]. -/
  | memOff
  /-- sa or sp:sa of COPY; `bit` is the bit of A that `sp:` sets. -/
  | spScalar (lo bit : Nat)
  /-- A control word, in bits [15:4]. -/
  | cw
  /-- A scope. -/
  | scope (lo : Nat)
  /-- A scope that defaults to device (R124). -/
  | scopeOpt (lo : Nat)
  /-- A fence set. -/
  | fenceSet (lo : Nat)
  /-- A format of R113. -/
  | format (lo : Nat)
  /-- An unsigned immediate of `len` bits. -/
  | imm (lo len : Nat)
  /-- IMM of a major that sign-extends it (R93). -/
  | simm
  /-- IMM of a major that zero-extends it (R93). -/
  | zimm
  /-- A label, as the offset in words from the instruction, in the low `len` bits (R93). -/
  | target (len : Nat)
  /-- The number of registers of VCFG: 4, 8, 16 or 32 (R108). -/
  | config
  /-- The parties of BAR, of which CW holds one less (04 R155). -/
  | parties
  deriving DecidableEq, Repr

/-- Which suffixes an RMW mnemonic takes: none, those of the order, those of the width, or both (R124; 04 R145, R146). -/
inductive RmwSuffix where
  | none | order | width | both
  deriving DecidableEq, Repr

/-- A mnemonic: its name, the fixed bits of its word, its operands, and the suffixes of RMW it takes. -/
structure AsmRow where
  name : Text
  word : BitVec 32
  ops : List Operand
  rmw : RmwSuffix := .none
  deriving DecidableEq, Repr

def AsmRow.major (r : AsmRow) : Nat := (r.word.extractLsb' 26 6).toNat

/-- Whether the format holds M, MS, DS and X: V3, VS and VQ (R91, R96). -/
def AsmRow.vector (r : AsmRow) : Bool :=
  (decide (0x18 ≤ r.major) && decide (r.major ≤ 0x27)) || r.major == 0x29 || r.major == 0x2A || r.major == 0x2E || r.major == 0x38

/-- The majors of TMUL and TMULSP, format TL. -/
def AsmRow.tile (r : AsmRow) : Bool := r.major == 0x2C || r.major == 0x2D

/-- Whether the format holds DS: V3, VS, VQ, TL, ST and EN (R91, R96). -/
def AsmRow.selects (r : AsmRow) : Bool :=
  r.vector || r.tile || r.major == 0x30 || (decide (0x32 ≤ r.major) && decide (r.major ≤ 0x35))

/-- The major of `.pk` (R124). -/
def AsmRow.source (r : AsmRow) : Bool := r.major == 0x26

/-- The place of a name in a list, in any case. -/
def nameIndex (names : List String) (t : Text) : Option Nat := names.findIdx? (· == String.ofList (lower t))

/-- The scopes (R123). -/
def scopeNames : List String := ["hart", "core", "device", "gang"]

/-- The formats by code (R113). -/
def formatNames : List String :=
  ["s8", "s16", "s32", "s64", "z8", "z16", "z32", "z64", "f16", "bf16", "f32", "e4m3", "e5m2", "e2m1", "mxint8", "mxint6",
   "mxint4", "mxfp4", "s4", "z4"]

/-- The operand formats A and B of TMUL by gang code (R111). -/
def gangFormats : List (String × String) :=
  [("bf16", "bf16"), ("f16", "f16"), ("e4m3", "e4m3"), ("e4m3", "e5m2"), ("e5m2", "e4m3"), ("e5m2", "e5m2"),
   ("mxint8", "mxint8"), ("mxint6", "mxint6"), ("mxint4", "mxint4"), ("mxfp4", "mxfp4"), ("mxint8", "mxint4"),
   ("mxint4", "mxint8"), ("mxint6", "mxint4"), ("mxint4", "mxint6")]

/-- The control words with a name, and their indexes (R117). -/
def cwNames : List (String × Nat) :=
  [("vl", 0x000), ("vstart", 0x001), ("vtype", 0x002), ("vlmax", 0x003), ("vgeom", 0x004), ("fflags", 0x010),
   ("satcnt", 0x016), ("lfsridx", 0x018), ("lfsrdat", 0x019), ("tm", 0x020), ("tn", 0x021), ("tk", 0x022), ("tkprog", 0x023),
   ("hartid", 0x040), ("tenant", 0x041), ("lanemask", 0x042), ("qown", 0x043), ("tvec", 0x050), ("tcause", 0x051),
   ("tpc", 0x052), ("tqsn", 0x053), ("tscratch", 0x058), ("emubase", 0x060)]

/-- The control words that are numbered: the letters, how many, and the index of the first (R117). -/
def cwFamilies : List (String × Nat × Nat) :=
  [("ds", 4, 0x008), ("fexc", 5, 0x011), ("qavail", 16, 0x030), ("tinfo", 4, 0x054), ("watch", 4, 0x070)]

/-- The index of a control word's name (R117), in any case: R122 does not say whether these names are case-sensitive.
DESIGN CHOICE, log 53. -/
def cwIndex (t : Text) : Option Nat :=
  match cwNames.find? (fun r => r.1 == String.ofList (lower t)) with
  | some r => some r.2
  | none => cwFamilies.findSome? (fun r => (numbered r.1.toList r.2.1 t).map (r.2.2 + ·))

/-- ALU, BITF, FPS and the immediate majors (R100 to R103; 04 R138 to R143). -/
def asmScalarRowsA : List AsmRow := [
  { name := ['a', 'd', 'd'], word := 0x04000000, ops := [.scalar 21, .scalar 16, .scalar 11] },
  { name := ['s', 'u', 'b'], word := 0x04000001, ops := [.scalar 21, .scalar 16, .scalar 11] },
  { name := ['a', 'n', 'd'], word := 0x04000002, ops := [.scalar 21, .scalar 16, .scalar 11] },
  { name := ['o', 'r'], word := 0x04000003, ops := [.scalar 21, .scalar 16, .scalar 11] },
  { name := ['x', 'o', 'r'], word := 0x04000004, ops := [.scalar 21, .scalar 16, .scalar 11] },
  { name := ['a', 'n', 'd', 'n'], word := 0x04000005, ops := [.scalar 21, .scalar 16, .scalar 11] },
  { name := ['o', 'r', 'n'], word := 0x04000006, ops := [.scalar 21, .scalar 16, .scalar 11] },
  { name := ['x', 'n', 'o', 'r'], word := 0x04000007, ops := [.scalar 21, .scalar 16, .scalar 11] },
  { name := ['s', 'l', 'l'], word := 0x04000008, ops := [.scalar 21, .scalar 16, .scalar 11] },
  { name := ['s', 'r', 'l'], word := 0x04000009, ops := [.scalar 21, .scalar 16, .scalar 11] },
  { name := ['s', 'r', 'a'], word := 0x0400000A, ops := [.scalar 21, .scalar 16, .scalar 11] },
  { name := ['r', 'o', 'l'], word := 0x0400000B, ops := [.scalar 21, .scalar 16, .scalar 11] },
  { name := ['r', 'o', 'r'], word := 0x0400000C, ops := [.scalar 21, .scalar 16, .scalar 11] },
  { name := ['s', 'l', 't'], word := 0x0400000D, ops := [.scalar 21, .scalar 16, .scalar 11] },
  { name := ['s', 'l', 't', 'u'], word := 0x0400000E, ops := [.scalar 21, .scalar 16, .scalar 11] },
  { name := ['m', 'u', 'l'], word := 0x04000010, ops := [.scalar 21, .scalar 16, .scalar 11] },
  { name := ['m', 'u', 'l', 'h'], word := 0x04000011, ops := [.scalar 21, .scalar 16, .scalar 11] },
  { name := ['m', 'u', 'l', 'h', 'u'], word := 0x04000012, ops := [.scalar 21, .scalar 16, .scalar 11] },
  { name := ['m', 'u', 'l', 'h', 's', 'u'], word := 0x04000013, ops := [.scalar 21, .scalar 16, .scalar 11] },
  { name := ['d', 'i', 'v'], word := 0x04000014, ops := [.scalar 21, .scalar 16, .scalar 11] },
  { name := ['d', 'i', 'v', 'u'], word := 0x04000015, ops := [.scalar 21, .scalar 16, .scalar 11] },
  { name := ['r', 'e', 'm'], word := 0x04000016, ops := [.scalar 21, .scalar 16, .scalar 11] },
  { name := ['r', 'e', 'm', 'u'], word := 0x04000017, ops := [.scalar 21, .scalar 16, .scalar 11] },
  { name := ['m', 'i', 'n'], word := 0x04000018, ops := [.scalar 21, .scalar 16, .scalar 11] },
  { name := ['m', 'a', 'x'], word := 0x04000019, ops := [.scalar 21, .scalar 16, .scalar 11] },
  { name := ['m', 'i', 'n', 'u'], word := 0x0400001A, ops := [.scalar 21, .scalar 16, .scalar 11] },
  { name := ['m', 'a', 'x', 'u'], word := 0x0400001B, ops := [.scalar 21, .scalar 16, .scalar 11] },
  { name := ['c', 'l', 'z'], word := 0x0400001C, ops := [.scalar 21, .scalar 16] },
  { name := ['c', 't', 'z'], word := 0x0400001D, ops := [.scalar 21, .scalar 16] },
  { name := ['p', 'o', 'p', 'c'], word := 0x0400001E, ops := [.scalar 21, .scalar 16] },
  { name := ['r', 'e', 'v', '8'], word := 0x0400001F, ops := [.scalar 21, .scalar 16] },
  { name := ['s', 'l', 'l', 'i'], word := 0x04000020, ops := [.scalar 21, .scalar 16, .imm 10 6] },
  { name := ['s', 'r', 'l', 'i'], word := 0x04000021, ops := [.scalar 21, .scalar 16, .imm 10 6] },
  { name := ['s', 'r', 'a', 'i'], word := 0x04000022, ops := [.scalar 21, .scalar 16, .imm 10 6] },
  { name := ['r', 'o', 'r', 'i'], word := 0x04000023, ops := [.scalar 21, .scalar 16, .imm 10 6] },
  { name := ['s', 'e', 'x', 't', 'b'], word := 0x04000024, ops := [.scalar 21, .scalar 16] },
  { name := ['s', 'e', 'x', 't', 'h'], word := 0x04000025, ops := [.scalar 21, .scalar 16] },
  { name := ['s', 'e', 'x', 't', 'w'], word := 0x04000026, ops := [.scalar 21, .scalar 16] },
  { name := ['z', 'e', 'x', 't', 'w'], word := 0x04000027, ops := [.scalar 21, .scalar 16] },
  { name := ['s', 'e', 'l', 'z'], word := 0x04000028, ops := [.scalar 21, .scalar 16, .scalar 11, .scalar 6] }]

/-- ALU, BITF, FPS and the immediate majors (R100 to R103; 04 R138 to R143). -/
def asmScalarRowsB : List AsmRow := [
  { name := ['s', 'e', 'l', 'n', 'z'], word := 0x04000029, ops := [.scalar 21, .scalar 16, .scalar 11, .scalar 6] },
  { name := ['f', 's', 'l'], word := 0x08000000, ops := [.scalar 21, .scalar 16, .scalar 11, .scalar 6] },
  { name := ['f', 's', 'r'], word := 0x08000001, ops := [.scalar 21, .scalar 16, .scalar 11, .scalar 6] },
  { name := ['b', 'f', 'x'], word := 0x08000002, ops := [.scalar 21, .scalar 16, .scalar 11, .scalar 6] },
  { name := ['b', 'f', 'x', 's'], word := 0x08000003, ops := [.scalar 21, .scalar 16, .scalar 11, .scalar 6] },
  { name := ['b', 'f', 'i'], word := 0x08000004, ops := [.scalar 21, .scalar 16, .scalar 11, .scalar 6] },
  { name := ['b', 'd', 'e', 'p'], word := 0x08000005, ops := [.scalar 21, .scalar 16, .scalar 11] },
  { name := ['b', 'c', 'm', 'p', 'r'], word := 0x08000006, ops := [.scalar 21, .scalar 16, .scalar 11] },
  { name := ['b', 'r', 'e', 'v'], word := 0x08000007, ops := [.scalar 21, .scalar 16] },
  { name := ['f', 'a', 'd', 'd', '.', 's'], word := 0x0C000000, ops := [.scalar 21, .scalar 16, .scalar 11] },
  { name := ['f', 's', 'u', 'b', '.', 's'], word := 0x0C000001, ops := [.scalar 21, .scalar 16, .scalar 11] },
  { name := ['f', 'm', 'u', 'l', '.', 's'], word := 0x0C000002, ops := [.scalar 21, .scalar 16, .scalar 11] },
  { name := ['f', 'd', 'i', 'v', '.', 's'], word := 0x0C000003, ops := [.scalar 21, .scalar 16, .scalar 11] },
  { name := ['f', 's', 'q', 'r', 't', '.', 's'], word := 0x0C000004, ops := [.scalar 21, .scalar 16] },
  { name := ['f', 'm', 'i', 'n', '.', 's'], word := 0x0C000005, ops := [.scalar 21, .scalar 16, .scalar 11] },
  { name := ['f', 'm', 'a', 'x', '.', 's'], word := 0x0C000006, ops := [.scalar 21, .scalar 16, .scalar 11] },
  { name := ['f', 'm', 'a', '.', 's'], word := 0x0C000007, ops := [.scalar 21, .scalar 16, .scalar 11, .scalar 6] },
  { name := ['f', 'n', 'm', 'a', '.', 's'], word := 0x0C000008, ops := [.scalar 21, .scalar 16, .scalar 11, .scalar 6] },
  { name := ['f', 'c', 's', 'i', 'g', 'n', '.', 's'], word := 0x0C000009, ops := [.scalar 21, .scalar 16, .scalar 11] },
  { name := ['f', 'n', 's', 'i', 'g', 'n', '.', 's'], word := 0x0C00000A, ops := [.scalar 21, .scalar 16, .scalar 11] },
  { name := ['f', 'x', 's', 'i', 'g', 'n', '.', 's'], word := 0x0C00000B, ops := [.scalar 21, .scalar 16, .scalar 11] },
  { name := ['f', 'e', 'q', '.', 's'], word := 0x0C00000C, ops := [.scalar 21, .scalar 16, .scalar 11] },
  { name := ['f', 'l', 't', '.', 's'], word := 0x0C00000D, ops := [.scalar 21, .scalar 16, .scalar 11] },
  { name := ['f', 'l', 'e', '.', 's'], word := 0x0C00000E, ops := [.scalar 21, .scalar 16, .scalar 11] },
  { name := ['f', 'k', 'i', 'n', 'd', '.', 's'], word := 0x0C00000F, ops := [.scalar 21, .scalar 16] },
  { name := ['f', 't', 'o', 'i', '.', 's'], word := 0x0C000010, ops := [.scalar 21, .scalar 16] },
  { name := ['f', 't', 'o', 'i', 'u', '.', 's'], word := 0x0C000011, ops := [.scalar 21, .scalar 16] },
  { name := ['i', 't', 'o', 'f', '.', 's'], word := 0x0C000012, ops := [.scalar 21, .scalar 16] },
  { name := ['u', 't', 'o', 'f', '.', 's'], word := 0x0C000013, ops := [.scalar 21, .scalar 16] },
  { name := ['f', 't', 'o', 'h', '.', 's'], word := 0x0C000014, ops := [.scalar 21, .scalar 16] },
  { name := ['f', 't', 'o', 'b', '.', 's'], word := 0x0C000015, ops := [.scalar 21, .scalar 16] },
  { name := ['h', 't', 'o', 'f', '.', 's'], word := 0x0C000016, ops := [.scalar 21, .scalar 16] },
  { name := ['b', 't', 'o', 'f', '.', 's'], word := 0x0C000017, ops := [.scalar 21, .scalar 16] },
  { name := ['f', 'c', 'v', 't', 'x', '.', 's'], word := 0x0C000018, ops := [.scalar 21, .scalar 16] },
  { name := ['f', 'a', 'd', 'd', '.', 'd'], word := 0x0C000020, ops := [.scalar 21, .scalar 16, .scalar 11] },
  { name := ['f', 's', 'u', 'b', '.', 'd'], word := 0x0C000021, ops := [.scalar 21, .scalar 16, .scalar 11] },
  { name := ['f', 'm', 'u', 'l', '.', 'd'], word := 0x0C000022, ops := [.scalar 21, .scalar 16, .scalar 11] },
  { name := ['f', 'd', 'i', 'v', '.', 'd'], word := 0x0C000023, ops := [.scalar 21, .scalar 16, .scalar 11] },
  { name := ['f', 's', 'q', 'r', 't', '.', 'd'], word := 0x0C000024, ops := [.scalar 21, .scalar 16] },
  { name := ['f', 'm', 'i', 'n', '.', 'd'], word := 0x0C000025, ops := [.scalar 21, .scalar 16, .scalar 11] }]

/-- ALU, BITF, FPS and the immediate majors (R100 to R103; 04 R138 to R143). -/
def asmScalarRowsC : List AsmRow := [
  { name := ['f', 'm', 'a', 'x', '.', 'd'], word := 0x0C000026, ops := [.scalar 21, .scalar 16, .scalar 11] },
  { name := ['f', 'm', 'a', '.', 'd'], word := 0x0C000027, ops := [.scalar 21, .scalar 16, .scalar 11, .scalar 6] },
  { name := ['f', 'n', 'm', 'a', '.', 'd'], word := 0x0C000028, ops := [.scalar 21, .scalar 16, .scalar 11, .scalar 6] },
  { name := ['f', 'c', 's', 'i', 'g', 'n', '.', 'd'], word := 0x0C000029, ops := [.scalar 21, .scalar 16, .scalar 11] },
  { name := ['f', 'n', 's', 'i', 'g', 'n', '.', 'd'], word := 0x0C00002A, ops := [.scalar 21, .scalar 16, .scalar 11] },
  { name := ['f', 'x', 's', 'i', 'g', 'n', '.', 'd'], word := 0x0C00002B, ops := [.scalar 21, .scalar 16, .scalar 11] },
  { name := ['f', 'e', 'q', '.', 'd'], word := 0x0C00002C, ops := [.scalar 21, .scalar 16, .scalar 11] },
  { name := ['f', 'l', 't', '.', 'd'], word := 0x0C00002D, ops := [.scalar 21, .scalar 16, .scalar 11] },
  { name := ['f', 'l', 'e', '.', 'd'], word := 0x0C00002E, ops := [.scalar 21, .scalar 16, .scalar 11] },
  { name := ['f', 'k', 'i', 'n', 'd', '.', 'd'], word := 0x0C00002F, ops := [.scalar 21, .scalar 16] },
  { name := ['f', 't', 'o', 'i', '.', 'd'], word := 0x0C000030, ops := [.scalar 21, .scalar 16] },
  { name := ['f', 't', 'o', 'i', 'u', '.', 'd'], word := 0x0C000031, ops := [.scalar 21, .scalar 16] },
  { name := ['i', 't', 'o', 'f', '.', 'd'], word := 0x0C000032, ops := [.scalar 21, .scalar 16] },
  { name := ['u', 't', 'o', 'f', '.', 'd'], word := 0x0C000033, ops := [.scalar 21, .scalar 16] },
  { name := ['f', 't', 'o', 'h', '.', 'd'], word := 0x0C000034, ops := [.scalar 21, .scalar 16] },
  { name := ['f', 't', 'o', 'b', '.', 'd'], word := 0x0C000035, ops := [.scalar 21, .scalar 16] },
  { name := ['h', 't', 'o', 'f', '.', 'd'], word := 0x0C000036, ops := [.scalar 21, .scalar 16] },
  { name := ['b', 't', 'o', 'f', '.', 'd'], word := 0x0C000037, ops := [.scalar 21, .scalar 16] },
  { name := ['f', 'c', 'v', 't', 'x', '.', 'd'], word := 0x0C000038, ops := [.scalar 21, .scalar 16] },
  { name := ['a', 'd', 'd', 'i'], word := 0x10000000, ops := [.scalar 21, .scalar 16, .simm] },
  { name := ['a', 'n', 'd', 'i'], word := 0x14000000, ops := [.scalar 21, .scalar 16, .zimm] },
  { name := ['o', 'r', 'i'], word := 0x18000000, ops := [.scalar 21, .scalar 16, .zimm] },
  { name := ['x', 'o', 'r', 'i'], word := 0x1C000000, ops := [.scalar 21, .scalar 16, .zimm] },
  { name := ['s', 'l', 't', 'i'], word := 0x20000000, ops := [.scalar 21, .scalar 16, .simm] },
  { name := ['s', 'l', 't', 'i', 'u'], word := 0x24000000, ops := [.scalar 21, .scalar 16, .simm] },
  { name := ['l', 'u', 'i'], word := 0x28000000, ops := [.scalar 21, .simm] },
  { name := ['a', 'd', 'd', 'h', 'i'], word := 0x2C000000, ops := [.scalar 21, .scalar 16, .simm] }]

/-- LOAD, STORE and RMW (R103, R104; 04 R144 to R146). -/
def asmMemoryRows : List AsmRow := [
  { name := ['l', 'd', 'b'], word := 0x30000000, ops := [.scalar 21, .memOff] },
  { name := ['l', 'd', 'h'], word := 0x30002000, ops := [.scalar 21, .memOff] },
  { name := ['l', 'd', 'w'], word := 0x30004000, ops := [.scalar 21, .memOff] },
  { name := ['l', 'd', 'd'], word := 0x30006000, ops := [.scalar 21, .memOff] },
  { name := ['l', 'd', 'b', 'u'], word := 0x30008000, ops := [.scalar 21, .memOff] },
  { name := ['l', 'd', 'h', 'u'], word := 0x3000A000, ops := [.scalar 21, .memOff] },
  { name := ['l', 'd', 'w', 'u'], word := 0x3000C000, ops := [.scalar 21, .memOff] },
  { name := ['s', 't', 'b'], word := 0x34000000, ops := [.scalar 21, .memOff] },
  { name := ['s', 't', 'h'], word := 0x34002000, ops := [.scalar 21, .memOff] },
  { name := ['s', 't', 'w'], word := 0x34004000, ops := [.scalar 21, .memOff] },
  { name := ['s', 't', 'd'], word := 0x34006000, ops := [.scalar 21, .memOff] },
  { name := ['r', 'm', 's', 'w', 'a', 'p'], word := 0x38000000, ops := [.scalar 21, .mem 16, .scalar 11, .scopeOpt 9], rmw := .both },
  { name := ['r', 'm', 'a', 'd', 'd'], word := 0x38000001, ops := [.scalar 21, .mem 16, .scalar 11, .scopeOpt 9], rmw := .both },
  { name := ['r', 'm', 'a', 'n', 'd'], word := 0x38000002, ops := [.scalar 21, .mem 16, .scalar 11, .scopeOpt 9], rmw := .both },
  { name := ['r', 'm', 'o', 'r'], word := 0x38000003, ops := [.scalar 21, .mem 16, .scalar 11, .scopeOpt 9], rmw := .both },
  { name := ['r', 'm', 'x', 'o', 'r'], word := 0x38000004, ops := [.scalar 21, .mem 16, .scalar 11, .scopeOpt 9], rmw := .both },
  { name := ['r', 'm', 'm', 'i', 'n'], word := 0x38000005, ops := [.scalar 21, .mem 16, .scalar 11, .scopeOpt 9], rmw := .both },
  { name := ['r', 'm', 'm', 'a', 'x'], word := 0x38000006, ops := [.scalar 21, .mem 16, .scalar 11, .scopeOpt 9], rmw := .both },
  { name := ['r', 'm', 'm', 'i', 'n', 'u'], word := 0x38000007, ops := [.scalar 21, .mem 16, .scalar 11, .scopeOpt 9], rmw := .both },
  { name := ['r', 'm', 'm', 'a', 'x', 'u'], word := 0x38000008, ops := [.scalar 21, .mem 16, .scalar 11, .scopeOpt 9], rmw := .both },
  { name := ['c', 'a', 's'], word := 0x38000009, ops := [.scalar 21, .mem 16, .scalar 11, .scopeOpt 9], rmw := .both },
  { name := ['l', 'd', 'a'], word := 0x3800010A, ops := [.scalar 21, .mem 16, .scopeOpt 9], rmw := .width },
  { name := ['s', 't', 'l'], word := 0x3800008B, ops := [.mem 16, .scalar 11, .scopeOpt 9], rmw := .width },
  { name := ['c', 'l', 'a', 'i', 'm'], word := 0x3800004C, ops := [.scalar 21, .mem 16, .scalar 11, .scopeOpt 9], rmw := .order }]

/-- Jumps, branches, SYS and FENCE (R103, R105, R106; 04 R147 to R156). -/
def asmFlowRows : List AsmRow := [
  { name := ['j', 'a', 'l', 'r'], word := 0x3C000000, ops := [.scalar 21, .scalar 16, .simm] },
  { name := ['b', 'e', 'q'], word := 0x40000000, ops := [.scalar 21, .scalar 16, .target 13] },
  { name := ['b', 'n', 'e'], word := 0x40002000, ops := [.scalar 21, .scalar 16, .target 13] },
  { name := ['b', 'l', 't'], word := 0x40004000, ops := [.scalar 21, .scalar 16, .target 13] },
  { name := ['b', 'g', 'e'], word := 0x40006000, ops := [.scalar 21, .scalar 16, .target 13] },
  { name := ['b', 'l', 't', 'u'], word := 0x40008000, ops := [.scalar 21, .scalar 16, .target 13] },
  { name := ['b', 'g', 'e', 'u'], word := 0x4000A000, ops := [.scalar 21, .scalar 16, .target 13] },
  { name := ['j', 'a', 'l'], word := 0x44000000, ops := [.scalar 21, .target 21] },
  { name := ['c', 'w', 'r', 'e', 'a', 'd'], word := 0x4C000000, ops := [.scalar 21, .cw] },
  { name := ['c', 'w', 'w', 'r', 'i', 't', 'e'], word := 0x4C000001, ops := [.cw, .scalar 16] },
  { name := ['c', 'w', 's', 'e', 't'], word := 0x4C000002, ops := [.cw, .scalar 16] },
  { name := ['c', 'w', 'c', 'l', 'r'], word := 0x4C000003, ops := [.cw, .scalar 16] },
  { name := ['t', 'r', 'a', 'p'], word := 0x4C000004, ops := [.imm 4 12] },
  { name := ['b', 'r', 'k'], word := 0x4C000005, ops := [.imm 4 12] },
  { name := ['r', 'e', 't', 't'], word := 0x4C000006, ops := [] },
  { name := ['y', 'i', 'e', 'l', 'd'], word := 0x4C000007, ops := [] },
  { name := ['h', 'a', 'l', 't'], word := 0x4C000008, ops := [] },
  { name := ['b', 'a', 'r'], word := 0x4C000009, ops := [.scalar 16, .parties] },
  { name := ['f', 'e', 'n', 'c', 'e'], word := 0x50000000, ops := [.fenceSet 21, .fenceSet 16, .scope 14] }]

/-- VINT and VINTS (R107; 05 R178). -/
def asmIntRows : List AsmRow := [
  { name := ['v', 'a', 'd', 'd'], word := 0x60000000, ops := [.group 21, .group 16, .group 11] },
  { name := ['v', 's', 'u', 'b'], word := 0x60000001, ops := [.group 21, .group 16, .group 11] },
  { name := ['v', 's', 'u', 'b', 'r'], word := 0x60000002, ops := [.group 21, .group 16, .group 11] },
  { name := ['v', 'm', 'u', 'l'], word := 0x60000003, ops := [.group 21, .group 16, .group 11] },
  { name := ['v', 'm', 'u', 'l', 'h'], word := 0x60000004, ops := [.group 21, .group 16, .group 11] },
  { name := ['v', 'm', 'u', 'l', 'h', 'u'], word := 0x60000005, ops := [.group 21, .group 16, .group 11] },
  { name := ['v', 'm', 'i', 'n'], word := 0x60000006, ops := [.group 21, .group 16, .group 11] },
  { name := ['v', 'm', 'a', 'x'], word := 0x60000007, ops := [.group 21, .group 16, .group 11] },
  { name := ['v', 'm', 'i', 'n', 'u'], word := 0x60000008, ops := [.group 21, .group 16, .group 11] },
  { name := ['v', 'm', 'a', 'x', 'u'], word := 0x60000009, ops := [.group 21, .group 16, .group 11] },
  { name := ['v', 'a', 'n', 'd'], word := 0x6000000A, ops := [.group 21, .group 16, .group 11] },
  { name := ['v', 'o', 'r'], word := 0x6000000B, ops := [.group 21, .group 16, .group 11] },
  { name := ['v', 'x', 'o', 'r'], word := 0x6000000C, ops := [.group 21, .group 16, .group 11] },
  { name := ['v', 's', 'l', 'l'], word := 0x6000000D, ops := [.group 21, .group 16, .group 11] },
  { name := ['v', 's', 'r', 'l'], word := 0x6000000E, ops := [.group 21, .group 16, .group 11] },
  { name := ['v', 's', 'r', 'a'], word := 0x6000000F, ops := [.group 21, .group 16, .group 11] },
  { name := ['v', 'a', 'd', 'd', '.', 'v', 's'], word := 0x64000000, ops := [.group 21, .group 16, .scalar 11] },
  { name := ['v', 's', 'u', 'b', '.', 'v', 's'], word := 0x64000001, ops := [.group 21, .group 16, .scalar 11] },
  { name := ['v', 's', 'u', 'b', 'r', '.', 'v', 's'], word := 0x64000002, ops := [.group 21, .group 16, .scalar 11] },
  { name := ['v', 'm', 'u', 'l', '.', 'v', 's'], word := 0x64000003, ops := [.group 21, .group 16, .scalar 11] },
  { name := ['v', 'm', 'u', 'l', 'h', '.', 'v', 's'], word := 0x64000004, ops := [.group 21, .group 16, .scalar 11] },
  { name := ['v', 'm', 'u', 'l', 'h', 'u', '.', 'v', 's'], word := 0x64000005, ops := [.group 21, .group 16, .scalar 11] },
  { name := ['v', 'm', 'i', 'n', '.', 'v', 's'], word := 0x64000006, ops := [.group 21, .group 16, .scalar 11] },
  { name := ['v', 'm', 'a', 'x', '.', 'v', 's'], word := 0x64000007, ops := [.group 21, .group 16, .scalar 11] },
  { name := ['v', 'm', 'i', 'n', 'u', '.', 'v', 's'], word := 0x64000008, ops := [.group 21, .group 16, .scalar 11] },
  { name := ['v', 'm', 'a', 'x', 'u', '.', 'v', 's'], word := 0x64000009, ops := [.group 21, .group 16, .scalar 11] },
  { name := ['v', 'a', 'n', 'd', '.', 'v', 's'], word := 0x6400000A, ops := [.group 21, .group 16, .scalar 11] },
  { name := ['v', 'o', 'r', '.', 'v', 's'], word := 0x6400000B, ops := [.group 21, .group 16, .scalar 11] },
  { name := ['v', 'x', 'o', 'r', '.', 'v', 's'], word := 0x6400000C, ops := [.group 21, .group 16, .scalar 11] },
  { name := ['v', 's', 'l', 'l', '.', 'v', 's'], word := 0x6400000D, ops := [.group 21, .group 16, .scalar 11] },
  { name := ['v', 's', 'r', 'l', '.', 'v', 's'], word := 0x6400000E, ops := [.group 21, .group 16, .scalar 11] },
  { name := ['v', 's', 'r', 'a', '.', 'v', 's'], word := 0x6400000F, ops := [.group 21, .group 16, .scalar 11] }]

/-- VFP, VFPS and VSPEC (R107; 05 R180, R182). -/
def asmFpRowsA : List AsmRow := [
  { name := ['v', 'f', 'a', 'd', 'd'], word := 0x68000000, ops := [.group 21, .group 16, .group 11] },
  { name := ['v', 'f', 's', 'u', 'b'], word := 0x68000001, ops := [.group 21, .group 16, .group 11] },
  { name := ['v', 'f', 'm', 'u', 'l'], word := 0x68000002, ops := [.group 21, .group 16, .group 11] },
  { name := ['v', 'f', 'd', 'i', 'v'], word := 0x68000003, ops := [.group 21, .group 16, .group 11] },
  { name := ['v', 'f', 'm', 'i', 'n'], word := 0x68000004, ops := [.group 21, .group 16, .group 11] },
  { name := ['v', 'f', 'm', 'a', 'x'], word := 0x68000005, ops := [.group 21, .group 16, .group 11] },
  { name := ['v', 'f', 'm', 'a'], word := 0x68000006, ops := [.group 21, .group 16, .group 11] },
  { name := ['v', 'f', 'n', 'm', 'a'], word := 0x68000007, ops := [.group 21, .group 16, .group 11] },
  { name := ['v', 'f', 'm', 's'], word := 0x68000008, ops := [.group 21, .group 16, .group 11] },
  { name := ['v', 'f', 'c', 's', 'i', 'g', 'n'], word := 0x68000009, ops := [.group 21, .group 16, .group 11] },
  { name := ['v', 'f', 'n', 's', 'i', 'g', 'n'], word := 0x6800000A, ops := [.group 21, .group 16, .group 11] },
  { name := ['v', 'f', 'x', 's', 'i', 'g', 'n'], word := 0x6800000B, ops := [.group 21, .group 16, .group 11] },
  { name := ['v', 'f', 'k', 'i', 'n', 'd'], word := 0x6800000C, ops := [.group 21, .group 16, .group 11] },
  { name := ['v', 'f', 's', 'u', 'b', 'r'], word := 0x6800000D, ops := [.group 21, .group 16, .group 11] },
  { name := ['v', 'f', 'a', 'd', 'd', '.', 'v', 's'], word := 0x6C000000, ops := [.group 21, .group 16, .scalar 11] },
  { name := ['v', 'f', 's', 'u', 'b', '.', 'v', 's'], word := 0x6C000001, ops := [.group 21, .group 16, .scalar 11] },
  { name := ['v', 'f', 'm', 'u', 'l', '.', 'v', 's'], word := 0x6C000002, ops := [.group 21, .group 16, .scalar 11] },
  { name := ['v', 'f', 'd', 'i', 'v', '.', 'v', 's'], word := 0x6C000003, ops := [.group 21, .group 16, .scalar 11] },
  { name := ['v', 'f', 'm', 'i', 'n', '.', 'v', 's'], word := 0x6C000004, ops := [.group 21, .group 16, .scalar 11] },
  { name := ['v', 'f', 'm', 'a', 'x', '.', 'v', 's'], word := 0x6C000005, ops := [.group 21, .group 16, .scalar 11] },
  { name := ['v', 'f', 'm', 'a', '.', 'v', 's'], word := 0x6C000006, ops := [.group 21, .group 16, .scalar 11] },
  { name := ['v', 'f', 'n', 'm', 'a', '.', 'v', 's'], word := 0x6C000007, ops := [.group 21, .group 16, .scalar 11] },
  { name := ['v', 'f', 'm', 's', '.', 'v', 's'], word := 0x6C000008, ops := [.group 21, .group 16, .scalar 11] },
  { name := ['v', 'f', 'c', 's', 'i', 'g', 'n', '.', 'v', 's'], word := 0x6C000009, ops := [.group 21, .group 16, .scalar 11] },
  { name := ['v', 'f', 'n', 's', 'i', 'g', 'n', '.', 'v', 's'], word := 0x6C00000A, ops := [.group 21, .group 16, .scalar 11] },
  { name := ['v', 'f', 'x', 's', 'i', 'g', 'n', '.', 'v', 's'], word := 0x6C00000B, ops := [.group 21, .group 16, .scalar 11] },
  { name := ['v', 'f', 'k', 'i', 'n', 'd', '.', 'v', 's'], word := 0x6C00000C, ops := [.group 21, .group 16, .scalar 11] },
  { name := ['v', 'f', 's', 'u', 'b', 'r', '.', 'v', 's'], word := 0x6C00000D, ops := [.group 21, .group 16, .scalar 11] },
  { name := ['v', 'f', 's', 'q', 'r', 't'], word := 0x70000000, ops := [.group 21, .group 16] },
  { name := ['v', 'f', 'r', 'c', 'p'], word := 0x70000001, ops := [.group 21, .group 16] },
  { name := ['v', 'f', 'r', 's', 'q', 'r', 't'], word := 0x70000002, ops := [.group 21, .group 16] },
  { name := ['v', 'f', 'e', 'x', 'p', '2'], word := 0x70000003, ops := [.group 21, .group 16] },
  { name := ['v', 'f', 'l', 'o', 'g', '2'], word := 0x70000004, ops := [.group 21, .group 16] },
  { name := ['v', 'f', 'e', 'x', 'p'], word := 0x70000005, ops := [.group 21, .group 16] },
  { name := ['v', 'f', 'l', 'o', 'g'], word := 0x70000006, ops := [.group 21, .group 16] },
  { name := ['v', 'f', 't', 'a', 'n', 'h'], word := 0x70000007, ops := [.group 21, .group 16] },
  { name := ['v', 'f', 's', 'i', 'g', 'm'], word := 0x70000008, ops := [.group 21, .group 16] },
  { name := ['v', 'f', 'g', 'e', 'l', 'u'], word := 0x70000009, ops := [.group 21, .group 16] },
  { name := ['v', 'f', 's', 'i', 'l', 'u'], word := 0x7000000A, ops := [.group 21, .group 16] },
  { name := ['v', 'f', 's', 'i', 'n'], word := 0x7000000B, ops := [.group 21, .group 16] }]

/-- VFP, VFPS and VSPEC (R107; 05 R180, R182). -/
def asmFpRowsB : List AsmRow := [
  { name := ['v', 'f', 'c', 'o', 's'], word := 0x7000000C, ops := [.group 21, .group 16] },
  { name := ['v', 'f', 'e', 'r', 'f'], word := 0x7000000D, ops := [.group 21, .group 16] }]

/-- VCVT, VMX and VRED (R108; 05 R184 to R190). -/
def asmCvtRows : List AsmRow := [
  { name := ['v', 'c', 'v', 't'], word := 0x74000000, ops := [.group 21, .group 16, .format 11] },
  { name := ['v', 'w', 'i', 'd', 'e', 'n'], word := 0x74000001, ops := [.group 21, .group 16, .format 11] },
  { name := ['v', 'n', 'a', 'r', 'r', 'o', 'w'], word := 0x74000002, ops := [.group 21, .group 16, .format 11] },
  { name := ['v', 'n', 'a', 'r', 'r', 'o', 'w', 's'], word := 0x74000003, ops := [.group 21, .group 16, .format 11] },
  { name := ['v', 'm', 'x', 'p', 'a', 'c', 'k'], word := 0x78000000, ops := [.group 21, .group 16, .format 11] },
  { name := ['v', 'm', 'x', 'u', 'n', 'p', 'a', 'c', 'k'], word := 0x78000001, ops := [.group 21, .group 16, .format 11] },
  { name := ['v', 'a', 'm', 'a', 'x'], word := 0x78000002, ops := [.scalar 21, .group 16] },
  { name := ['v', 's', 'c', 'a', 'l', 'e'], word := 0x78000003, ops := [.scalar 21, .scalar 16, .format 11] },
  { name := ['v', 'q', 'u', 'a', 'n', 't'], word := 0x78000004, ops := [.group 21, .group 16, .scalar 11] },
  { name := ['v', 'd', 'e', 'q', 'u', 'a', 'n', 't'], word := 0x78000005, ops := [.group 21, .group 16, .scalar 11] },
  { name := ['v', 'b', 'a', 'm', 'a', 'x'], word := 0x78000006, ops := [.group 21, .group 16] },
  { name := ['v', 's', 'u', 'm', 'r'], word := 0x7C000000, ops := [.scalar 21, .group 16, .scalar 11] },
  { name := ['v', 'm', 'a', 'x', 'r'], word := 0x7C000001, ops := [.scalar 21, .group 16, .scalar 11] },
  { name := ['v', 'm', 'i', 'n', 'r'], word := 0x7C000002, ops := [.scalar 21, .group 16, .scalar 11] },
  { name := ['v', 'm', 'a', 'x', 'u', 'r'], word := 0x7C000003, ops := [.scalar 21, .group 16, .scalar 11] },
  { name := ['v', 'm', 'i', 'n', 'u', 'r'], word := 0x7C000004, ops := [.scalar 21, .group 16, .scalar 11] },
  { name := ['v', 'a', 'n', 'd', 'r'], word := 0x7C000005, ops := [.scalar 21, .group 16, .scalar 11] },
  { name := ['v', 'o', 'r', 'r'], word := 0x7C000006, ops := [.scalar 21, .group 16, .scalar 11] },
  { name := ['v', 'x', 'o', 'r', 'r'], word := 0x7C000007, ops := [.scalar 21, .group 16, .scalar 11] },
  { name := ['v', 'f', 's', 'u', 'm', 'r'], word := 0x7C000008, ops := [.scalar 21, .group 16, .scalar 11] },
  { name := ['v', 'f', 'm', 'a', 'x', 'r'], word := 0x7C000009, ops := [.scalar 21, .group 16, .scalar 11] },
  { name := ['v', 'f', 'm', 'i', 'n', 'r'], word := 0x7C00000A, ops := [.scalar 21, .group 16, .scalar 11] }]

/-- VPERM, VBITS and VCONF (R108; 05 R191 to R196). -/
def asmPermRows : List AsmRow := [
  { name := ['v', 's', 'h', 'u', 'p'], word := 0x80000000, ops := [.group 21, .group 16, .scalar 11] },
  { name := ['v', 's', 'h', 'd', 'n'], word := 0x80000001, ops := [.group 21, .group 16, .scalar 11] },
  { name := ['v', 'g', 'a', 't', 'h', 'e', 'r'], word := 0x80000002, ops := [.group 21, .group 16, .group 11] },
  { name := ['v', 'c', 'o', 'm', 'p', 'r', 'e', 's', 's'], word := 0x80000003, ops := [.group 21, .group 16, .scalar 11] },
  { name := ['v', 'e', 'x', 'p', 'a', 'n', 'd'], word := 0x80000004, ops := [.group 21, .group 16] },
  { name := ['v', 'm', 'e', 'r', 'g', 'e'], word := 0x80000005, ops := [.group 21, .group 16, .group 11] },
  { name := ['v', 'm', 'o', 'v', 'e'], word := 0x80000006, ops := [.group 21, .group 16] },
  { name := ['v', 's', 'p', 'l', 'a', 't'], word := 0x80000007, ops := [.group 21, .scalar 16] },
  { name := ['v', 'h', 'e', 'a', 'd'], word := 0x80000008, ops := [.scalar 21, .group 16] },
  { name := ['v', 'a', 'c', 'n', 't'], word := 0x80000009, ops := [.group 21] },
  { name := ['v', 'x', 'u', 'p'], word := 0x8000000A, ops := [.group 21, .group 16, .scalar 11] },
  { name := ['v', 'x', 'd', 'n'], word := 0x8000000B, ops := [.group 21, .group 16, .scalar 11] },
  { name := ['v', 'x', 'b', 'c'], word := 0x8000000C, ops := [.group 21, .group 16, .scalar 11] },
  { name := ['v', 'x', 'r', 'e', 'v'], word := 0x8000000D, ops := [.group 21, .group 16] },
  { name := ['v', 'u', 'n', 'p', 'a', 'c', 'k'], word := 0x84000000, ops := [.group 21, .group 16, .scalar 11] },
  { name := ['v', 'b', 'e', 'x', 't'], word := 0x84000001, ops := [.group 21, .group 16, .group 11] },
  { name := ['v', 'f', 's', 'l'], word := 0x84000002, ops := [.group 21, .group 16, .group 11] },
  { name := ['v', 'f', 's', 'r'], word := 0x84000003, ops := [.group 21, .group 16, .group 11] },
  { name := ['v', 'l', 'u', 't'], word := 0x84000004, ops := [.group 21, .group 16, .group 11] },
  { name := ['v', 'c', 'l', 'z'], word := 0x84000005, ops := [.group 21, .group 16] },
  { name := ['v', 'c', 't', 'z'], word := 0x84000006, ops := [.group 21, .group 16] },
  { name := ['v', 'p', 'o', 'p', 'c'], word := 0x84000007, ops := [.group 21, .group 16] },
  { name := ['v', 'b', 'r', 'e', 'v'], word := 0x84000008, ops := [.group 21, .group 16] },
  { name := ['v', 'c', 'f', 'g'], word := 0x88000000, ops := [.config] },
  { name := ['v', 's', 'e', 't', 'v', 'l'], word := 0x88000001, ops := [.scalar 21, .scalar 16, .scalar 11] }]

/-- VMEM, VGRID, VQSRC and VQDST (R108; 05 R197 to R204). -/
def asmVmemRows : List AsmRow := [
  { name := ['v', 'l', 'd'], word := 0x90000000, ops := [.group 21, .scalar 16] },
  { name := ['v', 'l', 'd', 's'], word := 0x90000001, ops := [.group 21, .scalar 16, .scalar 11] },
  { name := ['v', 'l', 'd', 'x'], word := 0x90000002, ops := [.group 21, .scalar 16, .group 11] },
  { name := ['v', 'l', 'd', 'f', 'f'], word := 0x90000003, ops := [.group 21, .scalar 16] },
  { name := ['v', 's', 't'], word := 0x90000004, ops := [.group 21, .scalar 16] },
  { name := ['v', 's', 't', 's'], word := 0x90000005, ops := [.group 21, .scalar 16, .scalar 11] },
  { name := ['v', 's', 't', 'x'], word := 0x90000006, ops := [.group 21, .scalar 16, .group 11] },
  { name := ['v', 's', 't', '.', 'u'], word := 0x9000000C, ops := [.group 21, .scalar 16] },
  { name := ['v', 's', 't', 's', '.', 'u'], word := 0x9000000D, ops := [.group 21, .scalar 16, .scalar 11] },
  { name := ['v', 's', 't', 'x', '.', 'u'], word := 0x9000000E, ops := [.group 21, .scalar 16, .group 11] },
  { name := ['g', 'r', 'o', 'w'], word := 0x94000000, ops := [.group 21, .scalar 16] },
  { name := ['g', 'c', 'o', 'l'], word := 0x94000001, ops := [.group 21, .scalar 16] },
  { name := ['g', 'd', 'i', 'a', 'g'], word := 0x94000002, ops := [.group 21, .scalar 16] },
  { name := ['g', 'r', 'o', 'w', 's'], word := 0x94000004, ops := [.scalar 21, .group 16] },
  { name := ['g', 'c', 'o', 'l', 's'], word := 0x94000005, ops := [.scalar 21, .group 16] },
  { name := ['g', 'd', 'i', 'a', 'g', 's'], word := 0x94000006, ops := [.scalar 21, .group 16] },
  { name := ['g', 'p', 'a', 's', 's'], word := 0x94000008, ops := [.scalar 21, .imm 11 5] },
  { name := ['v', 'm', 'v', 'q'], word := 0x98000000, ops := [.group 21, .queue 11 4] },
  { name := ['v', 'a', 'd', 'd', 'q'], word := 0x98000001, ops := [.group 21, .group 16, .queue 11 4] },
  { name := ['v', 's', 'u', 'b', 'q'], word := 0x98000002, ops := [.group 21, .group 16, .queue 11 4] },
  { name := ['v', 'm', 'u', 'l', 'q'], word := 0x98000003, ops := [.group 21, .group 16, .queue 11 4] },
  { name := ['v', 'f', 'a', 'd', 'd', 'q'], word := 0x98000004, ops := [.group 21, .group 16, .queue 11 4] },
  { name := ['v', 'f', 's', 'u', 'b', 'q'], word := 0x98000005, ops := [.group 21, .group 16, .queue 11 4] },
  { name := ['v', 'f', 'm', 'u', 'l', 'q'], word := 0x98000006, ops := [.group 21, .group 16, .queue 11 4] },
  { name := ['v', 'f', 'm', 'a', 'q'], word := 0x98000007, ops := [.group 21, .group 16, .queue 11 4] },
  { name := ['v', 'a', 'n', 'd', 'q'], word := 0x98000008, ops := [.group 21, .group 16, .queue 11 4] },
  { name := ['v', 'o', 'r', 'q'], word := 0x98000009, ops := [.group 21, .group 16, .queue 11 4] },
  { name := ['v', 'x', 'o', 'r', 'q'], word := 0x9800000A, ops := [.group 21, .group 16, .queue 11 4] },
  { name := ['v', 'e', 'n', 'q'], word := 0x9C000000, ops := [.queue 11 4, .group 16] }]

/-- MASK, VCMP and VCMPS (R107, R110; 05 R183, R205, R206). -/
def asmMaskRowsA : List AsmRow := [
  { name := ['m', 'a', 'n', 'd'], word := 0xA0000000, ops := [.mask 19 96, .mask 12 96, .mask 5 96] },
  { name := ['m', 'o', 'r'], word := 0xA0000001, ops := [.mask 19 96, .mask 12 96, .mask 5 96] },
  { name := ['m', 'x', 'o', 'r'], word := 0xA0000002, ops := [.mask 19 96, .mask 12 96, .mask 5 96] },
  { name := ['m', 'a', 'n', 'd', 'n'], word := 0xA0000003, ops := [.mask 19 96, .mask 12 96, .mask 5 96] },
  { name := ['m', 'o', 'r', 'n'], word := 0xA0000004, ops := [.mask 19 96, .mask 12 96, .mask 5 96] },
  { name := ['m', 'n', 'a', 'n', 'd'], word := 0xA0000005, ops := [.mask 19 96, .mask 12 96, .mask 5 96] },
  { name := ['m', 'n', 'o', 'r'], word := 0xA0000006, ops := [.mask 19 96, .mask 12 96, .mask 5 96] },
  { name := ['m', 'x', 'n', 'o', 'r'], word := 0xA0000007, ops := [.mask 19 96, .mask 12 96, .mask 5 96] },
  { name := ['m', 'm', 'v'], word := 0xA0000008, ops := [.mask 19 96, .mask 12 96] },
  { name := ['m', 'n', 'o', 't'], word := 0xA0000009, ops := [.mask 19 96, .mask 12 96] },
  { name := ['m', 's', 'e', 't'], word := 0xA000000A, ops := [.mask 19 96] },
  { name := ['m', 'c', 'l', 'r'], word := 0xA000000B, ops := [.mask 19 96] },
  { name := ['m', 's', 'b', 'f'], word := 0xA000000C, ops := [.mask 19 96, .mask 12 96] },
  { name := ['m', 's', 'i', 'f'], word := 0xA000000D, ops := [.mask 19 96, .mask 12 96] },
  { name := ['m', 's', 'o', 'f'], word := 0xA000000E, ops := [.mask 19 96, .mask 12 96] },
  { name := ['m', 'p', 'o', 'p', 'c'], word := 0xA000000F, ops := [.scalar 19, .mask 12 96] },
  { name := ['m', 'f', 'i', 'r', 's', 't'], word := 0xA0000010, ops := [.scalar 19, .mask 12 96] },
  { name := ['m', 'l', 'd'], word := 0xA0000011, ops := [.mask 19 96, .mem 12] },
  { name := ['m', 's', 't'], word := 0xA0000012, ops := [.mem 19, .mask 12 96] },
  { name := ['v', 'c', 'e', 'q'], word := 0xA4000000, ops := [.mask 21 32, .group 16, .group 11] },
  { name := ['v', 'c', 'n', 'e'], word := 0xA4000001, ops := [.mask 21 32, .group 16, .group 11] },
  { name := ['v', 'c', 'l', 't'], word := 0xA4000002, ops := [.mask 21 32, .group 16, .group 11] },
  { name := ['v', 'c', 'l', 't', 'u'], word := 0xA4000003, ops := [.mask 21 32, .group 16, .group 11] },
  { name := ['v', 'c', 'l', 'e'], word := 0xA4000004, ops := [.mask 21 32, .group 16, .group 11] },
  { name := ['v', 'c', 'l', 'e', 'u'], word := 0xA4000005, ops := [.mask 21 32, .group 16, .group 11] },
  { name := ['v', 'c', 'g', 't'], word := 0xA4000006, ops := [.mask 21 32, .group 16, .group 11] },
  { name := ['v', 'c', 'g', 't', 'u'], word := 0xA4000007, ops := [.mask 21 32, .group 16, .group 11] },
  { name := ['v', 'f', 'c', 'e', 'q'], word := 0xA4000008, ops := [.mask 21 32, .group 16, .group 11] },
  { name := ['v', 'f', 'c', 'n', 'e'], word := 0xA4000009, ops := [.mask 21 32, .group 16, .group 11] },
  { name := ['v', 'f', 'c', 'l', 't'], word := 0xA400000A, ops := [.mask 21 32, .group 16, .group 11] },
  { name := ['v', 'f', 'c', 'l', 'e'], word := 0xA400000B, ops := [.mask 21 32, .group 16, .group 11] },
  { name := ['v', 'f', 'c', 'g', 't'], word := 0xA400000C, ops := [.mask 21 32, .group 16, .group 11] },
  { name := ['v', 'f', 'c', 'g', 'e'], word := 0xA400000D, ops := [.mask 21 32, .group 16, .group 11] },
  { name := ['v', 'f', 'c', 'u', 'n'], word := 0xA400000E, ops := [.mask 21 32, .group 16, .group 11] },
  { name := ['v', 'c', 'e', 'q', '.', 'v', 's'], word := 0xA8000000, ops := [.mask 21 32, .group 16, .scalar 11] },
  { name := ['v', 'c', 'n', 'e', '.', 'v', 's'], word := 0xA8000001, ops := [.mask 21 32, .group 16, .scalar 11] },
  { name := ['v', 'c', 'l', 't', '.', 'v', 's'], word := 0xA8000002, ops := [.mask 21 32, .group 16, .scalar 11] },
  { name := ['v', 'c', 'l', 't', 'u', '.', 'v', 's'], word := 0xA8000003, ops := [.mask 21 32, .group 16, .scalar 11] },
  { name := ['v', 'c', 'l', 'e', '.', 'v', 's'], word := 0xA8000004, ops := [.mask 21 32, .group 16, .scalar 11] },
  { name := ['v', 'c', 'l', 'e', 'u', '.', 'v', 's'], word := 0xA8000005, ops := [.mask 21 32, .group 16, .scalar 11] }]

/-- MASK, VCMP and VCMPS (R107, R110; 05 R183, R205, R206). -/
def asmMaskRowsB : List AsmRow := [
  { name := ['v', 'c', 'g', 't', '.', 'v', 's'], word := 0xA8000006, ops := [.mask 21 32, .group 16, .scalar 11] },
  { name := ['v', 'c', 'g', 't', 'u', '.', 'v', 's'], word := 0xA8000007, ops := [.mask 21 32, .group 16, .scalar 11] },
  { name := ['v', 'f', 'c', 'e', 'q', '.', 'v', 's'], word := 0xA8000008, ops := [.mask 21 32, .group 16, .scalar 11] },
  { name := ['v', 'f', 'c', 'n', 'e', '.', 'v', 's'], word := 0xA8000009, ops := [.mask 21 32, .group 16, .scalar 11] },
  { name := ['v', 'f', 'c', 'l', 't', '.', 'v', 's'], word := 0xA800000A, ops := [.mask 21 32, .group 16, .scalar 11] },
  { name := ['v', 'f', 'c', 'l', 'e', '.', 'v', 's'], word := 0xA800000B, ops := [.mask 21 32, .group 16, .scalar 11] },
  { name := ['v', 'f', 'c', 'g', 't', '.', 'v', 's'], word := 0xA800000C, ops := [.mask 21 32, .group 16, .scalar 11] },
  { name := ['v', 'f', 'c', 'g', 'e', '.', 'v', 's'], word := 0xA800000D, ops := [.mask 21 32, .group 16, .scalar 11] },
  { name := ['v', 'f', 'c', 'u', 'n', '.', 'v', 's'], word := 0xA800000E, ops := [.mask 21 32, .group 16, .scalar 11] }]

/-- TMUL, TMULSP and TILE (R111, R112; 08). -/
def asmTileRows : List AsmRow := [
  { name := ['t', 'm', 'u', 'l'], word := 0xB0000000, ops := [.queue 21 5, .queue 16 5, .scalar 11, .imm 7 3] },
  { name := ['t', 'm', 'u', 'l', 's', 'p'], word := 0xB4000000, ops := [.queue 21 5, .queue 16 5, .queue 11 5, .imm 7 3] },
  { name := ['t', 'm', 'o', 'd', 'e', '.', 'o', 'n'], word := 0xB8000000, ops := [.imm 11 5] },
  { name := ['t', 'm', 'o', 'd', 'e', '.', 'o', 'f', 'f'], word := 0xB8000001, ops := [.imm 11 5] },
  { name := ['t', 's', 'h', 'a', 'p', 'e'], word := 0xB8000002, ops := [.scalar 21, .scalar 16, .scalar 11] },
  { name := ['t', 'z', 'e', 'r', 'o'], word := 0xB8000003, ops := [.imm 11 5] },
  { name := ['t', 'r', 'd', 'r'], word := 0xB8000004, ops := [.group 21, .scalar 16] },
  { name := ['t', 'r', 'd', 'c'], word := 0xB8000005, ops := [.group 21, .scalar 16] },
  { name := ['t', 'w', 'r', 'r'], word := 0xB8000006, ops := [.scalar 21, .group 16] },
  { name := ['t', 'w', 'r', 'c'], word := 0xB8000007, ops := [.scalar 21, .group 16] },
  { name := ['t', 'p', 'r', 'e', 'd'], word := 0xB8000008, ops := [] },
  { name := ['t', 's', 'y', 'n', 'c'], word := 0xB8000009, ops := [] }]

/-- STRM, COPY, STOR, LINK and BEACON (R114; 06 R232, 07 R253, 09, 10, 11). -/
def asmEngineRowsA : List AsmRow := [
  { name := ['s', 'o', 'p', 'e', 'n'], word := 0xC0000000, ops := [.queue 21 5, .mem 16] },
  { name := ['s', 'c', 'l', 'o', 's', 'e'], word := 0xC0000001, ops := [.queue 21 5] },
  { name := ['s', 'a', 'v', 'a', 'i', 'l'], word := 0xC0000002, ops := [.scalar 16, .queue 21 5] },
  { name := ['s', 'w', 'a', 'i', 't'], word := 0xC0000003, ops := [.queue 21 5, .scalar 16] },
  { name := ['s', 's', 'k', 'i', 'p'], word := 0xC0000004, ops := [.queue 21 5, .scalar 16] },
  { name := ['s', 'd', 'r', 'a', 'i', 'n'], word := 0xC0000005, ops := [.queue 21 5] },
  { name := ['s', 'r', 'e', 'w', 'i', 'n', 'd'], word := 0xC0000006, ops := [.queue 21 5] },
  { name := ['s', 'p', 'r', 'e', 'f'], word := 0xC0000007, ops := [.queue 21 5, .scalar 16] },
  { name := ['s', 'g', 'a', 't', 'h', 'e', 'r'], word := 0xC0000008, ops := [.queue 21 5, .group 16] },
  { name := ['s', 'l', 'd', 'x', '.', 'b', 'g'], word := 0xC0000009, ops := [.queue 21 5, .group 16, .mask 11 32] },
  { name := ['s', 't', 'r', 'a', 'n', 's'], word := 0xC000000A, ops := [.queue 21 5, .mem 16] },
  { name := ['s', 's', 't', 'a', 't'], word := 0xC000000B, ops := [.scalar 16, .queue 21 5] },
  { name := ['c', 'p', 'y'], word := 0xC8000000, ops := [.spScalar 21 10, .spScalar 16 9] },
  { name := ['c', 'p', 'f', 'i', 'l', 'l'], word := 0xC8000001, ops := [.spScalar 21 10, .scalar 11] },
  { name := ['c', 'p', 'c', 'v', 't'], word := 0xC8000002, ops := [.spScalar 21 10, .spScalar 16 9, .scalar 11] },
  { name := ['c', 'p', 'l', 'z'], word := 0xC8000003, ops := [.scalar 21, .spScalar 16 9, .scalar 11] },
  { name := ['c', 'p', 'x', 'p'], word := 0xC8000004, ops := [.spScalar 21 10, .scalar 16, .scalar 11] },
  { name := ['c', 'p', 'c', 'r', 'c'], word := 0xC8000005, ops := [.scalar 21, .spScalar 16 9, .scalar 11] },
  { name := ['c', 'p', 'c', 'r', 'c', '6', '4'], word := 0xC8000006, ops := [.scalar 21, .spScalar 16 9, .scalar 11] },
  { name := ['c', 'p', 'r', 'e', 'l'], word := 0xC8000007, ops := [.scalar 21, .scalar 16, .scalar 11] },
  { name := ['c', 'p', 's', 'h', 'a', 'd'], word := 0xC8000008, ops := [.scalar 21, .scalar 16] },
  { name := ['c', 'p', 'b', 'l'], word := 0xC8000009, ops := [.scalar 21, .scope 9] },
  { name := ['c', 'p', 'w', 'a', 'i', 't'], word := 0xC800000A, ops := [] },
  { name := ['n', 'r', 'i', 'n', 'g'], word := 0xCC000000, ops := [.scalar 21, .scalar 16] },
  { name := ['n', 'c', 'q', 'h', 'd'], word := 0xCC000001, ops := [.scalar 21, .scalar 16] },
  { name := ['n', 'q', 's', 't', 'a', 't'], word := 0xCC000002, ops := [.scalar 21, .scalar 16] },
  { name := ['n', 'c', 'q', 'p', 'o', 'l', 'l'], word := 0xCC000003, ops := [.scalar 21, .scalar 16] },
  { name := ['l', 't', 'u', 'r', 'n'], word := 0xD0000000, ops := [.scalar 21, .scalar 16, .scalar 11] },
  { name := ['l', 's', 't', 'a', 't'], word := 0xD0000001, ops := [.scalar 21, .scalar 16] },
  { name := ['l', 'p', 'a', 'u', 's', 'e'], word := 0xD0000002, ops := [.scalar 21] },
  { name := ['l', 'r', 'e', 's', 'u', 'm', 'e'], word := 0xD0000003, ops := [.scalar 21] },
  { name := ['l', 'r', 'e', 'm', 'a', 'p'], word := 0xD0000004, ops := [.scalar 21, .scalar 16] },
  { name := ['l', 't', 'r', 'a', 'i', 'n'], word := 0xD0000005, ops := [.scalar 21, .scalar 16] },
  { name := ['l', 'w', 'a', 'i', 't'], word := 0xD0000006, ops := [.scalar 21, .scalar 16] },
  { name := ['b', 'p', 'u', 't'], word := 0xD4000000, ops := [.scalar 21, .scalar 16, .scalar 11] },
  { name := ['b', 'g', 'e', 't'], word := 0xD4000001, ops := [.scalar 21, .scalar 16, .scalar 11] },
  { name := ['b', 'a', 't', 'o', 'm'], word := 0xD4000002, ops := [.scalar 21, .scalar 16, .scalar 11] },
  { name := ['b', 'n', 'o', 't', 'i', 'f', 'y'], word := 0xD4000003, ops := [.scalar 21, .scalar 16, .scalar 11] },
  { name := ['b', 'w', 'a', 'i', 't'], word := 0xD4000004, ops := [.scalar 21, .scalar 16] },
  { name := ['b', 'p', 'o', 'l', 'l'], word := 0xD4000005, ops := [.scalar 21, .scalar 16] }]

/-- STRM, COPY, STOR, LINK and BEACON (R114; 06 R232, 07 R253, 09, 10, 11). -/
def asmEngineRowsB : List AsmRow := [
  { name := ['b', 'f', 'e', 'n', 'c', 'e'], word := 0xD4000006, ops := [] },
  { name := ['b', 's', 't', 'a', 't'], word := 0xD4000007, ops := [.scalar 21, .scalar 16] },
  { name := ['b', 'l', 'p', 'o', 'r', 't'], word := 0xD4000008, ops := [.scalar 21, .scalar 16] }]

/-- CTX and SUPV (R115; 12, 13). -/
def asmSuperRows : List AsmRow := [
  { name := ['k', 'l', 'a', 'u', 'n', 'c', 'h'], word := 0xD8000000, ops := [.scalar 21, .mem 16] },
  { name := ['k', 'w', 'a', 'i', 't'], word := 0xD8000001, ops := [.scalar 16] },
  { name := ['c', 't', 'x', 's', 'a', 'v', 'e'], word := 0xD8000002, ops := [.mem 16] },
  { name := ['c', 't', 'x', 'l', 'o', 'a', 'd'], word := 0xD8000003, ops := [.mem 16] },
  { name := ['s', 'v', 'r', 'd'], word := 0xDC000000, ops := [.scalar 21, .mem 16] },
  { name := ['s', 'v', 'w', 'r'], word := 0xDC000001, ops := [.mem 21, .scalar 16] },
  { name := ['w', 'a', 'r', 'm'], word := 0xDC000002, ops := [.scalar 16, .imm 4 2] },
  { name := ['w', 'd', 'i', 's', 'a', 'r', 'm'], word := 0xDC000003, ops := [.imm 4 2] }]

/-- VFP64, a group absent on A0 (R96, R107; 05 R181). -/
def asmFp64Rows : List AsmRow := [
  { name := ['v', 'd', 'a', 'd', 'd'], word := 0xE0000000, ops := [.group 21, .group 16, .group 11] },
  { name := ['v', 'd', 's', 'u', 'b'], word := 0xE0000001, ops := [.group 21, .group 16, .group 11] },
  { name := ['v', 'd', 'm', 'u', 'l'], word := 0xE0000002, ops := [.group 21, .group 16, .group 11] },
  { name := ['v', 'd', 'd', 'i', 'v'], word := 0xE0000003, ops := [.group 21, .group 16, .group 11] },
  { name := ['v', 'd', 'm', 'i', 'n'], word := 0xE0000004, ops := [.group 21, .group 16, .group 11] },
  { name := ['v', 'd', 'm', 'a', 'x'], word := 0xE0000005, ops := [.group 21, .group 16, .group 11] },
  { name := ['v', 'd', 'f', 'm', 'a'], word := 0xE0000006, ops := [.group 21, .group 16, .group 11] },
  { name := ['v', 'd', 'f', 'n', 'm', 'a'], word := 0xE0000007, ops := [.group 21, .group 16, .group 11] },
  { name := ['v', 'd', 'f', 'm', 's'], word := 0xE0000008, ops := [.group 21, .group 16, .group 11] },
  { name := ['v', 'd', 'c', 's', 'i', 'g', 'n'], word := 0xE0000009, ops := [.group 21, .group 16, .group 11] },
  { name := ['v', 'd', 'n', 's', 'i', 'g', 'n'], word := 0xE000000A, ops := [.group 21, .group 16, .group 11] },
  { name := ['v', 'd', 'x', 's', 'i', 'g', 'n'], word := 0xE000000B, ops := [.group 21, .group 16, .group 11] },
  { name := ['v', 'd', 'k', 'i', 'n', 'd'], word := 0xE000000C, ops := [.group 21, .group 16] },
  { name := ['v', 'd', 's', 'u', 'b', 'r'], word := 0xE000000D, ops := [.group 21, .group 16, .group 11] },
  { name := ['v', 'd', 's', 'q', 'r', 't'], word := 0xE000000E, ops := [.group 21, .group 16] }]

/-- Every mnemonic with a row of operands; LOOPV and VSETVLI have forms of their own (R126). -/
def asmRows : List AsmRow :=
  asmScalarRowsA ++ asmScalarRowsB ++ asmScalarRowsC ++ asmMemoryRows ++ asmFlowRows ++
  asmIntRows ++ asmFpRowsA ++ asmFpRowsB ++ asmCvtRows ++ asmPermRows ++
  asmVmemRows ++ asmMaskRowsA ++ asmMaskRowsB ++ asmTileRows ++ asmEngineRowsA ++
  asmEngineRowsB ++ asmSuperRows ++ asmFp64Rows

end Sys2Proof.Machine
end

