-- ==== Sys2Proof/Machine/AsmInsn.lean ====
section
/-!
DEFINITION. The words of one source instruction (03 R123 to R127): operands, suffixes, trailing operands, the forms of LOOPV,
VSETVLI and TMUL, and the pseudo-instructions.
-/

namespace Sys2Proof.Machine

/-- `v` in the field of `len` bits from bit `lo`. -/
def inField (lo len v : Nat) : BitVec 32 := BitVec.ofNat 32 (v % 2 ^ len) <<< lo

/-- An operand that is written as its kind is. -/
def orBad {α : Type} (e : AsmError) : Option α → Except AsmError α
  | some v => .ok v
  | none => .error e

/-- The operand off(sa): the text of off and of sa (R123). -/
def memParts (t : Text) : Option (Text × Text) :=
  match (trim t).reverse with
  | ')' :: r =>
    match r.dropWhile (· ≠ '(') with
    | '(' :: off => some (trim off.reverse, trim (r.takeWhile (· ≠ '(')).reverse)
    | _ => none
  | _ => none

/-- The set of a FENCE (R123, R92): letters of `rwvei`, or none. -/
def fenceSet (t : Text) : Option Nat :=
  if lower t = "none".toList then some 0
  else if t.isEmpty then none
  else (lower t).foldlM (fun acc c => ("rwvei".toList.findIdx? (· == c)).map (fun i => acc ||| 2 ^ i)) 0

/-- The offset in words from the instruction to a label, for a field of `len` bits (R93, R125). -/
def targetOffset (env : AsmEnv) (len : Nat) (t : Text) : Except AsmError Nat := do
  let d := ((← env.value t) - env.here).toInt
  if d % 4 = 0 && -(2 ^ (len + 1)) ≤ d && d < 2 ^ (len + 1) then .ok ((d / 4) % 2 ^ len).toNat else .error .target

/-- Whether an expression is a part that %hi or %lo takes, and so the field itself (R125). -/
def AsmExpr.isPart : AsmExpr → Bool
  | .hi _ | .lo _ => true
  | _ => false

/-- IMM of an SI major (R93; 04 R140). -/
def immediate (env : AsmEnv) (signed : Bool) (t : Text) : Except AsmError Nat := do
  let e ← asmExpr t
  let v ← e.eval env
  if e.isPart then return v.toNat
  else if signed then return ((← fits (-32768) 32767 v.toInt) % 65536).toNat
  else return (← fits 0 65535 v.toInt).toNat

/-- The bits that an operand puts into the word (R123). -/
def operandBits (env : AsmEnv) (o : Operand) (t : Text) : Except AsmError (BitVec 32) :=
  match o with
  | .scalar lo => do return inField lo 5 (← orBad .badOperand (scalarName t))
  | .group lo => do return inField lo 5 (← orBad .badOperand (numbered ['v'] 32 t))
  | .mask lo count => do return inField lo 7 (← orBad .badOperand (numbered ['m'] count t))
  | .queue lo len => do return inField lo len (← orBad .badOperand (numbered ['q'] 16 t))
  | .mem lo => do
    let (off, r) ← orBad .badOperand (memParts t)
    if off.isEmpty then return inField lo 5 (← orBad .badOperand (scalarName r)) else .error .badOperand
  | .memOff => do
    let (off, r) ← orBad .badOperand (memParts t)
    let n ← if off.isEmpty then pure 0 else do fits (-4096) 4095 (← env.value off).toInt
    return inField 16 5 (← orBad .badOperand (scalarName r)) ||| inField 0 13 (n % 8192).toNat
  | .spScalar lo bit => do
    if "sp:".toList.isPrefixOf (lower t) then
      return inField lo 5 (← orBad .badOperand (scalarName (trim (t.drop 3)))) ||| inField bit 1 1
    else return inField lo 5 (← orBad .badOperand (scalarName t))
  | .cw => do
    match cwIndex t with
    | some i => return inField 4 12 i
    | none => return inField 4 12 (← env.unsigned 12 t)
  | .scope lo | .scopeOpt lo => do return inField lo 2 (← orBad .badOperand (nameIndex scopeNames t))
  | .fenceSet lo => do return inField lo 5 (← orBad .badOperand (fenceSet t))
  | .format lo => do return inField lo 5 (← orBad .badOperand (nameIndex formatNames t))
  | .imm lo len => do return inField lo len (← env.unsigned len t)
  | .simm => do return inField 0 16 (← immediate env true t)
  | .zimm => do return inField 0 16 (← immediate env false t)
  | .target len => do return inField 0 len (← targetOffset env len t)
  | .config => do
    return inField 11 5 (← orBad .range ([4, 8, 16, 32].findIdx? (· == (← env.value t).toNat)))
  | .parties => do return inField 4 12 ((← fits 1 4096 (← env.value t).toInt) - 1).toNat

/-- The operands in the order written, with the word so far; the texts that remain are trailing operands. -/
def operandsBits (env : AsmEnv) : List Operand → List Text → BitVec 32 → Except AsmError (BitVec 32 × List Text)
  | [], ts, w => .ok (w, ts)
  | .scopeOpt lo :: os, ts, w =>
    match ts with
    | t :: ts => do operandsBits env os ts (w ||| (← operandBits env (.scopeOpt lo) t))
    | [] => operandsBits env os [] (w ||| inField lo 2 2)
  | _ :: _, [], _ => .error .operandCount
  | o :: os, t :: ts, w => do operandsBits env os ts (w ||| (← operandBits env o t))

/-! ### Suffixes and trailing operands (R124) -/

/-- The suffixes read so far. -/
structure AsmSuffix where
  x : Bool := false
  pk : Bool := false
  order : Option (Bool × Bool) := none
  double : Option Bool := none
  deriving DecidableEq, Repr

/-- One suffix; none where the format has no field for it, or it is written twice. -/
def takeSuffix (r : AsmRow) (s : AsmSuffix) (t : Text) : Option AsmSuffix :=
  let ordered := (r.rmw == .order || r.rmw == .both) && s.order.isNone
  let sized := (r.rmw == .width || r.rmw == .both) && s.double.isNone
  if t = ['x'] then (if r.vector && !s.x then some { s with x := true } else none)
  else if t = "pk".toList then (if r.source && !s.pk then some { s with pk := true } else none)
  else if t = "acq".toList then (if ordered then some { s with order := some (true, false) } else none)
  else if t = "rel".toList then (if ordered then some { s with order := some (false, true) } else none)
  else if t = "ar".toList then (if ordered then some { s with order := some (true, true) } else none)
  else if t = ['w'] then (if sized then some { s with double := some false } else none)
  else if t = ['d'] then (if sized then some { s with double := some true } else none)
  else none

/-- The bits of the suffixes: X, P of VQSRC, AQ, RL, and W of RMW, which is 1 when neither width is written. -/
def suffixBits (r : AsmRow) (s : AsmSuffix) : BitVec 32 :=
  let (aq, rl) := s.order.getD (false, false)
  let wide := (r.rmw == .width || r.rmw == .both) && s.double.getD true
  inField 4 1 s.x.toNat ||| inField 15 1 s.pk.toNat ||| inField 8 1 aq.toNat ||| inField 7 1 rl.toNat |||
    inField 6 1 wide.toNat

/-- Which kinds of trailing operand have been read. -/
structure Trailing where
  mask : Bool := false
  ds : Bool := false
  p : Bool := false
  deriving DecidableEq, Repr

/-- One trailing operand, where the format has its field; `umN` only beside `.x`. -/
def takeTrailing (r : AsmRow) (x : Bool) (seen : Trailing) (w : BitVec 32) (t : Text) : Except AsmError (Trailing × BitVec 32) :=
  match numbered ['m'] 8 t, numbered "um".toList 8 t, numbered "ds".toList 4 t with
  | some n, _, _ =>
    if r.vector && !seen.mask then .ok ({ seen with mask := true }, w ||| inField 10 1 1 ||| inField 7 3 n)
    else .error .badTrailing
  | _, some n, _ =>
    if r.vector && x && !seen.mask then .ok ({ seen with mask := true }, w ||| inField 7 3 n) else .error .badTrailing
  | _, _, some n => if r.selects && !seen.ds then .ok ({ seen with ds := true }, w ||| inField 5 2 n) else .error .badTrailing
  | _, _, _ =>
    if lower t = ['p'] && r.tile && !seen.p then .ok ({ seen with p := true }, w ||| inField 10 1 1) else .error .badTrailing

/-- The trailing operands, in any order. -/
def trailingBits (r : AsmRow) (x : Bool) : Trailing → BitVec 32 → List Text → Except AsmError (BitVec 32)
  | seen, w, [] => if x && !seen.mask then .error .badTrailing else .ok w
  | seen, w, t :: ts => do
    let (seen, w) ← takeTrailing r x seen w t
    trailingBits r x seen w ts

/-! ### Mnemonics -/

/-- A text cut at its points. -/
def cutAtPoints : Text → Text → List Text
  | cur, [] => [cur.reverse]
  | cur, c :: t => if c = '.' then cur.reverse :: cutAtPoints [] t else cutAtPoints (c :: cur) t

/-- Pieces joined by points. -/
def joinPoints : List Text → Text
  | [] => []
  | [t] => t
  | t :: ts => t ++ '.' :: joinPoints ts

def findRow (t : Text) : Option AsmRow := asmRows.find? (fun r => r.name == t)

/-- The row of a mnemonic and its suffixes: the longest beginning of the word that is a mnemonic. -/
def splitMnemonic (t : Text) : Option (AsmRow × List Text) :=
  let parts := cutAtPoints [] (lower t)
  (List.range parts.length).reverse.findSome? (fun i => (findRow (joinPoints (parts.take (i + 1)))).map (·, parts.drop (i + 1)))

/-- The gang code of the two formats written after TMUL (R111, R126). -/
def gangCode : List Text → Option Nat
  | [a, b] => gangFormats.findIdx? (fun g => g.1 == String.ofList a && g.2 == String.ofList b)
  | _ => none

/-- The word of an instruction with a row of its own. -/
def rowWord (env : AsmEnv) (r : AsmRow) (sfx : List Text) (args : List Text) : Except AsmError (BitVec 32) := do
  let (s, gang) ← if r.tile then do pure ({}, inField 0 5 (← orBad .badSuffix (gangCode sfx)))
    else do pure (← orBad .badSuffix (sfx.foldlM (takeSuffix r) ({} : AsmSuffix)), 0)
  let (w, rest) ← operandsBits env r.ops args (r.word ||| suffixBits r s ||| gang)
  trailingBits r s.x {} w rest

/-- `loopv sc, sp, np, eb, label` and `loopv sc, label` (R126). -/
def loopvWord (env : AsmEnv) (args : List Text) : Except AsmError (BitVec 32) :=
  match args with
  | [sc, label] => do
    return 0x48000000 ||| inField 21 5 (← orBad .badOperand (scalarName sc)) ||| inField 0 12 (← targetOffset env 12 label)
  | [sc, sp, np, eb, label] => do
    let n ← fits 1 4 (← env.value np).toInt
    let esh ← orBad .range ([1, 2, 4, 8].findIdx? (· == (← env.value eb).toNat))
    return 0x48000000 ||| inField 21 5 (← orBad .badOperand (scalarName sc)) ||| inField 16 5 (← orBad .badOperand (scalarName sp)) |||
      inField 14 2 (n - 1).toNat ||| inField 12 2 esh ||| inField 0 12 (← targetOffset env 12 label)
  | _ => .error .operandCount

/-- The options of VSETVLI (R126): the names of each, the value of the first name, and the bit of VTYPE
where the field begins (R118). -/
def vsetvliOptions : List (List String × Nat × Nat) :=
  [(["g1", "g2", "g4", "g8"], 0, 8), (["tk", "tz"], 0, 10), (["mk", "mz"], 0, 11),
   (["rne", "rna", "rtz", "rup", "rdn", "sr"], 0, 12), (["repro"], 1, 15)]

/-- The options that are written, each kind at most once; an option left out takes its reset value, 0 (R118). -/
def optionBits : List (List String × Nat × Nat) → List Text → Except AsmError (BitVec 32)
  | _, [] => .ok 0
  | os, t :: ts => do
    let (names, first, lo) ← orBad .badTrailing (os.find? (fun o => (nameIndex o.1 t).isSome))
    return inField lo 3 (first + (nameIndex names t).getD 0) ||| (← optionBits (os.filter (fun o => o.2.2 != lo)) ts)

/-- `vsetvli sd, sa, fmt, options`: IMM holds VTYPE[15:0] (R126). -/
def vsetvliWord (args : List Text) : Except AsmError (BitVec 32) :=
  match args with
  | sd :: sa :: fmt :: opts => do
    return 0x8C000000 ||| inField 21 5 (← orBad .badOperand (scalarName sd)) ||| inField 16 5 (← orBad .badOperand (scalarName sa)) |||
      inField 0 5 (← orBad .badOperand (nameIndex formatNames fmt)) ||| (← optionBits vsetvliOptions opts)
  | _ => .error .operandCount

/-! ### Pseudo-instructions (R127) -/

def addiWord (rd ra : Nat) (v : Int) : BitVec 32 := 0x10000000 ||| inField 21 5 rd ||| inField 16 5 ra ||| inField 0 16 (v % 65536).toNat
def luiWord (rd : Nat) (v : Int) : BitVec 32 := 0x28000000 ||| inField 21 5 rd ||| inField 0 16 (v % 65536).toNat
def addhiWord (rd ra : Nat) (v : Int) : BitVec 32 := 0x2C000000 ||| inField 21 5 rd ||| inField 16 5 ra ||| inField 0 16 (v % 65536).toNat
def slliWord (rd ra sh : Nat) : BitVec 32 := 0x04000020 ||| inField 21 5 rd ||| inField 16 5 ra ||| inField 10 6 sh

/-- The low 16 bits of a value, signed, and what remains above them once they are taken away: what an ADDI of the one after a
shifted other adds up to. -/
def lowSigned (x : Int) : Int := (x + 0x8000) % 0x10000 - 0x8000
def aboveLow (x : Int) : Int := (x - lowSigned x) / 0x10000

/-- `li sd, x`: the first sequence that yields x. ADDI alone yields the 16-bit values; LUI and ADDI those whose part above the
low 16 bits is one; else LUI and ADDI build the upper 32 bits, SLLI moves them up, and ADDHI and ADDI add the lower 32, each
part made so that the signed parts below it borrow and carry to x (R127; 04 R140). -/
def liWords (rd : Nat) (x : Word) : List (BitVec 32) :=
  let v := x.toInt
  if -32768 ≤ v && v ≤ 32767 then [addiWord rd 0 v]
  else if -32768 ≤ aboveLow v && aboveLow v ≤ 32767 then [luiWord rd (aboveLow v), addiWord rd rd (lowSigned v)]
  else
    let mid := aboveLow v
    let upper := aboveLow mid
    [luiWord rd (aboveLow upper), addiWord rd rd (lowSigned upper), slliWord rd rd 32, addhiWord rd rd (lowSigned mid),
     addiWord rd rd (lowSigned v)]

/-- The words of a source instruction: the word that begins it, and its operands. -/
def instructionWords (env : AsmEnv) (head : Text) (args : List Text) : Except AsmError (List (BitVec 32)) :=
  match String.ofList (lower head), args with
  | "nop", [] => .ok [0x10000000]
  | "mv", [d, a] => do return [addiWord (← orBad .badOperand (scalarName d)) (← orBad .badOperand (scalarName a)) 0]
  | "li", [d, x] => do return liWords (← orBad .badOperand (scalarName d)) (← env.value x)
  | "j", [l] => do return [0x44000000 ||| inField 0 21 (← targetOffset env 21 l)]
  | "fence.io", [] => .ok [0x50000000 ||| inField 21 5 0b01110 ||| inField 16 5 0b10000 ||| inField 14 2 2]
  | "loopv", args => do return [← loopvWord env args]
  | "vsetvli", args => do return [← vsetvliWord args]
  | _, args => do
    let (r, sfx) ← orBad .unknownWord (splitMnemonic head)
    return [← rowWord env r sfx args]

/-- The words of a source line that holds an instruction. -/
def sourceWords (env : AsmEnv) (t : Text) : Except AsmError (List (BitVec 32)) :=
  instructionWords env (asmLine t).head (asmOperands (asmLine t).rest)

end Sys2Proof.Machine
end

