-- ==== Sys2Proof/Machine/AsmObject.lean ====
section
/-!
DEFINITION. Assembling a source text to an object (03 R128 to R131; 06 R222; 12 R390): sections, symbols, directives, kernel
and stream descriptors, the relocations that .reloc asks for, the bytes of the object file, and the link that resolves them.
-/

namespace Sys2Proof.Machine

/-- A secs name and the bytes assembled into it. -/
structure AsmSection where
  name : Text
  bytes : List Byte := []
  deriving DecidableEq, Repr

/-- A symbol: its value, the section it lies in (none for an absolute value of .equ). -/
structure AsmSymbol where
  name : Text
  value : Word
  sec : Option Text
  deriving DecidableEq, Repr

/-- A relocation that .reloc asks for (R128): the section and offset of its field, its type, its symbol if it names one, its
addend. -/
structure AsmReloc where
  sec : Text
  offset : Word
  type : Nat
  symbol : Option Text
  addend : Word
  deriving DecidableEq, Repr

/-- A hart role of the open kernel: its entry once an instruction follows `.hart`, and its quarters (R128, R129). -/
structure AsmRole where
  role : Nat
  entry : Option Nat := none
  quarters : Nat := 0
  tileq : Nat := 0
  deriving DecidableEq, Repr

/-- The open kernel (R128, R129): its name, where its code begins in .text, its roles with the current one last, its
scratchpad range, its Dishaif section. -/
structure AsmKernel where
  name : Text
  code : Nat
  roles : List AsmRole := []
  splo : Nat := 0
  splen : Nat := 1024
  dsh : Option Word := none
  deriving DecidableEq, Repr

/-- What has been assembled: the sections in the order of their first use, the current one, the symbols, the names that
.global makes visible, the relocations, the open kernel, and the lines in error. A source starts in .text, which stands first in every
object file (R130 does not say). DESIGN CHOICE, log 53. -/
structure AsmState where
  sections : List AsmSection := [⟨".text".toList, []⟩]
  current : Text := ".text".toList
  syms : List AsmSymbol := []
  globals : List Text := []
  relocs : List AsmReloc := []
  kernel : Option AsmKernel := none
  errors : List (Nat × AsmError) := []
  deriving DecidableEq, Repr

/-- Where the linker places the sections; one that is not named stands at 0. -/
abbrev Placement := List (Text × Word)

def Placement.base (p : Placement) (name : Text) : Word := ((p.find? (fun r => r.1 == name)).map (·.2)).getD 0

/-- What the assembler knows while it reads a line: the placement, and the symbols and sections of the pass before. -/
structure AsmContext where
  place : Placement
  before : AsmState

/-! ### Sections and symbols -/

def AsmState.bytes (st : AsmState) (name : Text) : List Byte :=
  ((st.sections.find? (fun s => s.name == name)).map (·.bytes)).getD []

def AsmState.size (st : AsmState) (name : Text) : Nat := (st.bytes name).length

/-- The address where the next byte of a section goes. -/
def AsmState.address (st : AsmState) (c : AsmContext) (name : Text) : Word := c.place.base name + BitVec.ofNat 64 (st.size name)

/-- Assembly continues in a section, a new one where it is not there yet (R128). -/
def AsmState.enter (st : AsmState) (name : Text) : AsmState :=
  { st with current := name
            sections := if st.sections.any (fun s => s.name == name) then st.sections else st.sections ++ [⟨name, []⟩] }

/-- Bytes for the current section; .bss holds zeros only (R130). -/
def AsmState.emit (st : AsmState) (bs : List Byte) : Except AsmError AsmState :=
  if st.current = ".bss".toList && bs.any (· ≠ 0) then .error .bssData
  else .ok { st with sections := st.sections.map (fun s => if s.name = st.current then { s with bytes := s.bytes ++ bs } else s) }

/-- A symbol of this pass, or of the pass before. -/
def AsmState.find (st : AsmState) (c : AsmContext) (n : Text) : Option AsmSymbol :=
  (st.syms.find? (fun s => s.name == n)).or (c.before.syms.find? (fun s => s.name == n))

def AsmState.env (st : AsmState) (c : AsmContext) : AsmEnv :=
  { sym := fun n => (st.find c n).map (·.value)
    absolute := fun n => ((st.find c n).map (·.sec.isNone)).getD false
    here := st.address c st.current }

def AsmState.define (st : AsmState) (n : Text) (v : Word) (sec : Option Text) : Except AsmError AsmState :=
  if !isName n then .error .badName
  else if st.syms.any (fun s => s.name == n) then .error .redefined
  else .ok { st with syms := st.syms ++ [⟨n, v, sec⟩] }

/-- The bytes of a word, the lowest first (R90). -/
def wordsBytes (ws : List (BitVec 32)) : List Byte := ws.flatMap (fun w => bytesOf 4 w.toNat)

/-- .align (R128): zero bytes, or in .text nop words once the address is a multiple of 4, up to a multiple of `n`. -/
def padding (text : Bool) (addr n : Nat) : List Byte :=
  let pad := (n - addr % n) % n
  if text then
    let odd := min pad ((4 - addr % 4) % 4)
    List.replicate odd 0 ++ (List.replicate ((pad - odd) / 4) (bytesOf 4 0x10000000)).flatten ++ List.replicate ((pad - odd) % 4) 0
  else List.replicate pad 0

def AsmState.align (st : AsmState) (c : AsmContext) (n : Nat) : Except AsmError AsmState :=
  st.emit (padding (st.current = ".text".toList) (st.address c st.current).toNat n)

/-- A descriptor of its own section, aligned to 64, whose name is its address (R128, R222). -/
def AsmState.descriptor (st : AsmState) (c : AsmContext) (sec name : Text) (bs : List Byte) : Except AsmError AsmState := do
  let was := st.current
  let st ← (st.enter sec).align c 64
  let st ← st.define name (st.address c sec) (some sec)
  return { (← st.emit bs) with current := was }

/-! ### Stream descriptors (06 R216, R222) -/

/-- The fields of a stream descriptor by key: the byte, the bit in it, the bits, whether the value is signed, and the names
that stand for values. -/
def streamFields : List (String × Nat × Nat × Nat × Bool × List String) :=
  [("base", 0, 0, 64, false, []), ("count0", 8, 0, 32, false, []), ("count1", 12, 0, 32, false, []),
   ("count2", 16, 0, 32, false, []), ("count3", 20, 0, 32, false, []), ("stride0", 24, 0, 48, true, []),
   ("stride1", 30, 0, 48, true, []), ("stride2", 36, 0, 48, true, []), ("stride3", 42, 0, 48, true, []),
   ("drun", 48, 0, 16, false, []), ("fmt", 50, 0, 5, false, formatNames),
   ("src", 50, 5, 3, false, ["mem", "spad", "idxq", "bgidx", "gather"]), ("tr", 51, 0, 1, false, []),
   ("swz", 51, 1, 1, false, []), ("group", 51, 2, 2, false, ["any", "e", "o"]), ("iq", 51, 4, 4, false, []),
   ("rp", 52, 0, 16, false, []), ("ish", 54, 0, 4, false, []), ("spbase", 56, 0, 32, false, [])]

/-- The value of a field of `len` bits: a name, or an expression that fits. A field of 64 bits takes every value. -/
def fieldValue (env : AsmEnv) (len : Nat) (signed : Bool) (names : List String) (t : Text) : Except AsmError Nat := do
  match nameIndex names t with
  | some i => return i
  | none =>
    let v ← env.value t
    if len = 64 then return v.toNat
    else if signed then return ((← fits (-(2 ^ (len - 1))) (2 ^ (len - 1) - 1) v.toInt) % (2 ^ len : Nat)).toNat
    else return (← fits 0 (2 ^ len - 1) v.toInt).toNat

/-- The fields `key=value` of a .stream directive as one number, every key at most once; omitted fields are zero (R128). -/
def streamValue (env : AsmEnv) : List (String × Nat × Nat × Nat × Bool × List String) → List Text → Except AsmError Nat
  | _, [] => .ok 0
  | fields, t :: ts => do
    let key := String.ofList (lower (trim (t.takeWhile (· ≠ '='))))
    let (_, byte, bit, len, signed, names) ← orBad .badOperand (fields.find? (fun f => f.1 == key))
    let value := trim ((t.dropWhile (· ≠ '=')).drop 1)
    let v ← fieldValue env len signed names value
    return v * 2 ^ (8 * byte + bit) + (← streamValue env (fields.filter (fun f => f.1 != key)) ts)

/-! ### Kernels (R128, R129; 12 R390) -/

/-- The 16 bytes of a role: ENTRY, QUARTERS and TILEQ (12 R390). -/
def roleBytes (r : AsmRole) : List Byte :=
  bytesOf 4 (r.entry.getD 0) ++ bytesOf 1 (r.quarters + 16 * r.tileq) ++ List.replicate 11 0

/-- The kernel descriptor (R129; 12 R390). A kernel without roles has the one role of ROLES = 0. -/
def kernelBytes (st : AsmState) (c : AsmContext) (k : AsmKernel) : List Byte :=
  let count := k.roles.length
  let emu := c.before.sections.any (fun s => s.name == ".emu".toList)
  let text := c.place.base ".text".toList
  bytesOf 2 1 ++ bytesOf 1 ((decide (count ≠ 0)).toNat + 2 * k.dsh.isSome.toNat) ++ bytesOf 1 (count - 1) ++ bytesOf 4 0xA0 ++
    bytesOf 8 (text + BitVec.ofNat 64 k.code).toNat ++ bytesOf 8 (st.size ".text".toList - k.code) ++ bytesOf 8 (k.dsh.getD 0).toNat ++
    bytesOf 4 k.splo ++ bytesOf 4 k.splen ++ bytesOf 8 (if emu then (c.place.base ".emu".toList).toNat else 0) ++
    bytesOf 4 (if emu then c.before.size ".emu".toList else 0) ++ List.replicate 12 0 ++
    (if count = 0 then List.replicate 16 0
     else (List.range count).flatMap (fun r => ((k.roles.find? (fun x => x.role = r)).map roleBytes).getD []))

/-- .endk: every role below the highest is given, each has an instruction, and the tile quarters lie in the quarters (R129). -/
def AsmState.closeKernel (st : AsmState) (c : AsmContext) : Except AsmError AsmState := do
  let k ← orBad .kernelNesting st.kernel
  if !(List.range k.roles.length).all (fun r => k.roles.any (fun x => x.role = r)) then .error .roles
  else if k.roles.any (fun r => r.entry.isNone) then .error .roles
  else if k.roles.any (fun r => r.tileq &&& r.quarters != r.tileq) then .error .tileQuarters
  else AsmState.descriptor { st with kernel := none } c ".kdesc".toList k.name (kernelBytes st c k)

/-- The open kernel changed. -/
def AsmState.updKernel (st : AsmState) (f : AsmKernel → Except AsmError AsmKernel) : Except AsmError AsmState := do
  return { st with kernel := some (← f (← orBad .kernelNesting st.kernel)) }

/-- The current role of the open kernel changed. -/
def AsmState.updRole (st : AsmState) (f : AsmRole → AsmRole) : Except AsmError AsmState :=
  st.updKernel (fun k =>
    match k.roles.reverse with
    | [] => .error .kernelNesting
    | r :: rs => .ok { k with roles := (f r :: rs).reverse })

/-! ### Directives (R128) -/

/-- The bytes of a data directive, one value after another; a value is signed or unsigned in its field. -/
def asmDataBytes (env : AsmEnv) (n : Nat) : List Text → Except AsmError (List Byte)
  | [] => .ok []
  | t :: ts => do
    let v ← env.value t
    let v ← if n = 8 then pure v.toInt else fits (-(2 ^ (8 * n - 1))) (2 ^ (8 * n) - 1) v.toInt
    return bytesOf n (v % (2 ^ (8 * n) : Nat)).toNat ++ (← asmDataBytes env n ts)

/-- The bytes of .f32 and .bf16. -/
def asmFloatBytes (f : FFmt) : List Text → Except AsmError (List Byte)
  | [] => .ok []
  | t :: ts => do
    let d ← orBad .badExpression (decimal t)
    return bytesOf (f.width / 8) (d.round f) ++ (← asmFloatBytes f ts)

/-- The relocation types by code (R131). -/
def relocNames : List String :=
  ["none", "abs64", "abs32", "pcrel32", "hi16", "lo16", "br13", "j21", "lp12", "emu21"]

/-- .reloc: a record of the named type at an offset in the current section. The names of the types are read in any case, since R122 does not
list them. DESIGN CHOICE, log 53. -/
def AsmState.reloc (st : AsmState) (env : AsmEnv) (offset type expr : Text) : Except AsmError AsmState := do
  let off ← env.value offset
  let ty ← orBad .badReloc (nameIndex relocNames type)
  let (symbol, addend) ← (← asmExpr expr).symbolPlus env
  return { st with relocs := st.relocs ++ [⟨st.current, off, ty, symbol, addend⟩] }

/-- A directive and its operands. CODE and CODELEN of a kernel (R129) count bytes: from the size of .text at .kernel to its size at
.endk, whatever made the bytes there. DESIGN CHOICE, log 53. -/
def AsmState.directive (st : AsmState) (c : AsmContext) (head : Text) (args : List Text) : Except AsmError AsmState :=
  let env := st.env c
  match String.ofList (lower head), args with
  | ".text", [] => .ok (st.enter ".text".toList)
  | ".data", [] => .ok (st.enter ".data".toList)
  | ".section", [n] => if isName n then .ok (st.enter n) else .error .badName
  | ".align", [n] => do
    let v := (← env.value n).toNat
    if v ≠ 0 && v &&& (v - 1) = 0 then st.align c v else .error .alignment
  | ".byte", a :: as => do st.emit (← asmDataBytes env 1 (a :: as))
  | ".half", a :: as => do st.emit (← asmDataBytes env 2 (a :: as))
  | ".word", a :: as => do st.emit (← asmDataBytes env 4 (a :: as))
  | ".dword", a :: as => do st.emit (← asmDataBytes env 8 (a :: as))
  | ".f32", a :: as => do st.emit (← asmFloatBytes .f32 (a :: as))
  | ".bf16", a :: as => do st.emit (← asmFloatBytes .bf16 (a :: as))
  | ".equ", [n, e] => do st.define n (← env.value e) none
  | ".global", [n] => if isName n then .ok { st with globals := st.globals ++ [n] } else .error .badName
  | ".reloc", [o, t, e] => st.reloc env o t e
  | ".stream", n :: fields => do st.descriptor c ".sdesc".toList n (bytesOf 64 (← streamValue env streamFields fields))
  | ".kernel", [n] =>
    if st.kernel.isSome then .error .kernelNesting
    else if !isName n then .error .badName
    else .ok { st with kernel := some { name := n, code := st.size ".text".toList } }
  | ".endk", [] => st.closeKernel c
  | ".hart", [n] => do
    let r := (← fits 0 127 (← env.value n).toInt).toNat
    st.updKernel (fun k => if k.roles.any (fun x => x.role = r) then .error .roles else .ok { k with roles := k.roles ++ [{ role := r }] })
  | ".quarters", [m] => do
    let v ← env.unsigned 4 m
    st.updRole (fun r => { r with quarters := v })
  | ".tilequarters", [m] => do
    let v ← env.unsigned 4 m
    st.updRole (fun r => { r with tileq := v })
  | ".scratch", [lo, len] => do
    let lo ← env.unsigned 32 lo
    let len ← env.unsigned 32 len
    st.updKernel (fun k => .ok { k with splo := lo, splen := len })
  | ".dishaif", [l] => do
    let v ← env.value l
    st.updKernel (fun k => .ok { k with dsh := some v })
  | _, _ => .error .unknownWord

/-! ### Lines and passes -/

/-- The entry of the current role is the first instruction after its `.hart` (R129). -/
def AsmState.noteEntry (st : AsmState) : AsmState :=
  if st.current ≠ ".text".toList then st
  else { st with kernel := st.kernel.map (fun k =>
           { k with roles := k.roles.map (fun r =>
               if r.entry.isNone then { r with entry := some (st.size ".text".toList - k.code) } else r) }) }

/-- The instruction or directive of a line. -/
def AsmState.body (st : AsmState) (c : AsmContext) (l : AsmLine) : Except AsmError AsmState :=
  let args := asmOperands l.rest
  match l.head with
  | [] => .ok st
  | '.' :: _ => st.directive c l.head args
  | _ => do
    let ws ← instructionWords (st.env c) l.head args
    if (st.address c st.current).toNat % 4 ≠ 0 then .error .misaligned else st.noteEntry.emit (wordsBytes ws)

/-- A step whose error is noted with the line's number, and which then leaves the state as it was. -/
def AsmState.attempt (st : AsmState) (n : Nat) (r : Except AsmError AsmState) : AsmState :=
  match r with
  | .ok st => st
  | .error e => { st with errors := st.errors ++ [(n, e)] }

/-- One source line: its label, then the rest. A line in error emits nothing (R125). -/
def AsmState.line (c : AsmContext) (st : AsmState) (n : Nat) (t : Text) : AsmState :=
  let l := asmLine t
  let st := match l.label with
    | some s => st.attempt n (st.define s (st.address c st.current) (some st.current))
    | none => st
  st.attempt n (st.body c l)

/-- The lines from number `n` on. -/
def AsmState.lines (c : AsmContext) : AsmState → Nat → List Text → AsmState
  | st, n, [] => if st.kernel.isSome then { st with errors := st.errors ++ [(n, .kernelNesting)] } else st
  | st, n, t :: ts => AsmState.lines c (AsmState.line c st n t) (n + 1) ts

/-- Passes over the source until one finds the symbols and the sections as the pass before left them: a symbol may stand
before its definition, and the length of `li` and the padding of .align may depend on one. -/
def assemblePasses (place : Placement) (src : List Text) : Nat → AsmState → AsmState
  | 0, st => { st with errors := st.errors ++ [(0, .unsettled)] }
  | n + 1, before =>
    let st := AsmState.lines { place, before } {} 1 src
    if st.syms = before.syms && st.sections = before.sections then st else assemblePasses place src n st

/-- Assembles source lines whose sections the linker places as `place` says. -/
def assemble (place : Placement) (src : List String) : AsmState := assemblePasses place (src.map String.toList) 16 {}

/-! ### The object file (R130) -/

/-- Section types and flags of ELF64: SHT_PROGBITS, SHT_NOBITS; SHF_WRITE, SHF_ALLOC, SHF_EXECINSTR. -/
structure SectionKind where
  align : Nat
  flags : Nat
  nobits : Bool := false
  deriving DecidableEq, Repr

/-- The alignment and flags of the assembler's sections (R130); another section is allocated, and aligned to 8.
PRESUMED, log 54. -/
def sectionKind (n : Text) : SectionKind :=
  match String.ofList n with
  | ".text" | ".emu" => ⟨4, 6, false⟩
  | ".data" => ⟨8, 3, false⟩
  | ".bss" => ⟨8, 3, true⟩
  | ".kdesc" | ".sdesc" => ⟨64, 2, false⟩
  | _ => ⟨8, 2, false⟩

/-- A symbol as the object holds it: local ones first, then those .global names; a name that is only used stands last,
undefined. -/
def objectSymbols (st : AsmState) : List (Text × Option AsmSymbol) :=
  let used := st.relocs.filterMap (·.symbol) ++ st.globals
  let undef := (used.filter (fun n => !st.syms.any (fun s => s.name == n))).eraseDups
  (st.syms.filter (fun s => !st.globals.contains s.name)).map (fun s => (s.name, some s)) ++
    (st.syms.filter (fun s => st.globals.contains s.name)).map (fun s => (s.name, some s)) ++ undef.map (·, none)

/-- The index of a symbol in the table, whose entry 0 is empty. -/
def symbolIndex (st : AsmState) (n : Text) : Nat := ((objectSymbols st).findIdx? (fun s => s.1 == n)).elim 0 (· + 1)

/-- A RELA record (R130): the offset, the type in r_info[31:0] and the symbol in r_info[63:32], the addend. -/
def relaBytes (st : AsmState) (r : AsmReloc) : List Byte :=
  bytesOf 8 r.offset.toNat ++ bytesOf 8 (r.type + 2 ^ 32 * (r.symbol.elim 0 (symbolIndex st))) ++ bytesOf 8 r.addend.toNat

/-- Names one after another, each ended by a zero byte, after an empty one. -/
def stringTable (ns : List Text) : List Byte := 0 :: ns.flatMap (fun n => n.map (fun c => BitVec.ofNat 8 c.toNat) ++ [0])

/-- Where a name lies in a string table. -/
def stringOffset : List Text → Text → Nat
  | [], _ => 0
  | m :: ms, n => if m = n then 1 else m.length + 1 + stringOffset ms n

/-- The index of a secs header; the header 0 is empty. -/
def sectionIndex (st : AsmState) (n : Text) : Nat := (st.sections.findIdx? (fun s => s.name == n)).elim 0 (· + 1)

/-- One entry of the symbol table: a value is the offset in its section, or absolute (SHN_ABS). -/
def symbolBytes (place : Placement) (st : AsmState) (names : List Text) (s : Text × Option AsmSymbol) : List Byte :=
  let isGlobal := st.globals.contains s.1 || s.2.isNone
  let (shndx, value) := match s.2 with
    | none => (0, 0)
    | some y => match y.sec with
      | none => (0xFFF1, y.value.toNat)
      | some sec => (sectionIndex st sec, (y.value - place.base sec).toNat)
  bytesOf 4 (stringOffset names s.1) ++ bytesOf 1 (if isGlobal then 16 else 0) ++ bytesOf 1 0 ++ bytesOf 2 shndx ++
    bytesOf 8 value ++ bytesOf 8 0

/-- A section of the file: its name, sh_type, sh_flags, contents, length, sh_link, sh_info, alignment, size of an entry. -/
structure FileSection where
  name : Text
  type : Nat
  flags : Nat
  bytes : List Byte
  size : Nat
  link : Nat := 0
  info : Nat := 0
  align : Nat
  entsize : Nat := 0
  deriving DecidableEq, Repr

/-- The sections of the file after the empty one: the assembled ones, their relocations, the symbols and the names.
PRESUMED, log 54. -/
def fileSections (place : Placement) (st : AsmState) : List FileSection :=
  let syms := objectSymbols st
  let names := syms.map (·.1)
  let relocated := st.sections.filter (fun s => st.relocs.any (fun r => r.sec = s.name))
  let symtab := st.sections.length + relocated.length + 1
  let locals := (syms.filter (fun s => s.2.isSome && !st.globals.contains s.1)).length
  let main := st.sections.map (fun s =>
    let k := sectionKind s.name
    ({ name := s.name, type := if k.nobits then 8 else 1, flags := k.flags, bytes := if k.nobits then [] else s.bytes,
       size := s.bytes.length, align := k.align } : FileSection))
  let rela := relocated.map (fun s =>
    let bs := (st.relocs.filter (fun r => r.sec = s.name)).flatMap (relaBytes st)
    ({ name := ".rela".toList ++ s.name, type := 4, flags := 0x40, bytes := bs, size := bs.length, link := symtab,
       info := sectionIndex st s.name, align := 8, entsize := 24 } : FileSection))
  let table := List.replicate 24 0 ++ syms.flatMap (symbolBytes place st names)
  let strings := stringTable names
  let body := main ++ rela
  let headers := stringTable (body.map (·.name) ++ [".symtab".toList, ".strtab".toList, ".shstrtab".toList])
  body ++
    [{ name := ".symtab".toList, type := 2, flags := 0, bytes := table, size := table.length, link := symtab + 1,
       info := locals + 1, align := 8, entsize := 24 },
     { name := ".strtab".toList, type := 3, flags := 0, bytes := strings, size := strings.length, align := 1 },
     { name := ".shstrtab".toList, type := 3, flags := 0, bytes := headers, size := headers.length, align := 1 }]

/-- The contents of the sections one after another, each aligned, from file offset `at'` on, and the headers that say where. -/
def layFile (names : List Text) : Nat → List FileSection → List Byte × List Byte
  | at', [] => (List.replicate ((8 - at' % 8) % 8) 0, [])
  | at', s :: ss =>
    let pad := (s.align - at' % s.align) % s.align
    let off := at' + pad
    let (body, heads) := layFile names (off + s.bytes.length) ss
    (List.replicate pad 0 ++ s.bytes ++ body,
     bytesOf 4 (stringOffset names s.name) ++ bytesOf 4 s.type ++ bytesOf 8 s.flags ++ bytesOf 8 0 ++ bytesOf 8 off ++
       bytesOf 8 s.size ++ bytesOf 4 s.link ++ bytesOf 4 s.info ++ bytesOf 8 s.align ++ bytesOf 8 s.entsize ++ heads)

/-- The bytes of the object file: ELF64, little-endian, relocatable, e_machine 0xA8F0 (R130). PRESUMED, log 54. -/
def objectFile (place : Placement) (st : AsmState) : List Byte :=
  let ss := fileSections place st
  let (body, heads) := layFile (ss.map (·.name)) 64 ss
  [0x7F, 0x45, 0x4C, 0x46, 2, 1, 1] ++ List.replicate 9 0 ++ bytesOf 2 1 ++ bytesOf 2 0xA8F0 ++ bytesOf 4 1 ++ bytesOf 8 0 ++
    bytesOf 8 0 ++ bytesOf 8 (64 + body.length) ++ bytesOf 4 0 ++ bytesOf 2 64 ++ bytesOf 2 0 ++ bytesOf 2 0 ++ bytesOf 2 64 ++
    bytesOf 2 (ss.length + 1) ++ bytesOf 2 ss.length ++ body ++ List.replicate 64 0 ++ heads

/-! ### The link (R131) -/

/-- The bytes from `off` on replaced. -/
def patch (bs : List Byte) (off : Nat) (new : List Byte) : List Byte :=
  bs.take off ++ new ++ bs.drop (off + new.length)

/-- One relocation: the field takes the low bits of its value; a failed test or an unassigned type is an error (R131). What the rule
leaves open: a field outside its section and a symbol that nothing defines are errors for every type, NONE too, and an
instruction field may stand at an address that is no multiple of 4. DESIGN CHOICE, log 54. -/
def applyReloc (place : Placement) (sym : Text → Option Word) (st : AsmState) (r : AsmReloc) : Except AsmError AsmState := do
  let s ← match r.symbol with
    | none => pure 0
    | some n => orBad .undefined (sym n)
  let p := place.base r.sec + r.offset
  let (_, fits, v) := relocValue r.type s.toInt r.addend.toInt p.toInt
  let (n, w) := relocField r.type
  if r.type ≥ 10 || st.size r.sec < r.offset.toNat + n then .error .badReloc
  else if !fits then .error .linkRange
  else
    let old := ofBytes (((st.bytes r.sec).drop r.offset.toNat).take n)
    let new := bytesOf n (old / 2 ^ w * 2 ^ w + (v % (2 ^ w : Nat)).toNat)
    return { st with sections := st.sections.map (fun x =>
      if x.name = r.sec then { x with bytes := patch x.bytes r.offset.toNat new } else x) }

/-- The object with its relocations applied; `others` gives the symbols that other objects make visible.
PRESUMED, log 54. -/
def link (place : Placement) (others : Text → Option Word) (st : AsmState) : Except AsmError AsmState := do
  let sym := fun n => ((st.syms.find? (fun s => s.name == n)).map (·.value)).or (others n)
  return { (← st.relocs.foldlM (applyReloc place sym) st) with relocs := [] }

/-- The words of .text. -/
def textWords (st : AsmState) : List (BitVec 32) :=
  let bs := st.bytes ".text".toList
  (List.range (bs.length / 4)).map (fun i => BitVec.ofNat 32 (ofBytes ((bs.drop (4 * i)).take 4)))

end Sys2Proof.Machine
end

