-- ==== Sys2Proof/Safety.lean ====
section
/-!
DEFINITION. What the statements are said in: a run that never stops, the canonical form of memory, what an instruction leaves
alone, an access that a state permits, an entry that issues.
-/

namespace Sys2Proof.Machine

/-! ### Safe runs and the invariant -/

/-- A run that never stops. A hart's faults are traps and a device's fatal errors freeze it, so a run stops only at a move of
the schedule that names a hart the device does not have. -/
def NeverStops (s : State) : Prop := ∀ k, ∃ t, Host.Core.run Sys2Proof.core k s = .next t

/-- The canonical form of memory: addresses rise strictly, and no listed byte is what an unlisted address reads as.
DESIGN CHOICE, log 2. -/
def Memory.wf (m : List Host.Cell) : Bool := smWf (0 : BitVec 8) m

/-- The invariant that every step keeps. -/
def State.Inv (s : State) : Prop := Memory.wf s.mem = true

/-! ### Frames -/

/-- Nothing of the machine differs but the running hart. -/
def OnlyMe (s t : State) : Prop :=
  t = { s with harts := t.harts } ∧ (∀ h, h ≠ s.cur → t.hart h = s.hart h) ∧ ∀ pa, t.byteAt pa = s.byteAt pa

/-- Of the running hart, only its pc, the scalar registers listed and the model's count of issued instructions may differ. -/
def RegsFrame (rds : List Nat) (s t : State) : Prop :=
  OnlyMe s t ∧ t.me = { s.me with pc := t.me.pc, sregs := t.me.sregs, issueCount := t.me.issueCount } ∧ ∀ r, r ∉ rds → t.me.s r = s.me.s r

/-- As `RegsFrame`, but FFLAGS too may differ, which keeps what it held. -/
def FlagsFrame (rds : List Nat) (s t : State) : Prop :=
  OnlyMe s t ∧
  t.me = { s.me with pc := t.me.pc, sregs := t.me.sregs, fflags := t.me.fflags, issueCount := t.me.issueCount } ∧
  (∃ f, t.me.fflags = s.me.fflags ||| f) ∧ ∀ r, r ∉ rds → t.me.s r = s.me.s r

/-! ### Results of scalar instructions -/

/-- The running hart with s[rd] := v, past its instruction. -/
def State.put (s : State) (rd : BitVec 5) (v : Word) : State := s.updMe (fun x => (x.setS rd.toNat v).adv)

/-- The running hart with s[rd] := v, going on at an address, with one more instruction issued. -/
def State.jump (s : State) (rd : BitVec 5) (v pc : Word) : State :=
  s.updMe (fun x => { x.setS rd.toNat v with pc := pc, issueCount := x.issueCount + 1 })

/-- The running hart past its instruction. -/
def State.past (s : State) : State := s.updMe Hart.adv

/-- The running hart going on at an address, with one more instruction issued. -/
def State.goTo (s : State) (pc : Word) : State :=
  s.updMe (fun x => { x with pc := pc, issueCount := x.issueCount + 1 })

/-- The scalar register that a field names, in the running hart. -/
def State.reg (s : State) (r : BitVec 5) : Word := s.me.s r.toNat

/-- The rounding mode of the scalar floating-point instructions (04 R143). -/
def State.rmNow (s : State) : Rm := rmNoSr (vtypeRm s.me.vtype)

/-- A floating-point operation on the values of three registers. -/
def State.fpOf (s : State) (fn : FpFn) (ra rb rc : BitVec 5) : Nat × Flags :=
  fn s.rmNow (s.reg ra).toNat (s.reg rb).toNat (s.reg rc).toNat

/-- The running hart with a floating-point result in s[rd], the flags raised ORed into FFLAGS, past its instruction. -/
def State.fput (s : State) (rd : BitVec 5) (r : Nat × Flags) : State :=
  s.updMe (fun x => { x.setS rd.toNat (BitVec.ofNat 64 r.1) with fflags := x.fflags ||| r.2 }.adv)

/-- The bits of a word below a position that are set. -/
def setBelow (b : Word) (i : Nat) : Nat := (List.range i).countP b.getLsbD

/-! ### Accesses that a state permits -/

/-- The agent of a scalar access of the running hart. -/
def State.scalarAgent (s : State) : Agent := s.coreAgent s.cur

/-- A scalar access of `n` bytes at `va` by a hart of a control core is translated by an entry of its core's TLB to `pa` on a page that is not
compressed, and is permitted (02 R55 to R60, R63, R67): it changes no page entry and waits for no link and no FENCE. -/
def State.maps (s : State) (va : Word) (n : Nat) (k : Acc) (pa : Nat) : Prop :=
  s.cur ≠ supvHart ∧
  va.extractLsb' 57 7 = (if va.getLsbD 56 then 0x7F#7 else 0#7) ∧
  s.regionAt s.me.tenant va.toNat = none ∧
  (∃ e, tlbFind (s.coreTlb (coreOf s.cur)) s.me.tenant va.toNat k.isWrite = some e ∧ (e.pte.extractLsb' 8 3).toNat ≠ 2 ∧
    pa = (e.pte.extractLsb' 12 36).toNat * 4096 + va.toNat % leafSize e.level ∧
    s.frameOk (e.pte.extractLsb' 8 3).toNat pa = true ∧
    permFault (e.pte.extractLsb' 8 3).toNat (e.pte.getLsbD 2) (e.pte.getLsbD 3) (e.pte.getLsbD 4) k = none) ∧
  s.shutHops (s.coreAgent s.cur).sender 8 (if isHost pa then 8 else homeDie pa) = [] ∧
  s.ioHeld s.cur none = false ∧
  s.ownerOk s.scalarAgent pa n k = true

/-- A read of `n` bytes at `va` by the running hart gives `v` and leaves `t`. -/
def State.reads (s : State) (va : Word) (n v : Nat) (t : State) : Prop :=
  runM (memRead none 0 va n .load 0) s = (.ok v, t)

/-- A write of `n` bytes at `va` by the running hart leaves `t`. -/
def State.writes (s : State) (va : Word) (n v : Nat) (t : State) : Prop :=
  runM (memWrite none 0 va n v .store 0) s = (.ok (), t)

/-- The first access of an atomic of `n` bytes at `va` by the running hart ends in the trap `e` and leaves `t`: its check as a write (04
R145), or the supervisor core's read. -/
def State.atomicTraps (s : State) (va : Word) (n : Nat) (e : TrapInfo) (t : State) : Prop :=
  if s.cur = supvHart then runM (memRead none 0 va n .atomic 0) s = (.error (.trap e), t)
  else runM (writeCheck none 0 va n .atomic 0) s = (.error (.trap e), t)

/-- An atomic of `n` bytes at `va` by the running hart, of a control core, passes its check as a write at the physical address `pa` and
leaves `u`. -/
def State.checked (s : State) (va : Word) (n pa : Nat) (u : State) : Prop :=
  s.cur ≠ supvHart ∧ runM (writeCheck none 0 va n .atomic 0) s = (.ok pa, u)

/-- No watchpoint stops a write of `n` bytes at `pa` by the running hart, and no pass marker waits (13 R420, R422). -/
def State.unwatched (s : State) (pa n : Nat) : Prop :=
  s.watchHits (s.agent s.cur 0) .hart pa n = [] ∧ s.me.watchPass = none

/-! ### Entries that issue -/

/-- The running hart may issue a queue-class instruction with the operation and registers given (04 R136, R138, R156, R157,
R159). -/
def State.mayQueue (s : State) (op : QOp) (regs : List Nat) : Prop :=
  s.cur ≠ supvHart ∧ s.me.holding = false ∧ s.me.ready regs = true ∧ s.fenced op.kinds = false ∧ (retire s.me.queue).length < 64

/-- The running hart after the issue of an entry (04 R157, 08 R288): the entry holds the word, the operation and the captured
s[rd], s[ra], s[rb] and s[rb + 1], the VL that it fixes (R149) and the cycle, and the hart is past the instruction. -/
def State.issued (s : State) (op : QOp) (word : BitVec 32) (rd ra rb : Nat) (dst : Option Nat) : State :=
  let x := s.me
  let isLazy := op.tileWord && x.tileIssue == 0
  let vl := match op with | .vset vt ds avl => s.vlIssued vt ds avl | _ => 0
  let y := pushEntry x op word (x.s rd) (x.s ra) (x.s rb) (x.s (rb + 1)) dst isLazy vl
  let y := y.updEntry x.nextUid (fun e => { e with issued := s.cycle })
  s.updMe (fun _ => { y.adv with issueHold := y.issueHold || isLazy, tileIssue := tileIssueAfter x op })

/-- The instruction issues as an entry: wherever it may, and then the queue advances. -/
def IssuesAs (i : Instr) (op : QOp) (rd ra rb : Nat) (dst : Option Nat) (regs : List Nat) : Prop :=
  ∀ (s : State) (w : BitVec 32), encode i = some w → s.mayQueue op (regs ++ dst.toList) →
    exec i s = .next (drain s.cur (s.issued op w rd ra rb dst))

/-- No link holds up the command of the next entry of the running hart, or its completion, on an enabled die (10 R354). -/
def State.commandsPass (s : State) : Prop :=
  ∀ d ∈ s.dies 0xFF, s.shutHops
    { owner := .entry s.cur s.me.nextQsn, payer := s.me.ctlPayer, cls := .ctl } 8 d = []

/-- The machine when a hart's turn comes, from the schedule's next move. -/
def State.turn (s : State) (h : Nat) (rest : List Act) : State := { s with cycle := s.cycle + 1, agenda := rest, cur := h }

/-- The next move of the schedule is the turn of hart `h`, which runs, does not stand back in a YIELD, has no trap from outside to take
and no portable kernel, and fetches the word `w`, leaving `t`; the word is no emulation call. -/
def State.fetches (s : State) (h : Nat) (rest : List Act) (w : BitVec 32) (t : State) : Prop :=
  s.agenda = .hart h :: rest ∧ h ≤ supvHart ∧ s.mayTurn h = true ∧ State.standsBack { s with cycle := s.cycle + 1, agenda := rest } h = false ∧
  (s.hart h).run = .running ∧ (s.hart h).pending = [] ∧
  (s.hart h).portable = none ∧ fetchWord h (s.turn h rest) = (.ok w, t) ∧ emulated t w = none

/-- The command is no longer one that waits, but one that runs. -/
def State.taken (s : State) (c : HostCmd) : State :=
  s.updHq c.queue (fun x => { x with waiting := x.waiting.filter (· ≠ c), running := x.running ++ [c] })

/-- A command whose turn has come in its queue, on a device that takes commands, starts (12 R382): it is not refused, and no link holds
up the descriptors it names. -/
def State.starts (s : State) (c : HostCmd) : Prop :=
  s.serving = true ∧ (s.hq c.queue).enable = true ∧ queueExists c.queue = true ∧ c ∈ (s.hq c.queue).waiting ∧
  s.mayStart c = true ∧ refusal c (s.taken c) = none ∧
  (cmdReads s c).flatMap (fun pa => s.shutHops (commandSender c) 8 (servedAt pa)) = []

/-- No link holds up what the sequencer reads or writes for a command that leaves `t` (10 R354): no flit of it waits, before or after. -/
def State.unheld (s : State) (c : HostCmd) (t : State) : Prop :=
  (∀ f ∈ s.flits, f.owner ≠ commandFlit c.queue ∧ f.owner ≠ acting) ∧ ∀ f ∈ t.flits, f.owner ≠ acting

/-- The instructions that raise PRIV outside supervisor mode (03 R99). -/
def privileged : Instr → Bool
  | .lpause _ | .lresume _ | .lremap _ _ | .ltrain _ _ | .ctxsave _ | .ctxload _ | .svrd _ _ | .svwr _ _ | .warm _ _
  | .wdisarm _ => true
  | _ => false

end Sys2Proof.Machine
end

