-- ==== Sys2Proof/Certificates/Slice0/Obligations.lean ====
section
/-!
DEFINITION. The statements for the provers, one definition each; OBLIGATIONS.json lists them with the rules they rest on.
-/

section

open Sys2Proof Sys2Proof.Machine

/-- Words the spec writes out decode to their instructions (R138, R205, R285, R294, R346, R363, R404, R417, 03_encoding.md) -/
def Obligations.DecodeWords : Prop :=
  decode true 0x04642800 = .ok (.add 3 4 5) ∧
  decode true 0x688535A0 = .ok (.vfadd 4 5 6 1 3 1 0) ∧
  decode true 0x494B6FFD = .ok (.loopv 10 11 1 2 0xffd) ∧
  decode true 0xB0010400 = .ok (.tmul 0 1 0 1 0 0 0) ∧
  decode true 0xB0010420 = .ok (.tmul 0 1 0 1 0 1 0) ∧
  decode true 0xB4011482 = .ok (.tmulsp 0 1 2 1 1 0 2) ∧
  decode true 0xB8000800 = .ok (.tmodeOn 1) ∧
  decode true 0xB8000801 = .ok (.tmodeOff 1) ∧
  decode true 0xA03A800F = .ok (.mpopc 7 40) ∧
  decode true 0xD8050001 = .ok (.kwait 5) ∧
  decode true 0xDC060022 = .ok (.warm 6 2) ∧
  decode true 0xDC000023 = .ok (.wdisarm 2) ∧
  decode true 0xDCA60000 = .ok (.svrd 5 6) ∧
  decode true 0xD0A63800 = .ok (.lturn 5 6 7) ∧
  decode true 0xD4A63800 = .ok (.bput 5 6 7) ∧
  decode true 0xD8A60000 = .ok (.klaunch 5 6)

/-- Decoding the word of a well-formed instruction gives the instruction back (R91, R92, R97, R99, 03_encoding.md) -/
def Obligations.EncodeThenDecode : Prop :=
  ∀ (i : Instr) (w : BitVec 32), i.wellFormed = true → encode i = some w → decode true w = .ok i

/-- A word that decodes is the word of a well-formed instruction, and no other word decodes to it (R91, R97, R99, 03_encoding.md) -/
def Obligations.DecodeThenEncode : Prop :=
  ∀ (w : BitVec 32) (i : Instr), decode true w = .ok i → i.wellFormed = true ∧ encode i = some w

/-- Outside supervisor mode exactly the privileged instructions are turned away (R97, R99, R132) -/
def Obligations.UserModeDecode : Prop :=
  ∀ (w : BitVec 32) (i : Instr), decode true w = .ok i →
    decode false w = if privileged i then .error .priv else .ok i

/-- A privileged instruction traps with PRIV in user mode (R97, R99, R132) -/
def Obligations.PrivilegedTraps : Prop :=
  ∀ (i : Instr) (w : BitVec 32) (s : State), privileged i = true → encode i = some w → s.me.super = false →
    exec i s = .next (s.trapHere { code := 3, i0 := w.setWidth 64 })

/-- A step runs the instruction that the fetched word decodes to (R62, R97, R136, R163) -/
def Obligations.StepRunsDecoded : Prop :=
  ∀ (s t : State) (h : Nat) (rest : List Act) (w : BitVec 32) (i : Instr),
    s.fetches h rest w t → decode t.me.super w = .ok i →
    step s = match exec i t with
      | .next u => .next (settle (State.turned { s with cycle := s.cycle + 1, agenda := rest } h u))
      | r => r

/-- A step takes the trap of a word that is no instruction (R97, R135, R136, R161, R164, R405) -/
def Obligations.StepTrapsRejectedWords : Prop :=
  ∀ (s t : State) (h : Nat) (rest : List Act) (w : BitVec 32) (e : Reject),
    s.fetches h rest w t → t.me.run = .running → decode t.me.super w = .error e →
    step s = .next (settle (State.turned { s with cycle := s.cycle + 1, agenda := rest } h (t.trapHere
      (if t.cur = supvHart ∧ queueWord w = true then { code := 1, i0 := w.setWidth 64, i1 := 1 }
      else match e with
        | .illegal r => { code := 1, i0 := w.setWidth 64, i1 := BitVec.ofNat 64 r }
        | .absent => { code := 2, i0 := w.setWidth 64 }
        | .priv => { code := 3, i0 := w.setWidth 64 }))))

/-- The word that withFetchWord places is the one the next step fetches (R62, R132, 02_memory_model.md) -/
def Obligations.PlacedWordIsFetched : Prop :=
  ∀ (w : BitVec 32), ∃ t, (State.reset.withFetchWord 32 w.toNat).fetches 0 [] w t ∧ t.me.super = true ∧ t.me.pc = 0

/-- Every instruction and event answers a next state in every state (the model's choice) (R160, R427, 04_control_core.md) -/
def Obligations.ExecAnswers : Prop :=
  ∀ (i : Instr) (s : State), ∃ t, exec i s = .next t

/-- Reset leaves the values the spec gives (R11, R117, R118, R119, R120, R157, R406, R407, R425) -/
def Obligations.ResetValues : Prop :=
  (∀ h, let x := State.reset.hart h
    x.vl = 0 ∧ x.vstart = 0 ∧ x.vtype = 0x000A ∧ (∀ n, x.dsel n = 0x00010000000000FF) ∧ x.fflags = 0 ∧ x.satcnt = 0 ∧
    (∀ i, x.laneLfsr i = BitVec.ofNat 32 (i + 1)) ∧ x.tcause = 0 ∧ x.tvec = 0 ∧ x.queue = [] ∧ x.nextQsn = 0 ∧
    (∀ n, (x.q n).isOpen = false) ∧ (∀ i, smGet 0 x.fexc i = 0) ∧ x.lfsrIdx = 0 ∧ x.tm = 0 ∧ x.tn = 0 ∧ x.tk = 0 ∧ x.tkprog = 0 ∧
    x.tpc = 0 ∧ x.tqsn = 0 ∧ x.tinfo0 = 0 ∧ x.tinfo1 = 0 ∧ x.tinfo2 = 0 ∧ x.tinfo3 = 0 ∧ x.tscratch = 0 ∧ x.emubase = 0 ∧
    x.cfg = none ∧ x.tenant = 0 ∧ x.owned = 0 ∧ x.tile = 0) ∧
  (∀ i, smGet 0 State.reset.watchReg i = 0) ∧
  (∀ c, State.reset.laneMask c = 0xFFFFFFFF) ∧
  State.reset.split = 0x100 ∧ State.reset.splitLock = false ∧ State.reset.diedis = 0 ∧
  (let b := State.reset.boot;
    b.bstate = 0 ∧ b.bootgo = false ∧ b.bfail = 0 ∧ b.diedis = 0 ∧ b.pwrlim = 0xC80 ∧ b.imgsrc = 0 ∧ b.dumpbase = 0 ∧
    b.dumpsize = 0 ∧ b.fatal = false ∧ b.dumpdone = false ∧ b.fwdead = false ∧ b.die = 0 ∧ b.cause = 0 ∧ b.attaddr = 0 ∧
    b.attreq = false ∧ b.attnonce = 0 ∧ b.measure = 0) ∧
  (∀ w, (smGet {} State.reset.dmaw w) = { base := 0, size := 0, valid := false, read := false, write := false, owner := 0 }) ∧
  State.reset.supv.fwlim = 0xC80

/-- s0 reads as zero and discards what is written, and the instruction has every other effect (R133) -/
def Obligations.ZeroRegister : Prop :=
  (∀ x : Hart, x.s 0 = 0) ∧ (∀ (x : Hart) (v : Word), x.setS 0 v = x) ∧
  (∀ (ra rb : BitVec 5) (s : State), s.me.ready [0, ra.toNat, rb.toNat] = true → exec (.add 0 ra rb) s = .next s.past) ∧
  (∀ (ra rb : BitVec 5) (s : State), s.me.ready [0, ra.toNat, rb.toNat] = true → s.me.vtypePending = false →
    exec (.faddS 0 ra rb) s =
      .next (s.updMe (fun x => { x with fflags := x.fflags ||| (s.fpOf (fpAdd .f32) ra rb 0).2 }.adv))) ∧
  (∀ (ra : BitVec 5) (off : BitVec 13) (s t : State) (v : Nat),
    s.me.ready [0, ra.toNat] = true → s.fenced 1 = false → (s.reg ra + off.signExtend 64).toNat % 8 = 0 →
    s.reads (s.reg ra + off.signExtend 64) 8 v t → exec (.ldd 0 ra off) s = .next t.past)

/-- Aligned bytes read back as they were written, whichever view names them (R6, R53, R54, R75) -/
def Obligations.MemoryReadAfterWrite : Prop :=
  ∀ (s : State) (pa n v : Nat), n ∈ [1, 2, 4, 8] → pa % n = 0 →
    (s.setBytes pa n v).bytesAt pa n = v % 2 ^ (8 * n) ∧
    ∀ q, (∀ i, i < n → memKey q ≠ memKey (pa + i)) → (s.setBytes pa n v).byteAt q = s.byteAt q

/-- Memory after reset has its canonical form (R425, 02_memory_model.md) -/
def Obligations.ResetMemoryCanonical : Prop :=
  State.reset.Inv

/-- Every step keeps memory in its canonical form (R6, R51, 02_memory_model.md) -/
def Obligations.StepKeepsMemoryCanonical : Prop :=
  ∀ (s t : State), s.Inv → step s = .next t → t.Inv

/-- What each ALU instruction writes, and that it does nothing else (R139) -/
def Obligations.AluResults : Prop :=
  (∀ (rd ra rb : BitVec 5) (s : State), s.me.ready [rd.toNat, ra.toNat, rb.toNat] = true →
    let a := s.reg ra
    let b := s.reg rb
    exec (.add rd ra rb) s = .next (s.put rd (a + b)) ∧
    exec (.sub rd ra rb) s = .next (s.put rd (a - b)) ∧
    exec (.and rd ra rb) s = .next (s.put rd (a &&& b)) ∧
    exec (.or rd ra rb) s = .next (s.put rd (a ||| b)) ∧
    exec (.xor rd ra rb) s = .next (s.put rd (a ^^^ b)) ∧
    exec (.andn rd ra rb) s = .next (s.put rd (a &&& ~~~b)) ∧
    exec (.orn rd ra rb) s = .next (s.put rd (a ||| ~~~b)) ∧
    exec (.xnor rd ra rb) s = .next (s.put rd (~~~(a ^^^ b))) ∧
    exec (.sll rd ra rb) s = .next (s.put rd (a <<< (b.toNat % 64))) ∧
    exec (.srl rd ra rb) s = .next (s.put rd (a >>> (b.toNat % 64))) ∧
    exec (.sra rd ra rb) s = .next (s.put rd (a.sshiftRight (b.toNat % 64))) ∧
    exec (.rol rd ra rb) s = .next (s.put rd (a.rotateLeft (b.toNat % 64))) ∧
    exec (.ror rd ra rb) s = .next (s.put rd (a.rotateRight (b.toNat % 64))) ∧
    exec (.slt rd ra rb) s = .next (s.put rd (if a.slt b then 1 else 0)) ∧
    exec (.sltu rd ra rb) s = .next (s.put rd (if a.ult b then 1 else 0)) ∧
    exec (.mul rd ra rb) s = .next (s.put rd (a * b)) ∧
    exec (.mulh rd ra rb) s = .next (s.put rd ((a.signExtend 128 * b.signExtend 128).extractLsb' 64 64)) ∧
    exec (.mulhu rd ra rb) s = .next (s.put rd ((a.setWidth 128 * b.setWidth 128).extractLsb' 64 64)) ∧
    exec (.mulhsu rd ra rb) s = .next (s.put rd ((a.signExtend 128 * b.setWidth 128).extractLsb' 64 64)) ∧
    exec (.div rd ra rb) s = .next (s.put rd (if b = 0 then BitVec.allOnes 64 else a.sdiv b)) ∧
    exec (.divu rd ra rb) s = .next (s.put rd (if b = 0 then BitVec.allOnes 64 else a / b)) ∧
    exec (.rem rd ra rb) s = .next (s.put rd (if b = 0 then a else a.srem b)) ∧
    exec (.remu rd ra rb) s = .next (s.put rd (if b = 0 then a else a % b)) ∧
    exec (.min rd ra rb) s = .next (s.put rd (if a.slt b then a else b)) ∧
    exec (.max rd ra rb) s = .next (s.put rd (if a.slt b then b else a)) ∧
    exec (.minu rd ra rb) s = .next (s.put rd (if a.ult b then a else b)) ∧
    exec (.maxu rd ra rb) s = .next (s.put rd (if a.ult b then b else a))) ∧
  (∀ (rd ra : BitVec 5) (s : State), s.me.ready [rd.toNat, ra.toNat] = true →
    let a := s.reg ra
    exec (.clz rd ra) s = .next (s.put rd (a.clz)) ∧
    exec (.ctz rd ra) s = .next (s.put rd (a.ctz)) ∧
    exec (.popc rd ra) s = .next (s.put rd (a.cpop)) ∧
    exec (.rev8 rd ra) s = .next (s.put rd (a.extractLsb' 0 8 ++ a.extractLsb' 8 8 ++ a.extractLsb' 16 8 ++ a.extractLsb' 24 8 ++
      a.extractLsb' 32 8 ++ a.extractLsb' 40 8 ++ a.extractLsb' 48 8 ++ a.extractLsb' 56 8)) ∧
    exec (.sextb rd ra) s = .next (s.put rd ((a.extractLsb' 0 8).signExtend 64)) ∧
    exec (.sexth rd ra) s = .next (s.put rd ((a.extractLsb' 0 16).signExtend 64)) ∧
    exec (.sextw rd ra) s = .next (s.put rd ((a.extractLsb' 0 32).signExtend 64)) ∧
    exec (.zextw rd ra) s = .next (s.put rd ((a.extractLsb' 0 32).setWidth 64))) ∧
  (∀ (rd ra : BitVec 5) (sh : BitVec 6) (s : State), s.me.ready [rd.toNat, ra.toNat] = true →
    let a := s.reg ra
    exec (.slli rd ra sh) s = .next (s.put rd (a <<< sh.toNat)) ∧
    exec (.srli rd ra sh) s = .next (s.put rd (a >>> sh.toNat)) ∧
    exec (.srai rd ra sh) s = .next (s.put rd (a.sshiftRight sh.toNat)) ∧
    exec (.rori rd ra sh) s = .next (s.put rd (a.rotateRight sh.toNat))) ∧
  (∀ (rd ra rb rc : BitVec 5) (s : State), s.me.ready [rd.toNat, ra.toNat, rb.toNat, rc.toNat] = true →
    exec (.selz rd ra rb rc) s = .next (s.put rd (if s.reg rc = 0 then s.reg ra else s.reg rb)) ∧
    exec (.selnz rd ra rb rc) s = .next (s.put rd (if s.reg rc ≠ 0 then s.reg ra else s.reg rb)))

/-- What each immediate instruction writes (R93, R140) -/
def Obligations.ImmediateResults : Prop :=
  (∀ (rd ra : BitVec 5) (imm : BitVec 16) (s : State), s.me.ready [rd.toNat, ra.toNat] = true →
    let a := s.reg ra
    let i := imm.signExtend 64
    exec (.addi rd ra imm) s = .next (s.put rd (a + i)) ∧
    exec (.andi rd ra imm) s = .next (s.put rd (a &&& imm.setWidth 64)) ∧
    exec (.ori rd ra imm) s = .next (s.put rd (a ||| imm.setWidth 64)) ∧
    exec (.xori rd ra imm) s = .next (s.put rd (a ^^^ imm.setWidth 64)) ∧
    exec (.slti rd ra imm) s = .next (s.put rd (if a.slt i then 1 else 0)) ∧
    exec (.sltiu rd ra imm) s = .next (s.put rd (if a.ult i then 1 else 0)) ∧
    exec (.addhi rd ra imm) s = .next (s.put rd (a + i * 65536))) ∧
  (∀ (rd : BitVec 5) (imm : BitVec 16) (s : State), s.me.ready [rd.toNat] = true →
    exec (.lui rd imm) s = .next (s.put rd (imm.signExtend 64 * 65536)))

/-- What each bit-field instruction writes, bit by bit (R141) -/
def Obligations.BitFieldResults : Prop :=
  (∀ (rd ra rb rc : BitVec 5) (s : State), s.me.ready [rd.toNat, ra.toNat, rb.toNat, rc.toNat] = true →
    let a := s.reg ra
    let b := s.reg rb
    let n := (s.reg rc).toNat % 128
    let pos := b.toNat % 64
    let len := Nat.min n 64
    exec (.fsl rd ra rb rc) s = .next (s.put rd (((a ++ b : BitVec 128) <<< n).extractLsb' 64 64)) ∧
    exec (.fsr rd ra rb rc) s = .next (s.put rd (((a ++ b : BitVec 128) >>> n).extractLsb' 0 64)) ∧
    (∃ v : Word, (∀ i, i < 64 → v.getLsbD i = (decide (i < len) && a.getLsbD (pos + i))) ∧
      exec (.bfx rd ra rb rc) s = .next (s.put rd v)) ∧
    (∃ v : Word, (∀ i, i < 64 → v.getLsbD i =
        (decide (len ≠ 0) && (let j := pos + Nat.min i (len - 1); if 63 < j then a.msb else a.getLsbD j))) ∧
      exec (.bfxs rd ra rb rc) s = .next (s.put rd v)) ∧
    (∃ v : Word, (∀ i, i < 64 → v.getLsbD i =
        if pos ≤ i ∧ i < Nat.min (pos + len) 64 then a.getLsbD (i - pos) else (s.reg rd).getLsbD i) ∧
      exec (.bfi rd ra rb rc) s = .next (s.put rd v))) ∧
  (∀ (rd ra rb : BitVec 5) (s : State), s.me.ready [rd.toNat, ra.toNat, rb.toNat] = true →
    let a := s.reg ra
    let b := s.reg rb
    (∃ v : Word, (∀ i, i < 64 → v.getLsbD i = (b.getLsbD i && a.getLsbD (setBelow b i))) ∧
      exec (.bdep rd ra rb) s = .next (s.put rd v)) ∧
    (∃ v : Word, (∀ i, i < 64 → b.getLsbD i = true → v.getLsbD (setBelow b i) = a.getLsbD i) ∧
      (∀ j, setBelow b 64 ≤ j → v.getLsbD j = false) ∧ exec (.bcmpr rd ra rb) s = .next (s.put rd v))) ∧
  (∀ (rd ra : BitVec 5) (s : State), s.me.ready [rd.toNat, ra.toNat] = true →
    exec (.brev rd ra) s = .next (s.put rd (s.reg ra).reverse))

/-- What each scalar floating-point instruction writes (R142, R143) -/
def Obligations.ScalarFloatResults : Prop :=
  (∀ (rd ra rb : BitVec 5) (s : State), s.me.vtypePending = false → s.me.ready [rd.toNat, ra.toNat, rb.toNat] = true →
    exec (.faddS rd ra rb) s = .next (s.fput rd (s.fpOf (fpAdd .f32) ra rb 0)) ∧
    exec (.fsubS rd ra rb) s = .next (s.fput rd (s.fpOf (fpSub .f32) ra rb 0)) ∧
    exec (.fmulS rd ra rb) s = .next (s.fput rd (s.fpOf (fpMul .f32) ra rb 0)) ∧
    exec (.fdivS rd ra rb) s = .next (s.fput rd (s.fpOf (fpDiv .f32) ra rb 0)) ∧
    exec (.fminS rd ra rb) s = .next (s.fput rd (s.fpOf (fpMin .f32) ra rb 0)) ∧
    exec (.fmaxS rd ra rb) s = .next (s.fput rd (s.fpOf (fpMax .f32) ra rb 0)) ∧
    exec (.fcsignS rd ra rb) s = .next (s.fput rd (s.fpOf (fpCsign .f32) ra rb 0)) ∧
    exec (.fnsignS rd ra rb) s = .next (s.fput rd (s.fpOf (fpNsign .f32) ra rb 0)) ∧
    exec (.fxsignS rd ra rb) s = .next (s.fput rd (s.fpOf (fpXsign .f32) ra rb 0)) ∧
    exec (.feqS rd ra rb) s = .next (s.fput rd (s.fpOf (fpEq .f32) ra rb 0)) ∧
    exec (.fltS rd ra rb) s = .next (s.fput rd (s.fpOf (fpLt .f32) ra rb 0)) ∧
    exec (.fleS rd ra rb) s = .next (s.fput rd (s.fpOf (fpLe .f32) ra rb 0)) ∧
    exec (.faddD rd ra rb) s = .next (s.fput rd (s.fpOf (fpAdd .f64) ra rb 0)) ∧
    exec (.fsubD rd ra rb) s = .next (s.fput rd (s.fpOf (fpSub .f64) ra rb 0)) ∧
    exec (.fmulD rd ra rb) s = .next (s.fput rd (s.fpOf (fpMul .f64) ra rb 0)) ∧
    exec (.fminD rd ra rb) s = .next (s.fput rd (s.fpOf (fpMin .f64) ra rb 0)) ∧
    exec (.fmaxD rd ra rb) s = .next (s.fput rd (s.fpOf (fpMax .f64) ra rb 0)) ∧
    exec (.fcsignD rd ra rb) s = .next (s.fput rd (s.fpOf (fpCsign .f64) ra rb 0)) ∧
    exec (.fnsignD rd ra rb) s = .next (s.fput rd (s.fpOf (fpNsign .f64) ra rb 0)) ∧
    exec (.fxsignD rd ra rb) s = .next (s.fput rd (s.fpOf (fpXsign .f64) ra rb 0)) ∧
    exec (.feqD rd ra rb) s = .next (s.fput rd (s.fpOf (fpEq .f64) ra rb 0)) ∧
    exec (.fltD rd ra rb) s = .next (s.fput rd (s.fpOf (fpLt .f64) ra rb 0)) ∧
    exec (.fleD rd ra rb) s = .next (s.fput rd (s.fpOf (fpLe .f64) ra rb 0))) ∧
  (∀ (rd ra : BitVec 5) (s : State), s.me.vtypePending = false → s.me.ready [rd.toNat, ra.toNat] = true →
    exec (.fsqrtS rd ra) s = .next (s.fput rd (s.fpOf (fpSqrt .f32) ra 0 0)) ∧
    exec (.fkindS rd ra) s = .next (s.fput rd (s.fpOf (fpKind .f32) ra 0 0)) ∧
    exec (.ftoiS rd ra) s = .next (s.fput rd (s.fpOf (fpToI .f32) ra 0 0)) ∧
    exec (.ftoiuS rd ra) s = .next (s.fput rd (s.fpOf (fpToIu .f32) ra 0 0)) ∧
    exec (.itofS rd ra) s = .next (s.fput rd (s.fpOf (fpOfI .f32) ra 0 0)) ∧
    exec (.utofS rd ra) s = .next (s.fput rd (s.fpOf (fpOfU .f32) ra 0 0)) ∧
    exec (.ftohS rd ra) s = .next (s.fput rd (s.fpOf (fpCvt .f32 .f16) ra 0 0)) ∧
    exec (.ftobS rd ra) s = .next (s.fput rd (s.fpOf (fpCvt .f32 .bf16) ra 0 0)) ∧
    exec (.htofS rd ra) s = .next (s.fput rd (s.fpOf (fpCvt .f16 .f32) ra 0 0)) ∧
    exec (.btofS rd ra) s = .next (s.fput rd (s.fpOf (fpCvt .bf16 .f32) ra 0 0)) ∧
    exec (.fcvtxS rd ra) s = .next (s.fput rd (s.fpOf (fpCvt .f32 .f64) ra 0 0)) ∧
    exec (.fkindD rd ra) s = .next (s.fput rd (s.fpOf (fpKind .f64) ra 0 0)) ∧
    exec (.ftoiD rd ra) s = .next (s.fput rd (s.fpOf (fpToI .f64) ra 0 0)) ∧
    exec (.ftoiuD rd ra) s = .next (s.fput rd (s.fpOf (fpToIu .f64) ra 0 0)) ∧
    exec (.itofD rd ra) s = .next (s.fput rd (s.fpOf (fpOfI .f64) ra 0 0)) ∧
    exec (.utofD rd ra) s = .next (s.fput rd (s.fpOf (fpOfU .f64) ra 0 0)) ∧
    exec (.ftohD rd ra) s = .next (s.fput rd (s.fpOf (fpCvt .f64 .f16) ra 0 0)) ∧
    exec (.ftobD rd ra) s = .next (s.fput rd (s.fpOf (fpCvt .f64 .bf16) ra 0 0)) ∧
    exec (.htofD rd ra) s = .next (s.fput rd (s.fpOf (fpCvt .f16 .f64) ra 0 0)) ∧
    exec (.btofD rd ra) s = .next (s.fput rd (s.fpOf (fpCvt .bf16 .f64) ra 0 0)) ∧
    exec (.fcvtxD rd ra) s = .next (s.fput rd (s.fpOf (fpCvt .f64 .f32) ra 0 0))) ∧
  (∀ (rd ra rb rc : BitVec 5) (s : State), s.me.vtypePending = false → s.me.ready [rd.toNat, ra.toNat, rb.toNat, rc.toNat] = true →
    exec (.fmaS rd ra rb rc) s = .next (s.fput rd (s.fpOf (fpFma .f32) ra rb rc)) ∧
    exec (.fnmaS rd ra rb rc) s = .next (s.fput rd (s.fpOf (fpFnma .f32) ra rb rc)) ∧
    exec (.fmaD rd ra rb rc) s = .next (s.fput rd (s.fpOf (fpFma .f64) ra rb rc)) ∧
    exec (.fnmaD rd ra rb rc) s = .next (s.fput rd (s.fpOf (fpFnma .f64) ra rb rc)))

/-- A NaN operand gives the canonical NaN (R143) -/
def Obligations.ScalarFloatNaN : Prop :=
  ∀ (m : Rm) (a b c : Nat),
    (((fdecode .f32 a).isNan = true ∨ (fdecode .f32 b).isNan = true) → (fpAdd .f32 m a b c).1 = 0x7FC00000) ∧
    (((fdecode .f32 a).isNan = true ∨ (fdecode .f32 b).isNan = true) → (fpSub .f32 m a b c).1 = 0x7FC00000) ∧
    (((fdecode .f32 a).isNan = true ∨ (fdecode .f32 b).isNan = true) → (fpMul .f32 m a b c).1 = 0x7FC00000) ∧
    (((fdecode .f32 a).isNan = true ∨ (fdecode .f32 b).isNan = true) → (fpDiv .f32 m a b c).1 = 0x7FC00000) ∧
    (((fdecode .f32 a).isNan = true) → (fpSqrt .f32 m a b c).1 = 0x7FC00000) ∧
    (((fdecode .f32 a).isNan = true ∨ (fdecode .f32 b).isNan = true ∨ (fdecode .f32 c).isNan = true) → (fpFma .f32 m a b c).1 = 0x7FC00000) ∧
    (((fdecode .f32 a).isNan = true ∨ (fdecode .f32 b).isNan = true ∨ (fdecode .f32 c).isNan = true) → (fpFnma .f32 m a b c).1 = 0x7FC00000) ∧
    (((fdecode .f64 a).isNan = true ∨ (fdecode .f64 b).isNan = true) → (fpAdd .f64 m a b c).1 = 0x7FF8000000000000) ∧
    (((fdecode .f64 a).isNan = true ∨ (fdecode .f64 b).isNan = true) → (fpSub .f64 m a b c).1 = 0x7FF8000000000000) ∧
    (((fdecode .f64 a).isNan = true ∨ (fdecode .f64 b).isNan = true) → (fpMul .f64 m a b c).1 = 0x7FF8000000000000) ∧
    (((fdecode .f64 a).isNan = true ∨ (fdecode .f64 b).isNan = true) → (fpDiv .f64 m a b c).1 = 0x7FF8000000000000) ∧
    (((fdecode .f64 a).isNan = true) → (fpSqrt .f64 m a b c).1 = 0x7FF8000000000000) ∧
    (((fdecode .f64 a).isNan = true ∨ (fdecode .f64 b).isNan = true ∨ (fdecode .f64 c).isNan = true) → (fpFma .f64 m a b c).1 = 0x7FF8000000000000) ∧
    (((fdecode .f64 a).isNan = true ∨ (fdecode .f64 b).isNan = true ∨ (fdecode .f64 c).isNan = true) → (fpFnma .f64 m a b c).1 = 0x7FF8000000000000)

/-- The instructions that A0 leaves out raise ABSENT (R97, R99, R107, R111, R135, R143, R164, R181, R182, R294, R405) -/
def Obligations.AbsentInstructions : Prop :=
  (∀ (vd : BitVec 5) (va : BitVec 5) (m : BitVec 1) (ms : BitVec 3) (ds : BitVec 2) (x : BitVec 1) (s : State),
    (∀ w, encode (.vferf vd va m ms ds x) = some w → exec (.vferf vd va m ms ds x) s = .next (s.trapHere (if s.cur = supvHart then { code := 1, i0 := w.setWidth 64, i1 := 1 } else { code := 2, i0 := w.setWidth 64 }))) ∧
    (∀ w, encode (.vdkind vd va m ms ds x) = some w → exec (.vdkind vd va m ms ds x) s = .next (s.trapHere { code := 2, i0 := w.setWidth 64 })) ∧
    (∀ w, encode (.vdsqrt vd va m ms ds x) = some w → exec (.vdsqrt vd va m ms ds x) s = .next (s.trapHere { code := 2, i0 := w.setWidth 64 }))) ∧
  (∀ (vd : BitVec 5) (va : BitVec 5) (vb : BitVec 5) (m : BitVec 1) (ms : BitVec 3) (ds : BitVec 2) (x : BitVec 1) (s : State),
    (∀ w, encode (.vdadd vd va vb m ms ds x) = some w → exec (.vdadd vd va vb m ms ds x) s = .next (s.trapHere { code := 2, i0 := w.setWidth 64 })) ∧
    (∀ w, encode (.vdsub vd va vb m ms ds x) = some w → exec (.vdsub vd va vb m ms ds x) s = .next (s.trapHere { code := 2, i0 := w.setWidth 64 })) ∧
    (∀ w, encode (.vdmul vd va vb m ms ds x) = some w → exec (.vdmul vd va vb m ms ds x) s = .next (s.trapHere { code := 2, i0 := w.setWidth 64 })) ∧
    (∀ w, encode (.vddiv vd va vb m ms ds x) = some w → exec (.vddiv vd va vb m ms ds x) s = .next (s.trapHere { code := 2, i0 := w.setWidth 64 })) ∧
    (∀ w, encode (.vdmin vd va vb m ms ds x) = some w → exec (.vdmin vd va vb m ms ds x) s = .next (s.trapHere { code := 2, i0 := w.setWidth 64 })) ∧
    (∀ w, encode (.vdmax vd va vb m ms ds x) = some w → exec (.vdmax vd va vb m ms ds x) s = .next (s.trapHere { code := 2, i0 := w.setWidth 64 })) ∧
    (∀ w, encode (.vdfma vd va vb m ms ds x) = some w → exec (.vdfma vd va vb m ms ds x) s = .next (s.trapHere { code := 2, i0 := w.setWidth 64 })) ∧
    (∀ w, encode (.vdfnma vd va vb m ms ds x) = some w → exec (.vdfnma vd va vb m ms ds x) s = .next (s.trapHere { code := 2, i0 := w.setWidth 64 })) ∧
    (∀ w, encode (.vdfms vd va vb m ms ds x) = some w → exec (.vdfms vd va vb m ms ds x) s = .next (s.trapHere { code := 2, i0 := w.setWidth 64 })) ∧
    (∀ w, encode (.vdcsign vd va vb m ms ds x) = some w → exec (.vdcsign vd va vb m ms ds x) s = .next (s.trapHere { code := 2, i0 := w.setWidth 64 })) ∧
    (∀ w, encode (.vdnsign vd va vb m ms ds x) = some w → exec (.vdnsign vd va vb m ms ds x) s = .next (s.trapHere { code := 2, i0 := w.setWidth 64 })) ∧
    (∀ w, encode (.vdxsign vd va vb m ms ds x) = some w → exec (.vdxsign vd va vb m ms ds x) s = .next (s.trapHere { code := 2, i0 := w.setWidth 64 })) ∧
    (∀ w, encode (.vdsubr vd va vb m ms ds x) = some w → exec (.vdsubr vd va vb m ms ds x) s = .next (s.trapHere { code := 2, i0 := w.setWidth 64 }))) ∧
  (∀ (rd : BitVec 5) (ra : BitVec 5) (rb : BitVec 5) (s : State),
    (∀ w, encode (.fdivD rd ra rb) = some w → exec (.fdivD rd ra rb) s = .next (s.trapHere { code := 2, i0 := w.setWidth 64 }))) ∧
  (∀ (rd : BitVec 5) (ra : BitVec 5) (s : State),
    (∀ w, encode (.fsqrtD rd ra) = some w → exec (.fsqrtD rd ra) s = .next (s.trapHere { code := 2, i0 := w.setWidth 64 }))) ∧
  (∀ (qc qr sk : BitVec 5) (p : BitVec 1) (acc : BitVec 3) (ds : BitVec 2) (gc : BitVec 5) (s : State) (w : BitVec 32),
    6 ≤ gc.toNat → gc.toNat ≤ 13 → encode (.tmulsp qc qr sk p acc ds gc) = some w →
    exec (.tmulsp qc qr sk p acc ds gc) s =
      .next (s.trapHere (if s.cur = supvHart then { code := 1, i0 := w.setWidth 64, i1 := 1 } else { code := 2, i0 := w.setWidth 64 })))

/-- What the ALU, bit-field, immediate and floating-point instructions leave alone (R139, R140, R141, R143, R161) -/
def Obligations.ScalarFrame : Prop :=
  (∀ (rd ra rb rc : BitVec 5) (sh : BitVec 6) (imm : BitVec 16) (s : State),
    (∀ t, exec (.add rd ra rb) s = .next t → RegsFrame [rd.toNat] s t) ∧
    (∀ t, exec (.sub rd ra rb) s = .next t → RegsFrame [rd.toNat] s t) ∧
    (∀ t, exec (.and rd ra rb) s = .next t → RegsFrame [rd.toNat] s t) ∧
    (∀ t, exec (.or rd ra rb) s = .next t → RegsFrame [rd.toNat] s t) ∧
    (∀ t, exec (.xor rd ra rb) s = .next t → RegsFrame [rd.toNat] s t) ∧
    (∀ t, exec (.andn rd ra rb) s = .next t → RegsFrame [rd.toNat] s t) ∧
    (∀ t, exec (.orn rd ra rb) s = .next t → RegsFrame [rd.toNat] s t) ∧
    (∀ t, exec (.xnor rd ra rb) s = .next t → RegsFrame [rd.toNat] s t) ∧
    (∀ t, exec (.sll rd ra rb) s = .next t → RegsFrame [rd.toNat] s t) ∧
    (∀ t, exec (.srl rd ra rb) s = .next t → RegsFrame [rd.toNat] s t) ∧
    (∀ t, exec (.sra rd ra rb) s = .next t → RegsFrame [rd.toNat] s t) ∧
    (∀ t, exec (.rol rd ra rb) s = .next t → RegsFrame [rd.toNat] s t) ∧
    (∀ t, exec (.ror rd ra rb) s = .next t → RegsFrame [rd.toNat] s t) ∧
    (∀ t, exec (.slt rd ra rb) s = .next t → RegsFrame [rd.toNat] s t) ∧
    (∀ t, exec (.sltu rd ra rb) s = .next t → RegsFrame [rd.toNat] s t) ∧
    (∀ t, exec (.mul rd ra rb) s = .next t → RegsFrame [rd.toNat] s t) ∧
    (∀ t, exec (.mulh rd ra rb) s = .next t → RegsFrame [rd.toNat] s t) ∧
    (∀ t, exec (.mulhu rd ra rb) s = .next t → RegsFrame [rd.toNat] s t) ∧
    (∀ t, exec (.mulhsu rd ra rb) s = .next t → RegsFrame [rd.toNat] s t) ∧
    (∀ t, exec (.div rd ra rb) s = .next t → RegsFrame [rd.toNat] s t) ∧
    (∀ t, exec (.divu rd ra rb) s = .next t → RegsFrame [rd.toNat] s t) ∧
    (∀ t, exec (.rem rd ra rb) s = .next t → RegsFrame [rd.toNat] s t) ∧
    (∀ t, exec (.remu rd ra rb) s = .next t → RegsFrame [rd.toNat] s t) ∧
    (∀ t, exec (.min rd ra rb) s = .next t → RegsFrame [rd.toNat] s t) ∧
    (∀ t, exec (.max rd ra rb) s = .next t → RegsFrame [rd.toNat] s t) ∧
    (∀ t, exec (.minu rd ra rb) s = .next t → RegsFrame [rd.toNat] s t) ∧
    (∀ t, exec (.maxu rd ra rb) s = .next t → RegsFrame [rd.toNat] s t) ∧
    (∀ t, exec (.bdep rd ra rb) s = .next t → RegsFrame [rd.toNat] s t) ∧
    (∀ t, exec (.bcmpr rd ra rb) s = .next t → RegsFrame [rd.toNat] s t) ∧
    (∀ t, exec (.clz rd ra) s = .next t → RegsFrame [rd.toNat] s t) ∧
    (∀ t, exec (.ctz rd ra) s = .next t → RegsFrame [rd.toNat] s t) ∧
    (∀ t, exec (.popc rd ra) s = .next t → RegsFrame [rd.toNat] s t) ∧
    (∀ t, exec (.rev8 rd ra) s = .next t → RegsFrame [rd.toNat] s t) ∧
    (∀ t, exec (.sextb rd ra) s = .next t → RegsFrame [rd.toNat] s t) ∧
    (∀ t, exec (.sexth rd ra) s = .next t → RegsFrame [rd.toNat] s t) ∧
    (∀ t, exec (.sextw rd ra) s = .next t → RegsFrame [rd.toNat] s t) ∧
    (∀ t, exec (.zextw rd ra) s = .next t → RegsFrame [rd.toNat] s t) ∧
    (∀ t, exec (.brev rd ra) s = .next t → RegsFrame [rd.toNat] s t) ∧
    (∀ t, exec (.selz rd ra rb rc) s = .next t → RegsFrame [rd.toNat] s t) ∧
    (∀ t, exec (.selnz rd ra rb rc) s = .next t → RegsFrame [rd.toNat] s t) ∧
    (∀ t, exec (.fsl rd ra rb rc) s = .next t → RegsFrame [rd.toNat] s t) ∧
    (∀ t, exec (.fsr rd ra rb rc) s = .next t → RegsFrame [rd.toNat] s t) ∧
    (∀ t, exec (.bfx rd ra rb rc) s = .next t → RegsFrame [rd.toNat] s t) ∧
    (∀ t, exec (.bfxs rd ra rb rc) s = .next t → RegsFrame [rd.toNat] s t) ∧
    (∀ t, exec (.bfi rd ra rb rc) s = .next t → RegsFrame [rd.toNat] s t) ∧
    (∀ t, exec (.slli rd ra sh) s = .next t → RegsFrame [rd.toNat] s t) ∧
    (∀ t, exec (.srli rd ra sh) s = .next t → RegsFrame [rd.toNat] s t) ∧
    (∀ t, exec (.srai rd ra sh) s = .next t → RegsFrame [rd.toNat] s t) ∧
    (∀ t, exec (.rori rd ra sh) s = .next t → RegsFrame [rd.toNat] s t) ∧
    (∀ t, exec (.addi rd ra imm) s = .next t → RegsFrame [rd.toNat] s t) ∧
    (∀ t, exec (.andi rd ra imm) s = .next t → RegsFrame [rd.toNat] s t) ∧
    (∀ t, exec (.ori rd ra imm) s = .next t → RegsFrame [rd.toNat] s t) ∧
    (∀ t, exec (.xori rd ra imm) s = .next t → RegsFrame [rd.toNat] s t) ∧
    (∀ t, exec (.slti rd ra imm) s = .next t → RegsFrame [rd.toNat] s t) ∧
    (∀ t, exec (.sltiu rd ra imm) s = .next t → RegsFrame [rd.toNat] s t) ∧
    (∀ t, exec (.addhi rd ra imm) s = .next t → RegsFrame [rd.toNat] s t) ∧
    (∀ t, exec (.lui rd imm) s = .next t → RegsFrame [rd.toNat] s t)) ∧
  (∀ (rd ra rb rc : BitVec 5) (s : State),
    (∀ t, exec (.faddS rd ra rb) s = .next t → FlagsFrame [rd.toNat] s t) ∧
    (∀ t, exec (.fsubS rd ra rb) s = .next t → FlagsFrame [rd.toNat] s t) ∧
    (∀ t, exec (.fmulS rd ra rb) s = .next t → FlagsFrame [rd.toNat] s t) ∧
    (∀ t, exec (.fdivS rd ra rb) s = .next t → FlagsFrame [rd.toNat] s t) ∧
    (∀ t, exec (.fsqrtS rd ra) s = .next t → FlagsFrame [rd.toNat] s t) ∧
    (∀ t, exec (.fminS rd ra rb) s = .next t → FlagsFrame [rd.toNat] s t) ∧
    (∀ t, exec (.fmaxS rd ra rb) s = .next t → FlagsFrame [rd.toNat] s t) ∧
    (∀ t, exec (.fmaS rd ra rb rc) s = .next t → FlagsFrame [rd.toNat] s t) ∧
    (∀ t, exec (.fnmaS rd ra rb rc) s = .next t → FlagsFrame [rd.toNat] s t) ∧
    (∀ t, exec (.fcsignS rd ra rb) s = .next t → FlagsFrame [rd.toNat] s t) ∧
    (∀ t, exec (.fnsignS rd ra rb) s = .next t → FlagsFrame [rd.toNat] s t) ∧
    (∀ t, exec (.fxsignS rd ra rb) s = .next t → FlagsFrame [rd.toNat] s t) ∧
    (∀ t, exec (.feqS rd ra rb) s = .next t → FlagsFrame [rd.toNat] s t) ∧
    (∀ t, exec (.fltS rd ra rb) s = .next t → FlagsFrame [rd.toNat] s t) ∧
    (∀ t, exec (.fleS rd ra rb) s = .next t → FlagsFrame [rd.toNat] s t) ∧
    (∀ t, exec (.fkindS rd ra) s = .next t → FlagsFrame [rd.toNat] s t) ∧
    (∀ t, exec (.ftoiS rd ra) s = .next t → FlagsFrame [rd.toNat] s t) ∧
    (∀ t, exec (.ftoiuS rd ra) s = .next t → FlagsFrame [rd.toNat] s t) ∧
    (∀ t, exec (.itofS rd ra) s = .next t → FlagsFrame [rd.toNat] s t) ∧
    (∀ t, exec (.utofS rd ra) s = .next t → FlagsFrame [rd.toNat] s t) ∧
    (∀ t, exec (.ftohS rd ra) s = .next t → FlagsFrame [rd.toNat] s t) ∧
    (∀ t, exec (.ftobS rd ra) s = .next t → FlagsFrame [rd.toNat] s t) ∧
    (∀ t, exec (.htofS rd ra) s = .next t → FlagsFrame [rd.toNat] s t) ∧
    (∀ t, exec (.btofS rd ra) s = .next t → FlagsFrame [rd.toNat] s t) ∧
    (∀ t, exec (.fcvtxS rd ra) s = .next t → FlagsFrame [rd.toNat] s t) ∧
    (∀ t, exec (.faddD rd ra rb) s = .next t → FlagsFrame [rd.toNat] s t) ∧
    (∀ t, exec (.fsubD rd ra rb) s = .next t → FlagsFrame [rd.toNat] s t) ∧
    (∀ t, exec (.fmulD rd ra rb) s = .next t → FlagsFrame [rd.toNat] s t) ∧
    (∀ t, exec (.fminD rd ra rb) s = .next t → FlagsFrame [rd.toNat] s t) ∧
    (∀ t, exec (.fmaxD rd ra rb) s = .next t → FlagsFrame [rd.toNat] s t) ∧
    (∀ t, exec (.fmaD rd ra rb rc) s = .next t → FlagsFrame [rd.toNat] s t) ∧
    (∀ t, exec (.fnmaD rd ra rb rc) s = .next t → FlagsFrame [rd.toNat] s t) ∧
    (∀ t, exec (.fcsignD rd ra rb) s = .next t → FlagsFrame [rd.toNat] s t) ∧
    (∀ t, exec (.fnsignD rd ra rb) s = .next t → FlagsFrame [rd.toNat] s t) ∧
    (∀ t, exec (.fxsignD rd ra rb) s = .next t → FlagsFrame [rd.toNat] s t) ∧
    (∀ t, exec (.feqD rd ra rb) s = .next t → FlagsFrame [rd.toNat] s t) ∧
    (∀ t, exec (.fltD rd ra rb) s = .next t → FlagsFrame [rd.toNat] s t) ∧
    (∀ t, exec (.fleD rd ra rb) s = .next t → FlagsFrame [rd.toNat] s t) ∧
    (∀ t, exec (.fkindD rd ra) s = .next t → FlagsFrame [rd.toNat] s t) ∧
    (∀ t, exec (.ftoiD rd ra) s = .next t → FlagsFrame [rd.toNat] s t) ∧
    (∀ t, exec (.ftoiuD rd ra) s = .next t → FlagsFrame [rd.toNat] s t) ∧
    (∀ t, exec (.itofD rd ra) s = .next t → FlagsFrame [rd.toNat] s t) ∧
    (∀ t, exec (.utofD rd ra) s = .next t → FlagsFrame [rd.toNat] s t) ∧
    (∀ t, exec (.ftohD rd ra) s = .next t → FlagsFrame [rd.toNat] s t) ∧
    (∀ t, exec (.ftobD rd ra) s = .next t → FlagsFrame [rd.toNat] s t) ∧
    (∀ t, exec (.htofD rd ra) s = .next t → FlagsFrame [rd.toNat] s t) ∧
    (∀ t, exec (.btofD rd ra) s = .next t → FlagsFrame [rd.toNat] s t) ∧
    (∀ t, exec (.fcvtxD rd ra) s = .next t → FlagsFrame [rd.toNat] s t))

/-- What each load writes (R75, R144, R145, R156) -/
def Obligations.LoadResults : Prop :=
  (∀ (rd ra : BitVec 5) (off : BitVec 13) (s : State), s.me.ready [rd.toNat, ra.toNat] = true → s.fenced 1 = false →
    let va := s.reg ra + off.signExtend 64
    (∀ (t : State) (v : Nat), va.toNat % 1 = 0 → s.reads va 1 v t → exec (.ldb rd ra off) s = .next (t.put rd ((BitVec.ofNat 8 v).signExtend 64))) ∧
    (∀ (t : State) (v : Nat), va.toNat % 2 = 0 → s.reads va 2 v t → exec (.ldh rd ra off) s = .next (t.put rd ((BitVec.ofNat 16 v).signExtend 64))) ∧
    (∀ (t : State) (v : Nat), va.toNat % 4 = 0 → s.reads va 4 v t → exec (.ldw rd ra off) s = .next (t.put rd ((BitVec.ofNat 32 v).signExtend 64))) ∧
    (∀ (t : State) (v : Nat), va.toNat % 8 = 0 → s.reads va 8 v t → exec (.ldd rd ra off) s = .next (t.put rd ((BitVec.ofNat 64 v).signExtend 64))) ∧
    (∀ (t : State) (v : Nat), va.toNat % 1 = 0 → s.reads va 1 v t → exec (.ldbu rd ra off) s = .next (t.put rd (BitVec.ofNat 64 v))) ∧
    (∀ (t : State) (v : Nat), va.toNat % 2 = 0 → s.reads va 2 v t → exec (.ldhu rd ra off) s = .next (t.put rd (BitVec.ofNat 64 v))) ∧
    (∀ (t : State) (v : Nat), va.toNat % 4 = 0 → s.reads va 4 v t → exec (.ldwu rd ra off) s = .next (t.put rd (BitVec.ofNat 64 v)))) ∧
  (∀ (rd ra : BitVec 5) (sc : BitVec 2) (s : State), s.me.ready [rd.toNat, ra.toNat] = true → s.fenced 1 = false →
    let va := s.reg ra
    (∀ (t : State) (v : Nat), va.toNat % 4 = 0 → s.reads va 4 v t → exec (.lda rd ra sc 0) s = .next (t.put rd ((BitVec.ofNat 32 v).signExtend 64))) ∧
    (∀ (t : State) (v : Nat), va.toNat % 8 = 0 → s.reads va 8 v t → exec (.lda rd ra sc 1) s = .next (t.put rd ((BitVec.ofNat 64 v).signExtend 64))))

/-- What each store writes, and every byte it leaves alone (R75, R144, R156, R422) -/
def Obligations.StoreResults : Prop :=
  ∀ (rd ra : BitVec 5) (off : BitVec 13) (s : State), s.me.ready [rd.toNat, ra.toNat] = true → s.fenced 2 = false →
    let va := s.reg ra + off.signExtend 64
    (∀ pa, va.toNat % 1 = 0 → s.maps va 1 .store pa → s.unwatched pa 1 →
      ∃ t, exec (.stb rd ra off) s = .next t ∧ t.bytesAt pa 1 = (s.reg rd).toNat % 2 ^ 8 ∧
        (∀ q, (∀ i, i < 1 → memKey q ≠ memKey (pa + i)) → t.byteAt q = s.byteAt q) ∧
        t = { s with mem := t.mem, harts := t.harts } ∧ (∀ h, h ≠ s.cur → t.hart h = s.hart h) ∧ t.me = s.me.adv) ∧
    (∀ pa, va.toNat % 2 = 0 → s.maps va 2 .store pa → s.unwatched pa 2 →
      ∃ t, exec (.sth rd ra off) s = .next t ∧ t.bytesAt pa 2 = (s.reg rd).toNat % 2 ^ 16 ∧
        (∀ q, (∀ i, i < 2 → memKey q ≠ memKey (pa + i)) → t.byteAt q = s.byteAt q) ∧
        t = { s with mem := t.mem, harts := t.harts } ∧ (∀ h, h ≠ s.cur → t.hart h = s.hart h) ∧ t.me = s.me.adv) ∧
    (∀ pa, va.toNat % 4 = 0 → s.maps va 4 .store pa → s.unwatched pa 4 →
      ∃ t, exec (.stw rd ra off) s = .next t ∧ t.bytesAt pa 4 = (s.reg rd).toNat % 2 ^ 32 ∧
        (∀ q, (∀ i, i < 4 → memKey q ≠ memKey (pa + i)) → t.byteAt q = s.byteAt q) ∧
        t = { s with mem := t.mem, harts := t.harts } ∧ (∀ h, h ≠ s.cur → t.hart h = s.hart h) ∧ t.me = s.me.adv) ∧
    (∀ pa, va.toNat % 8 = 0 → s.maps va 8 .store pa → s.unwatched pa 8 →
      ∃ t, exec (.std rd ra off) s = .next t ∧ t.bytesAt pa 8 = (s.reg rd).toNat % 2 ^ 64 ∧
        (∀ q, (∀ i, i < 8 → memKey q ≠ memKey (pa + i)) → t.byteAt q = s.byteAt q) ∧
        t = { s with mem := t.mem, harts := t.harts } ∧ (∀ h, h ≠ s.cur → t.hart h = s.hart h) ∧ t.me = s.me.adv)

/-- A store performs its write wherever the write is permitted (R144, R156) -/
def Obligations.StoresPerform : Prop :=
  ∀ (rd ra : BitVec 5) (off : BitVec 13) (s t : State), s.me.ready [rd.toNat, ra.toNat] = true → s.fenced 2 = false →
    let va := s.reg ra + off.signExtend 64
    (va.toNat % 1 = 0 → s.writes va 1 ((s.reg rd).toNat % 2 ^ 8) t → exec (.stb rd ra off) s = .next t.past) ∧
    (va.toNat % 2 = 0 → s.writes va 2 ((s.reg rd).toNat % 2 ^ 16) t → exec (.sth rd ra off) s = .next t.past) ∧
    (va.toNat % 4 = 0 → s.writes va 4 ((s.reg rd).toNat % 2 ^ 32) t → exec (.stw rd ra off) s = .next t.past) ∧
    (va.toNat % 8 = 0 → s.writes va 8 ((s.reg rd).toNat % 2 ^ 64) t → exec (.std rd ra off) s = .next t.past)

/-- An access that a TLB entry maps reaches the bytes of its physical address (R55, R58, R60, R63, R67, R420) -/
def Obligations.TlbAccess : Prop :=
  ∀ (s : State) (va : Word) (n pa : Nat),
    (s.maps va n .load pa → s.reads va n (s.bytesAt pa n) s) ∧
    (∀ v, s.maps va n .store pa → s.unwatched pa n → s.writes va n v (s.setBytes pa n v))

/-- Where a load, a store, an atomic, CLAIM or BAR traps (R64, R75, R144, R145, R146, R155, R161, R163, R164, R422) -/
def Obligations.AccessTraps : Prop :=
  (∀ (rd ra : BitVec 5) (off : BitVec 13) (s : State), s.me.ready [rd.toNat, ra.toNat] = true → s.fenced 3 = false →
    let va := s.reg ra + off.signExtend 64
    (va.toNat % 2 ≠ 0 → exec (.ldh rd ra off) s = .next (s.trapHere { code := 4, i0 := va })) ∧
    (va.toNat % 4 ≠ 0 → exec (.ldw rd ra off) s = .next (s.trapHere { code := 4, i0 := va })) ∧
    (va.toNat % 8 ≠ 0 → exec (.ldd rd ra off) s = .next (s.trapHere { code := 4, i0 := va })) ∧
    (va.toNat % 2 ≠ 0 → exec (.ldhu rd ra off) s = .next (s.trapHere { code := 4, i0 := va })) ∧
    (va.toNat % 4 ≠ 0 → exec (.ldwu rd ra off) s = .next (s.trapHere { code := 4, i0 := va })) ∧
    (va.toNat % 2 ≠ 0 → exec (.sth rd ra off) s = .next (s.trapHere { code := 4, i0 := va })) ∧
    (va.toNat % 4 ≠ 0 → exec (.stw rd ra off) s = .next (s.trapHere { code := 4, i0 := va })) ∧
    (va.toNat % 8 ≠ 0 → exec (.std rd ra off) s = .next (s.trapHere { code := 4, i0 := va }))) ∧
  (∀ (rd ra : BitVec 5) (off : BitVec 13) (s t : State) (e : TrapInfo), s.me.ready [rd.toNat, ra.toNat] = true → s.fenced 3 = false →
    let va := s.reg ra + off.signExtend 64
    (va.toNat % 1 = 0 → runM (memRead none 0 va 1 .load 0) s = (.error (.trap e), t) → exec (.ldb rd ra off) s = .next (t.trapHere e)) ∧
    (va.toNat % 2 = 0 → runM (memRead none 0 va 2 .load 0) s = (.error (.trap e), t) → exec (.ldh rd ra off) s = .next (t.trapHere e)) ∧
    (va.toNat % 4 = 0 → runM (memRead none 0 va 4 .load 0) s = (.error (.trap e), t) → exec (.ldw rd ra off) s = .next (t.trapHere e)) ∧
    (va.toNat % 8 = 0 → runM (memRead none 0 va 8 .load 0) s = (.error (.trap e), t) → exec (.ldd rd ra off) s = .next (t.trapHere e)) ∧
    (va.toNat % 1 = 0 → runM (memRead none 0 va 1 .load 0) s = (.error (.trap e), t) → exec (.ldbu rd ra off) s = .next (t.trapHere e)) ∧
    (va.toNat % 2 = 0 → runM (memRead none 0 va 2 .load 0) s = (.error (.trap e), t) → exec (.ldhu rd ra off) s = .next (t.trapHere e)) ∧
    (va.toNat % 4 = 0 → runM (memRead none 0 va 4 .load 0) s = (.error (.trap e), t) → exec (.ldwu rd ra off) s = .next (t.trapHere e)) ∧
    (va.toNat % 1 = 0 → runM (memWrite none 0 va 1 ((s.reg rd).toNat % 2 ^ 8) .store 0) s = (.error (.trap e), t) → exec (.stb rd ra off) s = .next (t.trapHere e)) ∧
    (va.toNat % 2 = 0 → runM (memWrite none 0 va 2 ((s.reg rd).toNat % 2 ^ 16) .store 0) s = (.error (.trap e), t) → exec (.sth rd ra off) s = .next (t.trapHere e)) ∧
    (va.toNat % 4 = 0 → runM (memWrite none 0 va 4 ((s.reg rd).toNat % 2 ^ 32) .store 0) s = (.error (.trap e), t) → exec (.stw rd ra off) s = .next (t.trapHere e)) ∧
    (va.toNat % 8 = 0 → runM (memWrite none 0 va 8 ((s.reg rd).toNat % 2 ^ 64) .store 0) s = (.error (.trap e), t) → exec (.std rd ra off) s = .next (t.trapHere e))) ∧
  (∀ (rd ra rb : BitVec 5) (sc : BitVec 2) (aq rl w : BitVec 1) (p : BitVec 12) (s : State), s.fenced 3 = false →
    let n := if w = 0 then 4 else 8
    let va := s.reg ra
    let stop := State.trapHere s { code := 4, i0 := va }
    (va.toNat % n ≠ 0 → s.me.ready [rd.toNat, ra.toNat] = true → exec (.lda rd ra sc w) s = .next stop) ∧
    (va.toNat % n ≠ 0 → s.me.ready [rd.toNat, ra.toNat, rb.toNat] = true →
      exec (.rmswap rd ra rb sc aq rl w) s = .next stop ∧
      exec (.rmadd rd ra rb sc aq rl w) s = .next stop ∧
      exec (.rmand rd ra rb sc aq rl w) s = .next stop ∧
      exec (.rmor rd ra rb sc aq rl w) s = .next stop ∧
      exec (.rmxor rd ra rb sc aq rl w) s = .next stop ∧
      exec (.rmmin rd ra rb sc aq rl w) s = .next stop ∧
      exec (.rmmax rd ra rb sc aq rl w) s = .next stop ∧
      exec (.rmminu rd ra rb sc aq rl w) s = .next stop ∧
      exec (.rmmaxu rd ra rb sc aq rl w) s = .next stop ∧
      exec (.cas rd ra rb sc aq rl w) s = .next stop) ∧
    (va.toNat % n ≠ 0 → s.me.ready [0, ra.toNat, rb.toNat] = true → exec (.stl ra rb sc w) s = .next stop) ∧
    (va.toNat % 16 ≠ 0 → s.vlmaxSeen.isSome = true → s.me.ready [rd.toNat, ra.toNat, rb.toNat] = true →
      exec (.claim rd ra rb sc aq rl) s = .next stop) ∧
    (va.toNat % 8 ≠ 0 → (∀ g, s.me.bar ≠ some (va, g)) → s.me.ready [ra.toNat] = true → exec (.bar ra p) s = .next stop)) ∧
  (∀ (rd ra rb : BitVec 5) (sc : BitVec 2) (aq rl w : BitVec 1) (p : BitVec 12) (s t : State) (e : TrapInfo), s.fenced 3 = false →
    let n := if w = 0 then 4 else 8
    let va := s.reg ra
    (va.toNat % n = 0 → s.me.ready [rd.toNat, ra.toNat] = true → runM (memRead none 0 va n .load 0) s = (.error (.trap e), t) →
      exec (.lda rd ra sc w) s = .next (t.trapHere e)) ∧
    (va.toNat % n = 0 → s.me.ready [rd.toNat, ra.toNat, rb.toNat] = true → s.atomicTraps va n e t →
      exec (.rmswap rd ra rb sc aq rl w) s = .next (t.trapHere e) ∧
      exec (.rmadd rd ra rb sc aq rl w) s = .next (t.trapHere e) ∧
      exec (.rmand rd ra rb sc aq rl w) s = .next (t.trapHere e) ∧
      exec (.rmor rd ra rb sc aq rl w) s = .next (t.trapHere e) ∧
      exec (.rmxor rd ra rb sc aq rl w) s = .next (t.trapHere e) ∧
      exec (.rmmin rd ra rb sc aq rl w) s = .next (t.trapHere e) ∧
      exec (.rmmax rd ra rb sc aq rl w) s = .next (t.trapHere e) ∧
      exec (.rmminu rd ra rb sc aq rl w) s = .next (t.trapHere e) ∧
      exec (.rmmaxu rd ra rb sc aq rl w) s = .next (t.trapHere e) ∧
      exec (.cas rd ra rb sc aq rl w) s = .next (t.trapHere e)) ∧
    (va.toNat % n = 0 → s.me.ready [0, ra.toNat, rb.toNat] = true → s.atomicTraps va n e t →
      exec (.stl ra rb sc w) s = .next (t.trapHere e)) ∧
    (va.toNat % 16 = 0 → s.vlmaxSeen.isSome = true → s.me.ready [rd.toNat, ra.toNat, rb.toNat] = true →
      s.atomicTraps va (if s.cur = supvHart then 8 else 16) e t → exec (.claim rd ra rb sc aq rl) s = .next (t.trapHere e)) ∧
    (va.toNat % 8 = 0 → (∀ g, s.me.bar ≠ some (va, g)) → s.me.ready [ra.toNat] = true → s.atomicTraps va 8 e t →
      exec (.bar ra p) s = .next (t.trapHere e)) ∧
    (∀ g, s.me.bar = some (va, g) → s.me.ready [ra.toNat] = true → runM (memRead none 0 va 8 .load 0) s = (.error (.trap e), t) →
      exec (.bar ra p) s = .next (t.trapHere e))) ∧
  (∀ (rd ra rb : BitVec 5) (sc : BitVec 2) (aq rl w : BitVec 1) (p : BitVec 12) (s u t : State) (pa m : Nat) (e : TrapInfo),
    s.fenced 3 = false →
    let n := if w = 0 then 4 else 8
    let va := s.reg ra
    (va.toNat % n = 0 → s.checked va n pa u → runM (watchCheck none 0 va pa n 0) u = (.error (.trap e), t) →
      (s.me.ready [rd.toNat, ra.toNat, rb.toNat] = true →
      exec (.rmswap rd ra rb sc aq rl w) s = .next (t.trapHere e) ∧
      exec (.rmadd rd ra rb sc aq rl w) s = .next (t.trapHere e) ∧
      exec (.rmand rd ra rb sc aq rl w) s = .next (t.trapHere e) ∧
      exec (.rmor rd ra rb sc aq rl w) s = .next (t.trapHere e) ∧
      exec (.rmxor rd ra rb sc aq rl w) s = .next (t.trapHere e) ∧
      exec (.rmmin rd ra rb sc aq rl w) s = .next (t.trapHere e) ∧
      exec (.rmmax rd ra rb sc aq rl w) s = .next (t.trapHere e) ∧
      exec (.rmminu rd ra rb sc aq rl w) s = .next (t.trapHere e) ∧
      exec (.rmmaxu rd ra rb sc aq rl w) s = .next (t.trapHere e) ∧
      (u.bytesAt pa n = (s.reg rd).toNat % 2 ^ (8 * n) → exec (.cas rd ra rb sc aq rl w) s = .next (t.trapHere e))) ∧
      (s.me.ready [0, ra.toNat, rb.toNat] = true → exec (.stl ra rb sc w) s = .next (t.trapHere e))) ∧
    (va.toNat % 16 = 0 → s.vlmaxSeen = some m → s.me.ready [rd.toNat, ra.toNat, rb.toNat] = true → s.checked va 16 pa u →
      Nat.min (s.reg rb).toNat (Nat.min (u.bytesAt (pa + 8) 8 - u.bytesAt pa 8) m) ≠ 0 →
      runM (watchCheck none 0 va pa 8 0) u = (.error (.trap e), t) → exec (.claim rd ra rb sc aq rl) s = .next (t.trapHere e)) ∧
    (va.toNat % 8 = 0 → (∀ g, s.me.bar ≠ some (va, g)) → s.me.ready [ra.toNat] = true → s.checked va 8 pa u →
      let a := u.bytesAt pa 8 % 2 ^ 32 + 1
      let g := u.bytesAt pa 8 / 2 ^ 32
      let v := if p.toNat + 1 ≤ a then (g + 1) % 2 ^ 32 * 2 ^ 32 else g * 2 ^ 32 + a
      runM (memWrite none 0 va 8 v .atomic 0) u = (.error (.trap e), t) → exec (.bar ra p) s = .next (t.trapHere e)))

/-- What each atomic reads and writes (R75, R81, R145) -/
def Obligations.AtomicResults : Prop :=
  ∀ (rd ra rb : BitVec 5) (sc : BitVec 2) (aq rl w : BitVec 1) (s : State) (pa : Nat),
    let n := if w = 0 then 4 else 8
    let va := s.reg ra
    let old := s.bytesAt pa n
    let b := (s.reg rb).toNat % 2 ^ (8 * n)
    let res : Word := (BitVec.ofNat (8 * n) old).signExtend 64
    s.fenced 3 = false → va.toNat % n = 0 → s.maps va n .atomic pa → s.unwatched pa n →
    (s.me.ready [rd.toNat, ra.toNat, rb.toNat] = true →
    exec (.rmswap rd ra rb sc aq rl w) s = .next ((s.setBytes pa n ((b) % 2 ^ (8 * n))).put rd res) ∧
    exec (.rmadd rd ra rb sc aq rl w) s = .next ((s.setBytes pa n ((old + b) % 2 ^ (8 * n))).put rd res) ∧
    exec (.rmand rd ra rb sc aq rl w) s = .next ((s.setBytes pa n ((Nat.land old b) % 2 ^ (8 * n))).put rd res) ∧
    exec (.rmor rd ra rb sc aq rl w) s = .next ((s.setBytes pa n ((Nat.lor old b) % 2 ^ (8 * n))).put rd res) ∧
    exec (.rmxor rd ra rb sc aq rl w) s = .next ((s.setBytes pa n ((Nat.xor old b) % 2 ^ (8 * n))).put rd res) ∧
    exec (.rmmin rd ra rb sc aq rl w) s = .next ((s.setBytes pa n ((if (BitVec.ofNat (8 * n) old).slt (BitVec.ofNat (8 * n) b) then old else b) % 2 ^ (8 * n))).put rd res) ∧
    exec (.rmmax rd ra rb sc aq rl w) s = .next ((s.setBytes pa n ((if (BitVec.ofNat (8 * n) old).slt (BitVec.ofNat (8 * n) b) then b else old) % 2 ^ (8 * n))).put rd res) ∧
    exec (.rmminu rd ra rb sc aq rl w) s = .next ((s.setBytes pa n ((Nat.min old b) % 2 ^ (8 * n))).put rd res) ∧
    exec (.rmmaxu rd ra rb sc aq rl w) s = .next ((s.setBytes pa n ((Nat.max old b) % 2 ^ (8 * n))).put rd res) ∧
    exec (.cas rd ra rb sc aq rl w) s =
      .next ((if old = (s.reg rd).toNat % 2 ^ (8 * n) then s.setBytes pa n b else s).put rd res)) ∧
    (s.me.ready [0, ra.toNat, rb.toNat] = true → exec (.stl ra rb sc w) s = .next (s.setBytes pa n b).past)

/-- What CLAIM grants (R146, R149) -/
def Obligations.ClaimResult : Prop :=
  ∀ (rd ra rb : BitVec 5) (sc : BitVec 2) (aq rl : BitVec 1) (s : State) (pa m : Nat),
    let next := s.bytesAt pa 8
    let limit := s.bytesAt (pa + 8) 8
    let grant := Nat.min (s.reg rb).toNat (Nat.min (limit - next) m)
    let t := if grant = 0 then s else s.setBytes pa 8 ((next + grant) % 2 ^ 64)
    s.vlmaxSeen = some m → s.me.ready [rd.toNat, ra.toNat, rb.toNat] = true → s.fenced 3 = false →
    (s.reg ra).toNat % 16 = 0 → s.maps (s.reg ra) 16 .atomic pa → s.unwatched pa 8 →
    (s.me.queue.any (·.open) = false →
      exec (.claim rd ra rb sc aq rl) s =
        .next (t.updMe (fun x => { x.setS rd.toNat (BitVec.ofNat 64 next) with vl := BitVec.ofNat 15 grant }.adv))) ∧
    (s.me.queue.any (·.open) = true →
      exec (.claim rd ra rb sc aq rl) s =
        .next (t.updMe (fun x =>
          { pushEntry (x.setS rd.toNat (BitVec.ofNat 64 next)) (.setVl grant) 0 0 0 0 0 none false with
            nextQsn := x.nextQsn }.adv)))

/-- Where each branch and jump goes, and what it links (R147) -/
def Obligations.BranchResults : Prop :=
  (∀ (ra rb : BitVec 5) (off : BitVec 13) (s : State), s.me.ready [ra.toNat, rb.toNat] = true →
    let a := s.reg ra
    let b := s.reg rb
    exec (.beq ra rb off) s = .next (s.goTo (if a = b then s.me.pc + off.signExtend 64 * 4 else s.me.pc + 4)) ∧
    exec (.bne ra rb off) s = .next (s.goTo (if a ≠ b then s.me.pc + off.signExtend 64 * 4 else s.me.pc + 4)) ∧
    exec (.blt ra rb off) s = .next (s.goTo (if a.slt b = true then s.me.pc + off.signExtend 64 * 4 else s.me.pc + 4)) ∧
    exec (.bge ra rb off) s = .next (s.goTo (if a.slt b = false then s.me.pc + off.signExtend 64 * 4 else s.me.pc + 4)) ∧
    exec (.bltu ra rb off) s = .next (s.goTo (if a.ult b = true then s.me.pc + off.signExtend 64 * 4 else s.me.pc + 4)) ∧
    exec (.bgeu ra rb off) s = .next (s.goTo (if a.ult b = false then s.me.pc + off.signExtend 64 * 4 else s.me.pc + 4))) ∧
  (∀ (rd : BitVec 5) (off : BitVec 21) (s : State), s.me.ready [rd.toNat] = true →
    exec (.jal rd off) s = .next (s.jump rd (s.me.pc + 4) (s.me.pc + off.signExtend 64 * 4))) ∧
  (∀ (rd ra : BitVec 5) (imm : BitVec 16) (s : State), s.me.ready [rd.toNat, ra.toNat] = true →
    exec (.jalr rd ra imm) s = .next (s.jump rd (s.me.pc + 4) ((s.reg ra + imm.signExtend 64) &&& ~~~(3 : Word))))

/-- What LOOPV does (R150) -/
def Obligations.LoopvResult : Prop :=
  ∀ (rc rp : BitVec 5) (np esh : BitVec 2) (off : BitVec 12) (s : State) (vl : Nat),
    (Instr.loopv rc rp np esh off).wellFormed = true → s.vlSeen = some vl → vl ≤ 16384 →
    s.me.ready (rc.toNat :: (if rp = 0 then [] else (List.range (np.toNat + 1)).map (rp.toNat + ·))) = true →
    let v : Word := BitVec.ofNat 64 vl
    let c := if v < s.reg rc then s.reg rc - v else 0
    (vl = 0 → exec (.loopv rc rp np esh off) s = .next s.past) ∧
    (vl ≠ 0 → ∃ t, exec (.loopv rc rp np esh off) s = .next t ∧
      RegsFrame (rc.toNat :: (if rp = 0 then [] else (List.range (np.toNat + 1)).map (rp.toNat + ·))) s t ∧
      t.me.s rc.toNat = c ∧
      (rp ≠ 0 → ∀ i, i ≤ np.toNat → rp.toNat + i ≠ rc.toNat →
        t.me.s (rp.toNat + i) = s.me.s (rp.toNat + i) + v * BitVec.ofNat 64 (2 ^ esh.toNat)) ∧
      t.me.pc = if c ≠ 0 then s.me.pc + off.signExtend 64 * 4 else s.me.pc + 4)

/-- What CWREAD, CWWRITE, CWSET and CWCLR do, and where they trap (R116, R117, R121, R151, R164) -/
def Obligations.ControlWordAccess : Prop :=
  ∀ (r : BitVec 5) (cw : BitVec 12) (s : State),
    let k := cw.toNat
    let v := cwValue s s.cur k
    let after (x : Hart) : Hart := (if k = 0x019 then { x with lfsrIdx := x.lfsrIdx + 1 } else x).adv
    (cwListed k = true → (cwVector k = false ∨ s.me.queue.any (·.open) = false) → s.me.ready [r.toNat] = true →
      exec (.cwread r cw) s = .next (s.updMe (fun x => after (x.setS r.toNat v))) ∧
      exec (.cwwrite r cw) s = .next (s.updMe (fun x => after (cwPut x k (x.s r.toNat)))) ∧
      exec (.cwset r cw) s = .next (s.updMe (fun x => after (cwPut x k (v ||| x.s r.toNat)))) ∧
      exec (.cwclr r cw) s = .next (s.updMe (fun x => after (cwPut x k (v &&& ~~~(x.s r.toNat)))))) ∧
    (cwListed k = true → cwVector k = true → s.me.queue.any (·.open) = true →
      exec (.cwread r cw) s = .next s ∧ exec (.cwwrite r cw) s = .next s ∧ exec (.cwset r cw) s = .next s ∧ exec (.cwclr r cw) s = .next s) ∧
    (cwListed k = false → (k < 0x800 ∨ s.me.super = true) → ∀ w,
      (encode (.cwread r cw) = some w →
        exec (.cwread r cw) s = .next (s.trapHere { code := 1, i0 := w.setWidth 64, i1 := 4 })) ∧
      (encode (.cwwrite r cw) = some w →
        exec (.cwwrite r cw) s = .next (s.trapHere { code := 1, i0 := w.setWidth 64, i1 := 4 })) ∧
      (encode (.cwset r cw) = some w →
        exec (.cwset r cw) s = .next (s.trapHere { code := 1, i0 := w.setWidth 64, i1 := 4 })) ∧
      (encode (.cwclr r cw) = some w →
        exec (.cwclr r cw) s = .next (s.trapHere { code := 1, i0 := w.setWidth 64, i1 := 4 }))) ∧
    (0x800 ≤ k → s.me.super = false → ∀ w,
      (encode (.cwread r cw) = some w → exec (.cwread r cw) s = .next (s.trapHere { code := 3, i0 := w.setWidth 64 })) ∧
      (encode (.cwwrite r cw) = some w → exec (.cwwrite r cw) s = .next (s.trapHere { code := 3, i0 := w.setWidth 64 })) ∧
      (encode (.cwset r cw) = some w → exec (.cwset r cw) s = .next (s.trapHere { code := 3, i0 := w.setWidth 64 })) ∧
      (encode (.cwclr r cw) = some w → exec (.cwclr r cw) s = .next (s.trapHere { code := 3, i0 := w.setWidth 64 })))

/-- The field rules of the control words (R10, R117, R118, R119, R120, R151) -/
def Obligations.ControlWordFields : Prop :=
  ∀ (x : Hart) (v : Word),
    (cwPut x 0x000 v).vl = (if (v.extractLsb' 0 15).toNat ≤ 16384 then v.extractLsb' 0 15 else x.vl) ∧
    (cwPut x 0x001 v).vstart = v.extractLsb' 0 14 ∧
    ((cwPut x 0x002 v).vtype.extractLsb' 0 5 =
      if (v.extractLsb' 0 5).toNat < 20 then v.extractLsb' 0 5 else x.vtype.extractLsb' 0 5) ∧
    ((cwPut x 0x002 v).vtype.extractLsb' 12 3 =
      if (v.extractLsb' 12 3).toNat < 6 then v.extractLsb' 12 3 else x.vtype.extractLsb' 12 3) ∧
    (cwPut x 0x050 v).tvec = v &&& ~~~(3 : Word) ∧ (cwPut x 0x052 v).tpc = v &&& ~~~(3 : Word) ∧
    (cwPut x 0x051 v).tcause = v.extractLsb' 0 9 ∧ (cwPut x 0x058 v).tscratch = v ∧
    (∀ i ∈ [0x003, 0x004, 0x020, 0x021, 0x022, 0x023, 0x040, 0x041, 0x042, 0x043, 0x053, 0x054, 0x055, 0x056, 0x057],
      cwPut x i v = x) ∧
    (∀ n, n < 16 → cwPut x (0x030 + n) v = x) ∧ (∀ n, n < 4 → cwPut x (0x070 + n) v = x) ∧
    (∀ n, n < 4 → (cwPut x (0x008 + n) v).dsel n = v &&& 0x0001FFFFFFFFFFFF ∧
      ∀ k, k ≠ n → (cwPut x (0x008 + n) v).dsel k = x.dsel k) ∧
    (∀ n, n < 5 → smGet 0 (cwPut x (0x011 + n) v).fexc n = v &&& 0x8000FFFF00003FFF ∧
      ∀ k, k ≠ n → smGet 0 (cwPut x (0x011 + n) v).fexc k = smGet 0 x.fexc k) ∧
    (cwPut x 0x010 v).fflags = v.extractLsb' 0 5 ∧ (cwPut x 0x016 v).satcnt = v.extractLsb' 0 32 ∧
    (cwPut x 0x018 v).lfsrIdx = v.extractLsb' 0 9 ∧ (cwPut x 0x060 v).emubase = v &&& ~~~(0x1FFF : Word) ∧
    (∀ i, let y := cwPut x i v
      (x.vl.toNat ≤ 16384 → y.vl.toNat ≤ 16384) ∧ ((∀ k, x.laneLfsr k ≠ 0) → ∀ k, y.laneLfsr k ≠ 0) ∧
      (x.tvec.extractLsb' 0 2 = 0 → y.tvec.extractLsb' 0 2 = 0) ∧ (x.tpc.extractLsb' 0 2 = 0 → y.tpc.extractLsb' 0 2 = 0) ∧
      y.super = x.super ∧ y.tenant = x.tenant ∧ y.sregs = x.sregs ∧ y.pc = x.pc ∧ y.queue = x.queue ∧ y.masks = x.masks) ∧
    (cwPut x 0x019 v).laneLfsr x.lfsrIdx.toNat =
      (if v.extractLsb' 0 32 = 0 then 1 else v.extractLsb' 0 32)

/-- TRAP and BRK take SYSCALL and BREAK (R152) -/
def Obligations.TrapAndBreak : Prop :=
  ∀ (n : BitVec 12) (s : State), s.me.ready [] = true → s.me.tcause.extractLsb' 0 8 = 0 → s.me.tvec ≠ 0 →
    (∃ t, exec (.trap n) s = .next t ∧ OnlyMe s t ∧ t.me.tcause = 0x15 ∧ t.me.tpc = s.me.pc + 4 ∧ t.me.tinfo0 = n.setWidth 64 ∧
      t.me.tinfo1 = s.me.pc ∧ t.me.tinfo2 = 0 ∧ t.me.tinfo3 = 0 ∧ t.me.tqsn = 0 ∧ t.me.pc = s.me.tvec ∧
      t.me.run = .running ∧ t.me.super = s.me.super ∧ t.me.sregs = s.me.sregs) ∧
    (∃ t, exec (.brk n) s = .next t ∧ OnlyMe s t ∧ t.me.tcause = 0x14 ∧ t.me.tpc = s.me.pc + 4 ∧ t.me.tinfo0 = n.setWidth 64 ∧
      t.me.tinfo1 = s.me.pc ∧ t.me.tinfo2 = 0 ∧ t.me.tinfo3 = 0 ∧ t.me.tqsn = 0 ∧ t.me.pc = s.me.tvec ∧
      t.me.run = .running ∧ t.me.super = s.me.super ∧ t.me.sregs = s.me.sregs)

/-- What taking a trap saves and where it goes (R46, R132, R159, R160, R172) -/
def Obligations.TrapEntry : Prop :=
  (∀ (x : Hart) (vec : Bool) (qsn : BitVec 16) (tpc : Word) (c : TrapInfo),
    x.tcause.extractLsb' 0 8 = 0 → x.tvec ≠ 0 →
    let y := takeTrap x vec qsn tpc c
    let kept (e : Entry) := (e.uid, e.qsn, e.op, e.word, e.pc, e.opd, e.opa, e.opb, e.opc, e.dst)
    let left := x.queue.dropWhile (fun e => e.st == .complete)
    y.tcause = (if vec then 0x100 else 0) + c.code.setWidth 9 ∧ y.tpc = tpc ∧ y.tqsn = (if vec then qsn else 0) ∧
    y.tinfo0 = c.i0 ∧ y.tinfo1 = c.i1 ∧ y.tinfo2 = c.i2 ∧ y.tinfo3 = c.i3 ∧ y.pc = x.tvec ∧
    y.queue.map kept = left.map kept ∧
    (∀ p ∈ left.zip y.queue,
      (p.1.st = .complete → p.2 = p.1) ∧ (p.1.st ≠ .complete → p.2.st = .held) ∧
      (p.1.st = .started → p.2.restart = some p.1.stopAt) ∧ (p.1.st = .held → p.2 = p.1) ∧
      (∀ i, p.1.st = .waiting → p.1.restart = some i → p.2.restart = some i) ∧
      (p.1.st = .waiting → p.1.restart = none → p.2.restart = some 0 ∨ p.2.restart = some x.vstart.toNat)) ∧
    (∀ e rest, left = e :: rest → e.st = .waiting → e.restart = none →
      (y.queue.head?.bind (·.restart)) = some x.vstart.toNat) ∧
    (∀ e, y.queue.find? (fun e => e.st == .held) = some e → y.vstart = BitVec.ofNat 14 (e.restart.getD 0)) ∧
    y.run = x.run ∧ y.super = x.super ∧ y.sregs = x.sregs ∧
    y.masks = x.masks ∧ y.vl = x.vl ∧ y.vtype = x.vtype ∧ y.fflags = x.fflags ∧ y.tvec = x.tvec ∧ y.tscratch = x.tscratch) ∧
  (∀ (x : Hart) (vec : Bool) (qsn : BitVec 16) (tpc : Word) (c : TrapInfo),
    (x.tcause.extractLsb' 0 8 ≠ 0 ∨ x.tvec = 0) →
    let y := takeTrap x vec qsn tpc c
    y.run = .failed ∧ y.queue = [] ∧ y.tcause = (if vec then 0x100 else 0) + c.code.setWidth 9 ∧ y.tpc = tpc ∧ y.tqsn = qsn ∧
    y.tinfo0 = c.i0 ∧ y.tinfo1 = c.i1 ∧ y.tinfo2 = c.i2 ∧ y.tinfo3 = c.i3 ∧ y.sregs = x.sregs ∧ y.pc = x.pc)

/-- What RETT restores (R159, R162, R422) -/
def Obligations.ReturnFromTrap : Prop :=
  (∀ s : State, s.me.ready [] = true → exec .rett s = .next (drain s.cur (s.updMe returnFromTrap))) ∧
  (∀ x : Hart, (returnFromTrap x).pc = x.tpc ∧ (returnFromTrap x).tcause = 0 ∧ (returnFromTrap x).super = x.super ∧
    (returnFromTrap x).sregs = x.sregs ∧ (∀ e ∈ (returnFromTrap x).queue, e.st ≠ .held) ∧
    (returnFromTrap x).queue.map (·.uid) = x.queue.map (·.uid)) ∧
  (∀ s : State, s.me.ready [] = true → s.me.queue = [] →
    ∃ t, exec .rett s = .next t ∧ OnlyMe s t ∧
      t.me = { s.me with
        pc := s.me.tpc, tcause := 0, watchPass := t.me.watchPass, faultUid := none, issueCount := s.me.issueCount + 1 })

/-- What YIELD, HALT and FENCE do (R82, R153, R154, R156, R271) -/
def Obligations.SystemResults : Prop :=
  ∀ s : State, s.me.ready [] = true →
    let closed (r : Region) : Region := { r with owner := if r.owner = some s.cur then none else r.owner }
    (∃ t, exec .yield s = .next t ∧ t = s.updMe (fun x => { x.adv with yield := s.cycle + 16 }) ∧
      (∀ n, n ≤ 16 → State.yielding { t with cycle := s.cycle + n } s.cur = true) ∧
      (∀ n, 16 < n → State.yielding { t with cycle := s.cycle + n } s.cur = false)) ∧
    (s.me.queue.any (·.open) = false →
      ∃ t, exec .halt s = .next t ∧ t = { s with harts := t.harts, tenants := t.tenants } ∧
        t.me = { s.me with run := .halted, queue := [], fence := [], issueHold := false } ∧
        (∀ h, h ≠ s.cur → t.hart h = s.hart h) ∧
        (∀ k, t.tenant k = { s.tenant k with regions := (s.tenant k).regions.map (fun p => (p.1, closed p.2)) })) ∧
    (s.me.queue.any (·.open) = true → exec .halt s = .next s) ∧
    (∀ (ps qs : BitVec 5) (sc : BitVec 2),
      let f : FenceHold :=
        { ps := ps, qs := qs, scope := sc, before := s.me.nextUid, qsn := s.me.nextQsn
          held := (s.me.queue.filter (fun e => e.st == .held)).map (fun e => (e.uid, e.qsn)) }
      ∃ t, exec (.fence ps qs sc) s = .next t ∧
        t = s.updMe (fun x => { x.adv with fence := x.fence.filter (fun g => s.fenceBusy s.cur g) ++ [f] }) ∧
        (∀ u : State, f ∈ u.me.fence → u.fenceBusy u.cur f = true →
          ∀ kinds, qs &&& kinds ≠ 0 → u.fenced kinds = true))

/-- What BAR does (R155) -/
def Obligations.BarrierResults : Prop :=
  ∀ (ra : BitVec 5) (n : BitVec 12) (s : State) (pa : Nat),
    let va := s.reg ra
    let old := s.bytesAt pa 8
    let g := old / 2 ^ 32
    s.me.ready [ra.toNat] = true → s.fenced 3 = false → va.toNat % 8 = 0 →
    (s.maps va 8 .atomic pa → s.unwatched pa 8 → s.me.bar = none →
      (n.toNat + 1 ≤ old % 2 ^ 32 + 1 →
        exec (.bar ra n) s = .next (s.setBytes pa 8 ((g + 1) % 2 ^ 32 * 2 ^ 32)).past) ∧
      (old % 2 ^ 32 + 1 < n.toNat + 1 →
        exec (.bar ra n) s =
          .next ((s.setBytes pa 8 (g * 2 ^ 32 + (old % 2 ^ 32 + 1))).updMe
            (fun x => { x with bar := some (va, BitVec.ofNat 32 g) })))) ∧
    (∀ k, s.maps va 8 .load pa → s.me.bar = some (va, k) → BitVec.ofNat 32 g ≠ k →
      exec (.bar ra n) s = .next (s.updMe (fun x => { x with bar := none }.adv)))

/-- The integer vector instructions and the comparisons issue as their operations (R157, R179, R183) -/
def Obligations.VectorArithmeticIssue : Prop :=
  (∀ (vd : BitVec 5) (va : BitVec 5) (vb : BitVec 5) (m : BitVec 1) (ms : BitVec 3) (ds : BitVec 2),
    IssuesAs (.vadd vd va vb m ms ds) (.vint .add false (vf vd va vb m ms ds 0)) 0 0 0 none [] ∧
    IssuesAs (.vsub vd va vb m ms ds) (.vint .sub false (vf vd va vb m ms ds 0)) 0 0 0 none [] ∧
    IssuesAs (.vsubr vd va vb m ms ds) (.vint .subr false (vf vd va vb m ms ds 0)) 0 0 0 none [] ∧
    IssuesAs (.vmul vd va vb m ms ds) (.vint .mul false (vf vd va vb m ms ds 0)) 0 0 0 none [] ∧
    IssuesAs (.vmulh vd va vb m ms ds) (.vint .mulh false (vf vd va vb m ms ds 0)) 0 0 0 none [] ∧
    IssuesAs (.vmulhu vd va vb m ms ds) (.vint .mulhu false (vf vd va vb m ms ds 0)) 0 0 0 none [] ∧
    IssuesAs (.vmin vd va vb m ms ds) (.vint .min false (vf vd va vb m ms ds 0)) 0 0 0 none [] ∧
    IssuesAs (.vmax vd va vb m ms ds) (.vint .max false (vf vd va vb m ms ds 0)) 0 0 0 none [] ∧
    IssuesAs (.vminu vd va vb m ms ds) (.vint .minu false (vf vd va vb m ms ds 0)) 0 0 0 none [] ∧
    IssuesAs (.vmaxu vd va vb m ms ds) (.vint .maxu false (vf vd va vb m ms ds 0)) 0 0 0 none [] ∧
    IssuesAs (.vand vd va vb m ms ds) (.vint .and false (vf vd va vb m ms ds 0)) 0 0 0 none [] ∧
    IssuesAs (.vor vd va vb m ms ds) (.vint .or false (vf vd va vb m ms ds 0)) 0 0 0 none [] ∧
    IssuesAs (.vxor vd va vb m ms ds) (.vint .xor false (vf vd va vb m ms ds 0)) 0 0 0 none [] ∧
    IssuesAs (.vsll vd va vb m ms ds) (.vint .sll false (vf vd va vb m ms ds 0)) 0 0 0 none [] ∧
    IssuesAs (.vsrl vd va vb m ms ds) (.vint .srl false (vf vd va vb m ms ds 0)) 0 0 0 none [] ∧
    IssuesAs (.vsra vd va vb m ms ds) (.vint .sra false (vf vd va vb m ms ds 0)) 0 0 0 none [] ∧
    IssuesAs (.vaddVs vd va vb m ms ds) (.vint .add true (vf vd va vb m ms ds 0)) 0 0 vb.toNat none [vb.toNat] ∧
    IssuesAs (.vsubVs vd va vb m ms ds) (.vint .sub true (vf vd va vb m ms ds 0)) 0 0 vb.toNat none [vb.toNat] ∧
    IssuesAs (.vsubrVs vd va vb m ms ds) (.vint .subr true (vf vd va vb m ms ds 0)) 0 0 vb.toNat none [vb.toNat] ∧
    IssuesAs (.vmulVs vd va vb m ms ds) (.vint .mul true (vf vd va vb m ms ds 0)) 0 0 vb.toNat none [vb.toNat] ∧
    IssuesAs (.vmulhVs vd va vb m ms ds) (.vint .mulh true (vf vd va vb m ms ds 0)) 0 0 vb.toNat none [vb.toNat] ∧
    IssuesAs (.vmulhuVs vd va vb m ms ds) (.vint .mulhu true (vf vd va vb m ms ds 0)) 0 0 vb.toNat none [vb.toNat] ∧
    IssuesAs (.vminVs vd va vb m ms ds) (.vint .min true (vf vd va vb m ms ds 0)) 0 0 vb.toNat none [vb.toNat] ∧
    IssuesAs (.vmaxVs vd va vb m ms ds) (.vint .max true (vf vd va vb m ms ds 0)) 0 0 vb.toNat none [vb.toNat] ∧
    IssuesAs (.vminuVs vd va vb m ms ds) (.vint .minu true (vf vd va vb m ms ds 0)) 0 0 vb.toNat none [vb.toNat] ∧
    IssuesAs (.vmaxuVs vd va vb m ms ds) (.vint .maxu true (vf vd va vb m ms ds 0)) 0 0 vb.toNat none [vb.toNat] ∧
    IssuesAs (.vandVs vd va vb m ms ds) (.vint .and true (vf vd va vb m ms ds 0)) 0 0 vb.toNat none [vb.toNat] ∧
    IssuesAs (.vorVs vd va vb m ms ds) (.vint .or true (vf vd va vb m ms ds 0)) 0 0 vb.toNat none [vb.toNat] ∧
    IssuesAs (.vxorVs vd va vb m ms ds) (.vint .xor true (vf vd va vb m ms ds 0)) 0 0 vb.toNat none [vb.toNat] ∧
    IssuesAs (.vsllVs vd va vb m ms ds) (.vint .sll true (vf vd va vb m ms ds 0)) 0 0 vb.toNat none [vb.toNat] ∧
    IssuesAs (.vsrlVs vd va vb m ms ds) (.vint .srl true (vf vd va vb m ms ds 0)) 0 0 vb.toNat none [vb.toNat] ∧
    IssuesAs (.vsraVs vd va vb m ms ds) (.vint .sra true (vf vd va vb m ms ds 0)) 0 0 vb.toNat none [vb.toNat] ∧
    IssuesAs (.vceq vd va vb m ms ds) (.vcmp .eq false (vf vd va vb m ms ds 0)) 0 0 0 none [] ∧
    IssuesAs (.vcne vd va vb m ms ds) (.vcmp .ne false (vf vd va vb m ms ds 0)) 0 0 0 none [] ∧
    IssuesAs (.vclt vd va vb m ms ds) (.vcmp .lt false (vf vd va vb m ms ds 0)) 0 0 0 none [] ∧
    IssuesAs (.vcltu vd va vb m ms ds) (.vcmp .ltu false (vf vd va vb m ms ds 0)) 0 0 0 none [] ∧
    IssuesAs (.vcle vd va vb m ms ds) (.vcmp .le false (vf vd va vb m ms ds 0)) 0 0 0 none [] ∧
    IssuesAs (.vcleu vd va vb m ms ds) (.vcmp .leu false (vf vd va vb m ms ds 0)) 0 0 0 none [] ∧
    IssuesAs (.vcgt vd va vb m ms ds) (.vcmp .gt false (vf vd va vb m ms ds 0)) 0 0 0 none [] ∧
    IssuesAs (.vcgtu vd va vb m ms ds) (.vcmp .gtu false (vf vd va vb m ms ds 0)) 0 0 0 none [] ∧
    IssuesAs (.vceqVs vd va vb m ms ds) (.vcmp .eq true (vf vd va vb m ms ds 0)) 0 0 vb.toNat none [vb.toNat] ∧
    IssuesAs (.vcneVs vd va vb m ms ds) (.vcmp .ne true (vf vd va vb m ms ds 0)) 0 0 vb.toNat none [vb.toNat] ∧
    IssuesAs (.vcltVs vd va vb m ms ds) (.vcmp .lt true (vf vd va vb m ms ds 0)) 0 0 vb.toNat none [vb.toNat] ∧
    IssuesAs (.vcltuVs vd va vb m ms ds) (.vcmp .ltu true (vf vd va vb m ms ds 0)) 0 0 vb.toNat none [vb.toNat] ∧
    IssuesAs (.vcleVs vd va vb m ms ds) (.vcmp .le true (vf vd va vb m ms ds 0)) 0 0 vb.toNat none [vb.toNat] ∧
    IssuesAs (.vcleuVs vd va vb m ms ds) (.vcmp .leu true (vf vd va vb m ms ds 0)) 0 0 vb.toNat none [vb.toNat] ∧
    IssuesAs (.vcgtVs vd va vb m ms ds) (.vcmp .gt true (vf vd va vb m ms ds 0)) 0 0 vb.toNat none [vb.toNat] ∧
    IssuesAs (.vcgtuVs vd va vb m ms ds) (.vcmp .gtu true (vf vd va vb m ms ds 0)) 0 0 vb.toNat none [vb.toNat]) ∧
  (∀ (vd : BitVec 5) (va : BitVec 5) (vb : BitVec 5) (m : BitVec 1) (ms : BitVec 3) (ds : BitVec 2) (x : BitVec 1),
    IssuesAs (.vfceq vd va vb m ms ds x) (.vcmp .feq false (vf vd va vb m ms ds x)) 0 0 0 none [] ∧
    IssuesAs (.vfcne vd va vb m ms ds x) (.vcmp .fne false (vf vd va vb m ms ds x)) 0 0 0 none [] ∧
    IssuesAs (.vfclt vd va vb m ms ds x) (.vcmp .flt false (vf vd va vb m ms ds x)) 0 0 0 none [] ∧
    IssuesAs (.vfcle vd va vb m ms ds x) (.vcmp .fle false (vf vd va vb m ms ds x)) 0 0 0 none [] ∧
    IssuesAs (.vfcgt vd va vb m ms ds x) (.vcmp .fgt false (vf vd va vb m ms ds x)) 0 0 0 none [] ∧
    IssuesAs (.vfcge vd va vb m ms ds x) (.vcmp .fge false (vf vd va vb m ms ds x)) 0 0 0 none [] ∧
    IssuesAs (.vfcun vd va vb m ms ds x) (.vcmp .fcun false (vf vd va vb m ms ds x)) 0 0 0 none [] ∧
    IssuesAs (.vfceqVs vd va vb m ms ds x) (.vcmp .feq true (vf vd va vb m ms ds x)) 0 0 vb.toNat none [vb.toNat] ∧
    IssuesAs (.vfcneVs vd va vb m ms ds x) (.vcmp .fne true (vf vd va vb m ms ds x)) 0 0 vb.toNat none [vb.toNat] ∧
    IssuesAs (.vfcltVs vd va vb m ms ds x) (.vcmp .flt true (vf vd va vb m ms ds x)) 0 0 vb.toNat none [vb.toNat] ∧
    IssuesAs (.vfcleVs vd va vb m ms ds x) (.vcmp .fle true (vf vd va vb m ms ds x)) 0 0 vb.toNat none [vb.toNat] ∧
    IssuesAs (.vfcgtVs vd va vb m ms ds x) (.vcmp .fgt true (vf vd va vb m ms ds x)) 0 0 vb.toNat none [vb.toNat] ∧
    IssuesAs (.vfcgeVs vd va vb m ms ds x) (.vcmp .fge true (vf vd va vb m ms ds x)) 0 0 vb.toNat none [vb.toNat] ∧
    IssuesAs (.vfcunVs vd va vb m ms ds x) (.vcmp .fcun true (vf vd va vb m ms ds x)) 0 0 vb.toNat none [vb.toNat])

/-- The floating-point, conversion, MX, quantisation and reduction instructions issue as their operations (R157, R180, R182, R184, R185, R190) -/
def Obligations.VectorFloatIssue : Prop :=
  (∀ (vd : BitVec 5) (va : BitVec 5) (vb : BitVec 5) (m : BitVec 1) (ms : BitVec 3) (ds : BitVec 2) (x : BitVec 1),
    IssuesAs (.vfadd vd va vb m ms ds x) (.vfp .add false (vf vd va vb m ms ds x)) 0 0 0 none [] ∧
    IssuesAs (.vfsub vd va vb m ms ds x) (.vfp .sub false (vf vd va vb m ms ds x)) 0 0 0 none [] ∧
    IssuesAs (.vfmul vd va vb m ms ds x) (.vfp .mul false (vf vd va vb m ms ds x)) 0 0 0 none [] ∧
    IssuesAs (.vfdiv vd va vb m ms ds x) (.vfp .div false (vf vd va vb m ms ds x)) 0 0 0 none [] ∧
    IssuesAs (.vfmin vd va vb m ms ds x) (.vfp .min false (vf vd va vb m ms ds x)) 0 0 0 none [] ∧
    IssuesAs (.vfmax vd va vb m ms ds x) (.vfp .max false (vf vd va vb m ms ds x)) 0 0 0 none [] ∧
    IssuesAs (.vfma vd va vb m ms ds x) (.vfp .fma false (vf vd va vb m ms ds x)) 0 0 0 none [] ∧
    IssuesAs (.vfnma vd va vb m ms ds x) (.vfp .fnma false (vf vd va vb m ms ds x)) 0 0 0 none [] ∧
    IssuesAs (.vfms vd va vb m ms ds x) (.vfp .fms false (vf vd va vb m ms ds x)) 0 0 0 none [] ∧
    IssuesAs (.vfcsign vd va vb m ms ds x) (.vfp .csign false (vf vd va vb m ms ds x)) 0 0 0 none [] ∧
    IssuesAs (.vfnsign vd va vb m ms ds x) (.vfp .nsign false (vf vd va vb m ms ds x)) 0 0 0 none [] ∧
    IssuesAs (.vfxsign vd va vb m ms ds x) (.vfp .xsign false (vf vd va vb m ms ds x)) 0 0 0 none [] ∧
    IssuesAs (.vfkind vd va vb m ms ds x) (.vfp .kind false (vf vd va vb m ms ds x)) 0 0 0 none [] ∧
    IssuesAs (.vfsubr vd va vb m ms ds x) (.vfp .subr false (vf vd va vb m ms ds x)) 0 0 0 none [] ∧
    IssuesAs (.vfaddVs vd va vb m ms ds x) (.vfp .add true (vf vd va vb m ms ds x)) 0 0 vb.toNat none [vb.toNat] ∧
    IssuesAs (.vfsubVs vd va vb m ms ds x) (.vfp .sub true (vf vd va vb m ms ds x)) 0 0 vb.toNat none [vb.toNat] ∧
    IssuesAs (.vfmulVs vd va vb m ms ds x) (.vfp .mul true (vf vd va vb m ms ds x)) 0 0 vb.toNat none [vb.toNat] ∧
    IssuesAs (.vfdivVs vd va vb m ms ds x) (.vfp .div true (vf vd va vb m ms ds x)) 0 0 vb.toNat none [vb.toNat] ∧
    IssuesAs (.vfminVs vd va vb m ms ds x) (.vfp .min true (vf vd va vb m ms ds x)) 0 0 vb.toNat none [vb.toNat] ∧
    IssuesAs (.vfmaxVs vd va vb m ms ds x) (.vfp .max true (vf vd va vb m ms ds x)) 0 0 vb.toNat none [vb.toNat] ∧
    IssuesAs (.vfmaVs vd va vb m ms ds x) (.vfp .fma true (vf vd va vb m ms ds x)) 0 0 vb.toNat none [vb.toNat] ∧
    IssuesAs (.vfnmaVs vd va vb m ms ds x) (.vfp .fnma true (vf vd va vb m ms ds x)) 0 0 vb.toNat none [vb.toNat] ∧
    IssuesAs (.vfmsVs vd va vb m ms ds x) (.vfp .fms true (vf vd va vb m ms ds x)) 0 0 vb.toNat none [vb.toNat] ∧
    IssuesAs (.vfcsignVs vd va vb m ms ds x) (.vfp .csign true (vf vd va vb m ms ds x)) 0 0 vb.toNat none [vb.toNat] ∧
    IssuesAs (.vfnsignVs vd va vb m ms ds x) (.vfp .nsign true (vf vd va vb m ms ds x)) 0 0 vb.toNat none [vb.toNat] ∧
    IssuesAs (.vfxsignVs vd va vb m ms ds x) (.vfp .xsign true (vf vd va vb m ms ds x)) 0 0 vb.toNat none [vb.toNat] ∧
    IssuesAs (.vfkindVs vd va vb m ms ds x) (.vfp .kind true (vf vd va vb m ms ds x)) 0 0 vb.toNat none [vb.toNat] ∧
    IssuesAs (.vfsubrVs vd va vb m ms ds x) (.vfp .subr true (vf vd va vb m ms ds x)) 0 0 vb.toNat none [vb.toNat] ∧
    IssuesAs (.vquant vd va vb m ms ds x) (.vquant (vf vd va vb m ms ds x)) 0 0 vb.toNat none [vb.toNat] ∧
    IssuesAs (.vdequant vd va vb m ms ds x) (.vdequant (vf vd va vb m ms ds x)) 0 0 vb.toNat none [vb.toNat] ∧
    IssuesAs (.vfsumr vd va vb m ms ds x) (.vred .fsum (vf vd va vb m ms ds x)) 0 0 vb.toNat (some vd.toNat) [vb.toNat] ∧
    IssuesAs (.vfmaxr vd va vb m ms ds x) (.vred .fmax (vf vd va vb m ms ds x)) 0 0 vb.toNat (some vd.toNat) [vb.toNat] ∧
    IssuesAs (.vfminr vd va vb m ms ds x) (.vred .fmin (vf vd va vb m ms ds x)) 0 0 vb.toNat (some vd.toNat) [vb.toNat]) ∧
  (∀ (vd : BitVec 5) (va : BitVec 5) (m : BitVec 1) (ms : BitVec 3) (ds : BitVec 2) (x : BitVec 1),
    IssuesAs (.vfsqrt vd va m ms ds x) (.vspec .sqrt (vf vd va 0 m ms ds x)) 0 0 0 none [] ∧
    IssuesAs (.vfrcp vd va m ms ds x) (.vspec .rcp (vf vd va 0 m ms ds x)) 0 0 0 none [] ∧
    IssuesAs (.vfrsqrt vd va m ms ds x) (.vspec .rsqrt (vf vd va 0 m ms ds x)) 0 0 0 none [] ∧
    IssuesAs (.vfexp2 vd va m ms ds x) (.vspec .exp2 (vf vd va 0 m ms ds x)) 0 0 0 none [] ∧
    IssuesAs (.vflog2 vd va m ms ds x) (.vspec .log2 (vf vd va 0 m ms ds x)) 0 0 0 none [] ∧
    IssuesAs (.vfexp vd va m ms ds x) (.vspec .exp (vf vd va 0 m ms ds x)) 0 0 0 none [] ∧
    IssuesAs (.vflog vd va m ms ds x) (.vspec .log (vf vd va 0 m ms ds x)) 0 0 0 none [] ∧
    IssuesAs (.vftanh vd va m ms ds x) (.vspec .tanh (vf vd va 0 m ms ds x)) 0 0 0 none [] ∧
    IssuesAs (.vfsigm vd va m ms ds x) (.vspec .sigm (vf vd va 0 m ms ds x)) 0 0 0 none [] ∧
    IssuesAs (.vfgelu vd va m ms ds x) (.vspec .gelu (vf vd va 0 m ms ds x)) 0 0 0 none [] ∧
    IssuesAs (.vfsilu vd va m ms ds x) (.vspec .silu (vf vd va 0 m ms ds x)) 0 0 0 none [] ∧
    IssuesAs (.vfsin vd va m ms ds x) (.vspec .sin (vf vd va 0 m ms ds x)) 0 0 0 none [] ∧
    IssuesAs (.vfcos vd va m ms ds x) (.vspec .cos (vf vd va 0 m ms ds x)) 0 0 0 none [] ∧
    IssuesAs (.vamax vd va m ms ds x) (.vamax (vf vd va 0 m ms ds x)) 0 0 0 (some vd.toNat) [] ∧
    IssuesAs (.vbamax vd va m ms ds x) (.vbamax (vf vd va 0 m ms ds x)) 0 0 0 none []) ∧
  (∀ (vd : BitVec 5) (va : BitVec 5) (fmt : BitVec 5) (m : BitVec 1) (ms : BitVec 3) (ds : BitVec 2) (x : BitVec 1),
    IssuesAs (.vcvt vd va fmt m ms ds x) (.vcvt .cvt fmt.toNat (vf vd va 0 m ms ds x)) 0 0 0 none [] ∧
    IssuesAs (.vwiden vd va fmt m ms ds x) (.vcvt .widen fmt.toNat (vf vd va 0 m ms ds x)) 0 0 0 none [] ∧
    IssuesAs (.vnarrow vd va fmt m ms ds x) (.vcvt .narrow fmt.toNat (vf vd va 0 m ms ds x)) 0 0 0 none [] ∧
    IssuesAs (.vnarrows vd va fmt m ms ds x) (.vcvt .narrows fmt.toNat (vf vd va 0 m ms ds x)) 0 0 0 none [] ∧
    IssuesAs (.vmxpack vd va fmt m ms ds x) (.vmxpack fmt.toNat (vf vd va 0 m ms ds x)) 0 0 0 none [] ∧
    IssuesAs (.vmxunpack vd va fmt m ms ds x) (.vmxunpack fmt.toNat (vf vd va 0 m ms ds x)) 0 0 0 none []) ∧
  (∀ (vd : BitVec 5) (va : BitVec 5) (fmt : BitVec 5) (x : BitVec 1),
    IssuesAs (.vscale vd va fmt x) (.vscale fmt.toNat) 0 va.toNat 0 (some vd.toNat) [va.toNat]) ∧
  (∀ (vd : BitVec 5) (va : BitVec 5) (vb : BitVec 5) (m : BitVec 1) (ms : BitVec 3) (ds : BitVec 2),
    IssuesAs (.vsumr vd va vb m ms ds) (.vred .sum (vf vd va vb m ms ds 0)) 0 0 vb.toNat (some vd.toNat) [vb.toNat] ∧
    IssuesAs (.vmaxr vd va vb m ms ds) (.vred .max (vf vd va vb m ms ds 0)) 0 0 vb.toNat (some vd.toNat) [vb.toNat] ∧
    IssuesAs (.vminr vd va vb m ms ds) (.vred .min (vf vd va vb m ms ds 0)) 0 0 vb.toNat (some vd.toNat) [vb.toNat] ∧
    IssuesAs (.vmaxur vd va vb m ms ds) (.vred .maxu (vf vd va vb m ms ds 0)) 0 0 vb.toNat (some vd.toNat) [vb.toNat] ∧
    IssuesAs (.vminur vd va vb m ms ds) (.vred .minu (vf vd va vb m ms ds 0)) 0 0 vb.toNat (some vd.toNat) [vb.toNat] ∧
    IssuesAs (.vandr vd va vb m ms ds) (.vred .and (vf vd va vb m ms ds 0)) 0 0 vb.toNat (some vd.toNat) [vb.toNat] ∧
    IssuesAs (.vorr vd va vb m ms ds) (.vred .or (vf vd va vb m ms ds 0)) 0 0 vb.toNat (some vd.toNat) [vb.toNat] ∧
    IssuesAs (.vxorr vd va vb m ms ds) (.vred .xor (vf vd va vb m ms ds 0)) 0 0 vb.toNat (some vd.toNat) [vb.toNat])

/-- The permutes, bit-field, configuration, grid-slice, memory and queue-operand instructions issue as their operations (R157, R165, R192, R196, R197, R198, R199, R202, R204) -/
def Obligations.VectorMoveIssue : Prop :=
  (∀ (vd : BitVec 5) (va : BitVec 5) (vb : BitVec 5) (m : BitVec 1) (ms : BitVec 3) (ds : BitVec 2),
    IssuesAs (.vshup vd va vb m ms ds) (.vperm .shup (vf vd va vb m ms ds 0)) 0 0 vb.toNat none [vb.toNat] ∧
    IssuesAs (.vshdn vd va vb m ms ds) (.vperm .shdn (vf vd va vb m ms ds 0)) 0 0 vb.toNat none [vb.toNat] ∧
    IssuesAs (.vgather vd va vb m ms ds) (.vperm .gather (vf vd va vb m ms ds 0)) 0 0 0 none [] ∧
    IssuesAs (.vcompress vd va vb m ms ds) (.vperm .compress (vf vd va vb m ms ds 0)) 0 0 0 (some vb.toNat) [] ∧
    IssuesAs (.vmerge vd va vb m ms ds) (.vperm .merge (vf vd va vb m ms ds 0)) 0 0 0 none [] ∧
    IssuesAs (.vxup vd va vb m ms ds) (.vperm .xup (vf vd va vb m ms ds 0)) 0 0 vb.toNat none [vb.toNat] ∧
    IssuesAs (.vxdn vd va vb m ms ds) (.vperm .xdn (vf vd va vb m ms ds 0)) 0 0 vb.toNat none [vb.toNat] ∧
    IssuesAs (.vxbc vd va vb m ms ds) (.vperm .xbc (vf vd va vb m ms ds 0)) 0 0 vb.toNat none [vb.toNat] ∧
    IssuesAs (.vunpack vd va vb m ms ds) (.vbits .unpack (vf vd va vb m ms ds 0)) 0 0 vb.toNat none [vb.toNat] ∧
    IssuesAs (.vbext vd va vb m ms ds) (.vbits .bext (vf vd va vb m ms ds 0)) 0 0 0 none [] ∧
    IssuesAs (.vfsl vd va vb m ms ds) (.vbits .fsl (vf vd va vb m ms ds 0)) 0 0 0 none [] ∧
    IssuesAs (.vfsr vd va vb m ms ds) (.vbits .fsr (vf vd va vb m ms ds 0)) 0 0 0 none [] ∧
    IssuesAs (.vlut vd va vb m ms ds) (.vbits .lut (vf vd va vb m ms ds 0)) 0 0 0 none [] ∧
    IssuesAs (.vlds vd va vb m ms ds) (.vmem .lds (vf vd va vb m ms ds 0)) 0 va.toNat vb.toNat none [va.toNat, vb.toNat] ∧
    IssuesAs (.vldx vd va vb m ms ds) (.vmem .ldx (vf vd va vb m ms ds 0)) 0 va.toNat 0 none [va.toNat] ∧
    IssuesAs (.vsts vd va vb m ms ds) (.vmem (.sts false) (vf vd va vb m ms ds 0)) 0 va.toNat vb.toNat none [va.toNat, vb.toNat] ∧
    IssuesAs (.vstx vd va vb m ms ds) (.vmem (.stx false) (vf vd va vb m ms ds 0)) 0 va.toNat 0 none [va.toNat] ∧
    IssuesAs (.vstsU vd va vb m ms ds) (.vmem (.sts true) (vf vd va vb m ms ds 0)) 0 va.toNat vb.toNat none [va.toNat, vb.toNat] ∧
    IssuesAs (.vstxU vd va vb m ms ds) (.vmem (.stx true) (vf vd va vb m ms ds 0)) 0 va.toNat 0 none [va.toNat]) ∧
  (∀ (vd : BitVec 5) (va : BitVec 5) (m : BitVec 1) (ms : BitVec 3) (ds : BitVec 2),
    IssuesAs (.vexpand vd va m ms ds) (.vperm .expand (vf vd va 0 m ms ds 0)) 0 0 0 none [] ∧
    IssuesAs (.vmove vd va m ms ds) (.vperm .move (vf vd va 0 m ms ds 0)) 0 0 0 none [] ∧
    IssuesAs (.vsplat vd va m ms ds) (.vperm .splat (vf vd va 0 m ms ds 0)) 0 va.toNat 0 none [va.toNat] ∧
    IssuesAs (.vxrev vd va m ms ds) (.vperm .xrev (vf vd va 0 m ms ds 0)) 0 0 0 none [] ∧
    IssuesAs (.vclz vd va m ms ds) (.vbits .clz (vf vd va 0 m ms ds 0)) 0 0 0 none [] ∧
    IssuesAs (.vctz vd va m ms ds) (.vbits .ctz (vf vd va 0 m ms ds 0)) 0 0 0 none [] ∧
    IssuesAs (.vpopc vd va m ms ds) (.vbits .popc (vf vd va 0 m ms ds 0)) 0 0 0 none [] ∧
    IssuesAs (.vbrev vd va m ms ds) (.vbits .brev (vf vd va 0 m ms ds 0)) 0 0 0 none [] ∧
    IssuesAs (.vld vd va m ms ds) (.vmem .ld (vf vd va 0 m ms ds 0)) 0 va.toNat 0 none [va.toNat] ∧
    IssuesAs (.vldff vd va m ms ds) (.vmem .ldff (vf vd va 0 m ms ds 0)) 0 va.toNat 0 none [va.toNat] ∧
    IssuesAs (.vst vd va m ms ds) (.vmem (.st false) (vf vd va 0 m ms ds 0)) 0 va.toNat 0 none [va.toNat] ∧
    IssuesAs (.vstU vd va m ms ds) (.vmem (.st true) (vf vd va 0 m ms ds 0)) 0 va.toNat 0 none [va.toNat] ∧
    IssuesAs (.grow vd va m ms ds) (.gslice .row false (vf vd va 0 m ms ds 0)) 0 va.toNat 0 none [va.toNat] ∧
    IssuesAs (.gcol vd va m ms ds) (.gslice .col false (vf vd va 0 m ms ds 0)) 0 va.toNat 0 none [va.toNat] ∧
    IssuesAs (.gdiag vd va m ms ds) (.gslice .diag false (vf vd va 0 m ms ds 0)) 0 va.toNat 0 none [va.toNat] ∧
    IssuesAs (.grows vd va m ms ds) (.gslice .row true (vf vd va 0 m ms ds 0)) vd.toNat 0 0 none [vd.toNat] ∧
    IssuesAs (.gcols vd va m ms ds) (.gslice .col true (vf vd va 0 m ms ds 0)) vd.toNat 0 0 none [vd.toNat] ∧
    IssuesAs (.gdiags vd va m ms ds) (.gslice .diag true (vf vd va 0 m ms ds 0)) vd.toNat 0 0 none [vd.toNat]) ∧
  (∀ (vd : BitVec 5) (va : BitVec 5) (ds : BitVec 2),
    IssuesAs (.vhead vd va ds) (.vperm .head (vf vd va 0 0 0 ds 0)) 0 0 0 (some vd.toNat) []) ∧
  (∀ (vd : BitVec 5) (m : BitVec 1) (ms : BitVec 3) (ds : BitVec 2),
    IssuesAs (.vacnt vd m ms ds) (.vperm .acnt (vf vd 0 0 m ms ds 0)) 0 0 0 none []) ∧
  (∀ (n : BitVec 5),
    IssuesAs (.vcfg n) (.vcfg (2 ^ (n.toNat + 2))) 0 0 0 none []) ∧
  (∀ (vd : BitVec 5) (vb : BitVec 5),
    IssuesAs (.gpass vd vb) (.gpass vb.toNat) vd.toNat 0 0 none [vd.toNat]) ∧
  (∀ (vd : BitVec 5) (p : BitVec 1) (qn : BitVec 4) (m : BitVec 1) (ms : BitVec 3) (ds : BitVec 2),
    IssuesAs (.vmvq vd p qn m ms ds) (.vqsrc .mv (p == 1) qn.toNat (vf vd 0 0 m ms ds 0)) 0 0 0 none []) ∧
  (∀ (vd : BitVec 5) (va : BitVec 5) (p : BitVec 1) (qn : BitVec 4) (m : BitVec 1) (ms : BitVec 3) (ds : BitVec 2),
    IssuesAs (.vaddq vd va p qn m ms ds) (.vqsrc .add (p == 1) qn.toNat (vf vd va 0 m ms ds 0)) 0 0 0 none [] ∧
    IssuesAs (.vsubq vd va p qn m ms ds) (.vqsrc .sub (p == 1) qn.toNat (vf vd va 0 m ms ds 0)) 0 0 0 none [] ∧
    IssuesAs (.vmulq vd va p qn m ms ds) (.vqsrc .mul (p == 1) qn.toNat (vf vd va 0 m ms ds 0)) 0 0 0 none [] ∧
    IssuesAs (.vandq vd va p qn m ms ds) (.vqsrc .and (p == 1) qn.toNat (vf vd va 0 m ms ds 0)) 0 0 0 none [] ∧
    IssuesAs (.vorq vd va p qn m ms ds) (.vqsrc .or (p == 1) qn.toNat (vf vd va 0 m ms ds 0)) 0 0 0 none [] ∧
    IssuesAs (.vxorq vd va p qn m ms ds) (.vqsrc .xor (p == 1) qn.toNat (vf vd va 0 m ms ds 0)) 0 0 0 none []) ∧
  (∀ (vd : BitVec 5) (va : BitVec 5) (p : BitVec 1) (qn : BitVec 4) (m : BitVec 1) (ms : BitVec 3) (ds : BitVec 2) (x : BitVec 1),
    IssuesAs (.vfaddq vd va p qn m ms ds x) (.vqsrc .fadd (p == 1) qn.toNat (vf vd va 0 m ms ds x)) 0 0 0 none [] ∧
    IssuesAs (.vfsubq vd va p qn m ms ds x) (.vqsrc .fsub (p == 1) qn.toNat (vf vd va 0 m ms ds x)) 0 0 0 none [] ∧
    IssuesAs (.vfmulq vd va p qn m ms ds x) (.vqsrc .fmul (p == 1) qn.toNat (vf vd va 0 m ms ds x)) 0 0 0 none [] ∧
    IssuesAs (.vfmaq vd va p qn m ms ds x) (.vqsrc .fma (p == 1) qn.toNat (vf vd va 0 m ms ds x)) 0 0 0 none []) ∧
  (∀ (va : BitVec 5) (qn : BitVec 4) (m : BitVec 1) (ms : BitVec 3) (ds : BitVec 2),
    IssuesAs (.venq va qn m ms ds) (.venq qn.toNat (vf 0 va 0 m ms ds 0)) 0 0 0 none [])

/-- The mask and tile instructions issue as their operations (R157, R205, R206, R286, R288, R291, R292, R300) -/
def Obligations.MaskTileIssue : Prop :=
  (∀ (md : BitVec 7) (ma : BitVec 7) (mb : BitVec 7),
    IssuesAs (.mand md ma mb) (.mask .and md.toNat ma.toNat mb.toNat) 0 0 0 none [] ∧
    IssuesAs (.mor md ma mb) (.mask .or md.toNat ma.toNat mb.toNat) 0 0 0 none [] ∧
    IssuesAs (.mxor md ma mb) (.mask .xor md.toNat ma.toNat mb.toNat) 0 0 0 none [] ∧
    IssuesAs (.mandn md ma mb) (.mask .andn md.toNat ma.toNat mb.toNat) 0 0 0 none [] ∧
    IssuesAs (.morn md ma mb) (.mask .orn md.toNat ma.toNat mb.toNat) 0 0 0 none [] ∧
    IssuesAs (.mnand md ma mb) (.mask .nand md.toNat ma.toNat mb.toNat) 0 0 0 none [] ∧
    IssuesAs (.mnor md ma mb) (.mask .nor md.toNat ma.toNat mb.toNat) 0 0 0 none [] ∧
    IssuesAs (.mxnor md ma mb) (.mask .xnor md.toNat ma.toNat mb.toNat) 0 0 0 none []) ∧
  (∀ (md : BitVec 7) (ma : BitVec 7),
    IssuesAs (.mmv md ma) (.mask .mv md.toNat ma.toNat 0) 0 0 0 none [] ∧
    IssuesAs (.mnot md ma) (.mask .not md.toNat ma.toNat 0) 0 0 0 none [] ∧
    IssuesAs (.msbf md ma) (.mask .sbf md.toNat ma.toNat 0) 0 0 0 none [] ∧
    IssuesAs (.msif md ma) (.mask .sif md.toNat ma.toNat 0) 0 0 0 none [] ∧
    IssuesAs (.msof md ma) (.mask .sof md.toNat ma.toNat 0) 0 0 0 none [] ∧
    IssuesAs (.mpopc md ma) (.mask .popc md.toNat ma.toNat 0) 0 0 0 (some md.toNat) [] ∧
    IssuesAs (.mfirst md ma) (.mask .first md.toNat ma.toNat 0) 0 0 0 (some md.toNat) [] ∧
    IssuesAs (.mld md ma) (.mask .ld md.toNat ma.toNat 0) 0 ma.toNat 0 none [ma.toNat] ∧
    IssuesAs (.mst md ma) (.mask .st md.toNat ma.toNat 0) md.toNat 0 0 none [md.toNat]) ∧
  (∀ (md : BitVec 7),
    IssuesAs (.mset md) (.mask .set md.toNat 0 0) 0 0 0 none [] ∧
    IssuesAs (.mclr md) (.mask .clr md.toNat 0 0) 0 0 0 none []) ∧
  (∀ (qc : BitVec 5) (qr : BitVec 5) (sk : BitVec 5) (p : BitVec 1) (acc : BitVec 3) (ds : BitVec 2) (gc : BitVec 5),
    IssuesAs (.tmul qc qr sk p acc ds gc) (.tmul qc.toNat qr.toNat sk.toNat (p == 1) acc.toNat ds.toNat gc.toNat) 0 0 sk.toNat none [sk.toNat]) ∧
  (∀ (vb : BitVec 5),
    IssuesAs (.tmodeOn vb) (.tmodeOn (vb.toNat % 16)) 0 0 0 none [] ∧
    IssuesAs (.tmodeOff vb) (.tmodeOff (vb.toNat % 16)) 0 0 0 none []) ∧
  (∀ (vd : BitVec 5) (va : BitVec 5) (vb : BitVec 5) (ds : BitVec 2),
    IssuesAs (.tshape vd va vb ds) (.tshape ds.toNat) vd.toNat va.toNat vb.toNat none [vd.toNat, va.toNat, vb.toNat]) ∧
  (∀ (vb : BitVec 5) (ds : BitVec 2),
    IssuesAs (.tzero vb ds) (.tzero vb.toNat ds.toNat) 0 0 0 none []) ∧
  (∀ (vd : BitVec 5) (va : BitVec 5) (ds : BitVec 2),
    IssuesAs (.trdr vd va ds) (.trd false vd.toNat ds.toNat) 0 va.toNat 0 none [va.toNat] ∧
    IssuesAs (.trdc vd va ds) (.trd true vd.toNat ds.toNat) 0 va.toNat 0 none [va.toNat] ∧
    IssuesAs (.twrr vd va ds) (.twr false va.toNat ds.toNat) vd.toNat 0 0 none [vd.toNat] ∧
    IssuesAs (.twrc vd va ds) (.twr true va.toNat ds.toNat) vd.toNat 0 0 none [vd.toNat]) ∧
  (∀ (ds : BitVec 2),
    IssuesAs (.tpred ds) (.tpred ds.toNat) 0 0 0 none []) ∧
  (IssuesAs (.tsync) (.tsync) 0 0 0 none [])

/-- The stream, copy, storage, link and fabric instructions issue as their operations (R157, R232, R250, R256, R321, R325, R348, R349, R365, R369) -/
def Obligations.EngineIssue : Prop :=
  (∀ (qn : BitVec 5) (ra : BitVec 5) (ds : BitVec 2),
    IssuesAs (.sopen qn ra ds) (.strm .sopen qn.toNat 0 0 ds.toNat) 0 ra.toNat 0 none [ra.toNat] ∧
    IssuesAs (.swait qn ra ds) (.strm .swait qn.toNat 0 0 ds.toNat) 0 ra.toNat 0 none [ra.toNat] ∧
    IssuesAs (.sskip qn ra ds) (.strm .sskip qn.toNat 0 0 ds.toNat) 0 ra.toNat 0 none [ra.toNat] ∧
    IssuesAs (.spref qn ra ds) (.strm .spref qn.toNat 0 0 ds.toNat) 0 ra.toNat 0 none [ra.toNat] ∧
    IssuesAs (.sgather qn ra ds) (.strm .sgather qn.toNat ra.toNat 0 ds.toNat) 0 0 0 none [] ∧
    IssuesAs (.strans qn ra ds) (.strm .strans qn.toNat 0 0 ds.toNat) 0 ra.toNat 0 none [ra.toNat]) ∧
  (∀ (qn : BitVec 5) (ds : BitVec 2),
    IssuesAs (.sclose qn ds) (.strm .sclose qn.toNat 0 0 ds.toNat) 0 0 0 none [] ∧
    IssuesAs (.sdrain qn ds) (.strm .sdrain qn.toNat 0 0 ds.toNat) 0 0 0 none [] ∧
    IssuesAs (.srewind qn ds) (.strm .srewind qn.toNat 0 0 ds.toNat) 0 0 0 none []) ∧
  (∀ (qn : BitVec 5) (rd : BitVec 5) (ds : BitVec 2),
    IssuesAs (.savail qn rd ds) (.strm .savail qn.toNat 0 0 ds.toNat) 0 0 0 (some rd.toNat) [] ∧
    IssuesAs (.sstat qn rd ds) (.strm .sstat qn.toNat 0 0 ds.toNat) 0 0 0 (some rd.toNat) []) ∧
  (∀ (qn : BitVec 5) (ra : BitVec 5) (rb : BitVec 5) (ds : BitVec 2),
    IssuesAs (.sldxBg qn ra rb ds) (.strm .sldxBg qn.toNat ra.toNat rb.toNat ds.toNat) 0 0 0 none []) ∧
  (∀ (rd : BitVec 5) (ra : BitVec 5) (spd : BitVec 1) (sps : BitVec 1) (ds : BitVec 2),
    IssuesAs (.cpy rd ra spd sps ds) (.copy .cpy (spd == 1) (sps == 1) ds.toNat 0) rd.toNat ra.toNat 0 none [rd.toNat, ra.toNat]) ∧
  (∀ (rd : BitVec 5) (rb : BitVec 5) (spd : BitVec 1) (ds : BitVec 2),
    IssuesAs (.cpfill rd rb spd ds) (.copy .cpfill (spd == 1) false ds.toNat 0) rd.toNat 0 rb.toNat none [rd.toNat, rb.toNat]) ∧
  (∀ (rd : BitVec 5) (ra : BitVec 5) (rb : BitVec 5) (spd : BitVec 1) (sps : BitVec 1) (ds : BitVec 2),
    IssuesAs (.cpcvt rd ra rb spd sps ds) (.copy .cpcvt (spd == 1) (sps == 1) ds.toNat 0) rd.toNat ra.toNat rb.toNat none [rd.toNat, ra.toNat, rb.toNat]) ∧
  (∀ (rd : BitVec 5) (ra : BitVec 5) (rb : BitVec 5) (sps : BitVec 1) (ds : BitVec 2),
    IssuesAs (.cplz rd ra rb sps ds) (.copy .cplz false (sps == 1) ds.toNat 0) rd.toNat ra.toNat rb.toNat none [rd.toNat, ra.toNat, rb.toNat] ∧
    IssuesAs (.cpcrc rd ra rb sps ds) (.copy .cpcrc false (sps == 1) ds.toNat 0) 0 ra.toNat rb.toNat (some rd.toNat) [ra.toNat, rb.toNat] ∧
    IssuesAs (.cpcrc64 rd ra rb sps ds) (.copy .cpcrc64 false (sps == 1) ds.toNat 0) 0 ra.toNat rb.toNat (some rd.toNat) [ra.toNat, rb.toNat]) ∧
  (∀ (rd : BitVec 5) (ra : BitVec 5) (rb : BitVec 5) (spd : BitVec 1) (ds : BitVec 2),
    IssuesAs (.cpxp rd ra rb spd ds) (.copy .cpxp (spd == 1) false ds.toNat 0) rd.toNat ra.toNat rb.toNat none [rd.toNat, ra.toNat, rb.toNat]) ∧
  (∀ (rd : BitVec 5) (ra : BitVec 5) (rb : BitVec 5) (ds : BitVec 2),
    IssuesAs (.cprel rd ra rb ds) (.copy .cprel false false ds.toNat 0) rd.toNat ra.toNat rb.toNat none [rd.toNat, ra.toNat, rb.toNat]) ∧
  (∀ (rd : BitVec 5) (ra : BitVec 5),
    IssuesAs (.cpshad rd ra) (.copy .cpshad false false 0 0) rd.toNat ra.toNat 0 none [rd.toNat, ra.toNat] ∧
    IssuesAs (.nqstat rd ra) (.stor .nqstat) 0 ra.toNat 0 (some rd.toNat) [ra.toNat] ∧
    IssuesAs (.ncqpoll rd ra) (.stor .ncqpoll) 0 ra.toNat 0 (some rd.toNat) [ra.toNat] ∧
    IssuesAs (.lstat rd ra) (.link .lstat) 0 ra.toNat 0 (some rd.toNat) [ra.toNat] ∧
    IssuesAs (.lwait rd ra) (.link .lwait) 0 ra.toNat 0 (some rd.toNat) [ra.toNat] ∧
    IssuesAs (.bwait rd ra) (.beacon .bwait) 0 ra.toNat 0 (some rd.toNat) [ra.toNat] ∧
    IssuesAs (.bpoll rd ra) (.beacon .bpoll) 0 ra.toNat 0 (some rd.toNat) [ra.toNat] ∧
    IssuesAs (.bstat rd ra) (.beacon .bstat) 0 ra.toNat 0 (some rd.toNat) [ra.toNat] ∧
    IssuesAs (.blport rd ra) (.beacon .blport) 0 ra.toNat 0 (some rd.toNat) [ra.toNat]) ∧
  (∀ (rd : BitVec 5) (sc : BitVec 2),
    IssuesAs (.cpbl rd sc) (.copy .cpbl false false 0 sc.toNat) rd.toNat 0 0 none [rd.toNat]) ∧
  (IssuesAs (.cpwait) (.copy .cpwait false false 0 0) 0 0 0 none [] ∧
    IssuesAs (.bfence) (.beacon .bfence) 0 0 0 none []) ∧
  (∀ (ra : BitVec 5) (rb : BitVec 5),
    IssuesAs (.nring ra rb) (.stor .nring) ra.toNat rb.toNat 0 none [ra.toNat, rb.toNat] ∧
    IssuesAs (.ncqhd ra rb) (.stor .ncqhd) ra.toNat rb.toNat 0 none [ra.toNat, rb.toNat]) ∧
  (∀ (rd : BitVec 5) (ra : BitVec 5) (rb : BitVec 5),
    IssuesAs (.lturn rd ra rb) (.link .lturn) 0 ra.toNat rb.toNat (some rd.toNat) [ra.toNat, rb.toNat] ∧
    IssuesAs (.bput rd ra rb) (.beacon .bput) rd.toNat ra.toNat rb.toNat none [rd.toNat, ra.toNat, rb.toNat] ∧
    IssuesAs (.bget rd ra rb) (.beacon .bget) rd.toNat ra.toNat rb.toNat none [rd.toNat, ra.toNat, rb.toNat] ∧
    IssuesAs (.bnotify rd ra rb) (.beacon .bnotify) rd.toNat ra.toNat rb.toNat none [rd.toNat, ra.toNat, rb.toNat])

/-- The instructions that issue under a condition of their own (R99, R111, R157, R169, R294, R302, R354, R355, R356, R357, R366) -/
def Obligations.ConditionalIssue : Prop :=
  (∀ (rd ra : BitVec 5) (imm : BitVec 16) (s : State) (w : BitVec 32),
    let op : QOp := .vset imm 0 (if ra = 0 then 16384 else (s.reg ra).toNat)
    encode (.vsetvli rd ra imm) = some w → vtypeOk imm = true → s.mayQueue op [ra.toNat, rd.toNat] →
    exec (.vsetvli rd ra imm) s = .next (drain s.cur (s.issued op w 0 ra.toNat 0 (some rd.toNat)))) ∧
  (∀ (vd va vb : BitVec 5) (ds : BitVec 2) (s : State) (w : BitVec 32),
    let vt := (s.reg vb).extractLsb' 0 16
    let op : QOp := .vset vt ds.toNat (if va = 0 then 16384 else (s.reg va).toNat)
    encode (.vsetvl vd va vb ds) = some w → vtypeOk vt = true → s.mayQueue op [va.toNat, vb.toNat, vd.toNat] →
    exec (.vsetvl vd va vb ds) s = .next (drain s.cur (s.issued op w 0 va.toNat 0 (some vd.toNat)))) ∧
  (∀ (qc qr sk : BitVec 5) (p : BitVec 1) (acc : BitVec 3) (ds : BitVec 2) (gc : BitVec 5) (s : State) (w : BitVec 32),
    let op : QOp := .tmulsp qc.toNat qr.toNat sk.toNat (p == 1) acc.toNat ds.toNat gc.toNat
    encode (.tmulsp qc qr sk p acc ds gc) = some w → gc.toNat < 6 → s.mayQueue op [] →
    exec (.tmulsp qc qr sk p acc ds gc) s = .next (drain s.cur (s.issued op w 0 0 0 none))) ∧
  (∀ (rd ra rb : BitVec 5) (s : State) (w : BitVec 32),
    encode (.batom rd ra rb) = some w →
    s.mayQueue (.beacon .batom)
      [rd.toNat, ra.toNat, rb.toNat, if (s.reg rd).extractLsb' 0 4 = 9 then rb.toNat + 1 else 0, rd.toNat] →
    exec (.batom rd ra rb) s = .next (drain s.cur (s.issued (.beacon .batom) w rd.toNat ra.toNat rb.toNat (some rd.toNat)))) ∧
  (∀ (ra rb : BitVec 5) (s : State), s.me.super = true →
    (∀ w, encode (.lpause ra) = some w → s.mayQueue (.link .lpause) [ra.toNat] →
      exec (.lpause ra) s = .next (drain s.cur (s.issued (.link .lpause) w ra.toNat 0 0 none))) ∧
    (∀ w, encode (.lresume ra) = some w → s.mayQueue (.link .lresume) [ra.toNat] →
      exec (.lresume ra) s = .next (drain s.cur (s.issued (.link .lresume) w ra.toNat 0 0 none))) ∧
    (∀ w, encode (.lremap ra rb) = some w → s.mayQueue (.link .lremap) [ra.toNat, rb.toNat] →
      exec (.lremap ra rb) s = .next (drain s.cur (s.issued (.link .lremap) w ra.toNat rb.toNat 0 none))) ∧
    (∀ w, encode (.ltrain ra rb) = some w → s.mayQueue (.link .ltrain) [ra.toNat, rb.toNat] →
      exec (.ltrain ra rb) s = .next (drain s.cur (s.issued (.link .ltrain) w ra.toNat rb.toNat 0 none))))

/-- A queue-class instruction issued while entries are held takes the trap of its entry, ILLEGAL reason 9 (R98, R159, R164) -/
def Obligations.HeldQueueTraps : Prop :=
  ∀ (s : State) (w : BitVec 32), s.cur ≠ supvHart → s.me.holding = true →
    let t (op : QOp) (rd ra rb : Nat) (dst : Option Nat) : State :=
      let y := (s.issued op w rd ra rb dst).me
      s.updMe (fun _ => takeTrap y true s.me.nextQsn y.pc { code := 1, i0 := w.setWidth 64, i1 := 9 })
    let may (op : QOp) (regs : List Nat) : Prop := s.me.ready regs = true ∧ s.fenced op.kinds = false
    (∀ (vd : BitVec 5) (va : BitVec 5) (vb : BitVec 5) (m : BitVec 1) (ms : BitVec 3) (ds : BitVec 2),
      may (.vint .add false (vf vd va vb m ms ds 0)) [] → encode (.vadd vd va vb m ms ds) = some w →
      exec (.vadd vd va vb m ms ds) s = .next (t (.vint .add false (vf vd va vb m ms ds 0)) 0 0 0 none)) ∧
    (∀ (vd : BitVec 5) (va : BitVec 5) (vb : BitVec 5) (m : BitVec 1) (ms : BitVec 3) (ds : BitVec 2),
      may (.vperm .gather (vf vd va vb m ms ds 0)) [] → encode (.vgather vd va vb m ms ds) = some w →
      exec (.vgather vd va vb m ms ds) s = .next (t (.vperm .gather (vf vd va vb m ms ds 0)) 0 0 0 none)) ∧
    (∀ (vd : BitVec 5) (va : BitVec 5) (m : BitVec 1) (ms : BitVec 3) (ds : BitVec 2),
      may (.gslice .row false (vf vd va 0 m ms ds 0)) [va.toNat] → encode (.grow vd va m ms ds) = some w →
      exec (.grow vd va m ms ds) s = .next (t (.gslice .row false (vf vd va 0 m ms ds 0)) 0 va.toNat 0 none)) ∧
    (∀ (md : BitVec 7) (ma : BitVec 7) (mb : BitVec 7),
      may (.mask .and md.toNat ma.toNat mb.toNat) [] → encode (.mand md ma mb) = some w →
      exec (.mand md ma mb) s = .next (t (.mask .and md.toNat ma.toNat mb.toNat) 0 0 0 none)) ∧
    (
      may (.tsync) [] → encode (.tsync) = some w →
      exec (.tsync) s = .next (t (.tsync) 0 0 0 none)) ∧
    (∀ (qn : BitVec 5) (ra : BitVec 5) (ds : BitVec 2),
      may (.strm .sopen qn.toNat 0 0 ds.toNat) [ra.toNat] → encode (.sopen qn ra ds) = some w →
      exec (.sopen qn ra ds) s = .next (t (.strm .sopen qn.toNat 0 0 ds.toNat) 0 ra.toNat 0 none)) ∧
    (
      may (.copy .cpwait false false 0 0) [] → encode (.cpwait) = some w →
      exec (.cpwait) s = .next (t (.copy .cpwait false false 0 0) 0 0 0 none)) ∧
    (∀ (ra : BitVec 5) (rb : BitVec 5),
      may (.stor .nring) [ra.toNat, rb.toNat] → encode (.nring ra rb) = some w →
      exec (.nring ra rb) s = .next (t (.stor .nring) ra.toNat rb.toNat 0 none)) ∧
    (∀ (rd : BitVec 5) (ra : BitVec 5) (rb : BitVec 5),
      may (.link .lturn) ([ra.toNat, rb.toNat] ++ Option.toList (some rd.toNat)) → encode (.lturn rd ra rb) = some w →
      exec (.lturn rd ra rb) s = .next (t (.link .lturn) 0 ra.toNat rb.toNat (some rd.toNat))) ∧
    (∀ (rd : BitVec 5) (ra : BitVec 5) (rb : BitVec 5),
      may (.beacon .bput) [rd.toNat, ra.toNat, rb.toNat] → encode (.bput rd ra rb) = some w →
      exec (.bput rd ra rb) s = .next (t (.beacon .bput) rd.toNat ra.toNat rb.toNat none))

/-- An entry alone in its queue runs as it issues (the model's order of moves) (R30, R45, R86, R157, R158, R160, R161) -/
def Obligations.EntryRunsAtOnce : Prop :=
  ∀ (s t : State) (op : QOp) (w : BitVec 32) (rd ra rb : Nat) (dst : Option Nat),
    s.me.queue = [] → s.me.lag = false → s.me.run = .running → (op.tileWord && s.me.tileIssue == 0) = false →
    let u := s.issued op w rd ra rb dst
    let v := if u.me.consumes op then u.releaseReads s.cur else u
    ∀ e, u.me.queue = [e] → u.entryShut s.cur e = [] →
    let r := runM (runEntryM e) ({ v with cur := s.cur }.updMe (fun x => { x with p := 0 }))
    (r = (.ok (), t) → t.cur = s.cur →
      (completeEntry t.me e.uid).queue = [] → drain s.cur u = t.updMe (fun x => completeEntry x e.uid)) ∧
    (∀ c, r = (.error (.trap c), t) → t.cur = s.cur →
      (∀ o ∈ t.me.queue, o.uid = e.uid) →
      drain s.cur u = t.updMe (fun x => takeTrap (keepIndex x e.uid) true e.qsn x.pc c))

/-- What the mask logic instructions write, bit by bit (R157, R158, R172, R205) -/
def Obligations.MaskLogicRuns : Prop :=
  ∀ (md ma mb : BitVec 7) (s : State),
    s.cur ≠ supvHart → s.me.ready [] = true → s.me.queue = [] → s.me.lag = false → s.commandsPass →
    let live (i : Nat) : Bool := decide (s.me.vstart.toNat ≤ i) && decide (i < s.me.vl.toNat)
    let ran (t : State) : Prop := t.me.queue = [] ∧ t.me.pc = s.me.pc + 4 ∧ t.me.vstart = 0 ∧ t.me.nextQsn = s.me.nextQsn + 1 ∧
      t.me.sregs = s.me.sregs ∧ (∀ n, n ≠ md.toNat → t.me.mask n = s.me.mask n) ∧ (∀ h, h ≠ s.cur → t.hart h = s.hart h) ∧
      ∀ pa, t.byteAt pa = s.byteAt pa
    (∃ t, exec (.mand md ma mb) s = .next t ∧ ran t ∧
      ∀ i, i < 16384 → (t.me.mask md.toNat).getLsbD i =
        (let a := (s.me.mask ma.toNat).getLsbD i
         let b := (s.me.mask mb.toNat).getLsbD i
         if live i then a && b else (s.me.mask md.toNat).getLsbD i)) ∧
    (∃ t, exec (.mor md ma mb) s = .next t ∧ ran t ∧
      ∀ i, i < 16384 → (t.me.mask md.toNat).getLsbD i =
        (let a := (s.me.mask ma.toNat).getLsbD i
         let b := (s.me.mask mb.toNat).getLsbD i
         if live i then a || b else (s.me.mask md.toNat).getLsbD i)) ∧
    (∃ t, exec (.mxor md ma mb) s = .next t ∧ ran t ∧
      ∀ i, i < 16384 → (t.me.mask md.toNat).getLsbD i =
        (let a := (s.me.mask ma.toNat).getLsbD i
         let b := (s.me.mask mb.toNat).getLsbD i
         if live i then a != b else (s.me.mask md.toNat).getLsbD i)) ∧
    (∃ t, exec (.mandn md ma mb) s = .next t ∧ ran t ∧
      ∀ i, i < 16384 → (t.me.mask md.toNat).getLsbD i =
        (let a := (s.me.mask ma.toNat).getLsbD i
         let b := (s.me.mask mb.toNat).getLsbD i
         if live i then a && !b else (s.me.mask md.toNat).getLsbD i)) ∧
    (∃ t, exec (.morn md ma mb) s = .next t ∧ ran t ∧
      ∀ i, i < 16384 → (t.me.mask md.toNat).getLsbD i =
        (let a := (s.me.mask ma.toNat).getLsbD i
         let b := (s.me.mask mb.toNat).getLsbD i
         if live i then a || !b else (s.me.mask md.toNat).getLsbD i)) ∧
    (∃ t, exec (.mnand md ma mb) s = .next t ∧ ran t ∧
      ∀ i, i < 16384 → (t.me.mask md.toNat).getLsbD i =
        (let a := (s.me.mask ma.toNat).getLsbD i
         let b := (s.me.mask mb.toNat).getLsbD i
         if live i then !(a && b) else (s.me.mask md.toNat).getLsbD i)) ∧
    (∃ t, exec (.mnor md ma mb) s = .next t ∧ ran t ∧
      ∀ i, i < 16384 → (t.me.mask md.toNat).getLsbD i =
        (let a := (s.me.mask ma.toNat).getLsbD i
         let b := (s.me.mask mb.toNat).getLsbD i
         if live i then !(a || b) else (s.me.mask md.toNat).getLsbD i)) ∧
    (∃ t, exec (.mxnor md ma mb) s = .next t ∧ ran t ∧
      ∀ i, i < 16384 → (t.me.mask md.toNat).getLsbD i =
        (let a := (s.me.mask ma.toNat).getLsbD i
         let b := (s.me.mask mb.toNat).getLsbD i
         if live i then a == b else (s.me.mask md.toNat).getLsbD i)) ∧
    (∃ t, exec (.mmv md ma) s = .next t ∧ ran t ∧
      ∀ i, i < 16384 → (t.me.mask md.toNat).getLsbD i =
        (let a := (s.me.mask ma.toNat).getLsbD i
         if live i then a else (s.me.mask md.toNat).getLsbD i)) ∧
    (∃ t, exec (.mnot md ma) s = .next t ∧ ran t ∧
      ∀ i, i < 16384 → (t.me.mask md.toNat).getLsbD i =
        (let a := (s.me.mask ma.toNat).getLsbD i
         if live i then !a else (s.me.mask md.toNat).getLsbD i)) ∧
    (∃ t, exec (.mset md) s = .next t ∧ ran t ∧
      ∀ i, i < 16384 → (t.me.mask md.toNat).getLsbD i =
        (if live i then true else (s.me.mask md.toNat).getLsbD i)) ∧
    (∃ t, exec (.mclr md) s = .next t ∧ ran t ∧
      ∀ i, i < 16384 → (t.me.mask md.toNat).getLsbD i =
        (if live i then false else (s.me.mask md.toNat).getLsbD i))

/-- What MPOPC and MFIRST write, and what TZERO leaves in the grid (R157, R158, R205, R208, R282, R288, R291) -/
def Obligations.MaskCounts : Prop :=
  (∀ (md ma : BitVec 7) (s : State),
    s.cur ≠ supvHart → s.me.ready [md.toNat] = true → s.me.queue = [] → s.me.lag = false → s.commandsPass →
    let live := (List.range (Nat.min s.me.vl.toNat 16384)).filter (fun i => (s.me.mask ma.toNat).getLsbD i)
    let first : Word := match live with
      | k :: _ => BitVec.ofNat 64 k
      | [] => BitVec.allOnes 64
    (∃ t, exec (.mpopc md ma) s = .next t ∧ t.me.s md.toNat = (if md = 0 then 0 else BitVec.ofNat 64 live.length) ∧
      t.me.queue = [] ∧ t.me.pc = s.me.pc + 4 ∧ t.me.masks = s.me.masks ∧ ∀ r, r ≠ md.toNat → t.me.s r = s.me.s r) ∧
    (∃ t, exec (.mfirst md ma) s = .next t ∧ t.me.s md.toNat = (if md = 0 then 0 else first) ∧
      t.me.queue = [] ∧ t.me.pc = s.me.pc + 4 ∧ t.me.masks = s.me.masks ∧ ∀ r, r ≠ md.toNat → t.me.s r = s.me.s r)) ∧
  (∀ (acc : BitVec 5) (ds : BitVec 2) (s : State), acc.toNat < 8 →
    let dies := s.dies (s.me.dsel ds.toNat)
    let window := (s.me.tileCols.drop (64 * acc.toNat)).take s.me.tn
    s.cur ≠ supvHart → s.me.ready [] = true → s.me.queue = [] → s.me.lag = false → s.commandsPass →
    s.me.run = .running → s.me.laneRetired = false → s.me.tile ≠ 0 → s.me.tileIssue ≠ 0 →
    s.me.tm ≠ 0 → 64 * dies.length = s.me.tm → 64 * acc.toNat + s.me.tn ≤ s.me.tileCols.length →
    ∃ t, exec (.tzero acc ds) s = .next t ∧ t.me.queue = [] ∧ t.me.pc = s.me.pc + 4 ∧ t.me.vstart = 0 ∧
      t.me.masks = s.me.masks ∧ t.me.sregs = s.me.sregs ∧ (∀ pa, t.byteAt pa = s.byteAt pa) ∧
      (∀ d ∈ dies, ∀ l, l < 64 → s.rowOn (coreOf s.cur) (64 * d + l) = true → ∀ c ∈ window,
        t.cell (cellKey (coreOf s.cur) (64 * d + l) c) = 0) ∧
      (∀ key, (∀ d ∈ dies, ∀ l, l < 64 → s.rowOn (coreOf s.cur) (64 * d + l) = true → ∀ c ∈ window,
        key ≠ cellKey (coreOf s.cur) (64 * d + l) c) → t.cell key = s.cell key))

/-- What the integer vector operations give for an element (R179) -/
def Obligations.VectorIntegerElements : Prop :=
  ∀ (w a b : Nat), w ∈ [8, 16, 32, 64] → a < 2 ^ w → b < 2 ^ w →
    let x := BitVec.ofNat w a
    let y := BitVec.ofNat w b
    intFn .add w a b = (x + y).toNat ∧ intFn .sub w a b = (x - y).toNat ∧ intFn .subr w a b = (y - x).toNat ∧
    intFn .mul w a b = (x * y).toNat ∧
    intFn .mulh w a b = ((x.signExtend (2 * w) * y.signExtend (2 * w)).extractLsb' w w).toNat ∧
    intFn .mulhu w a b = ((x.setWidth (2 * w) * y.setWidth (2 * w)).extractLsb' w w).toNat ∧
    intFn .min w a b = (if x.slt y then a else b) ∧ intFn .max w a b = (if x.slt y then b else a) ∧
    intFn .minu w a b = Nat.min a b ∧ intFn .maxu w a b = Nat.max a b ∧
    intFn .and w a b = (x &&& y).toNat ∧ intFn .or w a b = (x ||| y).toNat ∧ intFn .xor w a b = (x ^^^ y).toNat ∧
    intFn .sll w a b = (x <<< (b % w)).toNat ∧ intFn .srl w a b = (x >>> (b % w)).toNat ∧
    intFn .sra w a b = (x.sshiftRight (b % w)).toNat

/-- What KLAUNCH, KWAIT, CTXSAVE and CTXLOAD do (R384, R389, R390, R404) -/
def Obligations.ContextResults : Prop :=
  (∀ (rd ra : BitVec 5) (s t u : State) (v r : Nat),
    s.me.ready [rd.toNat, ra.toNat] = true → s.fenced 1 = false → (s.reg ra).toNat % 64 = 0 →
    s.fenceBusy s.cur (s.me.fenceFrom 0b01111 0 2) = false →
    s.reads (s.reg ra) 64 v t → t.attempt (hartFlit t.cur) (deviceLaunch s.me (BitVec.ofNat 512 v)) = (some r, u) →
    exec (.klaunch rd ra) s = .next (u.put rd (BitVec.ofNat 64 r))) ∧
  (∀ (x : Hart) (b : BitVec 512) (s t : State),
    (b.extractLsb' 384 128 ≠ 0 ∨ b.extractLsb' 320 64 = 0 → deviceLaunch x b s = (2 ^ 63 + 0x82, s)) ∧
    (b.extractLsb' 384 128 = 0 → b.extractLsb' 320 64 ≠ 0 →
      (∀ st v, checkLaunch x.tenant (b <<< 128) none s = (.error (st, v), t) → deviceLaunch x b s = (2 ^ 63 + st, t)) ∧
      (∀ l, checkLaunch x.tenant (b <<< 128) none s = (.ok l, t) → (deviceLaunch x b s).1 < 2 ^ 63))) ∧
  (∀ (ra : BitVec 5) (s : State), s.me.ready [ra.toNat] = true → s.launchUnder s.me.tenant (s.reg ra).toNat = false →
    exec (.kwait ra) s = .next s.past) ∧
  (∀ (ra : BitVec 5) (s t u z : State) (rq st : Nat),
    s.me.super = true → s.me.ready [ra.toNat] = true → s.fenced 3 = false → (s.reg ra).toNat % 16 = 0 →
    s.reads (s.reg ra) 16 rq t → (∀ p, s.me.ctx = some p → p.1 ≠ rq % 2 ^ 64) →
    (u.updMe (fun x => { x with ctx := some (rq % 2 ^ 64, some st) })).writes (s.reg ra + 9) 1 st z →
    (t.attempt (hartFlit t.cur) (askSuspend (rq / 2 ^ 64 % 256) (rq % 2 ^ 64) (.hart t.cur)) = (some (some st), u) →
      exec (.ctxsave ra) s = .next (z.updMe (fun x => { x with ctx := none }.adv))) ∧
    (t.attempt (hartFlit t.cur) (askResume (rq / 2 ^ 64 % 256) (rq % 2 ^ 64) 0 0 (.hart t.cur)) = (some (some st), u) →
      exec (.ctxload ra) s = .next (z.updMe (fun x => { x with ctx := none }.adv)))) ∧
  (∀ (ra : BitVec 5) (s t u z : State) (rq st : Nat),
    s.me.super = true → s.me.ready [ra.toNat] = true → s.fenced 3 = false → (s.reg ra).toNat % 16 = 0 →
    s.reads (s.reg ra) 16 rq t →
    ((∀ p, s.me.ctx = some p → p.1 ≠ rq % 2 ^ 64) →
      (t.attempt (hartFlit t.cur) (askSuspend (rq / 2 ^ 64 % 256) (rq % 2 ^ 64) (.hart t.cur)) = (some none, u) →
        exec (.ctxsave ra) s = .next (u.updMe (fun x => { x with ctx := some (rq % 2 ^ 64, none) }))) ∧
      (t.attempt (hartFlit t.cur) (askResume (rq / 2 ^ 64 % 256) (rq % 2 ^ 64) 0 0 (.hart t.cur)) = (some none, u) →
        exec (.ctxload ra) s = .next (u.updMe (fun x => { x with ctx := some (rq % 2 ^ 64, none) })))) ∧
    (s.me.ctx = some (rq % 2 ^ 64, some st) → t.writes (s.reg ra + 9) 1 st z →
      exec (.ctxsave ra) s = .next (z.updMe (fun x => { x with ctx := none }.adv)) ∧
      exec (.ctxload ra) s = .next (z.updMe (fun x => { x with ctx := none }.adv))))

/-- What SVRD, SVWR, WARM and WDISARM do (R418, R419, R424) -/
def Obligations.SupervisorResults : Prop :=
  (∀ (rd ra : BitVec 5) (s t : State) (v : Nat), s.me.super = true → s.me.ready [rd.toNat, ra.toNat] = true →
    (s.fenced 1 = false → (s.reg ra).toNat % 8 = 0 → physRead s.supvAccess (s.reg ra).toNat 8 .load s = (.ok v, t) →
      exec (.svrd rd ra) s = .next (t.put rd (BitVec.ofNat 64 v))) ∧
    (s.fenced 2 = false → (s.reg rd).toNat % 8 = 0 →
      physWrite s.supvAccess (s.reg rd).toNat 8 (s.reg ra).toNat .store s = (.ok (), t) →
      exec (.svwr rd ra) s = .next t.past)) ∧
  (∀ (ra : BitVec 5) (n : BitVec 2) (s t : State) (v : Nat) (w : WatchPt), s.me.super = true →
    (s.me.ready [ra.toNat] = true → s.fenced 1 = false → (s.reg ra).toNat % 16 = 0 → s.reads (s.reg ra) 16 v t →
      watchOf t v = some w →
      t.fenceBusy t.cur (t.me.fenceFrom 0b11111 0 2) = false →
      exec (.warm ra n) s =
        .next { t with watch := smPut t.watch n.toNat w, watchReg := smSet 0 t.watchReg n.toNat 0 }.past) ∧
    (s.me.ready [] = true →
      s.fenceBusy s.cur (s.me.fenceFrom 0b11111 0 2) = false →
      exec (.wdisarm n) s = .next { s with watch := smErase s.watch n.toNat }.past))

/-- What the events of harts, queues, streams, copies, drives and links do (R153, R160, R338, R339, R340, R345, R354, R357, 04_control_core.md, 06_stream_unit.md, 07_copy_engines.md, 09_storage_engine.md) -/
def Obligations.UnitEvents : Prop :=
  (∀ (hart : Nat) (s : State), s.boot.fatal = false → exec (.trapEntry hart) s = .next (takeOutside hart s)) ∧
  (∀ (hart : Nat) (s : State), s.boot.fatal = false → exec (.entryComplete hart) s = .next (completeOldest hart s)) ∧
  (∀ (hart : Nat) (s : State), s.boot.fatal = false → exec (.barWaitEnd hart) s = .next (barEnds hart s)) ∧
  (∀ (hart : Nat) (s : State), s.boot.fatal = false → exec (.yieldExpiry hart) s = .next (yieldEnds hart s)) ∧
  (∀ (hart : Nat) (q : Nat) (pos : Nat) (s : State), s.boot.fatal = false → exec (.streamFetch hart q pos) s = .next (streamFetch hart q pos s)) ∧
  (∀ (hart : Nat) (q : Nat) (pos : Nat) (s : State), s.boot.fatal = false → exec (.streamStoreWrite hart q pos) s = .next (streamStoreWrite hart q pos false s)) ∧
  (∀ (hart : Nat) (q : Nat) (engine : Nat) (s : State), s.boot.fatal = false → exec (.sgatherRow hart q engine) s = .next (sgatherRow hart q engine s)) ∧
  (∀ (hart : Nat) (uid : Nat) (pos : Nat) (engine : Nat) (s : State), s.boot.fatal = false → exec (.copyChunk hart uid pos engine) s = .next (copyChunk hart uid pos engine s)) ∧
  (∀ (port : Nat) (rid : BitVec 16) (addr : BitVec 64) (write : Bool) (len : Nat) (data : List (BitVec 8)) (s : State), s.boot.fatal = false → exec (.driveRequest port rid addr write len data) s = .next (driveServe port rid addr write len data s)) ∧
  (∀ (handle : Nat) (s : State), s.boot.fatal = false → exec (.pairError handle) s = .next (pairFails handle s)) ∧
  (∀ (link : Nat) (s : State), s.boot.fatal = false → link < 14 → exec (.turnBegin link) s = .next (turnBegin link s)) ∧
  (∀ (link : Nat) (toB : Bool) (s : State), s.boot.fatal = false → link < 14 → exec (.autoTurn link toB) s = .next (autoTurn link toB s)) ∧
  (∀ (link : Nat) (s : State), s.boot.fatal = false → link < 14 → exec (.turnDrainEnd link) s = .next (turnDrainEnd link s)) ∧
  (∀ (link : Nat) (s : State), s.boot.fatal = false → link < 14 → exec (.turnDeadTimeEnd link) s = .next (turnDeadTimeEnd link s)) ∧
  (∀ (link : Nat) (s : State), s.boot.fatal = false → link < 14 → exec (.linkPaused link) s = .next (linkPaused link s)) ∧
  (∀ (link : Nat) (failed : BitVec 8) (badSpares : BitVec 32) (s : State), s.boot.fatal = false → link < 14 → exec (.ltrainDone link failed badSpares) s = .next (ltrainDone link failed badSpares s)) ∧
  (∀ (link : Nat) (group : Nat) (lane : Nat) (again : Bool) (s : State), s.boot.fatal = false → link < 14 → exec (.flitReplay link group lane again) s = .next (flitReplay link group lane again s)) ∧
  (∀ (hart : Nat) (s : State), s.boot.fatal = false → ∃ t, exec (.yieldExpiry hart) s = .next t ∧ t.yielding hart = false) ∧
  (∀ (link : Nat) (s : State), s.boot.fatal = false → link < 14 → (s.link link).state = 1 → (s.link link).turn = none →
    ∃ t, exec (.linkPaused link) s = .next t ∧ (t.link link).state = 2 ∧ ∀ k, k ≠ link → t.link k = s.link k) ∧
  (∀ (link : Nat) (s : State) (w : TurnReq), s.boot.fatal = false → link < 14 →
    (s.link link).state = 0 → (s.link link).turn = none → (s.link link).winner = some w →
    let k := s.link link
    let n := k.clamp w.n (s.facing link).1 (s.facing link).2
    ∃ t, exec (.turnBegin link) s = .next t ∧ (t.link link).winner = none ∧ (∀ j, j ≠ link → t.link j = s.link j) ∧
      (n = k.nab → (t.link link).turn = none ∧ t.cycle = s.cycle) ∧
      (n ≠ k.nab → ∃ u, (t.link link).turn = some u ∧ u.req = w ∧ u.n = n ∧ (∀ g, g ∈ u.groups ↔ g ∈ k.turners n) ∧
        s.cycle ≤ t.cycle ∧ ∀ g ∈ k.turners n, (k.group g).dwellEnd ≤ t.cycle)) ∧
  (∀ (link : Nat) (s : State) (u : Turn), s.boot.fatal = false → link < 14 →
    (s.link link).turn = some u → u.dead = true → u.groups.Nodup →
    ∃ t, exec (.turnDeadTimeEnd link) s = .next t ∧ t.cycle = s.cycle + 72 ∧ (t.link link).turn = none ∧
      (t.link link).split = u.n ∧ (∀ j, j ≠ link → t.link j = s.link j) ∧
      ∀ g, (t.link link).group g =
        if g ∈ u.groups then { (s.link link).group g with dirB := !((s.link link).group g).dirB, dwellEnd := s.cycle + 72 + 3600 }
        else (s.link link).group g)

/-- What arriving packets, bells and port changes do, with replays counted as the model reads R359 (log entry 35) (R359, R360, R362, R365, R366, R367, R376, R379) -/
def Obligations.BeaconEvents : Prop :=
  (∀ (port : Nat) (pkt : Packet) (s : State), s.boot.fatal = false → exec (.put port pkt) s = .next (packetArrives 1 port pkt s)) ∧
  (∀ (port : Nat) (pkt : Packet) (s : State), s.boot.fatal = false → exec (.getreq port pkt) s = .next (packetArrives 2 port pkt s)) ∧
  (∀ (port : Nat) (pkt : Packet) (s : State), s.boot.fatal = false → exec (.atom port pkt) s = .next (packetArrives 3 port pkt s)) ∧
  (∀ (port : Nat) (pkt : Packet) (s : State), s.boot.fatal = false → exec (.notify port pkt) s = .next (packetArrives 4 port pkt s)) ∧
  (∀ (port : Nat) (pkt : Packet) (s : State), s.boot.fatal = false → exec (.ack port pkt) s = .next (packetArrives 8 port pkt s)) ∧
  (∀ (port : Nat) (pkt : Packet) (s : State), s.boot.fatal = false → exec (.getdata port pkt) s = .next (packetArrives 9 port pkt s)) ∧
  (∀ (port : Nat) (pkt : Packet) (s : State), s.boot.fatal = false → exec (.atomrsp port pkt) s = .next (packetArrives 10 port pkt s)) ∧
  (∀ (port : Nat) (vc : Nat) (gpn : BitVec 12) (s : State), s.boot.fatal = false → exec (.bell port vc gpn) s = .next (bellArrives port vc gpn s)) ∧
  (∀ (port : Nat) (vc : Nat) (gpn : BitVec 12) (s : State), s.boot.fatal = false → exec (.rbell port vc gpn) s = .next (rbellArrives port vc gpn s)) ∧
  (∀ (port : Nat) (again : Bool) (s : State), s.boot.fatal = false → exec (.beaconFlitReplay port again) s = .next (beaconFlitReplay port again s)) ∧
  (∀ (port : Nat) (s : State), s.boot.fatal = false → exec (.portUp port) s = .next (portUp port s)) ∧
  (∀ (port : Nat) (s : State), s.boot.fatal = false → port < 16 →
    (∃ t, exec (.portUp port) s = .next t ∧ t = { s with ports := t.ports } ∧
      (smGet {} t.ports port).up = true ∧ (smGet {} t.ports port).fails = 0 ∧
      ∀ q, q ≠ port → smGet {} t.ports q = smGet {} s.ports q) ∧
    (∀ again, (smGet {} s.ports port).up = true → ∃ t, exec (.beaconFlitReplay port again) s = .next t ∧
      let n := (if again then (smGet {} s.ports port).fails else 0) + 1
      (n ≤ 16 → (smGet {} t.ports port).up = true ∧ (smGet {} t.ports port).fails = n ∧ t = { s with ports := t.ports }) ∧
      (16 < n → (smGet {} t.ports port).up = false ∧ t.supv.portReports = s.supv.portReports ++ [port])))

/-- What the launch sequencer's events and the queue doorbells do, with ENABLE on a frozen device as the model reads R427 (log entry 46) (R380, R382, R391, R397, R401) -/
def Obligations.LaunchQueueEvents : Prop :=
  (∀ (slot : Nat) (s : State), s.boot.fatal = false → exec (.launchBind slot) s = .next (launchBind slot s)) ∧
  (∀ (slot : Nat) (s : State), s.boot.fatal = false → exec (.preEmption slot) s = .next (preEmption slot s)) ∧
  (∀ (slot : Nat) (s : State), s.boot.fatal = false → exec (.contextSave slot) s = .next (contextSave slot s)) ∧
  (∀ (queue : Nat) (s : State), s.boot.fatal = false → queue ≤ 128 → exec (.completionEntryWrite queue) s = .next (writeCompletion queue s)) ∧
  (∀ (queue : Nat) (value : BitVec 64) (s : State), s.boot.fatal = false → queue ≤ 128 → exec (.sqtail queue value) s = .next (sqtailBell queue value s)) ∧
  (∀ (queue : Nat) (value : BitVec 64) (s : State), s.boot.fatal = false → queue ≤ 128 → exec (.cqhead queue value) s = .next (cqheadBell queue value s)) ∧
  (∀ (queue : Nat) (value : BitVec 64) (s : State), queue ≤ 128 → exec (.enable queue value) s = .next (enableWrite queue value s)) ∧
  (∀ (queue : Nat) (value : BitVec 64) (s : State), s.boot.fatal = false → queue ≤ 128 →
    s.serving = true → (s.hq queue).enable = true →
    (value.toNat ≤ (s.hq queue).cqsize → ∃ t, exec (.cqhead queue value) s = .next t ∧ t = { s with hostq := t.hostq } ∧
      t.hq queue = { s.hq queue with cqhead := value.toNat } ∧ ∀ q, q ≠ queue → t.hq q = s.hq q) ∧
    ((s.hq queue).cqsize < value.toNat → exec (.cqhead queue value) s = .next s) ∧
    ((s.hq queue).sqsize < value.toNat → exec (.sqtail queue value) s = .next s)) ∧
  (∀ (queue : Nat) (value : BitVec 64) (s : State), queue ≤ 128 → value.getLsbD 63 = false →
    ∃ t, exec (.enable queue value) s = .next t ∧ t = { s with hostq := t.hostq } ∧ (t.hq queue).enable = false ∧
      (t.hq queue).vector = value.extractLsb' 32 16 ∧ ∀ q, q ≠ queue → t.hq q = s.hq q)

/-- Each host command does its own work when its turn comes (R382, R383, R388, R396, R398, 12_launch_context.md) -/
def Obligations.HostCommands : Prop :=
  ∀ (c : HostCmd) (s : State), s.starts c →
    (c.opcode = 1 → s.unheld c (startTenantCreate c (s.taken c)) → exec (.tenantCreate c) s = .next (startTenantCreate c (s.taken c))) ∧
    (c.opcode = 2 → s.unheld c (startReset false c (s.taken c)) → exec (.tenantReset c) s = .next (startReset false c (s.taken c))) ∧
    (c.opcode = 3 → s.unheld c (startReset true c (s.taken c)) → exec (.tenantDelete c) s = .next (startReset true c (s.taken c))) ∧
    (c.opcode = 4 → s.unheld c (startOwnerSet c (s.taken c)) → exec (.ownerSet c) s = .next (startOwnerSet c (s.taken c))) ∧
    (c.opcode = 5 → s.unheld c (startPairCreate c (s.taken c)) → exec (.pairCreate c) s = .next (startPairCreate c (s.taken c))) ∧
    (c.opcode = 6 → s.unheld c (startPairDelete c (s.taken c)) → exec (.pairDelete c) s = .next (startPairDelete c (s.taken c))) ∧
    (c.opcode = 7 → s.unheld c (startRegionCreate c (s.taken c)) → exec (.regionCreate c) s = .next (startRegionCreate c (s.taken c))) ∧
    (c.opcode = 8 → s.unheld c (startRegionDelete c (s.taken c)) → exec (.regionDelete c) s = .next (startRegionDelete c (s.taken c))) ∧
    (c.opcode = 9 → s.unheld c (startGangCreate c (s.taken c)) → exec (.gangCreate c) s = .next (startGangCreate c (s.taken c))) ∧
    (c.opcode = 10 → s.unheld c (startGangDelete c (s.taken c)) → exec (.gangDelete c) s = .next (startGangDelete c (s.taken c))) ∧
    (c.opcode = 12 → s.unheld c (startSuspend c (s.taken c)) → exec (.launchSuspend c) s = .next (startSuspend c (s.taken c))) ∧
    (c.opcode = 13 → s.unheld c (startResume c (s.taken c)) → exec (.launchResume c) s = .next (startResume c (s.taken c))) ∧
    (c.opcode = 14 → s.unheld c (startDebugGrant c (s.taken c)) → exec (.debugGrant c) s = .next (startDebugGrant c (s.taken c))) ∧
    (c.opcode = 32 → s.unheld c (startLaunch c (s.taken c)) → exec (.launch c) s = .next (startLaunch c (s.taken c))) ∧
    (c.opcode = 33 → s.unheld c (startInvalidate c (s.taken c)) → exec (.invalidate c) s = .next (startInvalidate c (s.taken c))) ∧
    (c.opcode = 35 → s.unheld c (startNop c (s.taken c)) → exec (.nop c) s = .next (startNop c (s.taken c))) ∧
    (c.opcode = 11 → blkField c.block 16 1 ≠ 2 → s.unheld c (gangSave c (s.taken c)) →
      exec (.gangSwitchSave c) s = .next (gangSave c (s.taken c))) ∧
    (c.opcode = 11 → blkField c.block 16 1 = 2 → s.unheld c (gangResume c (s.taken c)) →
      exec (.gangSwitchResume c) s = .next (gangResume c (s.taken c))) ∧
    (c.opcode = 0x22 → blkField c.block 24 1 ≠ 2 → s.unheld c (startFaultReply c (s.taken c)) →
      exec (.faultReplyRetry c) s = .next (startFaultReply c (s.taken c))) ∧
    (c.opcode = 0x22 → blkField c.block 24 1 = 2 → s.unheld c (startFaultReply c (s.taken c)) →
      exec (.faultReplyAbort c) s = .next (startFaultReply c (s.taken c)))

/-- What accepted commands leave (R60, R61, R383, R386, R387, R393, R406, R415, R416, R424) -/
def Obligations.HostCommandResults : Prop :=
  ∀ (c : HostCmd) (s : State),
    let f := blkField c.block
    let t := f 16 1 % 16
    let emptied (p : TlbEntry → Bool) (m m' : SMap (List TlbEntry)) : Prop :=
      (∀ l ∈ m', ∀ e ∈ l.2, p e = false) ∧ ∀ l ∈ m, ∀ e ∈ l.2, p e = false → ∃ l' ∈ m', l'.1 = l.1 ∧ e ∈ l'.2
    (bodyOk c [(16, 1), (24, 34)] = true → f 16 1 < 128 → f 24 8 % 4096 = 0 → f 32 8 % 8192 = 0 → (s.tenant t).status = .none →
      ∃ (u : State) (x : Tenant), startTenantCreate c s = completeWith c 0 0 (u.setTenant t x) ∧ x.status = .active ∧
        x.root = BitVec.ofNat 64 (f 24 8) ∧ x.priomax = f 16 1 / 16 ∧
        u = { s with tlb1 := u.tlb1, tlb2 := u.tlb2, kernels := u.kernels } ∧
        (∀ k, k ∈ u.kernels ↔ k ∈ s.kernels ∧ k.tenant ≠ t) ∧
        emptied (fun e => e.tenant == t) s.tlb1 u.tlb1 ∧ emptied (fun e => e.tenant == t) s.tlb2 u.tlb2) ∧
    (bodyOk c [(16, 2), (24, 12)] = true → f 16 1 < 16 → f 24 8 % 0x200000 = 0 →
      (f 17 1 = 0 → f 32 4 = 0 → (s.tenant (f 16 1)).status ≠ .active → startDebugGrant c s = completeWith c 0x89 0 s) ∧
      (f 17 1 = 0 → f 32 4 = 0 → (s.tenant (f 16 1)).status = .active →
        ∃ u : State, startDebugGrant c s = completeWith c 0 0 u ∧ u = { s with grants := u.grants, watch := u.watch } ∧
          (∀ g, g ∈ u.grants ↔ g ∈ s.grants ∧ g.2.tenant ≠ f 16 1) ∧
          (∀ w, w ∈ u.watch ↔ w ∈ s.watch ∧ ¬ ∃ g ∈ s.grants, g.2.tenant = f 16 1 ∧ g.2.watch = true ∧ w.2.tenant = f 16 1 ∧
            g.2.base ≤ w.2.pa ∧ w.2.pa < g.2.base + g.2.count * 0x200000)) ∧
      (0 < f 17 1 → f 17 1 < 8 → 0 < f 32 4 → s.inDram (f 24 8) = true → s.inDram (f 24 8 + f 32 4 * 0x200000 - 1) = true →
        (s.tenant (f 16 1)).status = .active → (∃ i, i < 16 ∧ smFind s.grants i = none) →
        ∃ (i : Nat) (u : State), i < 16 ∧ smFind s.grants i = none ∧ startDebugGrant c s = completeWith c 0 (BitVec.ofNat 64 i) u ∧
          u = { s with grants := u.grants } ∧
          smFind u.grants i = some { tenant := f 16 1, read := (f 17 1).testBit 0, write := (f 17 1).testBit 1
                                     watch := (f 17 1).testBit 2, base := f 24 8, count := f 32 4 } ∧
          ∀ k, k ≠ i → smFind u.grants k = smFind s.grants k)) ∧
    (bodyOk c [(16, 13)] = true → f 16 8 % 0x200000 = 0 → f 28 1 / 16 % 8 = 0 →
      f 16 8 / 0x200000 + f 24 4 ≤ 0x80000 → (128 ≤ f 28 1 → (s.tenant (f 28 1 % 16)).status = .active) →
      let first := f 16 8 / 0x200000
      let named (k : Nat) : Prop := first ≤ k ∧ k < first + f 24 4
      let v := BitVec.ofNat 8 (f 28 1)
      ∃ u : State, startOwnerSet c s = completeWith c 0 0 u ∧
        u = { s with owners := u.owners, mem := u.mem, splitLock := u.splitLock } ∧
        (∀ k, named k → smGet 0 u.owners k = v) ∧ (∀ k, ¬ named k → smGet 0 u.owners k = smGet 0 s.owners k) ∧
        (∀ pa k, named k → smGet 0 s.owners k ≠ v → s.inUnit k (memKey pa) = true → u.byteAt pa = 0) ∧
        (∀ pa, (∀ k, named k → smGet 0 s.owners k ≠ v → s.inUnit k (memKey pa) = false) → u.byteAt pa = s.byteAt pa) ∧
        (u.splitLock = true ↔ s.splitLock = true ∨ (128 ≤ f 28 1 ∧ ∃ k, named k ∧ smGet 0 s.owners k ≠ v))) ∧
    (∀ q, c.queue = q → (queueTenant q).isSome = true → bodyOk c [(16, 16)] = true → f 16 8 % 4096 = 0 → f 24 8 = 0 →
      ∃ u, startInvalidate c s = completeWith c 0 0 u ∧ u = { s with tlb1 := u.tlb1, tlb2 := u.tlb2, kernels := u.kernels } ∧
        (∀ k, k ∈ u.kernels ↔ k ∈ s.kernels ∧ k.tenant ≠ (queueTenant q).getD 0) ∧
        emptied (fun e => e.tenant == (queueTenant q).getD 0) s.tlb1 u.tlb1 ∧
        emptied (fun e => e.tenant == (queueTenant q).getD 0) s.tlb2 u.tlb2) ∧
    (bodyOk c [] = true → startNop c s = completeWith c 0 0 s)

/-- What boot, attestation, register writes, retirement and power events do, on a frozen device as the model reads R427 (log entries 46 and 47) (R32, R208, R380, R406, R407, R409, R410, R412, R415, R427) -/
def Obligations.SupervisorEvents : Prop :=
  (∀ (value : BitVec 64) (s : State), s.boot.fatal = false → exec (.svnfuse value) s = .next (blowFuses value s)) ∧
  (∀ (core : Nat) (die : Nat) (cluster : Nat) (s : State), s.boot.fatal = false → exec (.clusterRetire core die cluster) s = .next (retireAt core die cluster s)) ∧
  (∀ (entry : Nat) (value : BitVec 8) (s : State), s.boot.fatal = false → exec (.ownerEntryWrite entry value) s = .next (ownerWriteAt entry value s)) ∧
  (∀ (watts : Nat) (s : State), s.boot.fatal = false → exec (.powerClampWindow watts) s = .next (powerWindow watts s)) ∧
  (∀ (die : Nat) (s : State), s.boot.fatal = false → exec (.junctionHot die) s = .next (hotDie die s)) ∧
  (∀ (readError : Bool) (s : State), exec (.bootgo readError) s = .next (bootRun readError s)) ∧
  (∀ s : State, exec .attreq s = .next (attest s) ∧ (attest s).boot.attreq = false ∧ (attest s).harts = s.harts) ∧
  (∀ (die : Nat) (s : State), s.boot.fatal = false → (die = 8 ∨ s.dieOn die = true) →
    ∃ t, exec (.junctionHot die) s = .next t ∧ t = { s with supv := { s.supv with clock := Nat.max 1200 (s.supv.clock - 100) } }) ∧
  (∀ (core die cluster : Nat) (s : State), s.boot.fatal = false → core < 32 → die < 8 → cluster < 4 →
    ∃ t, exec (.clusterRetire core die cluster) s = .next t ∧ (t.laneMask core).getLsbD (4 * die + cluster) = false ∧
      (∀ i, i < 32 → i ≠ 4 * die + cluster → (t.laneMask core).getLsbD i = (s.laneMask core).getLsbD i) ∧
      ∀ c, c ≠ core → t.laneMask c = s.laneMask c) ∧
  (∀ (offset : Nat) (value : BitVec 64) (s : State), exec (.registerWrite offset value) s = .next (registerWrite offset value s)) ∧
  (∀ s : State, s.boot.fatal = true → s.boot.dumpdone = false →
    exec .dumpdone s = .next ({ writeDump s with boot := { (writeDump s).boot with dumpdone := true } }.raiseIrq
      ((writeDump s).hq 0).vector.toNat 0))

/-- Device reset leaves the reset state, but for what is not the device's or is fused (R11, R407, R425) -/
def Obligations.DeviceReset : Prop :=
  ∀ s : State, ∃ t,
    t = { State.reset with
      mem := t.mem
      supv := { State.reset.supv with svn := s.supv.svn, flash := s.supv.flash }
      drives := s.drives, doorbells := s.doorbells, wire := s.wire, irqs := s.irqs
      cur := s.cur, agenda := s.agenda, cycle := s.cycle, free := s.free } ∧
    (∀ pa, t.byteAt pa = if isHost pa then s.byteAt pa else State.reset.byteAt pa) ∧
    exec .powerOn s = .next t ∧
    (∀ v : BitVec 64, v.extractLsb' 0 8 = 0xA5 → exec (.resetkey v) s = .next t) ∧
    ∀ v : BitVec 64, v.extractLsb' 0 8 ≠ 0xA5 → exec (.resetkey v) s = .next s

/-- THERMAL, CD_MEMORY and FATALREQ freeze the device, and the moves listed change nothing of a frozen one, some by the model's choice (log entry 52) (R407, R426, R427, R428) -/
def Obligations.FatalFreeze : Prop :=
  (∀ s : State, s.boot.fatal = false →
    (∀ die, die ≤ 8 → exec (.thermal die) s = .next { s with boot := { s.boot with
      fatal := true, bstate := 4, cause := 4, die := BitVec.ofNat 8 die, fwdead := false, dumpdone := false } }) ∧
    exec .fatalreq s = .next { s with boot := { s.boot with
      fatal := true, bstate := 4, cause := 6, die := 8, fwdead := false, dumpdone := false } } ∧
    (∃ t, exec .cdMemory s = .next t ∧ t = { s with
      mem := (s.dumpHeader 2 8).mem
      irqs := s.irqs ++ [((s.hq 0).vector.toNat, 0)]
      boot := { s.boot with fatal := true, bstate := 4, cause := 2, die := 8, fwdead := true, dumpdone := true } } ∧
      (s.boot.dumpsize = 0 → t.mem = s.mem) ∧
      (∀ q, (∀ i, i < 4096 → i < s.boot.dumpsize.toNat → memKey q ≠ memKey (s.boot.dumpbase.toNat + i)) →
        t.byteAt q = s.byteAt q))) ∧
  (∀ s : State, s.boot.fatal = true →
    exec .fatalreq s = .next s ∧ exec .cdMemory s = .next s ∧ ∀ die, exec (.thermal die) s = .next s) ∧
  (∀ (s : State) (h : Nat), s.boot.fatal = true → h < 128 → runHart h s = .next s) ∧
  (∀ (hart : Nat) (s : State), s.boot.fatal = true → exec (.trapEntry hart) s = .next s) ∧
  (∀ (hart : Nat) (s : State), s.boot.fatal = true → exec (.entryComplete hart) s = .next s) ∧
  (∀ (hart : Nat) (s : State), s.boot.fatal = true → exec (.barWaitEnd hart) s = .next s) ∧
  (∀ (hart : Nat) (s : State), s.boot.fatal = true → exec (.yieldExpiry hart) s = .next s) ∧
  (∀ (hart : Nat) (q : Nat) (pos : Nat) (s : State), s.boot.fatal = true → exec (.streamFetch hart q pos) s = .next s) ∧
  (∀ (hart : Nat) (q : Nat) (pos : Nat) (s : State), s.boot.fatal = true → exec (.streamStoreWrite hart q pos) s = .next s) ∧
  (∀ (hart : Nat) (q : Nat) (engine : Nat) (s : State), s.boot.fatal = true → exec (.sgatherRow hart q engine) s = .next s) ∧
  (∀ (hart : Nat) (uid : Nat) (pos : Nat) (engine : Nat) (s : State), s.boot.fatal = true → exec (.copyChunk hart uid pos engine) s = .next s) ∧
  (∀ (port : Nat) (rid : BitVec 16) (addr : BitVec 64) (write : Bool) (len : Nat) (data : List (BitVec 8)) (s : State), s.boot.fatal = true → exec (.driveRequest port rid addr write len data) s = .next s) ∧
  (∀ (handle : Nat) (s : State), s.boot.fatal = true → exec (.pairError handle) s = .next s) ∧
  (∀ (link : Nat) (s : State), s.boot.fatal = true → exec (.turnBegin link) s = .next s) ∧
  (∀ (link : Nat) (toB : Bool) (s : State), s.boot.fatal = true → exec (.autoTurn link toB) s = .next s) ∧
  (∀ (link : Nat) (s : State), s.boot.fatal = true → exec (.turnDrainEnd link) s = .next s) ∧
  (∀ (link : Nat) (s : State), s.boot.fatal = true → exec (.turnDeadTimeEnd link) s = .next s) ∧
  (∀ (link : Nat) (s : State), s.boot.fatal = true → exec (.linkPaused link) s = .next s) ∧
  (∀ (link : Nat) (failed : BitVec 8) (badSpares : BitVec 32) (s : State), s.boot.fatal = true → exec (.ltrainDone link failed badSpares) s = .next s) ∧
  (∀ (link : Nat) (group : Nat) (lane : Nat) (again : Bool) (s : State), s.boot.fatal = true → exec (.flitReplay link group lane again) s = .next s) ∧
  (∀ (port : Nat) (pkt : Packet) (s : State), s.boot.fatal = true → exec (.put port pkt) s = .next s) ∧
  (∀ (port : Nat) (pkt : Packet) (s : State), s.boot.fatal = true → exec (.getreq port pkt) s = .next s) ∧
  (∀ (port : Nat) (pkt : Packet) (s : State), s.boot.fatal = true → exec (.atom port pkt) s = .next s) ∧
  (∀ (port : Nat) (pkt : Packet) (s : State), s.boot.fatal = true → exec (.notify port pkt) s = .next s) ∧
  (∀ (port : Nat) (pkt : Packet) (s : State), s.boot.fatal = true → exec (.ack port pkt) s = .next s) ∧
  (∀ (port : Nat) (pkt : Packet) (s : State), s.boot.fatal = true → exec (.getdata port pkt) s = .next s) ∧
  (∀ (port : Nat) (pkt : Packet) (s : State), s.boot.fatal = true → exec (.atomrsp port pkt) s = .next s) ∧
  (∀ (port : Nat) (vc : Nat) (gpn : BitVec 12) (s : State), s.boot.fatal = true → exec (.bell port vc gpn) s = .next s) ∧
  (∀ (port : Nat) (vc : Nat) (gpn : BitVec 12) (s : State), s.boot.fatal = true → exec (.rbell port vc gpn) s = .next s) ∧
  (∀ (port : Nat) (again : Bool) (s : State), s.boot.fatal = true → exec (.beaconFlitReplay port again) s = .next s) ∧
  (∀ (port : Nat) (s : State), s.boot.fatal = true → exec (.portUp port) s = .next s) ∧
  (∀ (slot : Nat) (s : State), s.boot.fatal = true → exec (.launchBind slot) s = .next s) ∧
  (∀ (slot : Nat) (s : State), s.boot.fatal = true → exec (.preEmption slot) s = .next s) ∧
  (∀ (slot : Nat) (s : State), s.boot.fatal = true → exec (.contextSave slot) s = .next s) ∧
  (∀ (queue : Nat) (s : State), s.boot.fatal = true → exec (.completionEntryWrite queue) s = .next s) ∧
  (∀ (queue : Nat) (value : BitVec 64) (s : State), s.boot.fatal = true → exec (.sqtail queue value) s = .next s) ∧
  (∀ (queue : Nat) (value : BitVec 64) (s : State), s.boot.fatal = true → exec (.cqhead queue value) s = .next s) ∧
  (∀ (value : BitVec 64) (s : State), s.boot.fatal = true → exec (.svnfuse value) s = .next s) ∧
  (∀ (core : Nat) (die : Nat) (cluster : Nat) (s : State), s.boot.fatal = true → exec (.clusterRetire core die cluster) s = .next s) ∧
  (∀ (entry : Nat) (value : BitVec 8) (s : State), s.boot.fatal = true → exec (.ownerEntryWrite entry value) s = .next s) ∧
  (∀ (watts : Nat) (s : State), s.boot.fatal = true → exec (.powerClampWindow watts) s = .next s) ∧
  (∀ (die : Nat) (s : State), s.boot.fatal = true → exec (.junctionHot die) s = .next s)

/-- A change of an owner entry zeroes its unit (R52, R406, R415) -/
def Obligations.OwnerEntryScrub : Prop :=
  ∀ (s : State) (u : Nat) (v : BitVec 8), s.boot.fatal = false → u < 0x80000 →
    (smGet 0 s.owners u = v &&& 0x8F → exec (.ownerEntryWrite u v) s = .next s) ∧
    (smGet 0 s.owners u ≠ v &&& 0x8F → ∃ t, exec (.ownerEntryWrite u v) s = .next t ∧ smGet 0 t.owners u = v &&& 0x8F ∧
      (∀ k, k ≠ u → smGet 0 t.owners k = smGet 0 s.owners k) ∧
      (∀ pa, t.byteAt pa = if s.inUnit u (memKey pa) then 0 else s.byteAt pa) ∧ t.harts = s.harts ∧ t.grid = s.grid)

/-- What source lines assemble to, and what li builds (R123, R124, R125, R126, R127, R129, R189, R253, 03_encoding.md, 04_control_core.md) -/
def Obligations.AssemblyResults : Prop :=
  ((sourceWords { sym := fun n => if n = "top".toList then some 0 else none, here := 12 }
    "vfadd v4, v5, v6, m3, ds1".toList).toOption = some [0x688535A0] ∧
  (sourceWords { sym := fun n => if n = "top".toList then some 0 else none, here := 12 }
    "ldd s7, -16(s3)".toList).toOption = some [0x30E37FF0] ∧
  (sourceWords { sym := fun n => if n = "top".toList then some 0 else none, here := 12 }
    "loopv s10, s11, 2, 4, top".toList).toOption = some [0x494B6FFD] ∧
  (sourceWords { sym := fun n => if n = "top".toList then some 0 else none, here := 12 }
    "vsetvli s5, s6, bf16, g2, tz".toList).toOption = some [0x8CA60509] ∧
  (sourceWords { sym := fun n => if n = "top".toList then some 0 else none, here := 12 }
    "tmul.bf16.bf16 q0, q1, s0, 0, p".toList).toOption = some [0xB0010400] ∧
  (sourceWords { sym := fun n => if n = "top".toList then some 0 else none, here := 12 }
    "VQUANT.x v12, v4, s8, m2".toList).toOption = some [0x79844514] ∧
  (sourceWords { sym := fun n => if n = "top".toList then some 0 else none, here := 12 }
    "claim s5, (s10), s11".toList).toOption = some [0x38AA5C4C] ∧
  (sourceWords { sym := fun n => if n = "top".toList then some 0 else none, here := 12 }
    "cpy sp:s4, s5, ds1".toList).toOption = some [0xC8850420] ∧
  (sourceWords { sym := fun n => if n = "top".toList then some 0 else none, here := 12 }
    "bar s13, 4 ; four parties".toList).toOption = some [0x4C0D0039]) ∧
  (∀ (rd : BitVec 5) (x : Word), match liWords rd.toNat x with
    | [w] => ∃ i, decode true w = .ok (.addi rd 0 i) ∧ i.signExtend 64 = x
    | [w, w'] => ∃ i j, decode true w = .ok (.lui rd i) ∧ decode true w' = .ok (.addi rd rd j) ∧
        (i.signExtend 64 <<< 16) + j.signExtend 64 = x
    | [w1, w2, w3, w4, w5] => ∃ i j k l, decode true w1 = .ok (.lui rd i) ∧ decode true w2 = .ok (.addi rd rd j) ∧
        decode true w3 = .ok (.slli rd rd 32) ∧ decode true w4 = .ok (.addhi rd rd k) ∧ decode true w5 = .ok (.addi rd rd l) ∧
        (((i.signExtend 64 <<< 16) + j.signExtend 64) <<< 32) + (k.signExtend 64 <<< 16) + l.signExtend 64 = x
    | _ => False)

end
end

