-- ==== Sys2Proof/Laws/Sparse.lean ====
section
/-!
SUPPORT. Sparse maps: reading after writing, and the canonical form that every update keeps.
-/

namespace Sys2Proof.Machine

variable {α : Type}

/-! ### Reading after writing -/

@[simp] theorem smFind_put (m : SMap α) (k i : Nat) (v : α) :
    smFind (smPut m k v) i = if i = k then some v else smFind m i := by
  induction m with
  | nil => simp [smPut, smFind, eq_comm]
  | cons p t ih =>
    obtain ⟨j, w⟩ := p
    unfold smPut
    split
    · simp only [smFind, eq_comm (a := k)]
    · split
      · subst k; by_cases h : i = j <;> simp [smFind, h, eq_comm]
      · rename_i h1 h2
        simp only [smFind, ih]
        by_cases hj : j = i
        · subst hj; simp [Ne.symm h2]
        · simp [hj]

/-- The last write of a key stands. -/
@[simp] theorem smPut_put (m : SMap α) (k : Nat) (v w : α) : smPut (smPut m k v) k w = smPut m k w := by
  induction m with
  | nil => simp [smPut]
  | cons p t ih =>
    obtain ⟨j, x⟩ := p
    by_cases h1 : k < j
    · simp [smPut, h1]
    · by_cases h2 : k = j
      · simp [smPut, h2]
      · simp [smPut, h1, h2, ih]

theorem smFind_filter (m : SMap α) (q : Nat → Bool) (i : Nat) :
    smFind (m.filter (fun p => q p.1)) i = if q i then smFind m i else none := by
  induction m with
  | nil => simp [smFind]
  | cons p t ih =>
    obtain ⟨j, w⟩ := p
    by_cases hq : q j = true
    · simp only [List.filter_cons, hq, if_true, smFind, ih]
      by_cases hj : j = i
      · subst hj; simp [hq]
      · simp [hj]
    · simp only [List.filter_cons, hq, Bool.false_eq_true, if_false, ih, smFind]
      by_cases hj : j = i
      · subst hj; simp [hq]
      · simp [hj]

@[simp] theorem smFind_erase (m : SMap α) (k i : Nat) :
    smFind (smErase m k) i = if i = k then none else smFind m i := by
  have h := smFind_filter m (fun j => decide (j ≠ k)) i
  by_cases hk : i = k <;> simp_all [smErase]

@[simp] theorem smGet_put (d : α) (m : SMap α) (k i : Nat) (v : α) :
    smGet d (smPut m k v) i = if i = k then v else smGet d m i := by
  unfold smGet; rw [smFind_put]; split <;> rfl

@[simp] theorem smGet_set [DecidableEq α] (d : α) (m : SMap α) (k i : Nat) (v : α) :
    smGet d (smSet d m k v) i = if i = k then v else smGet d m i := by
  unfold smSet
  split
  · rename_i h; unfold smGet; rw [smFind_erase]; split <;> simp [h]
  · rw [smGet_put]

/-! ### The canonical form -/

/-- Sorted as a chain of keys. -/
theorem smSorted_cons (j : Nat) (w : α) (t : SMap α) :
    smSorted ((j, w) :: t) = true ↔ (∀ p ∈ t, j < p.1) ∧ smSorted t = true := by
  induction t generalizing j w with
  | nil => simp [smSorted]
  | cons p u ih =>
    obtain ⟨k, x⟩ := p
    have hk := ih k x
    simp only [smSorted, Bool.and_eq_true, decide_eq_true_eq] at hk ⊢
    constructor
    · rintro ⟨h1, h2⟩
      have h3 := (hk.1 h2).1
      refine ⟨?_, h2⟩
      intro p hp
      rcases List.mem_cons.1 hp with rfl | hp
      · exact h1
      · exact Nat.lt_trans h1 (h3 p hp)
    · rintro ⟨h1, h2⟩
      exact ⟨h1 (k, x) (by simp), h2⟩

theorem smSorted_filter (m : SMap α) (q : Nat × α → Bool) (h : smSorted m = true) : smSorted (m.filter q) = true := by
  induction m with
  | nil => rfl
  | cons p t ih =>
    obtain ⟨j, w⟩ := p
    rw [smSorted_cons] at h
    rw [List.filter_cons]
    split
    · rw [smSorted_cons]
      exact ⟨fun p hp => h.1 p (List.mem_of_mem_filter hp), ih h.2⟩
    · exact ih h.2

theorem smPut_mem (m : SMap α) (k : Nat) (v : α) (p : Nat × α) (hp : p ∈ smPut m k v) : p = (k, v) ∨ p ∈ m := by
  induction m with
  | nil => simpa [smPut] using hp
  | cons q t ih =>
    obtain ⟨j, w⟩ := q
    unfold smPut at hp
    split at hp
    · rcases List.mem_cons.1 hp with h | h
      · exact .inl h
      · exact .inr h
    · split at hp
      · rcases List.mem_cons.1 hp with h | h
        · exact .inl h
        · exact .inr (List.mem_cons_of_mem _ h)
      · rcases List.mem_cons.1 hp with h | h
        · exact .inr (by simp [h])
        · rcases ih h with h | h
          · exact .inl h
          · exact .inr (List.mem_cons_of_mem _ h)

theorem smSorted_put (m : SMap α) (k : Nat) (v : α) (h : smSorted m = true) : smSorted (smPut m k v) = true := by
  induction m with
  | nil => rfl
  | cons q t ih =>
    obtain ⟨j, w⟩ := q
    have h' := (smSorted_cons j w t).1 h
    unfold smPut
    split
    · rename_i hk
      rw [smSorted_cons]
      refine ⟨fun p hp => ?_, h⟩
      rcases List.mem_cons.1 hp with rfl | hp
      · exact hk
      · exact Nat.lt_trans hk (h'.1 p hp)
    · split
      · rename_i hk; subst hk
        rw [smSorted_cons]; exact h'
      · rename_i h1 h2
        rw [smSorted_cons]
        refine ⟨fun p hp => ?_, ih h'.2⟩
        rcases smPut_mem t k v p hp with rfl | hp
        · simp only; omega
        · exact h'.1 p hp

variable [DecidableEq α]

theorem smWf_filter (d : α) (m : SMap α) (q : Nat × α → Bool) (h : smWf d m = true) : smWf d (m.filter q) = true := by
  simp only [smWf, Bool.and_eq_true, List.all_eq_true] at h ⊢
  exact ⟨smSorted_filter m q h.1, fun p hp => h.2 p (List.mem_of_mem_filter hp)⟩

/-- A write keeps the canonical form. -/
theorem smWf_set (d : α) (m : SMap α) (k : Nat) (v : α) (h : smWf d m = true) : smWf d (smSet d m k v) = true := by
  unfold smSet
  split
  · exact smWf_filter d m _ h
  · rename_i hv
    simp only [smWf, Bool.and_eq_true, List.all_eq_true] at h ⊢
    refine ⟨smSorted_put m k v h.1, fun p hp => ?_⟩
    rcases smPut_mem m k v p hp with rfl | hp
    · simpa using hv
    · exact h.2 p hp

/-- Two maps of the canonical form that read the same are the same list. -/
theorem smWf_ext (d : α) (m n : SMap α) (hm : smWf d m = true) (hn : smWf d n = true)
    (h : ∀ k, smGet d m k = smGet d n k) : m = n := by
  simp only [smWf, Bool.and_eq_true, List.all_eq_true, decide_eq_true_eq] at hm hn
  induction m generalizing n with
  | nil =>
    cases n with
    | nil => rfl
    | cons q u =>
      obtain ⟨k, x⟩ := q
      have := h k
      simp only [smGet, smFind, if_true, Option.getD] at this
      exact absurd this.symm (by simpa using hn.2 (k, x) (by simp))
  | cons p t ih =>
    obtain ⟨j, w⟩ := p
    have hw : w ≠ d := by simpa using hm.2 (j, w) (by simp)
    have hs := (smSorted_cons j w t).1 hm.1
    cases n with
    | nil =>
      have := h j
      simp only [smGet, smFind, if_true, Option.getD] at this
      exact absurd this hw
    | cons q u =>
      obtain ⟨k, x⟩ := q
      have hx : x ≠ d := by simpa using hn.2 (k, x) (by simp)
      have hu := (smSorted_cons k x u).1 hn.1
      have absent : ∀ (l : SMap α) (b i : Nat), (∀ p ∈ l, b < p.1) → i ≤ b → smFind l i = none := by
        intro l b i hl hi
        induction l with
        | nil => rfl
        | cons r v ihl =>
          obtain ⟨a, y⟩ := r
          have := hl (a, y) (by simp)
          have hne : a ≠ i := by simp only at this; omega
          simp only [smFind, hne, if_false]
          exact ihl (fun p hp => hl p (List.mem_cons_of_mem _ hp))
      have hjk : j = k := by
        rcases Nat.lt_trichotomy j k with hlt | heq | hgt
        · have := h j
          have hne : k ≠ j := by omega
          simp only [smGet, smFind, if_true, Option.getD, hne, if_false, absent u k j hu.1 (by omega)] at this
          exact absurd this hw
        · exact heq
        · have := h k
          have hne : j ≠ k := by omega
          simp only [smGet, smFind, if_true, Option.getD, hne, if_false, absent t j k hs.1 (by omega)] at this
          exact absurd this.symm hx
      subst hjk
      have hwx : w = x := by
        have := h j
        simpa only [smGet, smFind, if_true, Option.getD] using this
      subst hwx
      have htu : t = u := by
        refine ih u (fun i => ?_) ⟨hs.2, fun p hp => hm.2 p (List.mem_cons_of_mem _ hp)⟩
          ⟨hu.2, fun p hp => hn.2 p (List.mem_cons_of_mem _ hp)⟩
        by_cases hij : j = i
        · subst hij
          simp only [smGet, absent t j j hs.1 (Nat.le_refl _), absent u j j hu.1 (Nat.le_refl _)]
        · have := h i
          simpa only [smGet, smFind, hij, if_false] using this
      rw [htu]

end Sys2Proof.Machine
end

