-- ==== Sys2Proof/Laws/State.lean ====
section
/-!
SUPPORT. What an update of the state leaves alone: one lemma for each field and each update, so that no proof unfolds a record
update.
-/

namespace Sys2Proof.Machine

/-! ### setHart -/

@[simp] theorem setHart_cur (s : State) (h : Nat) (x : Hart) : (s.setHart h x).cur = s.cur := rfl
@[simp] theorem setHart_agenda (s : State) (h : Nat) (x : Hart) : (s.setHart h x).agenda = s.agenda := rfl
@[simp] theorem setHart_cycle (s : State) (h : Nat) (x : Hart) : (s.setHart h x).cycle = s.cycle := rfl
@[simp] theorem setHart_free (s : State) (h : Nat) (x : Hart) : (s.setHart h x).free = s.free := rfl
@[simp] theorem setHart_harts (s : State) (h : Nat) (x : Hart) : (s.setHart h x).harts = smPut s.harts h x := rfl
@[simp] theorem setHart_cores (s : State) (h : Nat) (x : Hart) : (s.setHart h x).cores = s.cores := rfl
@[simp] theorem setHart_grid (s : State) (h : Nat) (x : Hart) : (s.setHart h x).grid = s.grid := rfl
@[simp] theorem setHart_gridGen (s : State) (h : Nat) (x : Hart) : (s.setHart h x).gridGen = s.gridGen := rfl
@[simp] theorem setHart_badCells (s : State) (h : Nat) (x : Hart) : (s.setHart h x).badCells = s.badCells := rfl
@[simp] theorem setHart_softCells (s : State) (h : Nat) (x : Hart) : (s.setHart h x).softCells = s.softCells := rfl
@[simp] theorem setHart_spad (s : State) (h : Nat) (x : Hart) : (s.setHart h x).spad = s.spad := rfl
@[simp] theorem setHart_full (s : State) (h : Nat) (x : Hart) : (s.setHart h x).full = s.full := rfl
@[simp] theorem setHart_mem (s : State) (h : Nat) (x : Hart) : (s.setHart h x).mem = s.mem := rfl
@[simp] theorem setHart_split (s : State) (h : Nat) (x : Hart) : (s.setHart h x).split = s.split := rfl
@[simp] theorem setHart_splitLock (s : State) (h : Nat) (x : Hart) : (s.setHart h x).splitLock = s.splitLock := rfl
@[simp] theorem setHart_owners (s : State) (h : Nat) (x : Hart) : (s.setHart h x).owners = s.owners := rfl
@[simp] theorem setHart_denyLog (s : State) (h : Nat) (x : Hart) : (s.setHart h x).denyLog = s.denyLog := rfl
@[simp] theorem setHart_denyCount (s : State) (h : Nat) (x : Hart) : (s.setHart h x).denyCount = s.denyCount := rfl
@[simp] theorem setHart_errCount (s : State) (h : Nat) (x : Hart) : (s.setHart h x).errCount = s.errCount := rfl
@[simp] theorem setHart_tlb1 (s : State) (h : Nat) (x : Hart) : (s.setHart h x).tlb1 = s.tlb1 := rfl
@[simp] theorem setHart_tlb2 (s : State) (h : Nat) (x : Hart) : (s.setHart h x).tlb2 = s.tlb2 := rfl
@[simp] theorem setHart_memBad (s : State) (h : Nat) (x : Hart) : (s.setHart h x).memBad = s.memBad := rfl
@[simp] theorem setHart_tenants (s : State) (h : Nat) (x : Hart) : (s.setHart h x).tenants = s.tenants := rfl
@[simp] theorem setHart_grants (s : State) (h : Nat) (x : Hart) : (s.setHart h x).grants = s.grants := rfl
@[simp] theorem setHart_watch (s : State) (h : Nat) (x : Hart) : (s.setHart h x).watch = s.watch := rfl
@[simp] theorem setHart_watchReg (s : State) (h : Nat) (x : Hart) : (s.setHart h x).watchReg = s.watchReg := rfl
@[simp] theorem setHart_dmaw (s : State) (h : Nat) (x : Hart) : (s.setHart h x).dmaw = s.dmaw := rfl
@[simp] theorem setHart_pairs (s : State) (h : Nat) (x : Hart) : (s.setHart h x).pairs = s.pairs := rfl
@[simp] theorem setHart_doorbells (s : State) (h : Nat) (x : Hart) : (s.setHart h x).doorbells = s.doorbells := rfl
@[simp] theorem setHart_driveReplies (s : State) (h : Nat) (x : Hart) : (s.setHart h x).driveReplies = s.driveReplies := rfl
@[simp] theorem setHart_drives (s : State) (h : Nat) (x : Hart) : (s.setHart h x).drives = s.drives := rfl
@[simp] theorem setHart_driveWait (s : State) (h : Nat) (x : Hart) : (s.setHart h x).driveWait = s.driveWait := rfl
@[simp] theorem setHart_links (s : State) (h : Nat) (x : Hart) : (s.setHart h x).links = s.links := rfl
@[simp] theorem setHart_flits (s : State) (h : Nat) (x : Hart) : (s.setHart h x).flits = s.flits := rfl
@[simp] theorem setHart_parts (s : State) (h : Nat) (x : Hart) : (s.setHart h x).parts = s.parts := rfl
@[simp] theorem setHart_ports (s : State) (h : Nat) (x : Hart) : (s.setHart h x).ports = s.ports := rfl
@[simp] theorem setHart_wire (s : State) (h : Nat) (x : Hart) : (s.setHart h x).wire = s.wire := rfl
@[simp] theorem setHart_spDirty (s : State) (h : Nat) (x : Hart) : (s.setHart h x).spDirty = s.spDirty := rfl
@[simp] theorem setHart_hostq (s : State) (h : Nat) (x : Hart) : (s.setHart h x).hostq = s.hostq := rfl
@[simp] theorem setHart_launches (s : State) (h : Nat) (x : Hart) : (s.setHart h x).launches = s.launches := rfl
@[simp] theorem setHart_launchGen (s : State) (h : Nat) (x : Hart) : (s.setHart h x).launchGen = s.launchGen := rfl
@[simp] theorem setHart_kernels (s : State) (h : Nat) (x : Hart) : (s.setHart h x).kernels = s.kernels := rfl
@[simp] theorem setHart_arrivals (s : State) (h : Nat) (x : Hart) : (s.setHart h x).arrivals = s.arrivals := rfl
@[simp] theorem setHart_bindings (s : State) (h : Nat) (x : Hart) : (s.setHart h x).bindings = s.bindings := rfl
@[simp] theorem setHart_lastTenant (s : State) (h : Nat) (x : Hart) : (s.setHart h x).lastTenant = s.lastTenant := rfl
@[simp] theorem setHart_resets (s : State) (h : Nat) (x : Hart) : (s.setHart h x).resets = s.resets := rfl
@[simp] theorem setHart_emu (s : State) (h : Nat) (x : Hart) : (s.setHart h x).emu = s.emu := rfl
@[simp] theorem setHart_patched (s : State) (h : Nat) (x : Hart) : (s.setHart h x).patched = s.patched := rfl
@[simp] theorem setHart_diedis (s : State) (h : Nat) (x : Hart) : (s.setHart h x).diedis = s.diedis := rfl
@[simp] theorem setHart_boot (s : State) (h : Nat) (x : Hart) : (s.setHart h x).boot = s.boot := rfl
@[simp] theorem setHart_supv (s : State) (h : Nat) (x : Hart) : (s.setHart h x).supv = s.supv := rfl
@[simp] theorem setHart_irqs (s : State) (h : Nat) (x : Hart) : (s.setHart h x).irqs = s.irqs := rfl

/-! ### updHart -/

@[simp] theorem updHart_cur (s : State) (h : Nat) (f : Hart → Hart) : (s.updHart h f).cur = s.cur := rfl
@[simp] theorem updHart_agenda (s : State) (h : Nat) (f : Hart → Hart) : (s.updHart h f).agenda = s.agenda := rfl
@[simp] theorem updHart_cycle (s : State) (h : Nat) (f : Hart → Hart) : (s.updHart h f).cycle = s.cycle := rfl
@[simp] theorem updHart_free (s : State) (h : Nat) (f : Hart → Hart) : (s.updHart h f).free = s.free := rfl
@[simp] theorem updHart_harts (s : State) (h : Nat) (f : Hart → Hart) : (s.updHart h f).harts = smPut s.harts h (f (s.hart h)) := rfl
@[simp] theorem updHart_cores (s : State) (h : Nat) (f : Hart → Hart) : (s.updHart h f).cores = s.cores := rfl
@[simp] theorem updHart_grid (s : State) (h : Nat) (f : Hart → Hart) : (s.updHart h f).grid = s.grid := rfl
@[simp] theorem updHart_gridGen (s : State) (h : Nat) (f : Hart → Hart) : (s.updHart h f).gridGen = s.gridGen := rfl
@[simp] theorem updHart_badCells (s : State) (h : Nat) (f : Hart → Hart) : (s.updHart h f).badCells = s.badCells := rfl
@[simp] theorem updHart_softCells (s : State) (h : Nat) (f : Hart → Hart) : (s.updHart h f).softCells = s.softCells := rfl
@[simp] theorem updHart_spad (s : State) (h : Nat) (f : Hart → Hart) : (s.updHart h f).spad = s.spad := rfl
@[simp] theorem updHart_full (s : State) (h : Nat) (f : Hart → Hart) : (s.updHart h f).full = s.full := rfl
@[simp] theorem updHart_mem (s : State) (h : Nat) (f : Hart → Hart) : (s.updHart h f).mem = s.mem := rfl
@[simp] theorem updHart_split (s : State) (h : Nat) (f : Hart → Hart) : (s.updHart h f).split = s.split := rfl
@[simp] theorem updHart_splitLock (s : State) (h : Nat) (f : Hart → Hart) : (s.updHart h f).splitLock = s.splitLock := rfl
@[simp] theorem updHart_owners (s : State) (h : Nat) (f : Hart → Hart) : (s.updHart h f).owners = s.owners := rfl
@[simp] theorem updHart_denyLog (s : State) (h : Nat) (f : Hart → Hart) : (s.updHart h f).denyLog = s.denyLog := rfl
@[simp] theorem updHart_denyCount (s : State) (h : Nat) (f : Hart → Hart) : (s.updHart h f).denyCount = s.denyCount := rfl
@[simp] theorem updHart_errCount (s : State) (h : Nat) (f : Hart → Hart) : (s.updHart h f).errCount = s.errCount := rfl
@[simp] theorem updHart_tlb1 (s : State) (h : Nat) (f : Hart → Hart) : (s.updHart h f).tlb1 = s.tlb1 := rfl
@[simp] theorem updHart_tlb2 (s : State) (h : Nat) (f : Hart → Hart) : (s.updHart h f).tlb2 = s.tlb2 := rfl
@[simp] theorem updHart_memBad (s : State) (h : Nat) (f : Hart → Hart) : (s.updHart h f).memBad = s.memBad := rfl
@[simp] theorem updHart_tenants (s : State) (h : Nat) (f : Hart → Hart) : (s.updHart h f).tenants = s.tenants := rfl
@[simp] theorem updHart_grants (s : State) (h : Nat) (f : Hart → Hart) : (s.updHart h f).grants = s.grants := rfl
@[simp] theorem updHart_watch (s : State) (h : Nat) (f : Hart → Hart) : (s.updHart h f).watch = s.watch := rfl
@[simp] theorem updHart_watchReg (s : State) (h : Nat) (f : Hart → Hart) : (s.updHart h f).watchReg = s.watchReg := rfl
@[simp] theorem updHart_dmaw (s : State) (h : Nat) (f : Hart → Hart) : (s.updHart h f).dmaw = s.dmaw := rfl
@[simp] theorem updHart_pairs (s : State) (h : Nat) (f : Hart → Hart) : (s.updHart h f).pairs = s.pairs := rfl
@[simp] theorem updHart_doorbells (s : State) (h : Nat) (f : Hart → Hart) : (s.updHart h f).doorbells = s.doorbells := rfl
@[simp] theorem updHart_driveReplies (s : State) (h : Nat) (f : Hart → Hart) : (s.updHart h f).driveReplies = s.driveReplies := rfl
@[simp] theorem updHart_drives (s : State) (h : Nat) (f : Hart → Hart) : (s.updHart h f).drives = s.drives := rfl
@[simp] theorem updHart_driveWait (s : State) (h : Nat) (f : Hart → Hart) : (s.updHart h f).driveWait = s.driveWait := rfl
@[simp] theorem updHart_links (s : State) (h : Nat) (f : Hart → Hart) : (s.updHart h f).links = s.links := rfl
@[simp] theorem updHart_flits (s : State) (h : Nat) (f : Hart → Hart) : (s.updHart h f).flits = s.flits := rfl
@[simp] theorem updHart_parts (s : State) (h : Nat) (f : Hart → Hart) : (s.updHart h f).parts = s.parts := rfl
@[simp] theorem updHart_ports (s : State) (h : Nat) (f : Hart → Hart) : (s.updHart h f).ports = s.ports := rfl
@[simp] theorem updHart_wire (s : State) (h : Nat) (f : Hart → Hart) : (s.updHart h f).wire = s.wire := rfl
@[simp] theorem updHart_spDirty (s : State) (h : Nat) (f : Hart → Hart) : (s.updHart h f).spDirty = s.spDirty := rfl
@[simp] theorem updHart_hostq (s : State) (h : Nat) (f : Hart → Hart) : (s.updHart h f).hostq = s.hostq := rfl
@[simp] theorem updHart_launches (s : State) (h : Nat) (f : Hart → Hart) : (s.updHart h f).launches = s.launches := rfl
@[simp] theorem updHart_launchGen (s : State) (h : Nat) (f : Hart → Hart) : (s.updHart h f).launchGen = s.launchGen := rfl
@[simp] theorem updHart_kernels (s : State) (h : Nat) (f : Hart → Hart) : (s.updHart h f).kernels = s.kernels := rfl
@[simp] theorem updHart_arrivals (s : State) (h : Nat) (f : Hart → Hart) : (s.updHart h f).arrivals = s.arrivals := rfl
@[simp] theorem updHart_bindings (s : State) (h : Nat) (f : Hart → Hart) : (s.updHart h f).bindings = s.bindings := rfl
@[simp] theorem updHart_lastTenant (s : State) (h : Nat) (f : Hart → Hart) : (s.updHart h f).lastTenant = s.lastTenant := rfl
@[simp] theorem updHart_resets (s : State) (h : Nat) (f : Hart → Hart) : (s.updHart h f).resets = s.resets := rfl
@[simp] theorem updHart_emu (s : State) (h : Nat) (f : Hart → Hart) : (s.updHart h f).emu = s.emu := rfl
@[simp] theorem updHart_patched (s : State) (h : Nat) (f : Hart → Hart) : (s.updHart h f).patched = s.patched := rfl
@[simp] theorem updHart_diedis (s : State) (h : Nat) (f : Hart → Hart) : (s.updHart h f).diedis = s.diedis := rfl
@[simp] theorem updHart_boot (s : State) (h : Nat) (f : Hart → Hart) : (s.updHart h f).boot = s.boot := rfl
@[simp] theorem updHart_supv (s : State) (h : Nat) (f : Hart → Hart) : (s.updHart h f).supv = s.supv := rfl
@[simp] theorem updHart_irqs (s : State) (h : Nat) (f : Hart → Hart) : (s.updHart h f).irqs = s.irqs := rfl

/-! ### updMe -/

@[simp] theorem updMe_cur (s : State) (f : Hart → Hart) : (s.updMe f).cur = s.cur := rfl
@[simp] theorem updMe_agenda (s : State) (f : Hart → Hart) : (s.updMe f).agenda = s.agenda := rfl
@[simp] theorem updMe_cycle (s : State) (f : Hart → Hart) : (s.updMe f).cycle = s.cycle := rfl
@[simp] theorem updMe_free (s : State) (f : Hart → Hart) : (s.updMe f).free = s.free := rfl
@[simp] theorem updMe_harts (s : State) (f : Hart → Hart) : (s.updMe f).harts = smPut s.harts s.cur (f s.me) := rfl
@[simp] theorem updMe_cores (s : State) (f : Hart → Hart) : (s.updMe f).cores = s.cores := rfl
@[simp] theorem updMe_grid (s : State) (f : Hart → Hart) : (s.updMe f).grid = s.grid := rfl
@[simp] theorem updMe_gridGen (s : State) (f : Hart → Hart) : (s.updMe f).gridGen = s.gridGen := rfl
@[simp] theorem updMe_badCells (s : State) (f : Hart → Hart) : (s.updMe f).badCells = s.badCells := rfl
@[simp] theorem updMe_softCells (s : State) (f : Hart → Hart) : (s.updMe f).softCells = s.softCells := rfl
@[simp] theorem updMe_spad (s : State) (f : Hart → Hart) : (s.updMe f).spad = s.spad := rfl
@[simp] theorem updMe_full (s : State) (f : Hart → Hart) : (s.updMe f).full = s.full := rfl
@[simp] theorem updMe_mem (s : State) (f : Hart → Hart) : (s.updMe f).mem = s.mem := rfl
@[simp] theorem updMe_split (s : State) (f : Hart → Hart) : (s.updMe f).split = s.split := rfl
@[simp] theorem updMe_splitLock (s : State) (f : Hart → Hart) : (s.updMe f).splitLock = s.splitLock := rfl
@[simp] theorem updMe_owners (s : State) (f : Hart → Hart) : (s.updMe f).owners = s.owners := rfl
@[simp] theorem updMe_denyLog (s : State) (f : Hart → Hart) : (s.updMe f).denyLog = s.denyLog := rfl
@[simp] theorem updMe_denyCount (s : State) (f : Hart → Hart) : (s.updMe f).denyCount = s.denyCount := rfl
@[simp] theorem updMe_errCount (s : State) (f : Hart → Hart) : (s.updMe f).errCount = s.errCount := rfl
@[simp] theorem updMe_tlb1 (s : State) (f : Hart → Hart) : (s.updMe f).tlb1 = s.tlb1 := rfl
@[simp] theorem updMe_tlb2 (s : State) (f : Hart → Hart) : (s.updMe f).tlb2 = s.tlb2 := rfl
@[simp] theorem updMe_memBad (s : State) (f : Hart → Hart) : (s.updMe f).memBad = s.memBad := rfl
@[simp] theorem updMe_tenants (s : State) (f : Hart → Hart) : (s.updMe f).tenants = s.tenants := rfl
@[simp] theorem updMe_grants (s : State) (f : Hart → Hart) : (s.updMe f).grants = s.grants := rfl
@[simp] theorem updMe_watch (s : State) (f : Hart → Hart) : (s.updMe f).watch = s.watch := rfl
@[simp] theorem updMe_watchReg (s : State) (f : Hart → Hart) : (s.updMe f).watchReg = s.watchReg := rfl
@[simp] theorem updMe_dmaw (s : State) (f : Hart → Hart) : (s.updMe f).dmaw = s.dmaw := rfl
@[simp] theorem updMe_pairs (s : State) (f : Hart → Hart) : (s.updMe f).pairs = s.pairs := rfl
@[simp] theorem updMe_doorbells (s : State) (f : Hart → Hart) : (s.updMe f).doorbells = s.doorbells := rfl
@[simp] theorem updMe_driveReplies (s : State) (f : Hart → Hart) : (s.updMe f).driveReplies = s.driveReplies := rfl
@[simp] theorem updMe_drives (s : State) (f : Hart → Hart) : (s.updMe f).drives = s.drives := rfl
@[simp] theorem updMe_driveWait (s : State) (f : Hart → Hart) : (s.updMe f).driveWait = s.driveWait := rfl
@[simp] theorem updMe_links (s : State) (f : Hart → Hart) : (s.updMe f).links = s.links := rfl
@[simp] theorem updMe_flits (s : State) (f : Hart → Hart) : (s.updMe f).flits = s.flits := rfl
@[simp] theorem updMe_parts (s : State) (f : Hart → Hart) : (s.updMe f).parts = s.parts := rfl
@[simp] theorem updMe_ports (s : State) (f : Hart → Hart) : (s.updMe f).ports = s.ports := rfl
@[simp] theorem updMe_wire (s : State) (f : Hart → Hart) : (s.updMe f).wire = s.wire := rfl
@[simp] theorem updMe_spDirty (s : State) (f : Hart → Hart) : (s.updMe f).spDirty = s.spDirty := rfl
@[simp] theorem updMe_hostq (s : State) (f : Hart → Hart) : (s.updMe f).hostq = s.hostq := rfl
@[simp] theorem updMe_launches (s : State) (f : Hart → Hart) : (s.updMe f).launches = s.launches := rfl
@[simp] theorem updMe_launchGen (s : State) (f : Hart → Hart) : (s.updMe f).launchGen = s.launchGen := rfl
@[simp] theorem updMe_kernels (s : State) (f : Hart → Hart) : (s.updMe f).kernels = s.kernels := rfl
@[simp] theorem updMe_arrivals (s : State) (f : Hart → Hart) : (s.updMe f).arrivals = s.arrivals := rfl
@[simp] theorem updMe_bindings (s : State) (f : Hart → Hart) : (s.updMe f).bindings = s.bindings := rfl
@[simp] theorem updMe_lastTenant (s : State) (f : Hart → Hart) : (s.updMe f).lastTenant = s.lastTenant := rfl
@[simp] theorem updMe_resets (s : State) (f : Hart → Hart) : (s.updMe f).resets = s.resets := rfl
@[simp] theorem updMe_emu (s : State) (f : Hart → Hart) : (s.updMe f).emu = s.emu := rfl
@[simp] theorem updMe_patched (s : State) (f : Hart → Hart) : (s.updMe f).patched = s.patched := rfl
@[simp] theorem updMe_diedis (s : State) (f : Hart → Hart) : (s.updMe f).diedis = s.diedis := rfl
@[simp] theorem updMe_boot (s : State) (f : Hart → Hart) : (s.updMe f).boot = s.boot := rfl
@[simp] theorem updMe_supv (s : State) (f : Hart → Hart) : (s.updMe f).supv = s.supv := rfl
@[simp] theorem updMe_irqs (s : State) (f : Hart → Hart) : (s.updMe f).irqs = s.irqs := rfl

/-! ### setByte -/

@[simp] theorem setByte_cur (s : State) (pa : Nat) (b : BitVec 8) : (s.setByte pa b).cur = s.cur := rfl
@[simp] theorem setByte_agenda (s : State) (pa : Nat) (b : BitVec 8) : (s.setByte pa b).agenda = s.agenda := rfl
@[simp] theorem setByte_cycle (s : State) (pa : Nat) (b : BitVec 8) : (s.setByte pa b).cycle = s.cycle := rfl
@[simp] theorem setByte_free (s : State) (pa : Nat) (b : BitVec 8) : (s.setByte pa b).free = s.free := rfl
@[simp] theorem setByte_harts (s : State) (pa : Nat) (b : BitVec 8) : (s.setByte pa b).harts = s.harts := rfl
@[simp] theorem setByte_cores (s : State) (pa : Nat) (b : BitVec 8) : (s.setByte pa b).cores = s.cores := rfl
@[simp] theorem setByte_grid (s : State) (pa : Nat) (b : BitVec 8) : (s.setByte pa b).grid = s.grid := rfl
@[simp] theorem setByte_gridGen (s : State) (pa : Nat) (b : BitVec 8) : (s.setByte pa b).gridGen = s.gridGen := rfl
@[simp] theorem setByte_badCells (s : State) (pa : Nat) (b : BitVec 8) : (s.setByte pa b).badCells = s.badCells := rfl
@[simp] theorem setByte_softCells (s : State) (pa : Nat) (b : BitVec 8) : (s.setByte pa b).softCells = s.softCells := rfl
@[simp] theorem setByte_spad (s : State) (pa : Nat) (b : BitVec 8) : (s.setByte pa b).spad = s.spad := rfl
@[simp] theorem setByte_full (s : State) (pa : Nat) (b : BitVec 8) : (s.setByte pa b).full = s.full := rfl
@[simp] theorem setByte_mem (s : State) (pa : Nat) (b : BitVec 8) : (s.setByte pa b).mem = smSet 0 s.mem (memKey pa) b := rfl
@[simp] theorem setByte_split (s : State) (pa : Nat) (b : BitVec 8) : (s.setByte pa b).split = s.split := rfl
@[simp] theorem setByte_splitLock (s : State) (pa : Nat) (b : BitVec 8) : (s.setByte pa b).splitLock = s.splitLock := rfl
@[simp] theorem setByte_owners (s : State) (pa : Nat) (b : BitVec 8) : (s.setByte pa b).owners = s.owners := rfl
@[simp] theorem setByte_denyLog (s : State) (pa : Nat) (b : BitVec 8) : (s.setByte pa b).denyLog = s.denyLog := rfl
@[simp] theorem setByte_denyCount (s : State) (pa : Nat) (b : BitVec 8) : (s.setByte pa b).denyCount = s.denyCount := rfl
@[simp] theorem setByte_errCount (s : State) (pa : Nat) (b : BitVec 8) : (s.setByte pa b).errCount = s.errCount := rfl
@[simp] theorem setByte_tlb1 (s : State) (pa : Nat) (b : BitVec 8) : (s.setByte pa b).tlb1 = s.tlb1 := rfl
@[simp] theorem setByte_tlb2 (s : State) (pa : Nat) (b : BitVec 8) : (s.setByte pa b).tlb2 = s.tlb2 := rfl
@[simp] theorem setByte_memBad (s : State) (pa : Nat) (b : BitVec 8) : (s.setByte pa b).memBad = s.memBad := rfl
@[simp] theorem setByte_tenants (s : State) (pa : Nat) (b : BitVec 8) : (s.setByte pa b).tenants = s.tenants := rfl
@[simp] theorem setByte_grants (s : State) (pa : Nat) (b : BitVec 8) : (s.setByte pa b).grants = s.grants := rfl
@[simp] theorem setByte_watch (s : State) (pa : Nat) (b : BitVec 8) : (s.setByte pa b).watch = s.watch := rfl
@[simp] theorem setByte_watchReg (s : State) (pa : Nat) (b : BitVec 8) : (s.setByte pa b).watchReg = s.watchReg := rfl
@[simp] theorem setByte_dmaw (s : State) (pa : Nat) (b : BitVec 8) : (s.setByte pa b).dmaw = s.dmaw := rfl
@[simp] theorem setByte_pairs (s : State) (pa : Nat) (b : BitVec 8) : (s.setByte pa b).pairs = s.pairs := rfl
@[simp] theorem setByte_doorbells (s : State) (pa : Nat) (b : BitVec 8) : (s.setByte pa b).doorbells = s.doorbells := rfl
@[simp] theorem setByte_driveReplies (s : State) (pa : Nat) (b : BitVec 8) : (s.setByte pa b).driveReplies = s.driveReplies := rfl
@[simp] theorem setByte_drives (s : State) (pa : Nat) (b : BitVec 8) : (s.setByte pa b).drives = s.drives := rfl
@[simp] theorem setByte_driveWait (s : State) (pa : Nat) (b : BitVec 8) : (s.setByte pa b).driveWait = s.driveWait := rfl
@[simp] theorem setByte_links (s : State) (pa : Nat) (b : BitVec 8) : (s.setByte pa b).links = s.links := rfl
@[simp] theorem setByte_flits (s : State) (pa : Nat) (b : BitVec 8) : (s.setByte pa b).flits = s.flits := rfl
@[simp] theorem setByte_parts (s : State) (pa : Nat) (b : BitVec 8) : (s.setByte pa b).parts = s.parts := rfl
@[simp] theorem setByte_ports (s : State) (pa : Nat) (b : BitVec 8) : (s.setByte pa b).ports = s.ports := rfl
@[simp] theorem setByte_wire (s : State) (pa : Nat) (b : BitVec 8) : (s.setByte pa b).wire = s.wire := rfl
@[simp] theorem setByte_spDirty (s : State) (pa : Nat) (b : BitVec 8) : (s.setByte pa b).spDirty = s.spDirty := rfl
@[simp] theorem setByte_hostq (s : State) (pa : Nat) (b : BitVec 8) : (s.setByte pa b).hostq = s.hostq := rfl
@[simp] theorem setByte_launches (s : State) (pa : Nat) (b : BitVec 8) : (s.setByte pa b).launches = s.launches := rfl
@[simp] theorem setByte_launchGen (s : State) (pa : Nat) (b : BitVec 8) : (s.setByte pa b).launchGen = s.launchGen := rfl
@[simp] theorem setByte_kernels (s : State) (pa : Nat) (b : BitVec 8) : (s.setByte pa b).kernels = s.kernels := rfl
@[simp] theorem setByte_arrivals (s : State) (pa : Nat) (b : BitVec 8) : (s.setByte pa b).arrivals = s.arrivals := rfl
@[simp] theorem setByte_bindings (s : State) (pa : Nat) (b : BitVec 8) : (s.setByte pa b).bindings = s.bindings := rfl
@[simp] theorem setByte_lastTenant (s : State) (pa : Nat) (b : BitVec 8) : (s.setByte pa b).lastTenant = s.lastTenant := rfl
@[simp] theorem setByte_resets (s : State) (pa : Nat) (b : BitVec 8) : (s.setByte pa b).resets = s.resets := rfl
@[simp] theorem setByte_emu (s : State) (pa : Nat) (b : BitVec 8) : (s.setByte pa b).emu = s.emu := rfl
@[simp] theorem setByte_patched (s : State) (pa : Nat) (b : BitVec 8) : (s.setByte pa b).patched = s.patched := rfl
@[simp] theorem setByte_diedis (s : State) (pa : Nat) (b : BitVec 8) : (s.setByte pa b).diedis = s.diedis := rfl
@[simp] theorem setByte_boot (s : State) (pa : Nat) (b : BitVec 8) : (s.setByte pa b).boot = s.boot := rfl
@[simp] theorem setByte_supv (s : State) (pa : Nat) (b : BitVec 8) : (s.setByte pa b).supv = s.supv := rfl
@[simp] theorem setByte_irqs (s : State) (pa : Nat) (b : BitVec 8) : (s.setByte pa b).irqs = s.irqs := rfl

/-! ### setTenant -/

@[simp] theorem setTenant_cur (s : State) (t : Nat) (x : Tenant) : (s.setTenant t x).cur = s.cur := rfl
@[simp] theorem setTenant_agenda (s : State) (t : Nat) (x : Tenant) : (s.setTenant t x).agenda = s.agenda := rfl
@[simp] theorem setTenant_cycle (s : State) (t : Nat) (x : Tenant) : (s.setTenant t x).cycle = s.cycle := rfl
@[simp] theorem setTenant_free (s : State) (t : Nat) (x : Tenant) : (s.setTenant t x).free = s.free := rfl
@[simp] theorem setTenant_harts (s : State) (t : Nat) (x : Tenant) : (s.setTenant t x).harts = s.harts := rfl
@[simp] theorem setTenant_cores (s : State) (t : Nat) (x : Tenant) : (s.setTenant t x).cores = s.cores := rfl
@[simp] theorem setTenant_grid (s : State) (t : Nat) (x : Tenant) : (s.setTenant t x).grid = s.grid := rfl
@[simp] theorem setTenant_gridGen (s : State) (t : Nat) (x : Tenant) : (s.setTenant t x).gridGen = s.gridGen := rfl
@[simp] theorem setTenant_badCells (s : State) (t : Nat) (x : Tenant) : (s.setTenant t x).badCells = s.badCells := rfl
@[simp] theorem setTenant_softCells (s : State) (t : Nat) (x : Tenant) : (s.setTenant t x).softCells = s.softCells := rfl
@[simp] theorem setTenant_spad (s : State) (t : Nat) (x : Tenant) : (s.setTenant t x).spad = s.spad := rfl
@[simp] theorem setTenant_full (s : State) (t : Nat) (x : Tenant) : (s.setTenant t x).full = s.full := rfl
@[simp] theorem setTenant_mem (s : State) (t : Nat) (x : Tenant) : (s.setTenant t x).mem = s.mem := rfl
@[simp] theorem setTenant_split (s : State) (t : Nat) (x : Tenant) : (s.setTenant t x).split = s.split := rfl
@[simp] theorem setTenant_splitLock (s : State) (t : Nat) (x : Tenant) : (s.setTenant t x).splitLock = s.splitLock := rfl
@[simp] theorem setTenant_owners (s : State) (t : Nat) (x : Tenant) : (s.setTenant t x).owners = s.owners := rfl
@[simp] theorem setTenant_denyLog (s : State) (t : Nat) (x : Tenant) : (s.setTenant t x).denyLog = s.denyLog := rfl
@[simp] theorem setTenant_denyCount (s : State) (t : Nat) (x : Tenant) : (s.setTenant t x).denyCount = s.denyCount := rfl
@[simp] theorem setTenant_errCount (s : State) (t : Nat) (x : Tenant) : (s.setTenant t x).errCount = s.errCount := rfl
@[simp] theorem setTenant_tlb1 (s : State) (t : Nat) (x : Tenant) : (s.setTenant t x).tlb1 = s.tlb1 := rfl
@[simp] theorem setTenant_tlb2 (s : State) (t : Nat) (x : Tenant) : (s.setTenant t x).tlb2 = s.tlb2 := rfl
@[simp] theorem setTenant_memBad (s : State) (t : Nat) (x : Tenant) : (s.setTenant t x).memBad = s.memBad := rfl
@[simp] theorem setTenant_tenants (s : State) (t : Nat) (x : Tenant) : (s.setTenant t x).tenants = smPut s.tenants t x := rfl
@[simp] theorem setTenant_grants (s : State) (t : Nat) (x : Tenant) : (s.setTenant t x).grants = s.grants := rfl
@[simp] theorem setTenant_watch (s : State) (t : Nat) (x : Tenant) : (s.setTenant t x).watch = s.watch := rfl
@[simp] theorem setTenant_watchReg (s : State) (t : Nat) (x : Tenant) : (s.setTenant t x).watchReg = s.watchReg := rfl
@[simp] theorem setTenant_dmaw (s : State) (t : Nat) (x : Tenant) : (s.setTenant t x).dmaw = s.dmaw := rfl
@[simp] theorem setTenant_pairs (s : State) (t : Nat) (x : Tenant) : (s.setTenant t x).pairs = s.pairs := rfl
@[simp] theorem setTenant_doorbells (s : State) (t : Nat) (x : Tenant) : (s.setTenant t x).doorbells = s.doorbells := rfl
@[simp] theorem setTenant_driveReplies (s : State) (t : Nat) (x : Tenant) : (s.setTenant t x).driveReplies = s.driveReplies := rfl
@[simp] theorem setTenant_drives (s : State) (t : Nat) (x : Tenant) : (s.setTenant t x).drives = s.drives := rfl
@[simp] theorem setTenant_driveWait (s : State) (t : Nat) (x : Tenant) : (s.setTenant t x).driveWait = s.driveWait := rfl
@[simp] theorem setTenant_links (s : State) (t : Nat) (x : Tenant) : (s.setTenant t x).links = s.links := rfl
@[simp] theorem setTenant_flits (s : State) (t : Nat) (x : Tenant) : (s.setTenant t x).flits = s.flits := rfl
@[simp] theorem setTenant_parts (s : State) (t : Nat) (x : Tenant) : (s.setTenant t x).parts = s.parts := rfl
@[simp] theorem setTenant_ports (s : State) (t : Nat) (x : Tenant) : (s.setTenant t x).ports = s.ports := rfl
@[simp] theorem setTenant_wire (s : State) (t : Nat) (x : Tenant) : (s.setTenant t x).wire = s.wire := rfl
@[simp] theorem setTenant_spDirty (s : State) (t : Nat) (x : Tenant) : (s.setTenant t x).spDirty = s.spDirty := rfl
@[simp] theorem setTenant_hostq (s : State) (t : Nat) (x : Tenant) : (s.setTenant t x).hostq = s.hostq := rfl
@[simp] theorem setTenant_launches (s : State) (t : Nat) (x : Tenant) : (s.setTenant t x).launches = s.launches := rfl
@[simp] theorem setTenant_launchGen (s : State) (t : Nat) (x : Tenant) : (s.setTenant t x).launchGen = s.launchGen := rfl
@[simp] theorem setTenant_kernels (s : State) (t : Nat) (x : Tenant) : (s.setTenant t x).kernels = s.kernels := rfl
@[simp] theorem setTenant_arrivals (s : State) (t : Nat) (x : Tenant) : (s.setTenant t x).arrivals = s.arrivals := rfl
@[simp] theorem setTenant_bindings (s : State) (t : Nat) (x : Tenant) : (s.setTenant t x).bindings = s.bindings := rfl
@[simp] theorem setTenant_lastTenant (s : State) (t : Nat) (x : Tenant) : (s.setTenant t x).lastTenant = s.lastTenant := rfl
@[simp] theorem setTenant_resets (s : State) (t : Nat) (x : Tenant) : (s.setTenant t x).resets = s.resets := rfl
@[simp] theorem setTenant_emu (s : State) (t : Nat) (x : Tenant) : (s.setTenant t x).emu = s.emu := rfl
@[simp] theorem setTenant_patched (s : State) (t : Nat) (x : Tenant) : (s.setTenant t x).patched = s.patched := rfl
@[simp] theorem setTenant_diedis (s : State) (t : Nat) (x : Tenant) : (s.setTenant t x).diedis = s.diedis := rfl
@[simp] theorem setTenant_boot (s : State) (t : Nat) (x : Tenant) : (s.setTenant t x).boot = s.boot := rfl
@[simp] theorem setTenant_supv (s : State) (t : Nat) (x : Tenant) : (s.setTenant t x).supv = s.supv := rfl
@[simp] theorem setTenant_irqs (s : State) (t : Nat) (x : Tenant) : (s.setTenant t x).irqs = s.irqs := rfl

/-! ### setBoot -/

@[simp] theorem setBoot_cur (s : State) (b : Boot) : (s.setBoot b).cur = s.cur := rfl
@[simp] theorem setBoot_agenda (s : State) (b : Boot) : (s.setBoot b).agenda = s.agenda := rfl
@[simp] theorem setBoot_cycle (s : State) (b : Boot) : (s.setBoot b).cycle = s.cycle := rfl
@[simp] theorem setBoot_free (s : State) (b : Boot) : (s.setBoot b).free = s.free := rfl
@[simp] theorem setBoot_harts (s : State) (b : Boot) : (s.setBoot b).harts = s.harts := rfl
@[simp] theorem setBoot_cores (s : State) (b : Boot) : (s.setBoot b).cores = s.cores := rfl
@[simp] theorem setBoot_grid (s : State) (b : Boot) : (s.setBoot b).grid = s.grid := rfl
@[simp] theorem setBoot_gridGen (s : State) (b : Boot) : (s.setBoot b).gridGen = s.gridGen := rfl
@[simp] theorem setBoot_badCells (s : State) (b : Boot) : (s.setBoot b).badCells = s.badCells := rfl
@[simp] theorem setBoot_softCells (s : State) (b : Boot) : (s.setBoot b).softCells = s.softCells := rfl
@[simp] theorem setBoot_spad (s : State) (b : Boot) : (s.setBoot b).spad = s.spad := rfl
@[simp] theorem setBoot_full (s : State) (b : Boot) : (s.setBoot b).full = s.full := rfl
@[simp] theorem setBoot_mem (s : State) (b : Boot) : (s.setBoot b).mem = s.mem := rfl
@[simp] theorem setBoot_split (s : State) (b : Boot) : (s.setBoot b).split = s.split := rfl
@[simp] theorem setBoot_splitLock (s : State) (b : Boot) : (s.setBoot b).splitLock = s.splitLock := rfl
@[simp] theorem setBoot_owners (s : State) (b : Boot) : (s.setBoot b).owners = s.owners := rfl
@[simp] theorem setBoot_denyLog (s : State) (b : Boot) : (s.setBoot b).denyLog = s.denyLog := rfl
@[simp] theorem setBoot_denyCount (s : State) (b : Boot) : (s.setBoot b).denyCount = s.denyCount := rfl
@[simp] theorem setBoot_errCount (s : State) (b : Boot) : (s.setBoot b).errCount = s.errCount := rfl
@[simp] theorem setBoot_tlb1 (s : State) (b : Boot) : (s.setBoot b).tlb1 = s.tlb1 := rfl
@[simp] theorem setBoot_tlb2 (s : State) (b : Boot) : (s.setBoot b).tlb2 = s.tlb2 := rfl
@[simp] theorem setBoot_memBad (s : State) (b : Boot) : (s.setBoot b).memBad = s.memBad := rfl
@[simp] theorem setBoot_tenants (s : State) (b : Boot) : (s.setBoot b).tenants = s.tenants := rfl
@[simp] theorem setBoot_grants (s : State) (b : Boot) : (s.setBoot b).grants = s.grants := rfl
@[simp] theorem setBoot_watch (s : State) (b : Boot) : (s.setBoot b).watch = s.watch := rfl
@[simp] theorem setBoot_watchReg (s : State) (b : Boot) : (s.setBoot b).watchReg = s.watchReg := rfl
@[simp] theorem setBoot_dmaw (s : State) (b : Boot) : (s.setBoot b).dmaw = s.dmaw := rfl
@[simp] theorem setBoot_pairs (s : State) (b : Boot) : (s.setBoot b).pairs = s.pairs := rfl
@[simp] theorem setBoot_doorbells (s : State) (b : Boot) : (s.setBoot b).doorbells = s.doorbells := rfl
@[simp] theorem setBoot_driveReplies (s : State) (b : Boot) : (s.setBoot b).driveReplies = s.driveReplies := rfl
@[simp] theorem setBoot_drives (s : State) (b : Boot) : (s.setBoot b).drives = s.drives := rfl
@[simp] theorem setBoot_driveWait (s : State) (b : Boot) : (s.setBoot b).driveWait = s.driveWait := rfl
@[simp] theorem setBoot_links (s : State) (b : Boot) : (s.setBoot b).links = s.links := rfl
@[simp] theorem setBoot_flits (s : State) (b : Boot) : (s.setBoot b).flits = s.flits := rfl
@[simp] theorem setBoot_parts (s : State) (b : Boot) : (s.setBoot b).parts = s.parts := rfl
@[simp] theorem setBoot_ports (s : State) (b : Boot) : (s.setBoot b).ports = s.ports := rfl
@[simp] theorem setBoot_wire (s : State) (b : Boot) : (s.setBoot b).wire = s.wire := rfl
@[simp] theorem setBoot_spDirty (s : State) (b : Boot) : (s.setBoot b).spDirty = s.spDirty := rfl
@[simp] theorem setBoot_hostq (s : State) (b : Boot) : (s.setBoot b).hostq = s.hostq := rfl
@[simp] theorem setBoot_launches (s : State) (b : Boot) : (s.setBoot b).launches = s.launches := rfl
@[simp] theorem setBoot_launchGen (s : State) (b : Boot) : (s.setBoot b).launchGen = s.launchGen := rfl
@[simp] theorem setBoot_kernels (s : State) (b : Boot) : (s.setBoot b).kernels = s.kernels := rfl
@[simp] theorem setBoot_arrivals (s : State) (b : Boot) : (s.setBoot b).arrivals = s.arrivals := rfl
@[simp] theorem setBoot_bindings (s : State) (b : Boot) : (s.setBoot b).bindings = s.bindings := rfl
@[simp] theorem setBoot_lastTenant (s : State) (b : Boot) : (s.setBoot b).lastTenant = s.lastTenant := rfl
@[simp] theorem setBoot_resets (s : State) (b : Boot) : (s.setBoot b).resets = s.resets := rfl
@[simp] theorem setBoot_emu (s : State) (b : Boot) : (s.setBoot b).emu = s.emu := rfl
@[simp] theorem setBoot_patched (s : State) (b : Boot) : (s.setBoot b).patched = s.patched := rfl
@[simp] theorem setBoot_diedis (s : State) (b : Boot) : (s.setBoot b).diedis = s.diedis := rfl
@[simp] theorem setBoot_boot (s : State) (b : Boot) : (s.setBoot b).boot = b := rfl
@[simp] theorem setBoot_supv (s : State) (b : Boot) : (s.setBoot b).supv = s.supv := rfl
@[simp] theorem setBoot_irqs (s : State) (b : Boot) : (s.setBoot b).irqs = s.irqs := rfl

/-! ### setSupv -/

@[simp] theorem setSupv_cur (s : State) (x : Supv) : (s.setSupv x).cur = s.cur := rfl
@[simp] theorem setSupv_agenda (s : State) (x : Supv) : (s.setSupv x).agenda = s.agenda := rfl
@[simp] theorem setSupv_cycle (s : State) (x : Supv) : (s.setSupv x).cycle = s.cycle := rfl
@[simp] theorem setSupv_free (s : State) (x : Supv) : (s.setSupv x).free = s.free := rfl
@[simp] theorem setSupv_harts (s : State) (x : Supv) : (s.setSupv x).harts = s.harts := rfl
@[simp] theorem setSupv_cores (s : State) (x : Supv) : (s.setSupv x).cores = s.cores := rfl
@[simp] theorem setSupv_grid (s : State) (x : Supv) : (s.setSupv x).grid = s.grid := rfl
@[simp] theorem setSupv_gridGen (s : State) (x : Supv) : (s.setSupv x).gridGen = s.gridGen := rfl
@[simp] theorem setSupv_badCells (s : State) (x : Supv) : (s.setSupv x).badCells = s.badCells := rfl
@[simp] theorem setSupv_softCells (s : State) (x : Supv) : (s.setSupv x).softCells = s.softCells := rfl
@[simp] theorem setSupv_spad (s : State) (x : Supv) : (s.setSupv x).spad = s.spad := rfl
@[simp] theorem setSupv_full (s : State) (x : Supv) : (s.setSupv x).full = s.full := rfl
@[simp] theorem setSupv_mem (s : State) (x : Supv) : (s.setSupv x).mem = s.mem := rfl
@[simp] theorem setSupv_split (s : State) (x : Supv) : (s.setSupv x).split = s.split := rfl
@[simp] theorem setSupv_splitLock (s : State) (x : Supv) : (s.setSupv x).splitLock = s.splitLock := rfl
@[simp] theorem setSupv_owners (s : State) (x : Supv) : (s.setSupv x).owners = s.owners := rfl
@[simp] theorem setSupv_denyLog (s : State) (x : Supv) : (s.setSupv x).denyLog = s.denyLog := rfl
@[simp] theorem setSupv_denyCount (s : State) (x : Supv) : (s.setSupv x).denyCount = s.denyCount := rfl
@[simp] theorem setSupv_errCount (s : State) (x : Supv) : (s.setSupv x).errCount = s.errCount := rfl
@[simp] theorem setSupv_tlb1 (s : State) (x : Supv) : (s.setSupv x).tlb1 = s.tlb1 := rfl
@[simp] theorem setSupv_tlb2 (s : State) (x : Supv) : (s.setSupv x).tlb2 = s.tlb2 := rfl
@[simp] theorem setSupv_memBad (s : State) (x : Supv) : (s.setSupv x).memBad = s.memBad := rfl
@[simp] theorem setSupv_tenants (s : State) (x : Supv) : (s.setSupv x).tenants = s.tenants := rfl
@[simp] theorem setSupv_grants (s : State) (x : Supv) : (s.setSupv x).grants = s.grants := rfl
@[simp] theorem setSupv_watch (s : State) (x : Supv) : (s.setSupv x).watch = s.watch := rfl
@[simp] theorem setSupv_watchReg (s : State) (x : Supv) : (s.setSupv x).watchReg = s.watchReg := rfl
@[simp] theorem setSupv_dmaw (s : State) (x : Supv) : (s.setSupv x).dmaw = s.dmaw := rfl
@[simp] theorem setSupv_pairs (s : State) (x : Supv) : (s.setSupv x).pairs = s.pairs := rfl
@[simp] theorem setSupv_doorbells (s : State) (x : Supv) : (s.setSupv x).doorbells = s.doorbells := rfl
@[simp] theorem setSupv_driveReplies (s : State) (x : Supv) : (s.setSupv x).driveReplies = s.driveReplies := rfl
@[simp] theorem setSupv_drives (s : State) (x : Supv) : (s.setSupv x).drives = s.drives := rfl
@[simp] theorem setSupv_driveWait (s : State) (x : Supv) : (s.setSupv x).driveWait = s.driveWait := rfl
@[simp] theorem setSupv_links (s : State) (x : Supv) : (s.setSupv x).links = s.links := rfl
@[simp] theorem setSupv_flits (s : State) (x : Supv) : (s.setSupv x).flits = s.flits := rfl
@[simp] theorem setSupv_parts (s : State) (x : Supv) : (s.setSupv x).parts = s.parts := rfl
@[simp] theorem setSupv_ports (s : State) (x : Supv) : (s.setSupv x).ports = s.ports := rfl
@[simp] theorem setSupv_wire (s : State) (x : Supv) : (s.setSupv x).wire = s.wire := rfl
@[simp] theorem setSupv_spDirty (s : State) (x : Supv) : (s.setSupv x).spDirty = s.spDirty := rfl
@[simp] theorem setSupv_hostq (s : State) (x : Supv) : (s.setSupv x).hostq = s.hostq := rfl
@[simp] theorem setSupv_launches (s : State) (x : Supv) : (s.setSupv x).launches = s.launches := rfl
@[simp] theorem setSupv_launchGen (s : State) (x : Supv) : (s.setSupv x).launchGen = s.launchGen := rfl
@[simp] theorem setSupv_kernels (s : State) (x : Supv) : (s.setSupv x).kernels = s.kernels := rfl
@[simp] theorem setSupv_arrivals (s : State) (x : Supv) : (s.setSupv x).arrivals = s.arrivals := rfl
@[simp] theorem setSupv_bindings (s : State) (x : Supv) : (s.setSupv x).bindings = s.bindings := rfl
@[simp] theorem setSupv_lastTenant (s : State) (x : Supv) : (s.setSupv x).lastTenant = s.lastTenant := rfl
@[simp] theorem setSupv_resets (s : State) (x : Supv) : (s.setSupv x).resets = s.resets := rfl
@[simp] theorem setSupv_emu (s : State) (x : Supv) : (s.setSupv x).emu = s.emu := rfl
@[simp] theorem setSupv_patched (s : State) (x : Supv) : (s.setSupv x).patched = s.patched := rfl
@[simp] theorem setSupv_diedis (s : State) (x : Supv) : (s.setSupv x).diedis = s.diedis := rfl
@[simp] theorem setSupv_boot (s : State) (x : Supv) : (s.setSupv x).boot = s.boot := rfl
@[simp] theorem setSupv_supv (s : State) (x : Supv) : (s.setSupv x).supv = x := rfl
@[simp] theorem setSupv_irqs (s : State) (x : Supv) : (s.setSupv x).irqs = s.irqs := rfl

/-! ### Hart.adv -/

@[simp] theorem hart_adv_run (x : Hart) : (x.adv).run = x.run := rfl
@[simp] theorem hart_adv_super (x : Hart) : (x.adv).super = x.super := rfl
@[simp] theorem hart_adv_pc (x : Hart) : (x.adv).pc = x.pc + 4 := rfl
@[simp] theorem hart_adv_sregs (x : Hart) : (x.adv).sregs = x.sregs := rfl
@[simp] theorem hart_adv_vl (x : Hart) : (x.adv).vl = x.vl := rfl
@[simp] theorem hart_adv_vstart (x : Hart) : (x.adv).vstart = x.vstart := rfl
@[simp] theorem hart_adv_vtype (x : Hart) : (x.adv).vtype = x.vtype := rfl
@[simp] theorem hart_adv_ds (x : Hart) : (x.adv).ds = x.ds := rfl
@[simp] theorem hart_adv_fflags (x : Hart) : (x.adv).fflags = x.fflags := rfl
@[simp] theorem hart_adv_fexc (x : Hart) : (x.adv).fexc = x.fexc := rfl
@[simp] theorem hart_adv_fexcMark (x : Hart) : (x.adv).fexcMark = x.fexcMark := rfl
@[simp] theorem hart_adv_satcnt (x : Hart) : (x.adv).satcnt = x.satcnt := rfl
@[simp] theorem hart_adv_lfsrIdx (x : Hart) : (x.adv).lfsrIdx = x.lfsrIdx := rfl
@[simp] theorem hart_adv_lfsr (x : Hart) : (x.adv).lfsr = x.lfsr := rfl
@[simp] theorem hart_adv_copyLfsr (x : Hart) : (x.adv).copyLfsr = x.copyLfsr := rfl
@[simp] theorem hart_adv_tm (x : Hart) : (x.adv).tm = x.tm := rfl
@[simp] theorem hart_adv_tn (x : Hart) : (x.adv).tn = x.tn := rfl
@[simp] theorem hart_adv_tk (x : Hart) : (x.adv).tk = x.tk := rfl
@[simp] theorem hart_adv_tkprog (x : Hart) : (x.adv).tkprog = x.tkprog := rfl
@[simp] theorem hart_adv_tenant (x : Hart) : (x.adv).tenant = x.tenant := rfl
@[simp] theorem hart_adv_owned (x : Hart) : (x.adv).owned = x.owned := rfl
@[simp] theorem hart_adv_tile (x : Hart) : (x.adv).tile = x.tile := rfl
@[simp] theorem hart_adv_tileIssue (x : Hart) : (x.adv).tileIssue = x.tileIssue := rfl
@[simp] theorem hart_adv_cfg (x : Hart) : (x.adv).cfg = x.cfg := rfl
@[simp] theorem hart_adv_tvec (x : Hart) : (x.adv).tvec = x.tvec := rfl
@[simp] theorem hart_adv_tcause (x : Hart) : (x.adv).tcause = x.tcause := rfl
@[simp] theorem hart_adv_tpc (x : Hart) : (x.adv).tpc = x.tpc := rfl
@[simp] theorem hart_adv_tqsn (x : Hart) : (x.adv).tqsn = x.tqsn := rfl
@[simp] theorem hart_adv_tinfo0 (x : Hart) : (x.adv).tinfo0 = x.tinfo0 := rfl
@[simp] theorem hart_adv_tinfo1 (x : Hart) : (x.adv).tinfo1 = x.tinfo1 := rfl
@[simp] theorem hart_adv_tinfo2 (x : Hart) : (x.adv).tinfo2 = x.tinfo2 := rfl
@[simp] theorem hart_adv_tinfo3 (x : Hart) : (x.adv).tinfo3 = x.tinfo3 := rfl
@[simp] theorem hart_adv_tscratch (x : Hart) : (x.adv).tscratch = x.tscratch := rfl
@[simp] theorem hart_adv_emubase (x : Hart) : (x.adv).emubase = x.emubase := rfl
@[simp] theorem hart_adv_masks (x : Hart) : (x.adv).masks = x.masks := rfl
@[simp] theorem hart_adv_maskDirty (x : Hart) : (x.adv).maskDirty = x.maskDirty := rfl
@[simp] theorem hart_adv_vdirty (x : Hart) : (x.adv).vdirty = x.vdirty := rfl
@[simp] theorem hart_adv_vhw (x : Hart) : (x.adv).vhw = x.vhw := rfl
@[simp] theorem hart_adv_queues (x : Hart) : (x.adv).queues = x.queues := rfl
@[simp] theorem hart_adv_queue (x : Hart) : (x.adv).queue = x.queue := rfl
@[simp] theorem hart_adv_nextQsn (x : Hart) : (x.adv).nextQsn = x.nextQsn := rfl
@[simp] theorem hart_adv_nextUid (x : Hart) : (x.adv).nextUid = x.nextUid := rfl
@[simp] theorem hart_adv_bar (x : Hart) : (x.adv).bar = x.bar := rfl
@[simp] theorem hart_adv_fence (x : Hart) : (x.adv).fence = x.fence := rfl
@[simp] theorem hart_adv_yield (x : Hart) : (x.adv).yield = x.yield := rfl
@[simp] theorem hart_adv_issueHold (x : Hart) : (x.adv).issueHold = x.issueHold := rfl
@[simp] theorem hart_adv_watchPass (x : Hart) : (x.adv).watchPass = x.watchPass := rfl
@[simp] theorem hart_adv_laneRetired (x : Hart) : (x.adv).laneRetired = x.laneRetired := rfl
@[simp] theorem hart_adv_faultUid (x : Hart) : (x.adv).faultUid = x.faultUid := rfl
@[simp] theorem hart_adv_vstartSet (x : Hart) : (x.adv).vstartSet = x.vstartSet := rfl
@[simp] theorem hart_adv_issueCount (x : Hart) : (x.adv).issueCount = x.issueCount + 1 := rfl
@[simp] theorem hart_adv_pending (x : Hart) : (x.adv).pending = x.pending := rfl
@[simp] theorem hart_adv_launch (x : Hart) : (x.adv).launch = x.launch := rfl
@[simp] theorem hart_adv_role (x : Hart) : (x.adv).role = x.role := rfl
@[simp] theorem hart_adv_fkey (x : Hart) : (x.adv).fkey = x.fkey := rfl
@[simp] theorem hart_adv_portable (x : Hart) : (x.adv).portable = x.portable := rfl
@[simp] theorem hart_adv_release (x : Hart) : (x.adv).release = x.release := rfl
@[simp] theorem hart_adv_ctx (x : Hart) : (x.adv).ctx = x.ctx := rfl
@[simp] theorem hart_adv_lag (x : Hart) : (x.adv).lag = x.lag := rfl
@[simp] theorem hart_adv_p (x : Hart) : (x.adv).p = x.p := rfl

/-! ### Hart.setQ -/

@[simp] theorem hart_setQ_run (x : Hart) (n : Nat) (q : StreamQ) : (x.setQ n q).run = x.run := rfl
@[simp] theorem hart_setQ_super (x : Hart) (n : Nat) (q : StreamQ) : (x.setQ n q).super = x.super := rfl
@[simp] theorem hart_setQ_pc (x : Hart) (n : Nat) (q : StreamQ) : (x.setQ n q).pc = x.pc := rfl
@[simp] theorem hart_setQ_sregs (x : Hart) (n : Nat) (q : StreamQ) : (x.setQ n q).sregs = x.sregs := rfl
@[simp] theorem hart_setQ_vl (x : Hart) (n : Nat) (q : StreamQ) : (x.setQ n q).vl = x.vl := rfl
@[simp] theorem hart_setQ_vstart (x : Hart) (n : Nat) (q : StreamQ) : (x.setQ n q).vstart = x.vstart := rfl
@[simp] theorem hart_setQ_vtype (x : Hart) (n : Nat) (q : StreamQ) : (x.setQ n q).vtype = x.vtype := rfl
@[simp] theorem hart_setQ_ds (x : Hart) (n : Nat) (q : StreamQ) : (x.setQ n q).ds = x.ds := rfl
@[simp] theorem hart_setQ_fflags (x : Hart) (n : Nat) (q : StreamQ) : (x.setQ n q).fflags = x.fflags := rfl
@[simp] theorem hart_setQ_fexc (x : Hart) (n : Nat) (q : StreamQ) : (x.setQ n q).fexc = x.fexc := rfl
@[simp] theorem hart_setQ_fexcMark (x : Hart) (n : Nat) (q : StreamQ) : (x.setQ n q).fexcMark = x.fexcMark := rfl
@[simp] theorem hart_setQ_satcnt (x : Hart) (n : Nat) (q : StreamQ) : (x.setQ n q).satcnt = x.satcnt := rfl
@[simp] theorem hart_setQ_lfsrIdx (x : Hart) (n : Nat) (q : StreamQ) : (x.setQ n q).lfsrIdx = x.lfsrIdx := rfl
@[simp] theorem hart_setQ_lfsr (x : Hart) (n : Nat) (q : StreamQ) : (x.setQ n q).lfsr = x.lfsr := rfl
@[simp] theorem hart_setQ_copyLfsr (x : Hart) (n : Nat) (q : StreamQ) : (x.setQ n q).copyLfsr = x.copyLfsr := rfl
@[simp] theorem hart_setQ_tm (x : Hart) (n : Nat) (q : StreamQ) : (x.setQ n q).tm = x.tm := rfl
@[simp] theorem hart_setQ_tn (x : Hart) (n : Nat) (q : StreamQ) : (x.setQ n q).tn = x.tn := rfl
@[simp] theorem hart_setQ_tk (x : Hart) (n : Nat) (q : StreamQ) : (x.setQ n q).tk = x.tk := rfl
@[simp] theorem hart_setQ_tkprog (x : Hart) (n : Nat) (q : StreamQ) : (x.setQ n q).tkprog = x.tkprog := rfl
@[simp] theorem hart_setQ_tenant (x : Hart) (n : Nat) (q : StreamQ) : (x.setQ n q).tenant = x.tenant := rfl
@[simp] theorem hart_setQ_owned (x : Hart) (n : Nat) (q : StreamQ) : (x.setQ n q).owned = x.owned := rfl
@[simp] theorem hart_setQ_tile (x : Hart) (n : Nat) (q : StreamQ) : (x.setQ n q).tile = x.tile := rfl
@[simp] theorem hart_setQ_tileIssue (x : Hart) (n : Nat) (q : StreamQ) : (x.setQ n q).tileIssue = x.tileIssue := rfl
@[simp] theorem hart_setQ_cfg (x : Hart) (n : Nat) (q : StreamQ) : (x.setQ n q).cfg = x.cfg := rfl
@[simp] theorem hart_setQ_tvec (x : Hart) (n : Nat) (q : StreamQ) : (x.setQ n q).tvec = x.tvec := rfl
@[simp] theorem hart_setQ_tcause (x : Hart) (n : Nat) (q : StreamQ) : (x.setQ n q).tcause = x.tcause := rfl
@[simp] theorem hart_setQ_tpc (x : Hart) (n : Nat) (q : StreamQ) : (x.setQ n q).tpc = x.tpc := rfl
@[simp] theorem hart_setQ_tqsn (x : Hart) (n : Nat) (q : StreamQ) : (x.setQ n q).tqsn = x.tqsn := rfl
@[simp] theorem hart_setQ_tinfo0 (x : Hart) (n : Nat) (q : StreamQ) : (x.setQ n q).tinfo0 = x.tinfo0 := rfl
@[simp] theorem hart_setQ_tinfo1 (x : Hart) (n : Nat) (q : StreamQ) : (x.setQ n q).tinfo1 = x.tinfo1 := rfl
@[simp] theorem hart_setQ_tinfo2 (x : Hart) (n : Nat) (q : StreamQ) : (x.setQ n q).tinfo2 = x.tinfo2 := rfl
@[simp] theorem hart_setQ_tinfo3 (x : Hart) (n : Nat) (q : StreamQ) : (x.setQ n q).tinfo3 = x.tinfo3 := rfl
@[simp] theorem hart_setQ_tscratch (x : Hart) (n : Nat) (q : StreamQ) : (x.setQ n q).tscratch = x.tscratch := rfl
@[simp] theorem hart_setQ_emubase (x : Hart) (n : Nat) (q : StreamQ) : (x.setQ n q).emubase = x.emubase := rfl
@[simp] theorem hart_setQ_masks (x : Hart) (n : Nat) (q : StreamQ) : (x.setQ n q).masks = x.masks := rfl
@[simp] theorem hart_setQ_maskDirty (x : Hart) (n : Nat) (q : StreamQ) : (x.setQ n q).maskDirty = x.maskDirty := rfl
@[simp] theorem hart_setQ_vdirty (x : Hart) (n : Nat) (q : StreamQ) : (x.setQ n q).vdirty = x.vdirty := rfl
@[simp] theorem hart_setQ_vhw (x : Hart) (n : Nat) (q : StreamQ) : (x.setQ n q).vhw = x.vhw := rfl
@[simp] theorem hart_setQ_queues (x : Hart) (n : Nat) (q : StreamQ) : (x.setQ n q).queues = smSet {} x.queues n q := rfl
@[simp] theorem hart_setQ_queue (x : Hart) (n : Nat) (q : StreamQ) : (x.setQ n q).queue = x.queue := rfl
@[simp] theorem hart_setQ_nextQsn (x : Hart) (n : Nat) (q : StreamQ) : (x.setQ n q).nextQsn = x.nextQsn := rfl
@[simp] theorem hart_setQ_nextUid (x : Hart) (n : Nat) (q : StreamQ) : (x.setQ n q).nextUid = x.nextUid := rfl
@[simp] theorem hart_setQ_bar (x : Hart) (n : Nat) (q : StreamQ) : (x.setQ n q).bar = x.bar := rfl
@[simp] theorem hart_setQ_fence (x : Hart) (n : Nat) (q : StreamQ) : (x.setQ n q).fence = x.fence := rfl
@[simp] theorem hart_setQ_yield (x : Hart) (n : Nat) (q : StreamQ) : (x.setQ n q).yield = x.yield := rfl
@[simp] theorem hart_setQ_issueHold (x : Hart) (n : Nat) (q : StreamQ) : (x.setQ n q).issueHold = x.issueHold := rfl
@[simp] theorem hart_setQ_watchPass (x : Hart) (n : Nat) (q : StreamQ) : (x.setQ n q).watchPass = x.watchPass := rfl
@[simp] theorem hart_setQ_laneRetired (x : Hart) (n : Nat) (q : StreamQ) : (x.setQ n q).laneRetired = x.laneRetired := rfl
@[simp] theorem hart_setQ_faultUid (x : Hart) (n : Nat) (q : StreamQ) : (x.setQ n q).faultUid = x.faultUid := rfl
@[simp] theorem hart_setQ_vstartSet (x : Hart) (n : Nat) (q : StreamQ) : (x.setQ n q).vstartSet = x.vstartSet := rfl
@[simp] theorem hart_setQ_issueCount (x : Hart) (n : Nat) (q : StreamQ) : (x.setQ n q).issueCount = x.issueCount := rfl
@[simp] theorem hart_setQ_pending (x : Hart) (n : Nat) (q : StreamQ) : (x.setQ n q).pending = x.pending := rfl
@[simp] theorem hart_setQ_launch (x : Hart) (n : Nat) (q : StreamQ) : (x.setQ n q).launch = x.launch := rfl
@[simp] theorem hart_setQ_role (x : Hart) (n : Nat) (q : StreamQ) : (x.setQ n q).role = x.role := rfl
@[simp] theorem hart_setQ_fkey (x : Hart) (n : Nat) (q : StreamQ) : (x.setQ n q).fkey = x.fkey := rfl
@[simp] theorem hart_setQ_portable (x : Hart) (n : Nat) (q : StreamQ) : (x.setQ n q).portable = x.portable := rfl
@[simp] theorem hart_setQ_release (x : Hart) (n : Nat) (q : StreamQ) : (x.setQ n q).release = x.release := rfl
@[simp] theorem hart_setQ_ctx (x : Hart) (n : Nat) (q : StreamQ) : (x.setQ n q).ctx = x.ctx := rfl
@[simp] theorem hart_setQ_lag (x : Hart) (n : Nat) (q : StreamQ) : (x.setQ n q).lag = x.lag := rfl
@[simp] theorem hart_setQ_p (x : Hart) (n : Nat) (q : StreamQ) : (x.setQ n q).p = x.p := rfl

/-! ### Hart.setMask -/

@[simp] theorem hart_setMask_run (x : Hart) (n : Nat) (v : BitVec 16384) : (x.setMask n v).run = x.run := rfl
@[simp] theorem hart_setMask_super (x : Hart) (n : Nat) (v : BitVec 16384) : (x.setMask n v).super = x.super := rfl
@[simp] theorem hart_setMask_pc (x : Hart) (n : Nat) (v : BitVec 16384) : (x.setMask n v).pc = x.pc := rfl
@[simp] theorem hart_setMask_sregs (x : Hart) (n : Nat) (v : BitVec 16384) : (x.setMask n v).sregs = x.sregs := rfl
@[simp] theorem hart_setMask_vl (x : Hart) (n : Nat) (v : BitVec 16384) : (x.setMask n v).vl = x.vl := rfl
@[simp] theorem hart_setMask_vstart (x : Hart) (n : Nat) (v : BitVec 16384) : (x.setMask n v).vstart = x.vstart := rfl
@[simp] theorem hart_setMask_vtype (x : Hart) (n : Nat) (v : BitVec 16384) : (x.setMask n v).vtype = x.vtype := rfl
@[simp] theorem hart_setMask_ds (x : Hart) (n : Nat) (v : BitVec 16384) : (x.setMask n v).ds = x.ds := rfl
@[simp] theorem hart_setMask_fflags (x : Hart) (n : Nat) (v : BitVec 16384) : (x.setMask n v).fflags = x.fflags := rfl
@[simp] theorem hart_setMask_fexc (x : Hart) (n : Nat) (v : BitVec 16384) : (x.setMask n v).fexc = x.fexc := rfl
@[simp] theorem hart_setMask_fexcMark (x : Hart) (n : Nat) (v : BitVec 16384) : (x.setMask n v).fexcMark = x.fexcMark := rfl
@[simp] theorem hart_setMask_satcnt (x : Hart) (n : Nat) (v : BitVec 16384) : (x.setMask n v).satcnt = x.satcnt := rfl
@[simp] theorem hart_setMask_lfsrIdx (x : Hart) (n : Nat) (v : BitVec 16384) : (x.setMask n v).lfsrIdx = x.lfsrIdx := rfl
@[simp] theorem hart_setMask_lfsr (x : Hart) (n : Nat) (v : BitVec 16384) : (x.setMask n v).lfsr = x.lfsr := rfl
@[simp] theorem hart_setMask_copyLfsr (x : Hart) (n : Nat) (v : BitVec 16384) : (x.setMask n v).copyLfsr = x.copyLfsr := rfl
@[simp] theorem hart_setMask_tm (x : Hart) (n : Nat) (v : BitVec 16384) : (x.setMask n v).tm = x.tm := rfl
@[simp] theorem hart_setMask_tn (x : Hart) (n : Nat) (v : BitVec 16384) : (x.setMask n v).tn = x.tn := rfl
@[simp] theorem hart_setMask_tk (x : Hart) (n : Nat) (v : BitVec 16384) : (x.setMask n v).tk = x.tk := rfl
@[simp] theorem hart_setMask_tkprog (x : Hart) (n : Nat) (v : BitVec 16384) : (x.setMask n v).tkprog = x.tkprog := rfl
@[simp] theorem hart_setMask_tenant (x : Hart) (n : Nat) (v : BitVec 16384) : (x.setMask n v).tenant = x.tenant := rfl
@[simp] theorem hart_setMask_owned (x : Hart) (n : Nat) (v : BitVec 16384) : (x.setMask n v).owned = x.owned := rfl
@[simp] theorem hart_setMask_tile (x : Hart) (n : Nat) (v : BitVec 16384) : (x.setMask n v).tile = x.tile := rfl
@[simp] theorem hart_setMask_tileIssue (x : Hart) (n : Nat) (v : BitVec 16384) : (x.setMask n v).tileIssue = x.tileIssue := rfl
@[simp] theorem hart_setMask_cfg (x : Hart) (n : Nat) (v : BitVec 16384) : (x.setMask n v).cfg = x.cfg := rfl
@[simp] theorem hart_setMask_tvec (x : Hart) (n : Nat) (v : BitVec 16384) : (x.setMask n v).tvec = x.tvec := rfl
@[simp] theorem hart_setMask_tcause (x : Hart) (n : Nat) (v : BitVec 16384) : (x.setMask n v).tcause = x.tcause := rfl
@[simp] theorem hart_setMask_tpc (x : Hart) (n : Nat) (v : BitVec 16384) : (x.setMask n v).tpc = x.tpc := rfl
@[simp] theorem hart_setMask_tqsn (x : Hart) (n : Nat) (v : BitVec 16384) : (x.setMask n v).tqsn = x.tqsn := rfl
@[simp] theorem hart_setMask_tinfo0 (x : Hart) (n : Nat) (v : BitVec 16384) : (x.setMask n v).tinfo0 = x.tinfo0 := rfl
@[simp] theorem hart_setMask_tinfo1 (x : Hart) (n : Nat) (v : BitVec 16384) : (x.setMask n v).tinfo1 = x.tinfo1 := rfl
@[simp] theorem hart_setMask_tinfo2 (x : Hart) (n : Nat) (v : BitVec 16384) : (x.setMask n v).tinfo2 = x.tinfo2 := rfl
@[simp] theorem hart_setMask_tinfo3 (x : Hart) (n : Nat) (v : BitVec 16384) : (x.setMask n v).tinfo3 = x.tinfo3 := rfl
@[simp] theorem hart_setMask_tscratch (x : Hart) (n : Nat) (v : BitVec 16384) : (x.setMask n v).tscratch = x.tscratch := rfl
@[simp] theorem hart_setMask_emubase (x : Hart) (n : Nat) (v : BitVec 16384) : (x.setMask n v).emubase = x.emubase := rfl
@[simp] theorem hart_setMask_masks (x : Hart) (n : Nat) (v : BitVec 16384) : (x.setMask n v).masks = smSet 0 x.masks n v := rfl
@[simp] theorem hart_setMask_maskDirty (x : Hart) (n : Nat) (v : BitVec 16384) : (x.setMask n v).maskDirty = if x.maskDirty.contains n then x.maskDirty else n :: x.maskDirty := rfl
@[simp] theorem hart_setMask_vdirty (x : Hart) (n : Nat) (v : BitVec 16384) : (x.setMask n v).vdirty = x.vdirty := rfl
@[simp] theorem hart_setMask_vhw (x : Hart) (n : Nat) (v : BitVec 16384) : (x.setMask n v).vhw = x.vhw := rfl
@[simp] theorem hart_setMask_queues (x : Hart) (n : Nat) (v : BitVec 16384) : (x.setMask n v).queues = x.queues := rfl
@[simp] theorem hart_setMask_queue (x : Hart) (n : Nat) (v : BitVec 16384) : (x.setMask n v).queue = x.queue := rfl
@[simp] theorem hart_setMask_nextQsn (x : Hart) (n : Nat) (v : BitVec 16384) : (x.setMask n v).nextQsn = x.nextQsn := rfl
@[simp] theorem hart_setMask_nextUid (x : Hart) (n : Nat) (v : BitVec 16384) : (x.setMask n v).nextUid = x.nextUid := rfl
@[simp] theorem hart_setMask_bar (x : Hart) (n : Nat) (v : BitVec 16384) : (x.setMask n v).bar = x.bar := rfl
@[simp] theorem hart_setMask_fence (x : Hart) (n : Nat) (v : BitVec 16384) : (x.setMask n v).fence = x.fence := rfl
@[simp] theorem hart_setMask_yield (x : Hart) (n : Nat) (v : BitVec 16384) : (x.setMask n v).yield = x.yield := rfl
@[simp] theorem hart_setMask_issueHold (x : Hart) (n : Nat) (v : BitVec 16384) : (x.setMask n v).issueHold = x.issueHold := rfl
@[simp] theorem hart_setMask_watchPass (x : Hart) (n : Nat) (v : BitVec 16384) : (x.setMask n v).watchPass = x.watchPass := rfl
@[simp] theorem hart_setMask_laneRetired (x : Hart) (n : Nat) (v : BitVec 16384) : (x.setMask n v).laneRetired = x.laneRetired := rfl
@[simp] theorem hart_setMask_faultUid (x : Hart) (n : Nat) (v : BitVec 16384) : (x.setMask n v).faultUid = x.faultUid := rfl
@[simp] theorem hart_setMask_vstartSet (x : Hart) (n : Nat) (v : BitVec 16384) : (x.setMask n v).vstartSet = x.vstartSet := rfl
@[simp] theorem hart_setMask_issueCount (x : Hart) (n : Nat) (v : BitVec 16384) : (x.setMask n v).issueCount = x.issueCount := rfl
@[simp] theorem hart_setMask_pending (x : Hart) (n : Nat) (v : BitVec 16384) : (x.setMask n v).pending = x.pending := rfl
@[simp] theorem hart_setMask_launch (x : Hart) (n : Nat) (v : BitVec 16384) : (x.setMask n v).launch = x.launch := rfl
@[simp] theorem hart_setMask_role (x : Hart) (n : Nat) (v : BitVec 16384) : (x.setMask n v).role = x.role := rfl
@[simp] theorem hart_setMask_fkey (x : Hart) (n : Nat) (v : BitVec 16384) : (x.setMask n v).fkey = x.fkey := rfl
@[simp] theorem hart_setMask_portable (x : Hart) (n : Nat) (v : BitVec 16384) : (x.setMask n v).portable = x.portable := rfl
@[simp] theorem hart_setMask_release (x : Hart) (n : Nat) (v : BitVec 16384) : (x.setMask n v).release = x.release := rfl
@[simp] theorem hart_setMask_ctx (x : Hart) (n : Nat) (v : BitVec 16384) : (x.setMask n v).ctx = x.ctx := rfl
@[simp] theorem hart_setMask_lag (x : Hart) (n : Nat) (v : BitVec 16384) : (x.setMask n v).lag = x.lag := rfl
@[simp] theorem hart_setMask_p (x : Hart) (n : Nat) (v : BitVec 16384) : (x.setMask n v).p = x.p := rfl

/-! ### Hart.setLaneLfsr -/

@[simp] theorem hart_setLaneLfsr_run (x : Hart) (i : Nat) (v : BitVec 32) : (x.setLaneLfsr i v).run = x.run := rfl
@[simp] theorem hart_setLaneLfsr_super (x : Hart) (i : Nat) (v : BitVec 32) : (x.setLaneLfsr i v).super = x.super := rfl
@[simp] theorem hart_setLaneLfsr_pc (x : Hart) (i : Nat) (v : BitVec 32) : (x.setLaneLfsr i v).pc = x.pc := rfl
@[simp] theorem hart_setLaneLfsr_sregs (x : Hart) (i : Nat) (v : BitVec 32) : (x.setLaneLfsr i v).sregs = x.sregs := rfl
@[simp] theorem hart_setLaneLfsr_vl (x : Hart) (i : Nat) (v : BitVec 32) : (x.setLaneLfsr i v).vl = x.vl := rfl
@[simp] theorem hart_setLaneLfsr_vstart (x : Hart) (i : Nat) (v : BitVec 32) : (x.setLaneLfsr i v).vstart = x.vstart := rfl
@[simp] theorem hart_setLaneLfsr_vtype (x : Hart) (i : Nat) (v : BitVec 32) : (x.setLaneLfsr i v).vtype = x.vtype := rfl
@[simp] theorem hart_setLaneLfsr_ds (x : Hart) (i : Nat) (v : BitVec 32) : (x.setLaneLfsr i v).ds = x.ds := rfl
@[simp] theorem hart_setLaneLfsr_fflags (x : Hart) (i : Nat) (v : BitVec 32) : (x.setLaneLfsr i v).fflags = x.fflags := rfl
@[simp] theorem hart_setLaneLfsr_fexc (x : Hart) (i : Nat) (v : BitVec 32) : (x.setLaneLfsr i v).fexc = x.fexc := rfl
@[simp] theorem hart_setLaneLfsr_fexcMark (x : Hart) (i : Nat) (v : BitVec 32) : (x.setLaneLfsr i v).fexcMark = x.fexcMark := rfl
@[simp] theorem hart_setLaneLfsr_satcnt (x : Hart) (i : Nat) (v : BitVec 32) : (x.setLaneLfsr i v).satcnt = x.satcnt := rfl
@[simp] theorem hart_setLaneLfsr_lfsrIdx (x : Hart) (i : Nat) (v : BitVec 32) : (x.setLaneLfsr i v).lfsrIdx = x.lfsrIdx := rfl
@[simp] theorem hart_setLaneLfsr_lfsr (x : Hart) (i : Nat) (v : BitVec 32) : (x.setLaneLfsr i v).lfsr = smSet (BitVec.ofNat 32 (i + 1)) x.lfsr i v := rfl
@[simp] theorem hart_setLaneLfsr_copyLfsr (x : Hart) (i : Nat) (v : BitVec 32) : (x.setLaneLfsr i v).copyLfsr = x.copyLfsr := rfl
@[simp] theorem hart_setLaneLfsr_tm (x : Hart) (i : Nat) (v : BitVec 32) : (x.setLaneLfsr i v).tm = x.tm := rfl
@[simp] theorem hart_setLaneLfsr_tn (x : Hart) (i : Nat) (v : BitVec 32) : (x.setLaneLfsr i v).tn = x.tn := rfl
@[simp] theorem hart_setLaneLfsr_tk (x : Hart) (i : Nat) (v : BitVec 32) : (x.setLaneLfsr i v).tk = x.tk := rfl
@[simp] theorem hart_setLaneLfsr_tkprog (x : Hart) (i : Nat) (v : BitVec 32) : (x.setLaneLfsr i v).tkprog = x.tkprog := rfl
@[simp] theorem hart_setLaneLfsr_tenant (x : Hart) (i : Nat) (v : BitVec 32) : (x.setLaneLfsr i v).tenant = x.tenant := rfl
@[simp] theorem hart_setLaneLfsr_owned (x : Hart) (i : Nat) (v : BitVec 32) : (x.setLaneLfsr i v).owned = x.owned := rfl
@[simp] theorem hart_setLaneLfsr_tile (x : Hart) (i : Nat) (v : BitVec 32) : (x.setLaneLfsr i v).tile = x.tile := rfl
@[simp] theorem hart_setLaneLfsr_tileIssue (x : Hart) (i : Nat) (v : BitVec 32) : (x.setLaneLfsr i v).tileIssue = x.tileIssue := rfl
@[simp] theorem hart_setLaneLfsr_cfg (x : Hart) (i : Nat) (v : BitVec 32) : (x.setLaneLfsr i v).cfg = x.cfg := rfl
@[simp] theorem hart_setLaneLfsr_tvec (x : Hart) (i : Nat) (v : BitVec 32) : (x.setLaneLfsr i v).tvec = x.tvec := rfl
@[simp] theorem hart_setLaneLfsr_tcause (x : Hart) (i : Nat) (v : BitVec 32) : (x.setLaneLfsr i v).tcause = x.tcause := rfl
@[simp] theorem hart_setLaneLfsr_tpc (x : Hart) (i : Nat) (v : BitVec 32) : (x.setLaneLfsr i v).tpc = x.tpc := rfl
@[simp] theorem hart_setLaneLfsr_tqsn (x : Hart) (i : Nat) (v : BitVec 32) : (x.setLaneLfsr i v).tqsn = x.tqsn := rfl
@[simp] theorem hart_setLaneLfsr_tinfo0 (x : Hart) (i : Nat) (v : BitVec 32) : (x.setLaneLfsr i v).tinfo0 = x.tinfo0 := rfl
@[simp] theorem hart_setLaneLfsr_tinfo1 (x : Hart) (i : Nat) (v : BitVec 32) : (x.setLaneLfsr i v).tinfo1 = x.tinfo1 := rfl
@[simp] theorem hart_setLaneLfsr_tinfo2 (x : Hart) (i : Nat) (v : BitVec 32) : (x.setLaneLfsr i v).tinfo2 = x.tinfo2 := rfl
@[simp] theorem hart_setLaneLfsr_tinfo3 (x : Hart) (i : Nat) (v : BitVec 32) : (x.setLaneLfsr i v).tinfo3 = x.tinfo3 := rfl
@[simp] theorem hart_setLaneLfsr_tscratch (x : Hart) (i : Nat) (v : BitVec 32) : (x.setLaneLfsr i v).tscratch = x.tscratch := rfl
@[simp] theorem hart_setLaneLfsr_emubase (x : Hart) (i : Nat) (v : BitVec 32) : (x.setLaneLfsr i v).emubase = x.emubase := rfl
@[simp] theorem hart_setLaneLfsr_masks (x : Hart) (i : Nat) (v : BitVec 32) : (x.setLaneLfsr i v).masks = x.masks := rfl
@[simp] theorem hart_setLaneLfsr_maskDirty (x : Hart) (i : Nat) (v : BitVec 32) : (x.setLaneLfsr i v).maskDirty = x.maskDirty := rfl
@[simp] theorem hart_setLaneLfsr_vdirty (x : Hart) (i : Nat) (v : BitVec 32) : (x.setLaneLfsr i v).vdirty = x.vdirty := rfl
@[simp] theorem hart_setLaneLfsr_vhw (x : Hart) (i : Nat) (v : BitVec 32) : (x.setLaneLfsr i v).vhw = x.vhw := rfl
@[simp] theorem hart_setLaneLfsr_queues (x : Hart) (i : Nat) (v : BitVec 32) : (x.setLaneLfsr i v).queues = x.queues := rfl
@[simp] theorem hart_setLaneLfsr_queue (x : Hart) (i : Nat) (v : BitVec 32) : (x.setLaneLfsr i v).queue = x.queue := rfl
@[simp] theorem hart_setLaneLfsr_nextQsn (x : Hart) (i : Nat) (v : BitVec 32) : (x.setLaneLfsr i v).nextQsn = x.nextQsn := rfl
@[simp] theorem hart_setLaneLfsr_nextUid (x : Hart) (i : Nat) (v : BitVec 32) : (x.setLaneLfsr i v).nextUid = x.nextUid := rfl
@[simp] theorem hart_setLaneLfsr_bar (x : Hart) (i : Nat) (v : BitVec 32) : (x.setLaneLfsr i v).bar = x.bar := rfl
@[simp] theorem hart_setLaneLfsr_fence (x : Hart) (i : Nat) (v : BitVec 32) : (x.setLaneLfsr i v).fence = x.fence := rfl
@[simp] theorem hart_setLaneLfsr_yield (x : Hart) (i : Nat) (v : BitVec 32) : (x.setLaneLfsr i v).yield = x.yield := rfl
@[simp] theorem hart_setLaneLfsr_issueHold (x : Hart) (i : Nat) (v : BitVec 32) : (x.setLaneLfsr i v).issueHold = x.issueHold := rfl
@[simp] theorem hart_setLaneLfsr_watchPass (x : Hart) (i : Nat) (v : BitVec 32) : (x.setLaneLfsr i v).watchPass = x.watchPass := rfl
@[simp] theorem hart_setLaneLfsr_laneRetired (x : Hart) (i : Nat) (v : BitVec 32) : (x.setLaneLfsr i v).laneRetired = x.laneRetired := rfl
@[simp] theorem hart_setLaneLfsr_faultUid (x : Hart) (i : Nat) (v : BitVec 32) : (x.setLaneLfsr i v).faultUid = x.faultUid := rfl
@[simp] theorem hart_setLaneLfsr_vstartSet (x : Hart) (i : Nat) (v : BitVec 32) : (x.setLaneLfsr i v).vstartSet = x.vstartSet := rfl
@[simp] theorem hart_setLaneLfsr_issueCount (x : Hart) (i : Nat) (v : BitVec 32) : (x.setLaneLfsr i v).issueCount = x.issueCount := rfl
@[simp] theorem hart_setLaneLfsr_pending (x : Hart) (i : Nat) (v : BitVec 32) : (x.setLaneLfsr i v).pending = x.pending := rfl
@[simp] theorem hart_setLaneLfsr_launch (x : Hart) (i : Nat) (v : BitVec 32) : (x.setLaneLfsr i v).launch = x.launch := rfl
@[simp] theorem hart_setLaneLfsr_role (x : Hart) (i : Nat) (v : BitVec 32) : (x.setLaneLfsr i v).role = x.role := rfl
@[simp] theorem hart_setLaneLfsr_fkey (x : Hart) (i : Nat) (v : BitVec 32) : (x.setLaneLfsr i v).fkey = x.fkey := rfl
@[simp] theorem hart_setLaneLfsr_portable (x : Hart) (i : Nat) (v : BitVec 32) : (x.setLaneLfsr i v).portable = x.portable := rfl
@[simp] theorem hart_setLaneLfsr_release (x : Hart) (i : Nat) (v : BitVec 32) : (x.setLaneLfsr i v).release = x.release := rfl
@[simp] theorem hart_setLaneLfsr_ctx (x : Hart) (i : Nat) (v : BitVec 32) : (x.setLaneLfsr i v).ctx = x.ctx := rfl
@[simp] theorem hart_setLaneLfsr_lag (x : Hart) (i : Nat) (v : BitVec 32) : (x.setLaneLfsr i v).lag = x.lag := rfl
@[simp] theorem hart_setLaneLfsr_p (x : Hart) (i : Nat) (v : BitVec 32) : (x.setLaneLfsr i v).p = x.p := rfl

/-! ### Hart.setS -/

@[simp] theorem hart_setS_run (x : Hart) (r : Nat) (v : Word) : (x.setS r v).run = x.run := by unfold Hart.setS; split <;> rfl
@[simp] theorem hart_setS_super (x : Hart) (r : Nat) (v : Word) : (x.setS r v).super = x.super := by unfold Hart.setS; split <;> rfl
@[simp] theorem hart_setS_pc (x : Hart) (r : Nat) (v : Word) : (x.setS r v).pc = x.pc := by unfold Hart.setS; split <;> rfl
theorem hart_setS_sregs (x : Hart) (r : Nat) (v : Word) : (x.setS r v).sregs = if r = 0 then x.sregs else smSet 0 x.sregs r v := by unfold Hart.setS; split <;> rfl
@[simp] theorem hart_setS_vl (x : Hart) (r : Nat) (v : Word) : (x.setS r v).vl = x.vl := by unfold Hart.setS; split <;> rfl
@[simp] theorem hart_setS_vstart (x : Hart) (r : Nat) (v : Word) : (x.setS r v).vstart = x.vstart := by unfold Hart.setS; split <;> rfl
@[simp] theorem hart_setS_vtype (x : Hart) (r : Nat) (v : Word) : (x.setS r v).vtype = x.vtype := by unfold Hart.setS; split <;> rfl
@[simp] theorem hart_setS_ds (x : Hart) (r : Nat) (v : Word) : (x.setS r v).ds = x.ds := by unfold Hart.setS; split <;> rfl
@[simp] theorem hart_setS_fflags (x : Hart) (r : Nat) (v : Word) : (x.setS r v).fflags = x.fflags := by unfold Hart.setS; split <;> rfl
@[simp] theorem hart_setS_fexc (x : Hart) (r : Nat) (v : Word) : (x.setS r v).fexc = x.fexc := by unfold Hart.setS; split <;> rfl
@[simp] theorem hart_setS_fexcMark (x : Hart) (r : Nat) (v : Word) : (x.setS r v).fexcMark = x.fexcMark := by unfold Hart.setS; split <;> rfl
@[simp] theorem hart_setS_satcnt (x : Hart) (r : Nat) (v : Word) : (x.setS r v).satcnt = x.satcnt := by unfold Hart.setS; split <;> rfl
@[simp] theorem hart_setS_lfsrIdx (x : Hart) (r : Nat) (v : Word) : (x.setS r v).lfsrIdx = x.lfsrIdx := by unfold Hart.setS; split <;> rfl
@[simp] theorem hart_setS_lfsr (x : Hart) (r : Nat) (v : Word) : (x.setS r v).lfsr = x.lfsr := by unfold Hart.setS; split <;> rfl
@[simp] theorem hart_setS_copyLfsr (x : Hart) (r : Nat) (v : Word) : (x.setS r v).copyLfsr = x.copyLfsr := by unfold Hart.setS; split <;> rfl
@[simp] theorem hart_setS_tm (x : Hart) (r : Nat) (v : Word) : (x.setS r v).tm = x.tm := by unfold Hart.setS; split <;> rfl
@[simp] theorem hart_setS_tn (x : Hart) (r : Nat) (v : Word) : (x.setS r v).tn = x.tn := by unfold Hart.setS; split <;> rfl
@[simp] theorem hart_setS_tk (x : Hart) (r : Nat) (v : Word) : (x.setS r v).tk = x.tk := by unfold Hart.setS; split <;> rfl
@[simp] theorem hart_setS_tkprog (x : Hart) (r : Nat) (v : Word) : (x.setS r v).tkprog = x.tkprog := by unfold Hart.setS; split <;> rfl
@[simp] theorem hart_setS_tenant (x : Hart) (r : Nat) (v : Word) : (x.setS r v).tenant = x.tenant := by unfold Hart.setS; split <;> rfl
@[simp] theorem hart_setS_owned (x : Hart) (r : Nat) (v : Word) : (x.setS r v).owned = x.owned := by unfold Hart.setS; split <;> rfl
@[simp] theorem hart_setS_tile (x : Hart) (r : Nat) (v : Word) : (x.setS r v).tile = x.tile := by unfold Hart.setS; split <;> rfl
@[simp] theorem hart_setS_tileIssue (x : Hart) (r : Nat) (v : Word) : (x.setS r v).tileIssue = x.tileIssue := by unfold Hart.setS; split <;> rfl
@[simp] theorem hart_setS_cfg (x : Hart) (r : Nat) (v : Word) : (x.setS r v).cfg = x.cfg := by unfold Hart.setS; split <;> rfl
@[simp] theorem hart_setS_tvec (x : Hart) (r : Nat) (v : Word) : (x.setS r v).tvec = x.tvec := by unfold Hart.setS; split <;> rfl
@[simp] theorem hart_setS_tcause (x : Hart) (r : Nat) (v : Word) : (x.setS r v).tcause = x.tcause := by unfold Hart.setS; split <;> rfl
@[simp] theorem hart_setS_tpc (x : Hart) (r : Nat) (v : Word) : (x.setS r v).tpc = x.tpc := by unfold Hart.setS; split <;> rfl
@[simp] theorem hart_setS_tqsn (x : Hart) (r : Nat) (v : Word) : (x.setS r v).tqsn = x.tqsn := by unfold Hart.setS; split <;> rfl
@[simp] theorem hart_setS_tinfo0 (x : Hart) (r : Nat) (v : Word) : (x.setS r v).tinfo0 = x.tinfo0 := by unfold Hart.setS; split <;> rfl
@[simp] theorem hart_setS_tinfo1 (x : Hart) (r : Nat) (v : Word) : (x.setS r v).tinfo1 = x.tinfo1 := by unfold Hart.setS; split <;> rfl
@[simp] theorem hart_setS_tinfo2 (x : Hart) (r : Nat) (v : Word) : (x.setS r v).tinfo2 = x.tinfo2 := by unfold Hart.setS; split <;> rfl
@[simp] theorem hart_setS_tinfo3 (x : Hart) (r : Nat) (v : Word) : (x.setS r v).tinfo3 = x.tinfo3 := by unfold Hart.setS; split <;> rfl
@[simp] theorem hart_setS_tscratch (x : Hart) (r : Nat) (v : Word) : (x.setS r v).tscratch = x.tscratch := by unfold Hart.setS; split <;> rfl
@[simp] theorem hart_setS_emubase (x : Hart) (r : Nat) (v : Word) : (x.setS r v).emubase = x.emubase := by unfold Hart.setS; split <;> rfl
@[simp] theorem hart_setS_masks (x : Hart) (r : Nat) (v : Word) : (x.setS r v).masks = x.masks := by unfold Hart.setS; split <;> rfl
@[simp] theorem hart_setS_maskDirty (x : Hart) (r : Nat) (v : Word) : (x.setS r v).maskDirty = x.maskDirty := by unfold Hart.setS; split <;> rfl
@[simp] theorem hart_setS_vdirty (x : Hart) (r : Nat) (v : Word) : (x.setS r v).vdirty = x.vdirty := by unfold Hart.setS; split <;> rfl
@[simp] theorem hart_setS_vhw (x : Hart) (r : Nat) (v : Word) : (x.setS r v).vhw = x.vhw := by unfold Hart.setS; split <;> rfl
@[simp] theorem hart_setS_queues (x : Hart) (r : Nat) (v : Word) : (x.setS r v).queues = x.queues := by unfold Hart.setS; split <;> rfl
@[simp] theorem hart_setS_queue (x : Hart) (r : Nat) (v : Word) : (x.setS r v).queue = x.queue := by unfold Hart.setS; split <;> rfl
@[simp] theorem hart_setS_nextQsn (x : Hart) (r : Nat) (v : Word) : (x.setS r v).nextQsn = x.nextQsn := by unfold Hart.setS; split <;> rfl
@[simp] theorem hart_setS_nextUid (x : Hart) (r : Nat) (v : Word) : (x.setS r v).nextUid = x.nextUid := by unfold Hart.setS; split <;> rfl
@[simp] theorem hart_setS_bar (x : Hart) (r : Nat) (v : Word) : (x.setS r v).bar = x.bar := by unfold Hart.setS; split <;> rfl
@[simp] theorem hart_setS_fence (x : Hart) (r : Nat) (v : Word) : (x.setS r v).fence = x.fence := by unfold Hart.setS; split <;> rfl
@[simp] theorem hart_setS_yield (x : Hart) (r : Nat) (v : Word) : (x.setS r v).yield = x.yield := by unfold Hart.setS; split <;> rfl
@[simp] theorem hart_setS_issueHold (x : Hart) (r : Nat) (v : Word) : (x.setS r v).issueHold = x.issueHold := by unfold Hart.setS; split <;> rfl
@[simp] theorem hart_setS_watchPass (x : Hart) (r : Nat) (v : Word) : (x.setS r v).watchPass = x.watchPass := by unfold Hart.setS; split <;> rfl
@[simp] theorem hart_setS_laneRetired (x : Hart) (r : Nat) (v : Word) : (x.setS r v).laneRetired = x.laneRetired := by unfold Hart.setS; split <;> rfl
@[simp] theorem hart_setS_faultUid (x : Hart) (r : Nat) (v : Word) : (x.setS r v).faultUid = x.faultUid := by unfold Hart.setS; split <;> rfl
@[simp] theorem hart_setS_vstartSet (x : Hart) (r : Nat) (v : Word) : (x.setS r v).vstartSet = x.vstartSet := by unfold Hart.setS; split <;> rfl
@[simp] theorem hart_setS_issueCount (x : Hart) (r : Nat) (v : Word) : (x.setS r v).issueCount = x.issueCount := by unfold Hart.setS; split <;> rfl
@[simp] theorem hart_setS_pending (x : Hart) (r : Nat) (v : Word) : (x.setS r v).pending = x.pending := by unfold Hart.setS; split <;> rfl
@[simp] theorem hart_setS_launch (x : Hart) (r : Nat) (v : Word) : (x.setS r v).launch = x.launch := by unfold Hart.setS; split <;> rfl
@[simp] theorem hart_setS_role (x : Hart) (r : Nat) (v : Word) : (x.setS r v).role = x.role := by unfold Hart.setS; split <;> rfl
@[simp] theorem hart_setS_fkey (x : Hart) (r : Nat) (v : Word) : (x.setS r v).fkey = x.fkey := by unfold Hart.setS; split <;> rfl
@[simp] theorem hart_setS_portable (x : Hart) (r : Nat) (v : Word) : (x.setS r v).portable = x.portable := by unfold Hart.setS; split <;> rfl
@[simp] theorem hart_setS_release (x : Hart) (r : Nat) (v : Word) : (x.setS r v).release = x.release := by unfold Hart.setS; split <;> rfl
@[simp] theorem hart_setS_ctx (x : Hart) (r : Nat) (v : Word) : (x.setS r v).ctx = x.ctx := by unfold Hart.setS; split <;> rfl
@[simp] theorem hart_setS_lag (x : Hart) (r : Nat) (v : Word) : (x.setS r v).lag = x.lag := by unfold Hart.setS; split <;> rfl
@[simp] theorem hart_setS_p (x : Hart) (r : Nat) (v : Word) : (x.setS r v).p = x.p := by unfold Hart.setS; split <;> rfl

end Sys2Proof.Machine
end

