-- ==== Sys2Proof/Laws/Memory.lean ====
section
/-!
SUPPORT. Physical memory: what a write changes, and the canonical form that every operation on memory keeps.
-/

namespace Sys2Proof.Machine

/-! ### One byte -/

/-- Reading after writing a byte. -/
theorem byteAt_setByte (s : State) (pa q : Nat) (b : BitVec 8) :
    (s.setByte pa b).byteAt q = if memKey q = memKey pa then b else s.byteAt q := by
  simp [State.byteAt]

/-- A byte whose location differs from every byte written reads as before. -/
theorem byteAt_setBytes_other (n : Nat) (s : State) (pa v q : Nat) (h : ∀ i, i < n → memKey q ≠ memKey (pa + i)) :
    (s.setBytes pa n v).byteAt q = s.byteAt q := by
  induction n generalizing s pa v with
  | zero => rfl
  | succ n ih =>
    simp only [State.setBytes]
    rw [ih _ _ _ (fun i hi => by have := h (i + 1) (by omega); rwa [show pa + (i + 1) = pa + 1 + i by omega] at this),
      byteAt_setByte, if_neg (by simpa using h 0 (by omega))]

/-! ### The canonical form -/

theorem wf_setByte (s : State) (pa : Nat) (b : BitVec 8) (h : Memory.wf s.mem = true) :
    Memory.wf (s.setByte pa b).mem = true := by
  simpa [Memory.wf] using smWf_set 0 s.mem (memKey pa) b h

theorem wf_setBytes (n : Nat) (s : State) (pa v : Nat) (h : Memory.wf s.mem = true) :
    Memory.wf (s.setBytes pa n v).mem = true := by
  induction n generalizing s pa v with
  | zero => exact h
  | succ n ih => exact ih _ _ _ (wf_setByte s pa _ h)

/-- The scrub of an owner entry's unit (13 R415). -/
theorem wf_writeOwner (s : State) (u : Nat) (v : BitVec 8) (h : Memory.wf s.mem = true) :
    Memory.wf (s.writeOwner u v).mem = true := by
  unfold State.writeOwner
  dsimp only
  split
  · exact h
  · exact smWf_filter 0 s.mem _ h

theorem wf_deviceReset (s : State) (h : Memory.wf s.mem = true) : Memory.wf (deviceReset s).mem = true :=
  smWf_filter 0 s.mem _ h

theorem wf_placeWord (w : Nat) (s : State) (h : Memory.wf s.mem = true) : Memory.wf (placeWord w s).mem = true := by
  unfold placeWord
  exact wf_setBytes _ _ _ _ h

/-! ### A property of the state through a computation -/

/-- Whatever way a computation ends, it keeps a property of the state. -/
def Keeps {α : Type} (P : State → Prop) (m : M α) : Prop := ∀ s, P s → P (runM m s).2

variable {α β : Type} {P : State → Prop}

theorem keeps_pure (a : α) : Keeps P (pure a) := fun _ h => h

theorem keeps_throw (e : Exc) : Keeps P (throw e : M α) := fun _ h => h

theorem keeps_raise (t : TrapInfo) : Keeps P (raise t : M α) := fun _ h => h

theorem keeps_raiseEnd (t : TrapInfo) : Keeps P (raiseEnd t : M α) := fun _ h => h

theorem keeps_block : Keeps P (block : M α) := fun _ h => h

theorem keeps_get : Keeps P (get : M State) := fun _ h => h

theorem keeps_meM : Keeps P meM := fun _ h => h

theorem keeps_set (t : State) (h : P t) : Keeps P (set t : M PUnit) := fun _ _ => h

theorem keeps_modify (f : State → State) (h : ∀ s, P s → P (f s)) : Keeps P (modify f : M PUnit) := fun s hs => h s hs

theorem keeps_updMeM (f : Hart → Hart) (h : ∀ s, P s → P (s.updMe f)) : Keeps P (updMeM f) := fun s hs => h s hs

theorem runM_bind (m : M α) (f : α → M β) (s : State) :
    runM (m >>= f) s = match runM m s with
      | (.ok a, t) => runM (f a) t
      | (.error e, t) => (.error e, t) := by
  show (ExceptT.bind m f).run s = _
  unfold ExceptT.bind ExceptT.bindCont ExceptT.mk runM
  show StateT.run (StateT.bind m _) s = _
  unfold StateT.bind StateT.run
  show (match m s with | (a, t) => _) = _
  cases h : m s with
  | mk a t =>
    have : m.run s = (a, t) := h
    cases a <;> simp [this] <;> rfl

theorem keeps_bind (m : M α) (f : α → M β) (hm : Keeps P m) (hf : ∀ a, Keeps P (f a)) : Keeps P (m >>= f) := by
  intro s hs
  rw [runM_bind]
  have := hm s hs
  cases h : runM m s with
  | mk a t =>
    rw [h] at this
    cases a with
    | error e => exact this
    | ok a => exact hf a t this

/-! ### How a computation runs -/

@[simp] theorem runM_pure (a : α) (s : State) : runM (pure a : M α) s = (.ok a, s) := rfl
@[simp] theorem runM_get (s : State) : runM (get : M State) s = (.ok s, s) := rfl
@[simp] theorem runM_meM (s : State) : runM meM s = (.ok s.me, s) := rfl
@[simp] theorem runM_updMeM (f : Hart → Hart) (s : State) : runM (updMeM f) s = (.ok (), s.updMe f) := rfl
@[simp] theorem runM_modify (f : State → State) (s : State) : runM (modify f : M PUnit) s = (.ok ⟨⟩, f s) := rfl
@[simp] theorem runM_set (t s : State) : runM (set t : M PUnit) s = (.ok ⟨⟩, t) := rfl
@[simp] theorem runM_raise (t : TrapInfo) (s : State) : runM (raise t : M α) s = (.error (.trap t), s) := rfl
@[simp] theorem runM_raiseEnd (t : TrapInfo) (s : State) : runM (raiseEnd t : M α) s = (.error (.endTrap t), s) := rfl
@[simp] theorem runM_block (s : State) : runM (block : M α) s = (.error .wait, s) := rfl

/-- An access of the running hart: its answer, its trap, or a wait for its route. -/
theorem runM_accM (f : State → Except AccErr α × State) (mk : AccErr → TrapInfo) (s : State) :
    runM (accM f mk) s = match f s with
      | (.ok a, t) => (.ok a, t)
      | (.error (.paused _), t) => (.error .wait, t)
      | (.error e, t) => (.error (.trap (mk e)), t) := by
  unfold accM
  rw [runM_bind, runM_get]
  dsimp only
  rcases f s with ⟨a | a, t⟩
  · cases a <;> rfl
  · rfl

/-- The check of a scalar address. -/
theorem runM_alignCheck (va : Word) (n elem : Nat) (s : State) :
    runM (alignCheck va n elem) s = if va.toNat % n = 0 then (.ok (), s) else (.error (.trap (misalign va elem)), s) := by
  unfold alignCheck
  by_cases h : va.toNat % n = 0 <;> simp [h]

/-- A computation that starts by reading the state. -/
theorem keeps_getBind (f : State → M β) (hf : ∀ s, P s → P (runM (f s) s).2) : Keeps P (get >>= f) := by
  intro s hs
  rw [runM_bind]
  exact hf s hs

theorem keeps_forRange (n lo : Nat) (f : Nat → M Unit) (hf : ∀ i, Keeps P (f i)) : Keeps P (forRange lo n f) := by
  induction n generalizing lo with
  | zero => exact keeps_pure ()
  | succ n ih => exact keeps_bind _ _ (hf lo) (fun _ => ih (lo + 1))

/-- An update of the running hart keeps the canonical form of memory. -/
theorem inv_updMe (s : State) (f : Hart → Hart) (h : s.Inv) : (s.updMe f).Inv := h

theorem inv_updHart (s : State) (k : Nat) (f : Hart → Hart) (h : s.Inv) : (s.updHart k f).Inv := h

theorem inv_setHart (s : State) (k : Nat) (x : Hart) (h : s.Inv) : (s.setHart k x).Inv := h

theorem inv_trapHere (s : State) (t : TrapInfo) (h : s.Inv) : (s.trapHere t).Inv := h

theorem inv_setBytes (s : State) (pa n v : Nat) (h : s.Inv) : (s.setBytes pa n v).Inv := wf_setBytes n s pa v h

end Sys2Proof.Machine
end

