-- ==== Sys2Proof/Laws/Ops.lean ====
section
/-!
SUPPORT. The shared operations, one lemma for everything each can do: registers and harts, scalar instructions, issue, traps.
-/

namespace Sys2Proof.Machine

/-! ### Harts and registers -/

theorem hart_setHart (s : State) (h k : Nat) (x : Hart) : (s.setHart h x).hart k = if k = h then x else s.hart k := by
  simp [State.hart]

@[simp] theorem hart_setHart_same (s : State) (h : Nat) (x : Hart) : (s.setHart h x).hart h = x := by
  simp [hart_setHart]

theorem hart_updHart (s : State) (h k : Nat) (f : Hart → Hart) :
    (s.updHart h f).hart k = if k = h then f (s.hart h) else s.hart k := hart_setHart s h k _

@[simp] theorem me_updMe (s : State) (f : Hart → Hart) : (s.updMe f).me = f s.me := by
  unfold State.me State.updMe State.updHart
  simp

/-- Two updates of the running hart are one. -/
@[simp] theorem updMe_updMe (s : State) (f g : Hart → Hart) : (s.updMe f).updMe g = s.updMe (fun x => g (f x)) := by
  have h : (s.updMe f).hart (s.updMe f).cur = f s.me := me_updMe s f
  unfold State.updMe State.updHart State.setHart at *
  simp only [] at h ⊢
  rw [h, smPut_put]
  rfl

theorem hart_updMe_other (s : State) (f : Hart → Hart) (k : Nat) (h : k ≠ s.cur) : (s.updMe f).hart k = s.hart k := by
  rw [show s.updMe f = s.updHart s.cur f from rfl, hart_updHart, if_neg h]

@[simp] theorem byteAt_updMe (s : State) (f : Hart → Hart) (pa : Nat) : (s.updMe f).byteAt pa = s.byteAt pa := rfl

@[simp] theorem s_zero (x : Hart) : x.s 0 = 0 := rfl

/-- Reading a scalar register after a write: s0 stays 0 (R133). -/
theorem s_setS (x : Hart) (r q : Nat) (v : Word) : (x.setS r v).s q = if q = r ∧ r ≠ 0 then v else x.s q := by
  unfold Hart.setS Hart.s
  by_cases hr : r = 0
  · simp [hr]
  · by_cases hq : q = 0
    · subst hq; simp [hr, Ne.symm hr]
    · simp [hr, hq]

@[simp] theorem s_adv (x : Hart) (q : Nat) : x.adv.s q = x.s q := rfl

@[simp] theorem mask_setMask (x : Hart) (n k : Nat) (v : BitVec 16384) :
    (x.setMask n v).mask k = if k = n then v else x.mask k := by
  simp [Hart.mask]

/-! ### Scalar instructions -/

/-- A scalar instruction answers a next state: its effect with the pc past it, or the same state while a register is pending. -/
theorem scalarOp_cases (regs : List Nat) (f : Hart → Hart) (s : State) :
    (s.me.ready regs = true ∧ scalarOp regs f s = .next (s.updMe (fun x => (f x).adv))) ∨
    (s.me.ready regs = false ∧ scalarOp regs f s = .next s) := by
  unfold scalarOp
  cases h : s.me.ready regs <;> simp

theorem scalarOp_ready (regs : List Nat) (f : Hart → Hart) (s : State) (h : s.me.ready regs = true) :
    scalarOp regs f s = .next (s.updMe (fun x => (f x).adv)) := by
  simp [scalarOp, h]

/-- A computing scalar instruction answers a next state: its end with the pc past it, the trap it takes, where it blocks, or the
same state while a register is pending. -/
theorem scalarRun_cases (regs : List Nat) (m : M Unit) (s t : State) (h : scalarRun regs m s = .next t) :
    (s.me.ready regs = true ∧
      ((∃ u, runM m s = (.ok (), u) ∧ t = u.past) ∨
       (∃ e u, (runM m s = (.error (.trap e), u) ∨ runM m s = (.error (.endTrap e), u)) ∧ t = u.trapHere e) ∨
       runM m s = (.error .wait, t))) ∨
    (s.me.ready regs = false ∧ t = s) := by
  unfold scalarRun at h
  cases hr : s.me.ready regs with
  | false => rw [hr] at h; exact .inr ⟨rfl, by simpa [eq_comm] using h⟩
  | true =>
    rw [hr] at h
    refine .inl ⟨rfl, ?_⟩
    simp only [if_true, scalarM] at h
    have hb := runM_bind m (fun _ => updMeM Hart.adv) s
    rw [show runM (do m; updMeM Hart.adv) s = _ from hb] at h
    cases hm : runM m s with
    | mk a u =>
      rw [hm] at h
      cases a with
      | ok a =>
        have h' : Host.Outcome.next u.past = (Host.Outcome.next t : Out) := h
        exact .inl ⟨u, rfl, by simpa [eq_comm] using h'⟩
      | error e =>
        cases e with
        | trap e => exact .inr (.inl ⟨e, u, .inl rfl, by simpa [eq_comm] using h⟩)
        | endTrap e => exact .inr (.inl ⟨e, u, .inr rfl, by simpa [eq_comm] using h⟩)
        | wait => exact .inr (.inr (by simpa using h))

/-! ### Issue -/

/-- Where it may, a queue-class instruction issues its entry and the queue advances. -/
theorem issue_ok (op : QOp) (w : BitVec 32) (rd ra rb : Nat) (dst : Option Nat) (regs : List Nat) (s : State)
    (h : s.mayQueue op (regs ++ dst.toList)) :
    issue op w rd ra rb dst regs s = .next (drain s.cur (s.issued op w rd ra rb dst)) := by
  obtain ⟨h1, h2, h3, h4, h5⟩ := h
  unfold issue
  simp only [h1, h2, h3, h4, if_false, Bool.false_eq_true, Bool.not_true, Bool.or_false, Nat.not_le.2 h5, Bool.false_or]
  rfl

/-- What a queue-class instruction does: the trap of a core without a queue, a wait, the trap of its entry while entries are held,
or its issue. -/
theorem issue_cases (op : QOp) (w : BitVec 32) (rd ra rb : Nat) (dst : Option Nat) (regs : List Nat) (s : State) :
    issue op w rd ra rb dst regs s = .next (s.trapHere (illegal w 1)) ∨
    issue op w rd ra rb dst regs s = .next s ∨
    (∃ u, u.me = takeTrap (s.issued op w rd ra rb dst).me true s.me.nextQsn (s.issued op w rd ra rb dst).me.pc (illegal w 9) ∧
      issue op w rd ra rb dst regs s = .next u) ∨
    issue op w rd ra rb dst regs s = .next (drain s.cur (s.issued op w rd ra rb dst)) := by
  unfold issue
  dsimp only
  split
  · exact .inl rfl
  · split
    · exact .inr (.inl rfl)
    · split
      · refine .inr (.inr (.inl ⟨_, (me_updMe s _).trans ?_, rfl⟩))
        unfold State.issued
        rw [me_updMe]
        try rfl
      · exact .inr (.inr (.inr rfl))

/-! ### Traps -/

/-- A trap with a handler and no trap under way (04 R160). -/
theorem takeTrap_handler (x : Hart) (vec : Bool) (qsn : BitVec 16) (tpc : Word) (t : TrapInfo)
    (hc : x.tcause.extractLsb' 0 8 = 0) (hv : x.tvec ≠ 0) :
    (takeTrap x vec qsn tpc t).pc = x.tvec ∧ (takeTrap x vec qsn tpc t).tpc = tpc ∧
    (takeTrap x vec qsn tpc t).tcause = (if vec then 0x100 else 0) + t.code.setWidth 9 ∧
    (takeTrap x vec qsn tpc t).run = x.run := by
  unfold takeTrap
  rw [if_neg (by rintro (h | h); exacts [h hc, hv h])]
  refine ⟨?_, rfl, rfl, ?_⟩
  · simp only [stopQueue]
  · simp only [stopQueue]

/-- A trap with no handler, or during a trap, ends in ContextFault (04 R160). -/
theorem takeTrap_contextFault (x : Hart) (vec : Bool) (qsn : BitVec 16) (tpc : Word) (t : TrapInfo)
    (h : x.tcause.extractLsb' 0 8 ≠ 0 ∨ x.tvec = 0) : takeTrap x vec qsn tpc t = contextFault x vec qsn tpc t := by
  unfold takeTrap; rw [if_pos h]

/-! ### Moves that change nothing -/

/-- Reads of a core that a pass leaves as they are change nothing however many passes are made. -/
theorem State.releasePasses_fixed {s : State} {h : Nat} (e : s.releasePass h = s) (n : Nat) : State.releasePasses h n s = s := by
  cases n with
  | zero => rfl
  | succ n => simp [State.releasePasses, e]

theorem State.releaseReads_fixed {s : State} {h : Nat} (e : s.releasePass h = s) : s.releaseReads h = s :=
  State.releasePasses_fixed e _

/-- While no hart has failed, no hart is stopped with it. -/
theorem State.closeFailed_none {s : State} (e : ∀ p ∈ s.harts, p.2.run ≠ .failed) : s.closeFailed = s := by
  have h : s.harts.filter (fun p => p.2.run == .failed) = [] := by
    simpa [List.filter_eq_nil_iff] using e
  simp [State.closeFailed, h]

/-- The controller asks for no turn while a winner stands to which it has lost. -/
theorem autoTurn_beaten {s : State} {l : Nat} {toB : Bool} {w : TurnReq} (due : s.turnDue l = false)
    (hw : (s.link l).winner = some w) (hb : w.beat = true) : autoTurn l toB s = s := by
  simp [autoTurn, State.beginDue, due, hw, hb]
end Sys2Proof.Machine
end

