-- ==== Sys2Proof/Laws/PerInstr.lean ====
section
/-!
SUPPORT. The family Encoding, instruction by instruction: a word encodes every instruction, and none an event.
-/

namespace Sys2Proof.Laws.Encoding

/-- An instruction has a word exactly when it is no event of the opcode table. -/
def Statement (i : Instr) : Prop := (encode i).isSome = !i.isEvent

theorem add (rd : BitVec 5) (ra : BitVec 5) (rb : BitVec 5) : Statement (.add rd ra rb) := rfl
theorem sub (rd : BitVec 5) (ra : BitVec 5) (rb : BitVec 5) : Statement (.sub rd ra rb) := rfl
theorem and (rd : BitVec 5) (ra : BitVec 5) (rb : BitVec 5) : Statement (.and rd ra rb) := rfl
theorem or (rd : BitVec 5) (ra : BitVec 5) (rb : BitVec 5) : Statement (.or rd ra rb) := rfl
theorem xor (rd : BitVec 5) (ra : BitVec 5) (rb : BitVec 5) : Statement (.xor rd ra rb) := rfl
theorem andn (rd : BitVec 5) (ra : BitVec 5) (rb : BitVec 5) : Statement (.andn rd ra rb) := rfl
theorem orn (rd : BitVec 5) (ra : BitVec 5) (rb : BitVec 5) : Statement (.orn rd ra rb) := rfl
theorem xnor (rd : BitVec 5) (ra : BitVec 5) (rb : BitVec 5) : Statement (.xnor rd ra rb) := rfl
theorem sll (rd : BitVec 5) (ra : BitVec 5) (rb : BitVec 5) : Statement (.sll rd ra rb) := rfl
theorem srl (rd : BitVec 5) (ra : BitVec 5) (rb : BitVec 5) : Statement (.srl rd ra rb) := rfl
theorem sra (rd : BitVec 5) (ra : BitVec 5) (rb : BitVec 5) : Statement (.sra rd ra rb) := rfl
theorem rol (rd : BitVec 5) (ra : BitVec 5) (rb : BitVec 5) : Statement (.rol rd ra rb) := rfl
theorem ror (rd : BitVec 5) (ra : BitVec 5) (rb : BitVec 5) : Statement (.ror rd ra rb) := rfl
theorem slt (rd : BitVec 5) (ra : BitVec 5) (rb : BitVec 5) : Statement (.slt rd ra rb) := rfl
theorem sltu (rd : BitVec 5) (ra : BitVec 5) (rb : BitVec 5) : Statement (.sltu rd ra rb) := rfl
theorem mul (rd : BitVec 5) (ra : BitVec 5) (rb : BitVec 5) : Statement (.mul rd ra rb) := rfl
theorem mulh (rd : BitVec 5) (ra : BitVec 5) (rb : BitVec 5) : Statement (.mulh rd ra rb) := rfl
theorem mulhu (rd : BitVec 5) (ra : BitVec 5) (rb : BitVec 5) : Statement (.mulhu rd ra rb) := rfl
theorem mulhsu (rd : BitVec 5) (ra : BitVec 5) (rb : BitVec 5) : Statement (.mulhsu rd ra rb) := rfl
theorem div (rd : BitVec 5) (ra : BitVec 5) (rb : BitVec 5) : Statement (.div rd ra rb) := rfl
theorem divu (rd : BitVec 5) (ra : BitVec 5) (rb : BitVec 5) : Statement (.divu rd ra rb) := rfl
theorem rem (rd : BitVec 5) (ra : BitVec 5) (rb : BitVec 5) : Statement (.rem rd ra rb) := rfl
theorem remu (rd : BitVec 5) (ra : BitVec 5) (rb : BitVec 5) : Statement (.remu rd ra rb) := rfl
theorem min (rd : BitVec 5) (ra : BitVec 5) (rb : BitVec 5) : Statement (.min rd ra rb) := rfl
theorem max (rd : BitVec 5) (ra : BitVec 5) (rb : BitVec 5) : Statement (.max rd ra rb) := rfl
theorem minu (rd : BitVec 5) (ra : BitVec 5) (rb : BitVec 5) : Statement (.minu rd ra rb) := rfl
theorem maxu (rd : BitVec 5) (ra : BitVec 5) (rb : BitVec 5) : Statement (.maxu rd ra rb) := rfl
theorem clz (rd : BitVec 5) (ra : BitVec 5) : Statement (.clz rd ra) := rfl
theorem ctz (rd : BitVec 5) (ra : BitVec 5) : Statement (.ctz rd ra) := rfl
theorem popc (rd : BitVec 5) (ra : BitVec 5) : Statement (.popc rd ra) := rfl
theorem rev8 (rd : BitVec 5) (ra : BitVec 5) : Statement (.rev8 rd ra) := rfl
theorem slli (rd : BitVec 5) (ra : BitVec 5) (sh : BitVec 6) : Statement (.slli rd ra sh) := rfl
theorem srli (rd : BitVec 5) (ra : BitVec 5) (sh : BitVec 6) : Statement (.srli rd ra sh) := rfl
theorem srai (rd : BitVec 5) (ra : BitVec 5) (sh : BitVec 6) : Statement (.srai rd ra sh) := rfl
theorem rori (rd : BitVec 5) (ra : BitVec 5) (sh : BitVec 6) : Statement (.rori rd ra sh) := rfl
theorem sextb (rd : BitVec 5) (ra : BitVec 5) : Statement (.sextb rd ra) := rfl
theorem sexth (rd : BitVec 5) (ra : BitVec 5) : Statement (.sexth rd ra) := rfl
theorem sextw (rd : BitVec 5) (ra : BitVec 5) : Statement (.sextw rd ra) := rfl
theorem zextw (rd : BitVec 5) (ra : BitVec 5) : Statement (.zextw rd ra) := rfl
theorem selz (rd : BitVec 5) (ra : BitVec 5) (rb : BitVec 5) (rc : BitVec 5) : Statement (.selz rd ra rb rc) := rfl
theorem selnz (rd : BitVec 5) (ra : BitVec 5) (rb : BitVec 5) (rc : BitVec 5) : Statement (.selnz rd ra rb rc) := rfl
theorem fsl (rd : BitVec 5) (ra : BitVec 5) (rb : BitVec 5) (rc : BitVec 5) : Statement (.fsl rd ra rb rc) := rfl
theorem fsr (rd : BitVec 5) (ra : BitVec 5) (rb : BitVec 5) (rc : BitVec 5) : Statement (.fsr rd ra rb rc) := rfl
theorem bfx (rd : BitVec 5) (ra : BitVec 5) (rb : BitVec 5) (rc : BitVec 5) : Statement (.bfx rd ra rb rc) := rfl
theorem bfxs (rd : BitVec 5) (ra : BitVec 5) (rb : BitVec 5) (rc : BitVec 5) : Statement (.bfxs rd ra rb rc) := rfl
theorem bfi (rd : BitVec 5) (ra : BitVec 5) (rb : BitVec 5) (rc : BitVec 5) : Statement (.bfi rd ra rb rc) := rfl
theorem bdep (rd : BitVec 5) (ra : BitVec 5) (rb : BitVec 5) : Statement (.bdep rd ra rb) := rfl
theorem bcmpr (rd : BitVec 5) (ra : BitVec 5) (rb : BitVec 5) : Statement (.bcmpr rd ra rb) := rfl
theorem brev (rd : BitVec 5) (ra : BitVec 5) : Statement (.brev rd ra) := rfl
theorem faddS (rd : BitVec 5) (ra : BitVec 5) (rb : BitVec 5) : Statement (.faddS rd ra rb) := rfl
theorem fsubS (rd : BitVec 5) (ra : BitVec 5) (rb : BitVec 5) : Statement (.fsubS rd ra rb) := rfl
theorem fmulS (rd : BitVec 5) (ra : BitVec 5) (rb : BitVec 5) : Statement (.fmulS rd ra rb) := rfl
theorem fdivS (rd : BitVec 5) (ra : BitVec 5) (rb : BitVec 5) : Statement (.fdivS rd ra rb) := rfl
theorem fsqrtS (rd : BitVec 5) (ra : BitVec 5) : Statement (.fsqrtS rd ra) := rfl
theorem fminS (rd : BitVec 5) (ra : BitVec 5) (rb : BitVec 5) : Statement (.fminS rd ra rb) := rfl
theorem fmaxS (rd : BitVec 5) (ra : BitVec 5) (rb : BitVec 5) : Statement (.fmaxS rd ra rb) := rfl
theorem fmaS (rd : BitVec 5) (ra : BitVec 5) (rb : BitVec 5) (rc : BitVec 5) : Statement (.fmaS rd ra rb rc) := rfl
theorem fnmaS (rd : BitVec 5) (ra : BitVec 5) (rb : BitVec 5) (rc : BitVec 5) : Statement (.fnmaS rd ra rb rc) := rfl
theorem fcsignS (rd : BitVec 5) (ra : BitVec 5) (rb : BitVec 5) : Statement (.fcsignS rd ra rb) := rfl
theorem fnsignS (rd : BitVec 5) (ra : BitVec 5) (rb : BitVec 5) : Statement (.fnsignS rd ra rb) := rfl
theorem fxsignS (rd : BitVec 5) (ra : BitVec 5) (rb : BitVec 5) : Statement (.fxsignS rd ra rb) := rfl
theorem feqS (rd : BitVec 5) (ra : BitVec 5) (rb : BitVec 5) : Statement (.feqS rd ra rb) := rfl
theorem fltS (rd : BitVec 5) (ra : BitVec 5) (rb : BitVec 5) : Statement (.fltS rd ra rb) := rfl
theorem fleS (rd : BitVec 5) (ra : BitVec 5) (rb : BitVec 5) : Statement (.fleS rd ra rb) := rfl
theorem fkindS (rd : BitVec 5) (ra : BitVec 5) : Statement (.fkindS rd ra) := rfl
theorem ftoiS (rd : BitVec 5) (ra : BitVec 5) : Statement (.ftoiS rd ra) := rfl
theorem ftoiuS (rd : BitVec 5) (ra : BitVec 5) : Statement (.ftoiuS rd ra) := rfl
theorem itofS (rd : BitVec 5) (ra : BitVec 5) : Statement (.itofS rd ra) := rfl
theorem utofS (rd : BitVec 5) (ra : BitVec 5) : Statement (.utofS rd ra) := rfl
theorem ftohS (rd : BitVec 5) (ra : BitVec 5) : Statement (.ftohS rd ra) := rfl
theorem ftobS (rd : BitVec 5) (ra : BitVec 5) : Statement (.ftobS rd ra) := rfl
theorem htofS (rd : BitVec 5) (ra : BitVec 5) : Statement (.htofS rd ra) := rfl
theorem btofS (rd : BitVec 5) (ra : BitVec 5) : Statement (.btofS rd ra) := rfl
theorem fcvtxS (rd : BitVec 5) (ra : BitVec 5) : Statement (.fcvtxS rd ra) := rfl
theorem faddD (rd : BitVec 5) (ra : BitVec 5) (rb : BitVec 5) : Statement (.faddD rd ra rb) := rfl
theorem fsubD (rd : BitVec 5) (ra : BitVec 5) (rb : BitVec 5) : Statement (.fsubD rd ra rb) := rfl
theorem fmulD (rd : BitVec 5) (ra : BitVec 5) (rb : BitVec 5) : Statement (.fmulD rd ra rb) := rfl
theorem fdivD (rd : BitVec 5) (ra : BitVec 5) (rb : BitVec 5) : Statement (.fdivD rd ra rb) := rfl
theorem fsqrtD (rd : BitVec 5) (ra : BitVec 5) : Statement (.fsqrtD rd ra) := rfl
theorem fminD (rd : BitVec 5) (ra : BitVec 5) (rb : BitVec 5) : Statement (.fminD rd ra rb) := rfl
theorem fmaxD (rd : BitVec 5) (ra : BitVec 5) (rb : BitVec 5) : Statement (.fmaxD rd ra rb) := rfl
theorem fmaD (rd : BitVec 5) (ra : BitVec 5) (rb : BitVec 5) (rc : BitVec 5) : Statement (.fmaD rd ra rb rc) := rfl
theorem fnmaD (rd : BitVec 5) (ra : BitVec 5) (rb : BitVec 5) (rc : BitVec 5) : Statement (.fnmaD rd ra rb rc) := rfl
theorem fcsignD (rd : BitVec 5) (ra : BitVec 5) (rb : BitVec 5) : Statement (.fcsignD rd ra rb) := rfl
theorem fnsignD (rd : BitVec 5) (ra : BitVec 5) (rb : BitVec 5) : Statement (.fnsignD rd ra rb) := rfl
theorem fxsignD (rd : BitVec 5) (ra : BitVec 5) (rb : BitVec 5) : Statement (.fxsignD rd ra rb) := rfl
theorem feqD (rd : BitVec 5) (ra : BitVec 5) (rb : BitVec 5) : Statement (.feqD rd ra rb) := rfl
theorem fltD (rd : BitVec 5) (ra : BitVec 5) (rb : BitVec 5) : Statement (.fltD rd ra rb) := rfl
theorem fleD (rd : BitVec 5) (ra : BitVec 5) (rb : BitVec 5) : Statement (.fleD rd ra rb) := rfl
theorem fkindD (rd : BitVec 5) (ra : BitVec 5) : Statement (.fkindD rd ra) := rfl
theorem ftoiD (rd : BitVec 5) (ra : BitVec 5) : Statement (.ftoiD rd ra) := rfl
theorem ftoiuD (rd : BitVec 5) (ra : BitVec 5) : Statement (.ftoiuD rd ra) := rfl
theorem itofD (rd : BitVec 5) (ra : BitVec 5) : Statement (.itofD rd ra) := rfl
theorem utofD (rd : BitVec 5) (ra : BitVec 5) : Statement (.utofD rd ra) := rfl
theorem ftohD (rd : BitVec 5) (ra : BitVec 5) : Statement (.ftohD rd ra) := rfl
theorem ftobD (rd : BitVec 5) (ra : BitVec 5) : Statement (.ftobD rd ra) := rfl
theorem htofD (rd : BitVec 5) (ra : BitVec 5) : Statement (.htofD rd ra) := rfl
theorem btofD (rd : BitVec 5) (ra : BitVec 5) : Statement (.btofD rd ra) := rfl
theorem fcvtxD (rd : BitVec 5) (ra : BitVec 5) : Statement (.fcvtxD rd ra) := rfl
theorem addi (rd : BitVec 5) (ra : BitVec 5) (imm : BitVec 16) : Statement (.addi rd ra imm) := rfl
theorem andi (rd : BitVec 5) (ra : BitVec 5) (imm : BitVec 16) : Statement (.andi rd ra imm) := rfl
theorem ori (rd : BitVec 5) (ra : BitVec 5) (imm : BitVec 16) : Statement (.ori rd ra imm) := rfl
theorem xori (rd : BitVec 5) (ra : BitVec 5) (imm : BitVec 16) : Statement (.xori rd ra imm) := rfl
theorem slti (rd : BitVec 5) (ra : BitVec 5) (imm : BitVec 16) : Statement (.slti rd ra imm) := rfl
theorem sltiu (rd : BitVec 5) (ra : BitVec 5) (imm : BitVec 16) : Statement (.sltiu rd ra imm) := rfl
theorem lui (rd : BitVec 5) (imm : BitVec 16) : Statement (.lui rd imm) := rfl
theorem addhi (rd : BitVec 5) (ra : BitVec 5) (imm : BitVec 16) : Statement (.addhi rd ra imm) := rfl
theorem ldb (rd : BitVec 5) (ra : BitVec 5) (off : BitVec 13) : Statement (.ldb rd ra off) := rfl
theorem ldh (rd : BitVec 5) (ra : BitVec 5) (off : BitVec 13) : Statement (.ldh rd ra off) := rfl
theorem ldw (rd : BitVec 5) (ra : BitVec 5) (off : BitVec 13) : Statement (.ldw rd ra off) := rfl
theorem ldd (rd : BitVec 5) (ra : BitVec 5) (off : BitVec 13) : Statement (.ldd rd ra off) := rfl
theorem ldbu (rd : BitVec 5) (ra : BitVec 5) (off : BitVec 13) : Statement (.ldbu rd ra off) := rfl
theorem ldhu (rd : BitVec 5) (ra : BitVec 5) (off : BitVec 13) : Statement (.ldhu rd ra off) := rfl
theorem ldwu (rd : BitVec 5) (ra : BitVec 5) (off : BitVec 13) : Statement (.ldwu rd ra off) := rfl
theorem stb (rd : BitVec 5) (ra : BitVec 5) (off : BitVec 13) : Statement (.stb rd ra off) := rfl
theorem sth (rd : BitVec 5) (ra : BitVec 5) (off : BitVec 13) : Statement (.sth rd ra off) := rfl
theorem stw (rd : BitVec 5) (ra : BitVec 5) (off : BitVec 13) : Statement (.stw rd ra off) := rfl
theorem std (rd : BitVec 5) (ra : BitVec 5) (off : BitVec 13) : Statement (.std rd ra off) := rfl
theorem rmswap (rd : BitVec 5) (ra : BitVec 5) (rb : BitVec 5) (sc : BitVec 2) (aq : BitVec 1) (rl : BitVec 1) (w : BitVec 1) : Statement (.rmswap rd ra rb sc aq rl w) := rfl
theorem rmadd (rd : BitVec 5) (ra : BitVec 5) (rb : BitVec 5) (sc : BitVec 2) (aq : BitVec 1) (rl : BitVec 1) (w : BitVec 1) : Statement (.rmadd rd ra rb sc aq rl w) := rfl
theorem rmand (rd : BitVec 5) (ra : BitVec 5) (rb : BitVec 5) (sc : BitVec 2) (aq : BitVec 1) (rl : BitVec 1) (w : BitVec 1) : Statement (.rmand rd ra rb sc aq rl w) := rfl
theorem rmor (rd : BitVec 5) (ra : BitVec 5) (rb : BitVec 5) (sc : BitVec 2) (aq : BitVec 1) (rl : BitVec 1) (w : BitVec 1) : Statement (.rmor rd ra rb sc aq rl w) := rfl
theorem rmxor (rd : BitVec 5) (ra : BitVec 5) (rb : BitVec 5) (sc : BitVec 2) (aq : BitVec 1) (rl : BitVec 1) (w : BitVec 1) : Statement (.rmxor rd ra rb sc aq rl w) := rfl
theorem rmmin (rd : BitVec 5) (ra : BitVec 5) (rb : BitVec 5) (sc : BitVec 2) (aq : BitVec 1) (rl : BitVec 1) (w : BitVec 1) : Statement (.rmmin rd ra rb sc aq rl w) := rfl
theorem rmmax (rd : BitVec 5) (ra : BitVec 5) (rb : BitVec 5) (sc : BitVec 2) (aq : BitVec 1) (rl : BitVec 1) (w : BitVec 1) : Statement (.rmmax rd ra rb sc aq rl w) := rfl
theorem rmminu (rd : BitVec 5) (ra : BitVec 5) (rb : BitVec 5) (sc : BitVec 2) (aq : BitVec 1) (rl : BitVec 1) (w : BitVec 1) : Statement (.rmminu rd ra rb sc aq rl w) := rfl
theorem rmmaxu (rd : BitVec 5) (ra : BitVec 5) (rb : BitVec 5) (sc : BitVec 2) (aq : BitVec 1) (rl : BitVec 1) (w : BitVec 1) : Statement (.rmmaxu rd ra rb sc aq rl w) := rfl
theorem cas (rd : BitVec 5) (ra : BitVec 5) (rb : BitVec 5) (sc : BitVec 2) (aq : BitVec 1) (rl : BitVec 1) (w : BitVec 1) : Statement (.cas rd ra rb sc aq rl w) := rfl
theorem lda (rd : BitVec 5) (ra : BitVec 5) (sc : BitVec 2) (w : BitVec 1) : Statement (.lda rd ra sc w) := rfl
theorem stl (ra : BitVec 5) (rb : BitVec 5) (sc : BitVec 2) (w : BitVec 1) : Statement (.stl ra rb sc w) := rfl
theorem claim (rd : BitVec 5) (ra : BitVec 5) (rb : BitVec 5) (sc : BitVec 2) (aq : BitVec 1) (rl : BitVec 1) : Statement (.claim rd ra rb sc aq rl) := rfl
theorem jalr (rd : BitVec 5) (ra : BitVec 5) (imm : BitVec 16) : Statement (.jalr rd ra imm) := rfl
theorem beq (ra : BitVec 5) (rb : BitVec 5) (off : BitVec 13) : Statement (.beq ra rb off) := rfl
theorem bne (ra : BitVec 5) (rb : BitVec 5) (off : BitVec 13) : Statement (.bne ra rb off) := rfl
theorem blt (ra : BitVec 5) (rb : BitVec 5) (off : BitVec 13) : Statement (.blt ra rb off) := rfl
theorem bge (ra : BitVec 5) (rb : BitVec 5) (off : BitVec 13) : Statement (.bge ra rb off) := rfl
theorem bltu (ra : BitVec 5) (rb : BitVec 5) (off : BitVec 13) : Statement (.bltu ra rb off) := rfl
theorem bgeu (ra : BitVec 5) (rb : BitVec 5) (off : BitVec 13) : Statement (.bgeu ra rb off) := rfl
theorem jal (rd : BitVec 5) (off : BitVec 21) : Statement (.jal rd off) := rfl
theorem loopv (rc : BitVec 5) (rp : BitVec 5) (np : BitVec 2) (esh : BitVec 2) (off : BitVec 12) : Statement (.loopv rc rp np esh off) := rfl
theorem cwread (rd : BitVec 5) (cw : BitVec 12) : Statement (.cwread rd cw) := rfl
theorem cwwrite (ra : BitVec 5) (cw : BitVec 12) : Statement (.cwwrite ra cw) := rfl
theorem cwset (ra : BitVec 5) (cw : BitVec 12) : Statement (.cwset ra cw) := rfl
theorem cwclr (ra : BitVec 5) (cw : BitVec 12) : Statement (.cwclr ra cw) := rfl
theorem trap (n : BitVec 12) : Statement (.trap n) := rfl
theorem brk (n : BitVec 12) : Statement (.brk n) := rfl
theorem rett : Statement (.rett) := rfl
theorem yield : Statement (.yield) := rfl
theorem halt : Statement (.halt) := rfl
theorem bar (ra : BitVec 5) (n : BitVec 12) : Statement (.bar ra n) := rfl
theorem fence (ps : BitVec 5) (qs : BitVec 5) (sc : BitVec 2) : Statement (.fence ps qs sc) := rfl
theorem vadd (vd : BitVec 5) (va : BitVec 5) (vb : BitVec 5) (m : BitVec 1) (ms : BitVec 3) (ds : BitVec 2) : Statement (.vadd vd va vb m ms ds) := rfl
theorem vsub (vd : BitVec 5) (va : BitVec 5) (vb : BitVec 5) (m : BitVec 1) (ms : BitVec 3) (ds : BitVec 2) : Statement (.vsub vd va vb m ms ds) := rfl
theorem vsubr (vd : BitVec 5) (va : BitVec 5) (vb : BitVec 5) (m : BitVec 1) (ms : BitVec 3) (ds : BitVec 2) : Statement (.vsubr vd va vb m ms ds) := rfl
theorem vmul (vd : BitVec 5) (va : BitVec 5) (vb : BitVec 5) (m : BitVec 1) (ms : BitVec 3) (ds : BitVec 2) : Statement (.vmul vd va vb m ms ds) := rfl
theorem vmulh (vd : BitVec 5) (va : BitVec 5) (vb : BitVec 5) (m : BitVec 1) (ms : BitVec 3) (ds : BitVec 2) : Statement (.vmulh vd va vb m ms ds) := rfl
theorem vmulhu (vd : BitVec 5) (va : BitVec 5) (vb : BitVec 5) (m : BitVec 1) (ms : BitVec 3) (ds : BitVec 2) : Statement (.vmulhu vd va vb m ms ds) := rfl
theorem vmin (vd : BitVec 5) (va : BitVec 5) (vb : BitVec 5) (m : BitVec 1) (ms : BitVec 3) (ds : BitVec 2) : Statement (.vmin vd va vb m ms ds) := rfl
theorem vmax (vd : BitVec 5) (va : BitVec 5) (vb : BitVec 5) (m : BitVec 1) (ms : BitVec 3) (ds : BitVec 2) : Statement (.vmax vd va vb m ms ds) := rfl
theorem vminu (vd : BitVec 5) (va : BitVec 5) (vb : BitVec 5) (m : BitVec 1) (ms : BitVec 3) (ds : BitVec 2) : Statement (.vminu vd va vb m ms ds) := rfl
theorem vmaxu (vd : BitVec 5) (va : BitVec 5) (vb : BitVec 5) (m : BitVec 1) (ms : BitVec 3) (ds : BitVec 2) : Statement (.vmaxu vd va vb m ms ds) := rfl
theorem vand (vd : BitVec 5) (va : BitVec 5) (vb : BitVec 5) (m : BitVec 1) (ms : BitVec 3) (ds : BitVec 2) : Statement (.vand vd va vb m ms ds) := rfl
theorem vor (vd : BitVec 5) (va : BitVec 5) (vb : BitVec 5) (m : BitVec 1) (ms : BitVec 3) (ds : BitVec 2) : Statement (.vor vd va vb m ms ds) := rfl
theorem vxor (vd : BitVec 5) (va : BitVec 5) (vb : BitVec 5) (m : BitVec 1) (ms : BitVec 3) (ds : BitVec 2) : Statement (.vxor vd va vb m ms ds) := rfl
theorem vsll (vd : BitVec 5) (va : BitVec 5) (vb : BitVec 5) (m : BitVec 1) (ms : BitVec 3) (ds : BitVec 2) : Statement (.vsll vd va vb m ms ds) := rfl
theorem vsrl (vd : BitVec 5) (va : BitVec 5) (vb : BitVec 5) (m : BitVec 1) (ms : BitVec 3) (ds : BitVec 2) : Statement (.vsrl vd va vb m ms ds) := rfl
theorem vsra (vd : BitVec 5) (va : BitVec 5) (vb : BitVec 5) (m : BitVec 1) (ms : BitVec 3) (ds : BitVec 2) : Statement (.vsra vd va vb m ms ds) := rfl
theorem vaddVs (vd : BitVec 5) (va : BitVec 5) (vb : BitVec 5) (m : BitVec 1) (ms : BitVec 3) (ds : BitVec 2) : Statement (.vaddVs vd va vb m ms ds) := rfl
theorem vsubVs (vd : BitVec 5) (va : BitVec 5) (vb : BitVec 5) (m : BitVec 1) (ms : BitVec 3) (ds : BitVec 2) : Statement (.vsubVs vd va vb m ms ds) := rfl
theorem vsubrVs (vd : BitVec 5) (va : BitVec 5) (vb : BitVec 5) (m : BitVec 1) (ms : BitVec 3) (ds : BitVec 2) : Statement (.vsubrVs vd va vb m ms ds) := rfl
theorem vmulVs (vd : BitVec 5) (va : BitVec 5) (vb : BitVec 5) (m : BitVec 1) (ms : BitVec 3) (ds : BitVec 2) : Statement (.vmulVs vd va vb m ms ds) := rfl
theorem vmulhVs (vd : BitVec 5) (va : BitVec 5) (vb : BitVec 5) (m : BitVec 1) (ms : BitVec 3) (ds : BitVec 2) : Statement (.vmulhVs vd va vb m ms ds) := rfl
theorem vmulhuVs (vd : BitVec 5) (va : BitVec 5) (vb : BitVec 5) (m : BitVec 1) (ms : BitVec 3) (ds : BitVec 2) : Statement (.vmulhuVs vd va vb m ms ds) := rfl
theorem vminVs (vd : BitVec 5) (va : BitVec 5) (vb : BitVec 5) (m : BitVec 1) (ms : BitVec 3) (ds : BitVec 2) : Statement (.vminVs vd va vb m ms ds) := rfl
theorem vmaxVs (vd : BitVec 5) (va : BitVec 5) (vb : BitVec 5) (m : BitVec 1) (ms : BitVec 3) (ds : BitVec 2) : Statement (.vmaxVs vd va vb m ms ds) := rfl
theorem vminuVs (vd : BitVec 5) (va : BitVec 5) (vb : BitVec 5) (m : BitVec 1) (ms : BitVec 3) (ds : BitVec 2) : Statement (.vminuVs vd va vb m ms ds) := rfl
theorem vmaxuVs (vd : BitVec 5) (va : BitVec 5) (vb : BitVec 5) (m : BitVec 1) (ms : BitVec 3) (ds : BitVec 2) : Statement (.vmaxuVs vd va vb m ms ds) := rfl
theorem vandVs (vd : BitVec 5) (va : BitVec 5) (vb : BitVec 5) (m : BitVec 1) (ms : BitVec 3) (ds : BitVec 2) : Statement (.vandVs vd va vb m ms ds) := rfl
theorem vorVs (vd : BitVec 5) (va : BitVec 5) (vb : BitVec 5) (m : BitVec 1) (ms : BitVec 3) (ds : BitVec 2) : Statement (.vorVs vd va vb m ms ds) := rfl
theorem vxorVs (vd : BitVec 5) (va : BitVec 5) (vb : BitVec 5) (m : BitVec 1) (ms : BitVec 3) (ds : BitVec 2) : Statement (.vxorVs vd va vb m ms ds) := rfl
theorem vsllVs (vd : BitVec 5) (va : BitVec 5) (vb : BitVec 5) (m : BitVec 1) (ms : BitVec 3) (ds : BitVec 2) : Statement (.vsllVs vd va vb m ms ds) := rfl
theorem vsrlVs (vd : BitVec 5) (va : BitVec 5) (vb : BitVec 5) (m : BitVec 1) (ms : BitVec 3) (ds : BitVec 2) : Statement (.vsrlVs vd va vb m ms ds) := rfl
theorem vsraVs (vd : BitVec 5) (va : BitVec 5) (vb : BitVec 5) (m : BitVec 1) (ms : BitVec 3) (ds : BitVec 2) : Statement (.vsraVs vd va vb m ms ds) := rfl
theorem vfadd (vd : BitVec 5) (va : BitVec 5) (vb : BitVec 5) (m : BitVec 1) (ms : BitVec 3) (ds : BitVec 2) (x : BitVec 1) : Statement (.vfadd vd va vb m ms ds x) := rfl
theorem vfsub (vd : BitVec 5) (va : BitVec 5) (vb : BitVec 5) (m : BitVec 1) (ms : BitVec 3) (ds : BitVec 2) (x : BitVec 1) : Statement (.vfsub vd va vb m ms ds x) := rfl
theorem vfmul (vd : BitVec 5) (va : BitVec 5) (vb : BitVec 5) (m : BitVec 1) (ms : BitVec 3) (ds : BitVec 2) (x : BitVec 1) : Statement (.vfmul vd va vb m ms ds x) := rfl
theorem vfdiv (vd : BitVec 5) (va : BitVec 5) (vb : BitVec 5) (m : BitVec 1) (ms : BitVec 3) (ds : BitVec 2) (x : BitVec 1) : Statement (.vfdiv vd va vb m ms ds x) := rfl
theorem vfmin (vd : BitVec 5) (va : BitVec 5) (vb : BitVec 5) (m : BitVec 1) (ms : BitVec 3) (ds : BitVec 2) (x : BitVec 1) : Statement (.vfmin vd va vb m ms ds x) := rfl
theorem vfmax (vd : BitVec 5) (va : BitVec 5) (vb : BitVec 5) (m : BitVec 1) (ms : BitVec 3) (ds : BitVec 2) (x : BitVec 1) : Statement (.vfmax vd va vb m ms ds x) := rfl
theorem vfma (vd : BitVec 5) (va : BitVec 5) (vb : BitVec 5) (m : BitVec 1) (ms : BitVec 3) (ds : BitVec 2) (x : BitVec 1) : Statement (.vfma vd va vb m ms ds x) := rfl
theorem vfnma (vd : BitVec 5) (va : BitVec 5) (vb : BitVec 5) (m : BitVec 1) (ms : BitVec 3) (ds : BitVec 2) (x : BitVec 1) : Statement (.vfnma vd va vb m ms ds x) := rfl
theorem vfms (vd : BitVec 5) (va : BitVec 5) (vb : BitVec 5) (m : BitVec 1) (ms : BitVec 3) (ds : BitVec 2) (x : BitVec 1) : Statement (.vfms vd va vb m ms ds x) := rfl
theorem vfcsign (vd : BitVec 5) (va : BitVec 5) (vb : BitVec 5) (m : BitVec 1) (ms : BitVec 3) (ds : BitVec 2) (x : BitVec 1) : Statement (.vfcsign vd va vb m ms ds x) := rfl
theorem vfnsign (vd : BitVec 5) (va : BitVec 5) (vb : BitVec 5) (m : BitVec 1) (ms : BitVec 3) (ds : BitVec 2) (x : BitVec 1) : Statement (.vfnsign vd va vb m ms ds x) := rfl
theorem vfxsign (vd : BitVec 5) (va : BitVec 5) (vb : BitVec 5) (m : BitVec 1) (ms : BitVec 3) (ds : BitVec 2) (x : BitVec 1) : Statement (.vfxsign vd va vb m ms ds x) := rfl
theorem vfkind (vd : BitVec 5) (va : BitVec 5) (vb : BitVec 5) (m : BitVec 1) (ms : BitVec 3) (ds : BitVec 2) (x : BitVec 1) : Statement (.vfkind vd va vb m ms ds x) := rfl
theorem vfsubr (vd : BitVec 5) (va : BitVec 5) (vb : BitVec 5) (m : BitVec 1) (ms : BitVec 3) (ds : BitVec 2) (x : BitVec 1) : Statement (.vfsubr vd va vb m ms ds x) := rfl
theorem vfaddVs (vd : BitVec 5) (va : BitVec 5) (vb : BitVec 5) (m : BitVec 1) (ms : BitVec 3) (ds : BitVec 2) (x : BitVec 1) : Statement (.vfaddVs vd va vb m ms ds x) := rfl
theorem vfsubVs (vd : BitVec 5) (va : BitVec 5) (vb : BitVec 5) (m : BitVec 1) (ms : BitVec 3) (ds : BitVec 2) (x : BitVec 1) : Statement (.vfsubVs vd va vb m ms ds x) := rfl
theorem vfmulVs (vd : BitVec 5) (va : BitVec 5) (vb : BitVec 5) (m : BitVec 1) (ms : BitVec 3) (ds : BitVec 2) (x : BitVec 1) : Statement (.vfmulVs vd va vb m ms ds x) := rfl
theorem vfdivVs (vd : BitVec 5) (va : BitVec 5) (vb : BitVec 5) (m : BitVec 1) (ms : BitVec 3) (ds : BitVec 2) (x : BitVec 1) : Statement (.vfdivVs vd va vb m ms ds x) := rfl
theorem vfminVs (vd : BitVec 5) (va : BitVec 5) (vb : BitVec 5) (m : BitVec 1) (ms : BitVec 3) (ds : BitVec 2) (x : BitVec 1) : Statement (.vfminVs vd va vb m ms ds x) := rfl
theorem vfmaxVs (vd : BitVec 5) (va : BitVec 5) (vb : BitVec 5) (m : BitVec 1) (ms : BitVec 3) (ds : BitVec 2) (x : BitVec 1) : Statement (.vfmaxVs vd va vb m ms ds x) := rfl
theorem vfmaVs (vd : BitVec 5) (va : BitVec 5) (vb : BitVec 5) (m : BitVec 1) (ms : BitVec 3) (ds : BitVec 2) (x : BitVec 1) : Statement (.vfmaVs vd va vb m ms ds x) := rfl
theorem vfnmaVs (vd : BitVec 5) (va : BitVec 5) (vb : BitVec 5) (m : BitVec 1) (ms : BitVec 3) (ds : BitVec 2) (x : BitVec 1) : Statement (.vfnmaVs vd va vb m ms ds x) := rfl
theorem vfmsVs (vd : BitVec 5) (va : BitVec 5) (vb : BitVec 5) (m : BitVec 1) (ms : BitVec 3) (ds : BitVec 2) (x : BitVec 1) : Statement (.vfmsVs vd va vb m ms ds x) := rfl
theorem vfcsignVs (vd : BitVec 5) (va : BitVec 5) (vb : BitVec 5) (m : BitVec 1) (ms : BitVec 3) (ds : BitVec 2) (x : BitVec 1) : Statement (.vfcsignVs vd va vb m ms ds x) := rfl
theorem vfnsignVs (vd : BitVec 5) (va : BitVec 5) (vb : BitVec 5) (m : BitVec 1) (ms : BitVec 3) (ds : BitVec 2) (x : BitVec 1) : Statement (.vfnsignVs vd va vb m ms ds x) := rfl
theorem vfxsignVs (vd : BitVec 5) (va : BitVec 5) (vb : BitVec 5) (m : BitVec 1) (ms : BitVec 3) (ds : BitVec 2) (x : BitVec 1) : Statement (.vfxsignVs vd va vb m ms ds x) := rfl
theorem vfkindVs (vd : BitVec 5) (va : BitVec 5) (vb : BitVec 5) (m : BitVec 1) (ms : BitVec 3) (ds : BitVec 2) (x : BitVec 1) : Statement (.vfkindVs vd va vb m ms ds x) := rfl
theorem vfsubrVs (vd : BitVec 5) (va : BitVec 5) (vb : BitVec 5) (m : BitVec 1) (ms : BitVec 3) (ds : BitVec 2) (x : BitVec 1) : Statement (.vfsubrVs vd va vb m ms ds x) := rfl
theorem vfsqrt (vd : BitVec 5) (va : BitVec 5) (m : BitVec 1) (ms : BitVec 3) (ds : BitVec 2) (x : BitVec 1) : Statement (.vfsqrt vd va m ms ds x) := rfl
theorem vfrcp (vd : BitVec 5) (va : BitVec 5) (m : BitVec 1) (ms : BitVec 3) (ds : BitVec 2) (x : BitVec 1) : Statement (.vfrcp vd va m ms ds x) := rfl
theorem vfrsqrt (vd : BitVec 5) (va : BitVec 5) (m : BitVec 1) (ms : BitVec 3) (ds : BitVec 2) (x : BitVec 1) : Statement (.vfrsqrt vd va m ms ds x) := rfl
theorem vfexp2 (vd : BitVec 5) (va : BitVec 5) (m : BitVec 1) (ms : BitVec 3) (ds : BitVec 2) (x : BitVec 1) : Statement (.vfexp2 vd va m ms ds x) := rfl
theorem vflog2 (vd : BitVec 5) (va : BitVec 5) (m : BitVec 1) (ms : BitVec 3) (ds : BitVec 2) (x : BitVec 1) : Statement (.vflog2 vd va m ms ds x) := rfl
theorem vfexp (vd : BitVec 5) (va : BitVec 5) (m : BitVec 1) (ms : BitVec 3) (ds : BitVec 2) (x : BitVec 1) : Statement (.vfexp vd va m ms ds x) := rfl
theorem vflog (vd : BitVec 5) (va : BitVec 5) (m : BitVec 1) (ms : BitVec 3) (ds : BitVec 2) (x : BitVec 1) : Statement (.vflog vd va m ms ds x) := rfl
theorem vftanh (vd : BitVec 5) (va : BitVec 5) (m : BitVec 1) (ms : BitVec 3) (ds : BitVec 2) (x : BitVec 1) : Statement (.vftanh vd va m ms ds x) := rfl
theorem vfsigm (vd : BitVec 5) (va : BitVec 5) (m : BitVec 1) (ms : BitVec 3) (ds : BitVec 2) (x : BitVec 1) : Statement (.vfsigm vd va m ms ds x) := rfl
theorem vfgelu (vd : BitVec 5) (va : BitVec 5) (m : BitVec 1) (ms : BitVec 3) (ds : BitVec 2) (x : BitVec 1) : Statement (.vfgelu vd va m ms ds x) := rfl
theorem vfsilu (vd : BitVec 5) (va : BitVec 5) (m : BitVec 1) (ms : BitVec 3) (ds : BitVec 2) (x : BitVec 1) : Statement (.vfsilu vd va m ms ds x) := rfl
theorem vfsin (vd : BitVec 5) (va : BitVec 5) (m : BitVec 1) (ms : BitVec 3) (ds : BitVec 2) (x : BitVec 1) : Statement (.vfsin vd va m ms ds x) := rfl
theorem vfcos (vd : BitVec 5) (va : BitVec 5) (m : BitVec 1) (ms : BitVec 3) (ds : BitVec 2) (x : BitVec 1) : Statement (.vfcos vd va m ms ds x) := rfl
theorem vferf (vd : BitVec 5) (va : BitVec 5) (m : BitVec 1) (ms : BitVec 3) (ds : BitVec 2) (x : BitVec 1) : Statement (.vferf vd va m ms ds x) := rfl
theorem vcvt (vd : BitVec 5) (va : BitVec 5) (fmt : BitVec 5) (m : BitVec 1) (ms : BitVec 3) (ds : BitVec 2) (x : BitVec 1) : Statement (.vcvt vd va fmt m ms ds x) := rfl
theorem vwiden (vd : BitVec 5) (va : BitVec 5) (fmt : BitVec 5) (m : BitVec 1) (ms : BitVec 3) (ds : BitVec 2) (x : BitVec 1) : Statement (.vwiden vd va fmt m ms ds x) := rfl
theorem vnarrow (vd : BitVec 5) (va : BitVec 5) (fmt : BitVec 5) (m : BitVec 1) (ms : BitVec 3) (ds : BitVec 2) (x : BitVec 1) : Statement (.vnarrow vd va fmt m ms ds x) := rfl
theorem vnarrows (vd : BitVec 5) (va : BitVec 5) (fmt : BitVec 5) (m : BitVec 1) (ms : BitVec 3) (ds : BitVec 2) (x : BitVec 1) : Statement (.vnarrows vd va fmt m ms ds x) := rfl
theorem vmxpack (vd : BitVec 5) (va : BitVec 5) (fmt : BitVec 5) (m : BitVec 1) (ms : BitVec 3) (ds : BitVec 2) (x : BitVec 1) : Statement (.vmxpack vd va fmt m ms ds x) := rfl
theorem vmxunpack (vd : BitVec 5) (va : BitVec 5) (fmt : BitVec 5) (m : BitVec 1) (ms : BitVec 3) (ds : BitVec 2) (x : BitVec 1) : Statement (.vmxunpack vd va fmt m ms ds x) := rfl
theorem vamax (vd : BitVec 5) (va : BitVec 5) (m : BitVec 1) (ms : BitVec 3) (ds : BitVec 2) (x : BitVec 1) : Statement (.vamax vd va m ms ds x) := rfl
theorem vscale (vd : BitVec 5) (va : BitVec 5) (fmt : BitVec 5) (x : BitVec 1) : Statement (.vscale vd va fmt x) := rfl
theorem vquant (vd : BitVec 5) (va : BitVec 5) (vb : BitVec 5) (m : BitVec 1) (ms : BitVec 3) (ds : BitVec 2) (x : BitVec 1) : Statement (.vquant vd va vb m ms ds x) := rfl
theorem vdequant (vd : BitVec 5) (va : BitVec 5) (vb : BitVec 5) (m : BitVec 1) (ms : BitVec 3) (ds : BitVec 2) (x : BitVec 1) : Statement (.vdequant vd va vb m ms ds x) := rfl
theorem vbamax (vd : BitVec 5) (va : BitVec 5) (m : BitVec 1) (ms : BitVec 3) (ds : BitVec 2) (x : BitVec 1) : Statement (.vbamax vd va m ms ds x) := rfl
theorem vsumr (vd : BitVec 5) (va : BitVec 5) (vb : BitVec 5) (m : BitVec 1) (ms : BitVec 3) (ds : BitVec 2) : Statement (.vsumr vd va vb m ms ds) := rfl
theorem vmaxr (vd : BitVec 5) (va : BitVec 5) (vb : BitVec 5) (m : BitVec 1) (ms : BitVec 3) (ds : BitVec 2) : Statement (.vmaxr vd va vb m ms ds) := rfl
theorem vminr (vd : BitVec 5) (va : BitVec 5) (vb : BitVec 5) (m : BitVec 1) (ms : BitVec 3) (ds : BitVec 2) : Statement (.vminr vd va vb m ms ds) := rfl
theorem vmaxur (vd : BitVec 5) (va : BitVec 5) (vb : BitVec 5) (m : BitVec 1) (ms : BitVec 3) (ds : BitVec 2) : Statement (.vmaxur vd va vb m ms ds) := rfl
theorem vminur (vd : BitVec 5) (va : BitVec 5) (vb : BitVec 5) (m : BitVec 1) (ms : BitVec 3) (ds : BitVec 2) : Statement (.vminur vd va vb m ms ds) := rfl
theorem vandr (vd : BitVec 5) (va : BitVec 5) (vb : BitVec 5) (m : BitVec 1) (ms : BitVec 3) (ds : BitVec 2) : Statement (.vandr vd va vb m ms ds) := rfl
theorem vorr (vd : BitVec 5) (va : BitVec 5) (vb : BitVec 5) (m : BitVec 1) (ms : BitVec 3) (ds : BitVec 2) : Statement (.vorr vd va vb m ms ds) := rfl
theorem vxorr (vd : BitVec 5) (va : BitVec 5) (vb : BitVec 5) (m : BitVec 1) (ms : BitVec 3) (ds : BitVec 2) : Statement (.vxorr vd va vb m ms ds) := rfl
theorem vfsumr (vd : BitVec 5) (va : BitVec 5) (vb : BitVec 5) (m : BitVec 1) (ms : BitVec 3) (ds : BitVec 2) (x : BitVec 1) : Statement (.vfsumr vd va vb m ms ds x) := rfl
theorem vfmaxr (vd : BitVec 5) (va : BitVec 5) (vb : BitVec 5) (m : BitVec 1) (ms : BitVec 3) (ds : BitVec 2) (x : BitVec 1) : Statement (.vfmaxr vd va vb m ms ds x) := rfl
theorem vfminr (vd : BitVec 5) (va : BitVec 5) (vb : BitVec 5) (m : BitVec 1) (ms : BitVec 3) (ds : BitVec 2) (x : BitVec 1) : Statement (.vfminr vd va vb m ms ds x) := rfl
theorem vshup (vd : BitVec 5) (va : BitVec 5) (vb : BitVec 5) (m : BitVec 1) (ms : BitVec 3) (ds : BitVec 2) : Statement (.vshup vd va vb m ms ds) := rfl
theorem vshdn (vd : BitVec 5) (va : BitVec 5) (vb : BitVec 5) (m : BitVec 1) (ms : BitVec 3) (ds : BitVec 2) : Statement (.vshdn vd va vb m ms ds) := rfl
theorem vgather (vd : BitVec 5) (va : BitVec 5) (vb : BitVec 5) (m : BitVec 1) (ms : BitVec 3) (ds : BitVec 2) : Statement (.vgather vd va vb m ms ds) := rfl
theorem vcompress (vd : BitVec 5) (va : BitVec 5) (vb : BitVec 5) (m : BitVec 1) (ms : BitVec 3) (ds : BitVec 2) : Statement (.vcompress vd va vb m ms ds) := rfl
theorem vexpand (vd : BitVec 5) (va : BitVec 5) (m : BitVec 1) (ms : BitVec 3) (ds : BitVec 2) : Statement (.vexpand vd va m ms ds) := rfl
theorem vmerge (vd : BitVec 5) (va : BitVec 5) (vb : BitVec 5) (m : BitVec 1) (ms : BitVec 3) (ds : BitVec 2) : Statement (.vmerge vd va vb m ms ds) := rfl
theorem vmove (vd : BitVec 5) (va : BitVec 5) (m : BitVec 1) (ms : BitVec 3) (ds : BitVec 2) : Statement (.vmove vd va m ms ds) := rfl
theorem vsplat (vd : BitVec 5) (va : BitVec 5) (m : BitVec 1) (ms : BitVec 3) (ds : BitVec 2) : Statement (.vsplat vd va m ms ds) := rfl
theorem vhead (vd : BitVec 5) (va : BitVec 5) (ds : BitVec 2) : Statement (.vhead vd va ds) := rfl
theorem vacnt (vd : BitVec 5) (m : BitVec 1) (ms : BitVec 3) (ds : BitVec 2) : Statement (.vacnt vd m ms ds) := rfl
theorem vxup (vd : BitVec 5) (va : BitVec 5) (vb : BitVec 5) (m : BitVec 1) (ms : BitVec 3) (ds : BitVec 2) : Statement (.vxup vd va vb m ms ds) := rfl
theorem vxdn (vd : BitVec 5) (va : BitVec 5) (vb : BitVec 5) (m : BitVec 1) (ms : BitVec 3) (ds : BitVec 2) : Statement (.vxdn vd va vb m ms ds) := rfl
theorem vxbc (vd : BitVec 5) (va : BitVec 5) (vb : BitVec 5) (m : BitVec 1) (ms : BitVec 3) (ds : BitVec 2) : Statement (.vxbc vd va vb m ms ds) := rfl
theorem vxrev (vd : BitVec 5) (va : BitVec 5) (m : BitVec 1) (ms : BitVec 3) (ds : BitVec 2) : Statement (.vxrev vd va m ms ds) := rfl
theorem vunpack (vd : BitVec 5) (va : BitVec 5) (vb : BitVec 5) (m : BitVec 1) (ms : BitVec 3) (ds : BitVec 2) : Statement (.vunpack vd va vb m ms ds) := rfl
theorem vbext (vd : BitVec 5) (va : BitVec 5) (vb : BitVec 5) (m : BitVec 1) (ms : BitVec 3) (ds : BitVec 2) : Statement (.vbext vd va vb m ms ds) := rfl
theorem vfsl (vd : BitVec 5) (va : BitVec 5) (vb : BitVec 5) (m : BitVec 1) (ms : BitVec 3) (ds : BitVec 2) : Statement (.vfsl vd va vb m ms ds) := rfl
theorem vfsr (vd : BitVec 5) (va : BitVec 5) (vb : BitVec 5) (m : BitVec 1) (ms : BitVec 3) (ds : BitVec 2) : Statement (.vfsr vd va vb m ms ds) := rfl
theorem vlut (vd : BitVec 5) (va : BitVec 5) (vb : BitVec 5) (m : BitVec 1) (ms : BitVec 3) (ds : BitVec 2) : Statement (.vlut vd va vb m ms ds) := rfl
theorem vclz (vd : BitVec 5) (va : BitVec 5) (m : BitVec 1) (ms : BitVec 3) (ds : BitVec 2) : Statement (.vclz vd va m ms ds) := rfl
theorem vctz (vd : BitVec 5) (va : BitVec 5) (m : BitVec 1) (ms : BitVec 3) (ds : BitVec 2) : Statement (.vctz vd va m ms ds) := rfl
theorem vpopc (vd : BitVec 5) (va : BitVec 5) (m : BitVec 1) (ms : BitVec 3) (ds : BitVec 2) : Statement (.vpopc vd va m ms ds) := rfl
theorem vbrev (vd : BitVec 5) (va : BitVec 5) (m : BitVec 1) (ms : BitVec 3) (ds : BitVec 2) : Statement (.vbrev vd va m ms ds) := rfl
theorem vcfg (n : BitVec 5) : Statement (.vcfg n) := rfl
theorem vsetvl (vd : BitVec 5) (va : BitVec 5) (vb : BitVec 5) (ds : BitVec 2) : Statement (.vsetvl vd va vb ds) := rfl
theorem vsetvli (rd : BitVec 5) (ra : BitVec 5) (imm : BitVec 16) : Statement (.vsetvli rd ra imm) := rfl
theorem vld (vd : BitVec 5) (va : BitVec 5) (m : BitVec 1) (ms : BitVec 3) (ds : BitVec 2) : Statement (.vld vd va m ms ds) := rfl
theorem vlds (vd : BitVec 5) (va : BitVec 5) (vb : BitVec 5) (m : BitVec 1) (ms : BitVec 3) (ds : BitVec 2) : Statement (.vlds vd va vb m ms ds) := rfl
theorem vldx (vd : BitVec 5) (va : BitVec 5) (vb : BitVec 5) (m : BitVec 1) (ms : BitVec 3) (ds : BitVec 2) : Statement (.vldx vd va vb m ms ds) := rfl
theorem vldff (vd : BitVec 5) (va : BitVec 5) (m : BitVec 1) (ms : BitVec 3) (ds : BitVec 2) : Statement (.vldff vd va m ms ds) := rfl
theorem vst (vd : BitVec 5) (va : BitVec 5) (m : BitVec 1) (ms : BitVec 3) (ds : BitVec 2) : Statement (.vst vd va m ms ds) := rfl
theorem vsts (vd : BitVec 5) (va : BitVec 5) (vb : BitVec 5) (m : BitVec 1) (ms : BitVec 3) (ds : BitVec 2) : Statement (.vsts vd va vb m ms ds) := rfl
theorem vstx (vd : BitVec 5) (va : BitVec 5) (vb : BitVec 5) (m : BitVec 1) (ms : BitVec 3) (ds : BitVec 2) : Statement (.vstx vd va vb m ms ds) := rfl
theorem vstU (vd : BitVec 5) (va : BitVec 5) (m : BitVec 1) (ms : BitVec 3) (ds : BitVec 2) : Statement (.vstU vd va m ms ds) := rfl
theorem vstsU (vd : BitVec 5) (va : BitVec 5) (vb : BitVec 5) (m : BitVec 1) (ms : BitVec 3) (ds : BitVec 2) : Statement (.vstsU vd va vb m ms ds) := rfl
theorem vstxU (vd : BitVec 5) (va : BitVec 5) (vb : BitVec 5) (m : BitVec 1) (ms : BitVec 3) (ds : BitVec 2) : Statement (.vstxU vd va vb m ms ds) := rfl
theorem grow (vd : BitVec 5) (va : BitVec 5) (m : BitVec 1) (ms : BitVec 3) (ds : BitVec 2) : Statement (.grow vd va m ms ds) := rfl
theorem gcol (vd : BitVec 5) (va : BitVec 5) (m : BitVec 1) (ms : BitVec 3) (ds : BitVec 2) : Statement (.gcol vd va m ms ds) := rfl
theorem gdiag (vd : BitVec 5) (va : BitVec 5) (m : BitVec 1) (ms : BitVec 3) (ds : BitVec 2) : Statement (.gdiag vd va m ms ds) := rfl
theorem grows (vd : BitVec 5) (va : BitVec 5) (m : BitVec 1) (ms : BitVec 3) (ds : BitVec 2) : Statement (.grows vd va m ms ds) := rfl
theorem gcols (vd : BitVec 5) (va : BitVec 5) (m : BitVec 1) (ms : BitVec 3) (ds : BitVec 2) : Statement (.gcols vd va m ms ds) := rfl
theorem gdiags (vd : BitVec 5) (va : BitVec 5) (m : BitVec 1) (ms : BitVec 3) (ds : BitVec 2) : Statement (.gdiags vd va m ms ds) := rfl
theorem gpass (vd : BitVec 5) (vb : BitVec 5) : Statement (.gpass vd vb) := rfl
theorem vmvq (vd : BitVec 5) (p : BitVec 1) (qn : BitVec 4) (m : BitVec 1) (ms : BitVec 3) (ds : BitVec 2) : Statement (.vmvq vd p qn m ms ds) := rfl
theorem vaddq (vd : BitVec 5) (va : BitVec 5) (p : BitVec 1) (qn : BitVec 4) (m : BitVec 1) (ms : BitVec 3) (ds : BitVec 2) : Statement (.vaddq vd va p qn m ms ds) := rfl
theorem vsubq (vd : BitVec 5) (va : BitVec 5) (p : BitVec 1) (qn : BitVec 4) (m : BitVec 1) (ms : BitVec 3) (ds : BitVec 2) : Statement (.vsubq vd va p qn m ms ds) := rfl
theorem vmulq (vd : BitVec 5) (va : BitVec 5) (p : BitVec 1) (qn : BitVec 4) (m : BitVec 1) (ms : BitVec 3) (ds : BitVec 2) : Statement (.vmulq vd va p qn m ms ds) := rfl
theorem vfaddq (vd : BitVec 5) (va : BitVec 5) (p : BitVec 1) (qn : BitVec 4) (m : BitVec 1) (ms : BitVec 3) (ds : BitVec 2) (x : BitVec 1) : Statement (.vfaddq vd va p qn m ms ds x) := rfl
theorem vfsubq (vd : BitVec 5) (va : BitVec 5) (p : BitVec 1) (qn : BitVec 4) (m : BitVec 1) (ms : BitVec 3) (ds : BitVec 2) (x : BitVec 1) : Statement (.vfsubq vd va p qn m ms ds x) := rfl
theorem vfmulq (vd : BitVec 5) (va : BitVec 5) (p : BitVec 1) (qn : BitVec 4) (m : BitVec 1) (ms : BitVec 3) (ds : BitVec 2) (x : BitVec 1) : Statement (.vfmulq vd va p qn m ms ds x) := rfl
theorem vfmaq (vd : BitVec 5) (va : BitVec 5) (p : BitVec 1) (qn : BitVec 4) (m : BitVec 1) (ms : BitVec 3) (ds : BitVec 2) (x : BitVec 1) : Statement (.vfmaq vd va p qn m ms ds x) := rfl
theorem vandq (vd : BitVec 5) (va : BitVec 5) (p : BitVec 1) (qn : BitVec 4) (m : BitVec 1) (ms : BitVec 3) (ds : BitVec 2) : Statement (.vandq vd va p qn m ms ds) := rfl
theorem vorq (vd : BitVec 5) (va : BitVec 5) (p : BitVec 1) (qn : BitVec 4) (m : BitVec 1) (ms : BitVec 3) (ds : BitVec 2) : Statement (.vorq vd va p qn m ms ds) := rfl
theorem vxorq (vd : BitVec 5) (va : BitVec 5) (p : BitVec 1) (qn : BitVec 4) (m : BitVec 1) (ms : BitVec 3) (ds : BitVec 2) : Statement (.vxorq vd va p qn m ms ds) := rfl
theorem venq (va : BitVec 5) (qn : BitVec 4) (m : BitVec 1) (ms : BitVec 3) (ds : BitVec 2) : Statement (.venq va qn m ms ds) := rfl
theorem mand (md : BitVec 7) (ma : BitVec 7) (mb : BitVec 7) : Statement (.mand md ma mb) := rfl
theorem mor (md : BitVec 7) (ma : BitVec 7) (mb : BitVec 7) : Statement (.mor md ma mb) := rfl
theorem mxor (md : BitVec 7) (ma : BitVec 7) (mb : BitVec 7) : Statement (.mxor md ma mb) := rfl
theorem mandn (md : BitVec 7) (ma : BitVec 7) (mb : BitVec 7) : Statement (.mandn md ma mb) := rfl
theorem morn (md : BitVec 7) (ma : BitVec 7) (mb : BitVec 7) : Statement (.morn md ma mb) := rfl
theorem mnand (md : BitVec 7) (ma : BitVec 7) (mb : BitVec 7) : Statement (.mnand md ma mb) := rfl
theorem mnor (md : BitVec 7) (ma : BitVec 7) (mb : BitVec 7) : Statement (.mnor md ma mb) := rfl
theorem mxnor (md : BitVec 7) (ma : BitVec 7) (mb : BitVec 7) : Statement (.mxnor md ma mb) := rfl
theorem mmv (md : BitVec 7) (ma : BitVec 7) : Statement (.mmv md ma) := rfl
theorem mnot (md : BitVec 7) (ma : BitVec 7) : Statement (.mnot md ma) := rfl
theorem mset (md : BitVec 7) : Statement (.mset md) := rfl
theorem mclr (md : BitVec 7) : Statement (.mclr md) := rfl
theorem msbf (md : BitVec 7) (ma : BitVec 7) : Statement (.msbf md ma) := rfl
theorem msif (md : BitVec 7) (ma : BitVec 7) : Statement (.msif md ma) := rfl
theorem msof (md : BitVec 7) (ma : BitVec 7) : Statement (.msof md ma) := rfl
theorem mpopc (md : BitVec 7) (ma : BitVec 7) : Statement (.mpopc md ma) := rfl
theorem mfirst (md : BitVec 7) (ma : BitVec 7) : Statement (.mfirst md ma) := rfl
theorem mld (md : BitVec 7) (ma : BitVec 7) : Statement (.mld md ma) := rfl
theorem mst (md : BitVec 7) (ma : BitVec 7) : Statement (.mst md ma) := rfl
theorem vceq (vd : BitVec 5) (va : BitVec 5) (vb : BitVec 5) (m : BitVec 1) (ms : BitVec 3) (ds : BitVec 2) : Statement (.vceq vd va vb m ms ds) := rfl
theorem vcne (vd : BitVec 5) (va : BitVec 5) (vb : BitVec 5) (m : BitVec 1) (ms : BitVec 3) (ds : BitVec 2) : Statement (.vcne vd va vb m ms ds) := rfl
theorem vclt (vd : BitVec 5) (va : BitVec 5) (vb : BitVec 5) (m : BitVec 1) (ms : BitVec 3) (ds : BitVec 2) : Statement (.vclt vd va vb m ms ds) := rfl
theorem vcltu (vd : BitVec 5) (va : BitVec 5) (vb : BitVec 5) (m : BitVec 1) (ms : BitVec 3) (ds : BitVec 2) : Statement (.vcltu vd va vb m ms ds) := rfl
theorem vcle (vd : BitVec 5) (va : BitVec 5) (vb : BitVec 5) (m : BitVec 1) (ms : BitVec 3) (ds : BitVec 2) : Statement (.vcle vd va vb m ms ds) := rfl
theorem vcleu (vd : BitVec 5) (va : BitVec 5) (vb : BitVec 5) (m : BitVec 1) (ms : BitVec 3) (ds : BitVec 2) : Statement (.vcleu vd va vb m ms ds) := rfl
theorem vcgt (vd : BitVec 5) (va : BitVec 5) (vb : BitVec 5) (m : BitVec 1) (ms : BitVec 3) (ds : BitVec 2) : Statement (.vcgt vd va vb m ms ds) := rfl
theorem vcgtu (vd : BitVec 5) (va : BitVec 5) (vb : BitVec 5) (m : BitVec 1) (ms : BitVec 3) (ds : BitVec 2) : Statement (.vcgtu vd va vb m ms ds) := rfl
theorem vfceq (vd : BitVec 5) (va : BitVec 5) (vb : BitVec 5) (m : BitVec 1) (ms : BitVec 3) (ds : BitVec 2) (x : BitVec 1) : Statement (.vfceq vd va vb m ms ds x) := rfl
theorem vfcne (vd : BitVec 5) (va : BitVec 5) (vb : BitVec 5) (m : BitVec 1) (ms : BitVec 3) (ds : BitVec 2) (x : BitVec 1) : Statement (.vfcne vd va vb m ms ds x) := rfl
theorem vfclt (vd : BitVec 5) (va : BitVec 5) (vb : BitVec 5) (m : BitVec 1) (ms : BitVec 3) (ds : BitVec 2) (x : BitVec 1) : Statement (.vfclt vd va vb m ms ds x) := rfl
theorem vfcle (vd : BitVec 5) (va : BitVec 5) (vb : BitVec 5) (m : BitVec 1) (ms : BitVec 3) (ds : BitVec 2) (x : BitVec 1) : Statement (.vfcle vd va vb m ms ds x) := rfl
theorem vfcgt (vd : BitVec 5) (va : BitVec 5) (vb : BitVec 5) (m : BitVec 1) (ms : BitVec 3) (ds : BitVec 2) (x : BitVec 1) : Statement (.vfcgt vd va vb m ms ds x) := rfl
theorem vfcge (vd : BitVec 5) (va : BitVec 5) (vb : BitVec 5) (m : BitVec 1) (ms : BitVec 3) (ds : BitVec 2) (x : BitVec 1) : Statement (.vfcge vd va vb m ms ds x) := rfl
theorem vfcun (vd : BitVec 5) (va : BitVec 5) (vb : BitVec 5) (m : BitVec 1) (ms : BitVec 3) (ds : BitVec 2) (x : BitVec 1) : Statement (.vfcun vd va vb m ms ds x) := rfl
theorem vceqVs (vd : BitVec 5) (va : BitVec 5) (vb : BitVec 5) (m : BitVec 1) (ms : BitVec 3) (ds : BitVec 2) : Statement (.vceqVs vd va vb m ms ds) := rfl
theorem vcneVs (vd : BitVec 5) (va : BitVec 5) (vb : BitVec 5) (m : BitVec 1) (ms : BitVec 3) (ds : BitVec 2) : Statement (.vcneVs vd va vb m ms ds) := rfl
theorem vcltVs (vd : BitVec 5) (va : BitVec 5) (vb : BitVec 5) (m : BitVec 1) (ms : BitVec 3) (ds : BitVec 2) : Statement (.vcltVs vd va vb m ms ds) := rfl
theorem vcltuVs (vd : BitVec 5) (va : BitVec 5) (vb : BitVec 5) (m : BitVec 1) (ms : BitVec 3) (ds : BitVec 2) : Statement (.vcltuVs vd va vb m ms ds) := rfl
theorem vcleVs (vd : BitVec 5) (va : BitVec 5) (vb : BitVec 5) (m : BitVec 1) (ms : BitVec 3) (ds : BitVec 2) : Statement (.vcleVs vd va vb m ms ds) := rfl
theorem vcleuVs (vd : BitVec 5) (va : BitVec 5) (vb : BitVec 5) (m : BitVec 1) (ms : BitVec 3) (ds : BitVec 2) : Statement (.vcleuVs vd va vb m ms ds) := rfl
theorem vcgtVs (vd : BitVec 5) (va : BitVec 5) (vb : BitVec 5) (m : BitVec 1) (ms : BitVec 3) (ds : BitVec 2) : Statement (.vcgtVs vd va vb m ms ds) := rfl
theorem vcgtuVs (vd : BitVec 5) (va : BitVec 5) (vb : BitVec 5) (m : BitVec 1) (ms : BitVec 3) (ds : BitVec 2) : Statement (.vcgtuVs vd va vb m ms ds) := rfl
theorem vfceqVs (vd : BitVec 5) (va : BitVec 5) (vb : BitVec 5) (m : BitVec 1) (ms : BitVec 3) (ds : BitVec 2) (x : BitVec 1) : Statement (.vfceqVs vd va vb m ms ds x) := rfl
theorem vfcneVs (vd : BitVec 5) (va : BitVec 5) (vb : BitVec 5) (m : BitVec 1) (ms : BitVec 3) (ds : BitVec 2) (x : BitVec 1) : Statement (.vfcneVs vd va vb m ms ds x) := rfl
theorem vfcltVs (vd : BitVec 5) (va : BitVec 5) (vb : BitVec 5) (m : BitVec 1) (ms : BitVec 3) (ds : BitVec 2) (x : BitVec 1) : Statement (.vfcltVs vd va vb m ms ds x) := rfl
theorem vfcleVs (vd : BitVec 5) (va : BitVec 5) (vb : BitVec 5) (m : BitVec 1) (ms : BitVec 3) (ds : BitVec 2) (x : BitVec 1) : Statement (.vfcleVs vd va vb m ms ds x) := rfl
theorem vfcgtVs (vd : BitVec 5) (va : BitVec 5) (vb : BitVec 5) (m : BitVec 1) (ms : BitVec 3) (ds : BitVec 2) (x : BitVec 1) : Statement (.vfcgtVs vd va vb m ms ds x) := rfl
theorem vfcgeVs (vd : BitVec 5) (va : BitVec 5) (vb : BitVec 5) (m : BitVec 1) (ms : BitVec 3) (ds : BitVec 2) (x : BitVec 1) : Statement (.vfcgeVs vd va vb m ms ds x) := rfl
theorem vfcunVs (vd : BitVec 5) (va : BitVec 5) (vb : BitVec 5) (m : BitVec 1) (ms : BitVec 3) (ds : BitVec 2) (x : BitVec 1) : Statement (.vfcunVs vd va vb m ms ds x) := rfl
theorem tmul (qc : BitVec 5) (qr : BitVec 5) (sk : BitVec 5) (p : BitVec 1) (acc : BitVec 3) (ds : BitVec 2) (gc : BitVec 5) : Statement (.tmul qc qr sk p acc ds gc) := rfl
theorem tmulsp (qc : BitVec 5) (qr : BitVec 5) (sk : BitVec 5) (p : BitVec 1) (acc : BitVec 3) (ds : BitVec 2) (gc : BitVec 5) : Statement (.tmulsp qc qr sk p acc ds gc) := rfl
theorem tmodeOn (vb : BitVec 5) : Statement (.tmodeOn vb) := rfl
theorem tmodeOff (vb : BitVec 5) : Statement (.tmodeOff vb) := rfl
theorem tshape (vd : BitVec 5) (va : BitVec 5) (vb : BitVec 5) (ds : BitVec 2) : Statement (.tshape vd va vb ds) := rfl
theorem tzero (vb : BitVec 5) (ds : BitVec 2) : Statement (.tzero vb ds) := rfl
theorem trdr (vd : BitVec 5) (va : BitVec 5) (ds : BitVec 2) : Statement (.trdr vd va ds) := rfl
theorem trdc (vd : BitVec 5) (va : BitVec 5) (ds : BitVec 2) : Statement (.trdc vd va ds) := rfl
theorem twrr (vd : BitVec 5) (va : BitVec 5) (ds : BitVec 2) : Statement (.twrr vd va ds) := rfl
theorem twrc (vd : BitVec 5) (va : BitVec 5) (ds : BitVec 2) : Statement (.twrc vd va ds) := rfl
theorem tpred (ds : BitVec 2) : Statement (.tpred ds) := rfl
theorem tsync : Statement (.tsync) := rfl
theorem sopen (qn : BitVec 5) (ra : BitVec 5) (ds : BitVec 2) : Statement (.sopen qn ra ds) := rfl
theorem sclose (qn : BitVec 5) (ds : BitVec 2) : Statement (.sclose qn ds) := rfl
theorem savail (qn : BitVec 5) (rd : BitVec 5) (ds : BitVec 2) : Statement (.savail qn rd ds) := rfl
theorem swait (qn : BitVec 5) (ra : BitVec 5) (ds : BitVec 2) : Statement (.swait qn ra ds) := rfl
theorem sskip (qn : BitVec 5) (ra : BitVec 5) (ds : BitVec 2) : Statement (.sskip qn ra ds) := rfl
theorem sdrain (qn : BitVec 5) (ds : BitVec 2) : Statement (.sdrain qn ds) := rfl
theorem srewind (qn : BitVec 5) (ds : BitVec 2) : Statement (.srewind qn ds) := rfl
theorem spref (qn : BitVec 5) (ra : BitVec 5) (ds : BitVec 2) : Statement (.spref qn ra ds) := rfl
theorem sgather (qn : BitVec 5) (ra : BitVec 5) (ds : BitVec 2) : Statement (.sgather qn ra ds) := rfl
theorem sldxBg (qn : BitVec 5) (ra : BitVec 5) (rb : BitVec 5) (ds : BitVec 2) : Statement (.sldxBg qn ra rb ds) := rfl
theorem strans (qn : BitVec 5) (ra : BitVec 5) (ds : BitVec 2) : Statement (.strans qn ra ds) := rfl
theorem sstat (qn : BitVec 5) (rd : BitVec 5) (ds : BitVec 2) : Statement (.sstat qn rd ds) := rfl
theorem cpy (rd : BitVec 5) (ra : BitVec 5) (spd : BitVec 1) (sps : BitVec 1) (ds : BitVec 2) : Statement (.cpy rd ra spd sps ds) := rfl
theorem cpfill (rd : BitVec 5) (rb : BitVec 5) (spd : BitVec 1) (ds : BitVec 2) : Statement (.cpfill rd rb spd ds) := rfl
theorem cpcvt (rd : BitVec 5) (ra : BitVec 5) (rb : BitVec 5) (spd : BitVec 1) (sps : BitVec 1) (ds : BitVec 2) : Statement (.cpcvt rd ra rb spd sps ds) := rfl
theorem cplz (rd : BitVec 5) (ra : BitVec 5) (rb : BitVec 5) (sps : BitVec 1) (ds : BitVec 2) : Statement (.cplz rd ra rb sps ds) := rfl
theorem cpxp (rd : BitVec 5) (ra : BitVec 5) (rb : BitVec 5) (spd : BitVec 1) (ds : BitVec 2) : Statement (.cpxp rd ra rb spd ds) := rfl
theorem cpcrc (rd : BitVec 5) (ra : BitVec 5) (rb : BitVec 5) (sps : BitVec 1) (ds : BitVec 2) : Statement (.cpcrc rd ra rb sps ds) := rfl
theorem cpcrc64 (rd : BitVec 5) (ra : BitVec 5) (rb : BitVec 5) (sps : BitVec 1) (ds : BitVec 2) : Statement (.cpcrc64 rd ra rb sps ds) := rfl
theorem cprel (rd : BitVec 5) (ra : BitVec 5) (rb : BitVec 5) (ds : BitVec 2) : Statement (.cprel rd ra rb ds) := rfl
theorem cpshad (rd : BitVec 5) (ra : BitVec 5) : Statement (.cpshad rd ra) := rfl
theorem cpbl (rd : BitVec 5) (sc : BitVec 2) : Statement (.cpbl rd sc) := rfl
theorem cpwait : Statement (.cpwait) := rfl
theorem nring (ra : BitVec 5) (rb : BitVec 5) : Statement (.nring ra rb) := rfl
theorem ncqhd (ra : BitVec 5) (rb : BitVec 5) : Statement (.ncqhd ra rb) := rfl
theorem nqstat (rd : BitVec 5) (ra : BitVec 5) : Statement (.nqstat rd ra) := rfl
theorem ncqpoll (rd : BitVec 5) (ra : BitVec 5) : Statement (.ncqpoll rd ra) := rfl
theorem lturn (rd : BitVec 5) (ra : BitVec 5) (rb : BitVec 5) : Statement (.lturn rd ra rb) := rfl
theorem lstat (rd : BitVec 5) (ra : BitVec 5) : Statement (.lstat rd ra) := rfl
theorem lpause (ra : BitVec 5) : Statement (.lpause ra) := rfl
theorem lresume (ra : BitVec 5) : Statement (.lresume ra) := rfl
theorem lremap (ra : BitVec 5) (rb : BitVec 5) : Statement (.lremap ra rb) := rfl
theorem ltrain (ra : BitVec 5) (rb : BitVec 5) : Statement (.ltrain ra rb) := rfl
theorem lwait (rd : BitVec 5) (ra : BitVec 5) : Statement (.lwait rd ra) := rfl
theorem bput (rd : BitVec 5) (ra : BitVec 5) (rb : BitVec 5) : Statement (.bput rd ra rb) := rfl
theorem bget (rd : BitVec 5) (ra : BitVec 5) (rb : BitVec 5) : Statement (.bget rd ra rb) := rfl
theorem batom (rd : BitVec 5) (ra : BitVec 5) (rb : BitVec 5) : Statement (.batom rd ra rb) := rfl
theorem bnotify (rd : BitVec 5) (ra : BitVec 5) (rb : BitVec 5) : Statement (.bnotify rd ra rb) := rfl
theorem bwait (rd : BitVec 5) (ra : BitVec 5) : Statement (.bwait rd ra) := rfl
theorem bpoll (rd : BitVec 5) (ra : BitVec 5) : Statement (.bpoll rd ra) := rfl
theorem bfence : Statement (.bfence) := rfl
theorem bstat (rd : BitVec 5) (ra : BitVec 5) : Statement (.bstat rd ra) := rfl
theorem blport (rd : BitVec 5) (ra : BitVec 5) : Statement (.blport rd ra) := rfl
theorem klaunch (rd : BitVec 5) (ra : BitVec 5) : Statement (.klaunch rd ra) := rfl
theorem kwait (ra : BitVec 5) : Statement (.kwait ra) := rfl
theorem ctxsave (ra : BitVec 5) : Statement (.ctxsave ra) := rfl
theorem ctxload (ra : BitVec 5) : Statement (.ctxload ra) := rfl
theorem svrd (rd : BitVec 5) (ra : BitVec 5) : Statement (.svrd rd ra) := rfl
theorem svwr (rd : BitVec 5) (ra : BitVec 5) : Statement (.svwr rd ra) := rfl
theorem warm (ra : BitVec 5) (n : BitVec 2) : Statement (.warm ra n) := rfl
theorem wdisarm (n : BitVec 2) : Statement (.wdisarm n) := rfl
theorem vdadd (vd : BitVec 5) (va : BitVec 5) (vb : BitVec 5) (m : BitVec 1) (ms : BitVec 3) (ds : BitVec 2) (x : BitVec 1) : Statement (.vdadd vd va vb m ms ds x) := rfl
theorem vdsub (vd : BitVec 5) (va : BitVec 5) (vb : BitVec 5) (m : BitVec 1) (ms : BitVec 3) (ds : BitVec 2) (x : BitVec 1) : Statement (.vdsub vd va vb m ms ds x) := rfl
theorem vdmul (vd : BitVec 5) (va : BitVec 5) (vb : BitVec 5) (m : BitVec 1) (ms : BitVec 3) (ds : BitVec 2) (x : BitVec 1) : Statement (.vdmul vd va vb m ms ds x) := rfl
theorem vddiv (vd : BitVec 5) (va : BitVec 5) (vb : BitVec 5) (m : BitVec 1) (ms : BitVec 3) (ds : BitVec 2) (x : BitVec 1) : Statement (.vddiv vd va vb m ms ds x) := rfl
theorem vdmin (vd : BitVec 5) (va : BitVec 5) (vb : BitVec 5) (m : BitVec 1) (ms : BitVec 3) (ds : BitVec 2) (x : BitVec 1) : Statement (.vdmin vd va vb m ms ds x) := rfl
theorem vdmax (vd : BitVec 5) (va : BitVec 5) (vb : BitVec 5) (m : BitVec 1) (ms : BitVec 3) (ds : BitVec 2) (x : BitVec 1) : Statement (.vdmax vd va vb m ms ds x) := rfl
theorem vdfma (vd : BitVec 5) (va : BitVec 5) (vb : BitVec 5) (m : BitVec 1) (ms : BitVec 3) (ds : BitVec 2) (x : BitVec 1) : Statement (.vdfma vd va vb m ms ds x) := rfl
theorem vdfnma (vd : BitVec 5) (va : BitVec 5) (vb : BitVec 5) (m : BitVec 1) (ms : BitVec 3) (ds : BitVec 2) (x : BitVec 1) : Statement (.vdfnma vd va vb m ms ds x) := rfl
theorem vdfms (vd : BitVec 5) (va : BitVec 5) (vb : BitVec 5) (m : BitVec 1) (ms : BitVec 3) (ds : BitVec 2) (x : BitVec 1) : Statement (.vdfms vd va vb m ms ds x) := rfl
theorem vdcsign (vd : BitVec 5) (va : BitVec 5) (vb : BitVec 5) (m : BitVec 1) (ms : BitVec 3) (ds : BitVec 2) (x : BitVec 1) : Statement (.vdcsign vd va vb m ms ds x) := rfl
theorem vdnsign (vd : BitVec 5) (va : BitVec 5) (vb : BitVec 5) (m : BitVec 1) (ms : BitVec 3) (ds : BitVec 2) (x : BitVec 1) : Statement (.vdnsign vd va vb m ms ds x) := rfl
theorem vdxsign (vd : BitVec 5) (va : BitVec 5) (vb : BitVec 5) (m : BitVec 1) (ms : BitVec 3) (ds : BitVec 2) (x : BitVec 1) : Statement (.vdxsign vd va vb m ms ds x) := rfl
theorem vdkind (vd : BitVec 5) (va : BitVec 5) (m : BitVec 1) (ms : BitVec 3) (ds : BitVec 2) (x : BitVec 1) : Statement (.vdkind vd va m ms ds x) := rfl
theorem vdsubr (vd : BitVec 5) (va : BitVec 5) (vb : BitVec 5) (m : BitVec 1) (ms : BitVec 3) (ds : BitVec 2) (x : BitVec 1) : Statement (.vdsubr vd va vb m ms ds x) := rfl
theorem vdsqrt (vd : BitVec 5) (va : BitVec 5) (m : BitVec 1) (ms : BitVec 3) (ds : BitVec 2) (x : BitVec 1) : Statement (.vdsqrt vd va m ms ds x) := rfl
theorem trapEntry (hart : Nat) : Statement (.trapEntry hart) := rfl
theorem entryComplete (hart : Nat) : Statement (.entryComplete hart) := rfl
theorem barWaitEnd (hart : Nat) : Statement (.barWaitEnd hart) := rfl
theorem yieldExpiry (hart : Nat) : Statement (.yieldExpiry hart) := rfl
theorem streamFetch (hart q pos : Nat) : Statement (.streamFetch hart q pos) := rfl
theorem streamStoreWrite (hart q pos : Nat) : Statement (.streamStoreWrite hart q pos) := rfl
theorem sgatherRow (hart q engine : Nat) : Statement (.sgatherRow hart q engine) := rfl
theorem copyChunk (hart uid pos engine : Nat) : Statement (.copyChunk hart uid pos engine) := rfl
theorem driveRequest (port : Nat) (rid : BitVec 16) (addr : BitVec 64) (write : Bool) (len : Nat) (data : List (BitVec 8)) :
    Statement (.driveRequest port rid addr write len data) := rfl
theorem pairError (handle : Nat) : Statement (.pairError handle) := rfl
theorem turnBegin (link : Nat) : Statement (.turnBegin link) := rfl
theorem autoTurn (link : Nat) (toB : Bool) : Statement (.autoTurn link toB) := rfl
theorem turnDrainEnd (link : Nat) : Statement (.turnDrainEnd link) := rfl
theorem turnDeadTimeEnd (link : Nat) : Statement (.turnDeadTimeEnd link) := rfl
theorem linkPaused (link : Nat) : Statement (.linkPaused link) := rfl
theorem ltrainDone (link : Nat) (failed : BitVec 8) (badSpares : BitVec 32) : Statement (.ltrainDone link failed badSpares) := rfl
theorem flitReplay (link group lane : Nat) (again : Bool) : Statement (.flitReplay link group lane again) := rfl
theorem put (port : Nat) (pkt : Packet) : Statement (.put port pkt) := rfl
theorem getreq (port : Nat) (pkt : Packet) : Statement (.getreq port pkt) := rfl
theorem atom (port : Nat) (pkt : Packet) : Statement (.atom port pkt) := rfl
theorem notify (port : Nat) (pkt : Packet) : Statement (.notify port pkt) := rfl
theorem ack (port : Nat) (pkt : Packet) : Statement (.ack port pkt) := rfl
theorem getdata (port : Nat) (pkt : Packet) : Statement (.getdata port pkt) := rfl
theorem atomrsp (port : Nat) (pkt : Packet) : Statement (.atomrsp port pkt) := rfl
theorem bell (port vc : Nat) (gpn : BitVec 12) : Statement (.bell port vc gpn) := rfl
theorem rbell (port vc : Nat) (gpn : BitVec 12) : Statement (.rbell port vc gpn) := rfl
theorem beaconFlitReplay (port : Nat) (again : Bool) : Statement (.beaconFlitReplay port again) := rfl
theorem portUp (port : Nat) : Statement (.portUp port) := rfl
theorem launchBind (slot : Nat) : Statement (.launchBind slot) := rfl
theorem preEmption (slot : Nat) : Statement (.preEmption slot) := rfl
theorem contextSave (slot : Nat) : Statement (.contextSave slot) := rfl
theorem completionEntryWrite (queue : Nat) : Statement (.completionEntryWrite queue) := rfl
theorem sqtail (queue : Nat) (value : BitVec 64) : Statement (.sqtail queue value) := rfl
theorem cqhead (queue : Nat) (value : BitVec 64) : Statement (.cqhead queue value) := rfl
theorem enable (queue : Nat) (value : BitVec 64) : Statement (.enable queue value) := rfl
theorem tenantCreate (cmd : HostCmd) : Statement (.tenantCreate cmd) := rfl
theorem tenantReset (cmd : HostCmd) : Statement (.tenantReset cmd) := rfl
theorem tenantDelete (cmd : HostCmd) : Statement (.tenantDelete cmd) := rfl
theorem ownerSet (cmd : HostCmd) : Statement (.ownerSet cmd) := rfl
theorem pairCreate (cmd : HostCmd) : Statement (.pairCreate cmd) := rfl
theorem pairDelete (cmd : HostCmd) : Statement (.pairDelete cmd) := rfl
theorem regionCreate (cmd : HostCmd) : Statement (.regionCreate cmd) := rfl
theorem regionDelete (cmd : HostCmd) : Statement (.regionDelete cmd) := rfl
theorem gangCreate (cmd : HostCmd) : Statement (.gangCreate cmd) := rfl
theorem gangDelete (cmd : HostCmd) : Statement (.gangDelete cmd) := rfl
theorem gangSwitchSave (cmd : HostCmd) : Statement (.gangSwitchSave cmd) := rfl
theorem gangSwitchResume (cmd : HostCmd) : Statement (.gangSwitchResume cmd) := rfl
theorem launchSuspend (cmd : HostCmd) : Statement (.launchSuspend cmd) := rfl
theorem launchResume (cmd : HostCmd) : Statement (.launchResume cmd) := rfl
theorem debugGrant (cmd : HostCmd) : Statement (.debugGrant cmd) := rfl
theorem launch (cmd : HostCmd) : Statement (.launch cmd) := rfl
theorem invalidate (cmd : HostCmd) : Statement (.invalidate cmd) := rfl
theorem faultReplyRetry (cmd : HostCmd) : Statement (.faultReplyRetry cmd) := rfl
theorem faultReplyAbort (cmd : HostCmd) : Statement (.faultReplyAbort cmd) := rfl
theorem nop (cmd : HostCmd) : Statement (.nop cmd) := rfl
theorem bootgo (readError : Bool) : Statement (.bootgo readError) := rfl
theorem resetkey (value : BitVec 64) : Statement (.resetkey value) := rfl
theorem powerOn : Statement (.powerOn) := rfl
theorem attreq : Statement (.attreq) := rfl
theorem fatalreq : Statement (.fatalreq) := rfl
theorem svnfuse (value : BitVec 64) : Statement (.svnfuse value) := rfl
theorem clusterRetire (core die cluster : Nat) : Statement (.clusterRetire core die cluster) := rfl
theorem ownerEntryWrite (entry : Nat) (value : BitVec 8) : Statement (.ownerEntryWrite entry value) := rfl
theorem registerWrite (offset : Nat) (value : BitVec 64) : Statement (.registerWrite offset value) := rfl
theorem powerClampWindow (watts : Nat) : Statement (.powerClampWindow watts) := rfl
theorem junctionHot (die : Nat) : Statement (.junctionHot die) := rfl
theorem thermal (die : Nat) : Statement (.thermal die) := rfl
theorem cdMemory : Statement (.cdMemory) := rfl
theorem dumpdone : Statement (.dumpdone) := rfl

end Sys2Proof.Laws.Encoding
end

