-- ==== Sys2Proof/Tests/Slice0.lean ====
section
/-!
SUPPORT. Tests: words decoded, terms that are not well formed, one step each on small states with results worked out from the
spec's words, and for every statement with hypotheses a state that meets them.
-/

namespace Sys2Proof.Tests

open Sys2Proof Sys2Proof.Machine

set_option maxRecDepth 20000
-- one theorem after another, so that the kernel checks do not all wait on one another in threads of their own
set_option Elab.async false

/-! ### Well-formedness -/

/-- R109: MS is zero when neither M nor X is set. -/
theorem test_ms_needs_mask : (Instr.vadd 1 2 3 0 5 0).wellFormed = false ∧ (Instr.vadd 1 2 3 1 5 0).wellFormed = true ∧
    (Instr.vfadd 1 2 3 0 5 0 0).wellFormed = false ∧ (Instr.vfadd 1 2 3 0 5 0 1).wellFormed = true := by decide

/-- R105: NP and ESH are zero without pointers; RC is not s0; the pointers end at s31. -/
theorem test_loopv_fields : (Instr.loopv 1 0 1 0 0).wellFormed = false ∧ (Instr.loopv 1 0 0 1 0).wellFormed = false ∧
    (Instr.loopv 0 1 0 0 0).wellFormed = false ∧ (Instr.loopv 1 30 2 0 0).wellFormed = false ∧
    (Instr.loopv 1 30 1 3 0).wellFormed = true := by decide

/-- R113: the element formats end at 0x13. -/
theorem test_format_assigned : (Instr.vcvt 1 2 0x14 0 0 0 0).wellFormed = false ∧
    (Instr.vcvt 1 2 0x13 0 0 0 0).wellFormed = true ∧ (Instr.vscale 1 2 0x1F 0).wellFormed = false := by decide

/-- R110: mask registers end at m95, and a scalar register in a mask format at s31. -/
theorem test_mask_registers : (Instr.mand 96 0 0).wellFormed = false ∧ (Instr.mand 0 0 96).wellFormed = false ∧
    (Instr.mand 95 95 95).wellFormed = true ∧ (Instr.mpopc 32 0).wellFormed = false ∧ (Instr.mld 0 32).wellFormed = false ∧
    (Instr.mst 31 95).wellFormed = true := by decide

/-- R111: TMUL's queues are load queues and differ, and the operand formats end at 13. -/
theorem test_tmul_fields : (Instr.tmul 1 1 0 0 0 0 0).wellFormed = false ∧ (Instr.tmul 8 1 0 0 0 0 0).wellFormed = false ∧
    (Instr.tmul 0 1 0 0 0 0 14).wellFormed = false ∧ (Instr.tmulsp 0 1 1 0 0 0 0).wellFormed = false ∧
    (Instr.tmulsp 0 1 2 0 0 0 6).wellFormed = false ∧ (Instr.tmul 0 1 31 1 7 3 13).wellFormed = true := by decide

/-- The other ranges: stream queues, tile quarters, VCFG, GPASS. -/
theorem test_operand_ranges : (Instr.sopen 16 0 0).wellFormed = false ∧ (Instr.sgather 8 0 0).wellFormed = false ∧
    (Instr.venq 1 7 0 0 0).wellFormed = false ∧ (Instr.vmvq 1 0 8 0 0 0).wellFormed = false ∧
    (Instr.tmodeOn 16).wellFormed = false ∧ (Instr.tmodeOff 16).wellFormed = false ∧ (Instr.tzero 8 0).wellFormed = false ∧
    (Instr.vcfg 4).wellFormed = false ∧ (Instr.gpass 0 4).wellFormed = false ∧ (Instr.sopen 15 0 0).wellFormed = true := by
  decide

/-- An event is no word. -/
theorem test_event_not_encoded : (Instr.powerOn).wellFormed = false ∧ encode (Instr.powerOn) = none := by decide

/-! ### Decoding -/

/-- A word of every major opcode, scalar: its fields from bit 31 down (03_encoding.md, opcode_table.json). -/
theorem test_decode_scalar :
    decode true (1#6 ++ 5#5 ++ 8#5 ++ 0xb#5 ++ 0xe#5 ++ 0x28#6) = .ok (.selz 5 8 0xb 0xe) ∧
    decode true (2#6 ++ 5#5 ++ 8#5 ++ 0xb#5 ++ 0xe#5 ++ 0#6) = .ok (.fsl 5 8 0xb 0xe) ∧
    decode true (3#6 ++ 5#5 ++ 8#5 ++ 0xb#5 ++ 0xe#5 ++ 7#6) = .ok (.fmaS 5 8 0xb 0xe) ∧
    decode true (4#6 ++ 5#5 ++ 8#5 ++ 0x800c#16) = .ok (.addi 5 8 0x800c) ∧
    decode true (5#6 ++ 5#5 ++ 8#5 ++ 0x800c#16) = .ok (.andi 5 8 0x800c) ∧
    decode true (6#6 ++ 5#5 ++ 8#5 ++ 0x800c#16) = .ok (.ori 5 8 0x800c) ∧
    decode true (7#6 ++ 5#5 ++ 8#5 ++ 0x800c#16) = .ok (.xori 5 8 0x800c) ∧
    decode true (8#6 ++ 5#5 ++ 8#5 ++ 0x800c#16) = .ok (.slti 5 8 0x800c) ∧
    decode true (9#6 ++ 5#5 ++ 8#5 ++ 0x800c#16) = .ok (.sltiu 5 8 0x800c) ∧
    decode true (0xa#6 ++ 5#5 ++ 0#5 ++ 0x8009#16) = .ok (.lui 5 0x8009) ∧
    decode true (0xb#6 ++ 5#5 ++ 8#5 ++ 0x800c#16) = .ok (.addhi 5 8 0x800c) ∧
    decode true (0xc#6 ++ 5#5 ++ 8#5 ++ 0#3 ++ 0x100c#13) = .ok (.ldb 5 8 0x100c) ∧
    decode true (0xd#6 ++ 5#5 ++ 8#5 ++ 0#3 ++ 0x100c#13) = .ok (.stb 5 8 0x100c) ∧
    decode true (0xe#6 ++ 5#5 ++ 8#5 ++ 0xb#5 ++ 2#2 ++ 1#1 ++ 1#1 ++ 1#1 ++ 0#6) = .ok (.rmswap 5 8 0xb 2 1 1 1) ∧
    decode true (0xf#6 ++ 5#5 ++ 8#5 ++ 0x800c#16) = .ok (.jalr 5 8 0x800c) := by decide +kernel

/-- A word of every major opcode, control: its fields from bit 31 down (03_encoding.md, opcode_table.json). -/
theorem test_decode_control :
    decode true (0x10#6 ++ 5#5 ++ 8#5 ++ 0#3 ++ 0x100c#13) = .ok (.beq 5 8 0x100c) ∧
    decode true (0x11#6 ++ 5#5 ++ 0x100009#21) = .ok (.jal 5 0x100009) ∧
    decode true (0x12#6 ++ 5#5 ++ 8#5 ++ 1#2 ++ 2#2 ++ 0x80c#12) = .ok (.loopv 5 8 1 2 0x80c) ∧
    decode true (0x13#6 ++ 5#5 ++ 0#5 ++ 0x809#12 ++ 0#4) = .ok (.cwread 5 0x809) ∧
    decode true (0x14#6 ++ 5#5 ++ 8#5 ++ 2#2 ++ 0#14) = .ok (.fence 5 8 2) := by decide +kernel

/-- A word of every major opcode, vector: its fields from bit 31 down (03_encoding.md, opcode_table.json). -/
theorem test_decode_vector :
    decode true (0x18#6 ++ 5#5 ++ 8#5 ++ 0xb#5 ++ 1#1 ++ 5#3 ++ 2#2 ++ 0#5) = .ok (.vadd 5 8 0xb 1 5 2) ∧
    decode true (0x19#6 ++ 5#5 ++ 8#5 ++ 0xb#5 ++ 1#1 ++ 5#3 ++ 2#2 ++ 0#5) = .ok (.vaddVs 5 8 0xb 1 5 2) ∧
    decode true (0x1a#6 ++ 5#5 ++ 8#5 ++ 0xb#5 ++ 1#1 ++ 5#3 ++ 2#2 ++ 0#1 ++ 0#4) = .ok (.vfadd 5 8 0xb 1 5 2 0) ∧
    decode true (0x1b#6 ++ 5#5 ++ 8#5 ++ 0xb#5 ++ 1#1 ++ 5#3 ++ 2#2 ++ 0#1 ++ 0#4) = .ok (.vfaddVs 5 8 0xb 1 5 2 0) ∧
    decode true (0x1c#6 ++ 5#5 ++ 8#5 ++ 0#5 ++ 1#1 ++ 5#3 ++ 2#2 ++ 0#1 ++ 0#4) = .ok (.vfsqrt 5 8 1 5 2 0) ∧
    decode true (0x1d#6 ++ 5#5 ++ 8#5 ++ 9#5 ++ 1#1 ++ 5#3 ++ 2#2 ++ 0#1 ++ 0#4) = .ok (.vcvt 5 8 9 1 5 2 0) ∧
    decode true (0x1e#6 ++ 5#5 ++ 8#5 ++ 9#5 ++ 1#1 ++ 5#3 ++ 2#2 ++ 0#1 ++ 0#4) = .ok (.vmxpack 5 8 9 1 5 2 0) ∧
    decode true (0x1f#6 ++ 5#5 ++ 8#5 ++ 0xb#5 ++ 1#1 ++ 5#3 ++ 2#2 ++ 0#1 ++ 8#4) = .ok (.vfsumr 5 8 0xb 1 5 2 0) ∧
    decode true (0x20#6 ++ 5#5 ++ 8#5 ++ 0xb#5 ++ 1#1 ++ 5#3 ++ 2#2 ++ 0#5) = .ok (.vshup 5 8 0xb 1 5 2) ∧
    decode true (0x21#6 ++ 5#5 ++ 8#5 ++ 0xb#5 ++ 1#1 ++ 5#3 ++ 2#2 ++ 0#5) = .ok (.vunpack 5 8 0xb 1 5 2) ∧
    decode true (0x22#6 ++ 5#5 ++ 8#5 ++ 0xb#5 ++ 0#4 ++ 2#2 ++ 1#5) = .ok (.vsetvl 5 8 0xb 2) ∧
    decode true (0x23#6 ++ 5#5 ++ 8#5 ++ 0x800c#16) = .ok (.vsetvli 5 8 0x800c) ∧
    decode true (0x29#6 ++ 5#5 ++ 8#5 ++ 0xb#5 ++ 1#1 ++ 5#3 ++ 2#2 ++ 0#1 ++ 8#4) = .ok (.vfceq 5 8 0xb 1 5 2 0) ∧
    decode true (0x2a#6 ++ 5#5 ++ 8#5 ++ 0xb#5 ++ 1#1 ++ 5#3 ++ 2#2 ++ 0#1 ++ 8#4) = .ok (.vfceqVs 5 8 0xb 1 5 2 0) := by decide +kernel

/-- A word of every major opcode, memory grid queue mask: its fields from bit 31 down (03_encoding.md, opcode_table.json). -/
theorem test_decode_memory_grid_queue_mask :
    decode true (0x24#6 ++ 5#5 ++ 8#5 ++ 0xb#5 ++ 1#1 ++ 5#3 ++ 2#2 ++ 1#5) = .ok (.vlds 5 8 0xb 1 5 2) ∧
    decode true (0x25#6 ++ 5#5 ++ 8#5 ++ 0#5 ++ 1#1 ++ 5#3 ++ 2#2 ++ 0#5) = .ok (.grow 5 8 1 5 2) ∧
    decode true (0x26#6 ++ 5#5 ++ 8#5 ++ 1#1 ++ 6#4 ++ 1#1 ++ 5#3 ++ 2#2 ++ 0#1 ++ 4#4) = .ok (.vfaddq 5 8 1 6 1 5 2 0) ∧
    decode true (0x4e0#11 ++ 5#5 ++ 0#1 ++ 9#4 ++ 1#1 ++ 5#3 ++ 2#2 ++ 0#5) = .ok (.venq 5 9 1 5 2) ∧
    decode true (0x28#6 ++ 5#7 ++ 8#7 ++ 0xb#7 ++ 0#5) = .ok (.mand 5 8 0xb) := by decide +kernel

/-- A word of every major opcode, tile: its fields from bit 31 down (03_encoding.md, opcode_table.json). -/
theorem test_decode_tile :
    decode true (0x2c#6 ++ 2#5 ++ 5#5 ++ 7#5 ++ 1#1 ++ 3#3 ++ 2#2 ++ 4#5) = .ok (.tmul 2 5 7 1 3 2 4) ∧
    decode true (0x2d#6 ++ 2#5 ++ 5#5 ++ 7#5 ++ 1#1 ++ 3#3 ++ 2#2 ++ 4#5) = .ok (.tmulsp 2 5 7 1 3 2 4) ∧
    decode true (0x2e#6 ++ 5#5 ++ 8#5 ++ 0xb#5 ++ 0#4 ++ 2#2 ++ 2#5) = .ok (.tshape 5 8 0xb 2) := by decide +kernel

/-- A word of every major opcode, engines and supervisor: its fields from bit 31 down (03_encoding.md, opcode_table.json). -/
theorem test_decode_engines_and_supervisor :
    decode true (0x30#6 ++ 6#5 ++ 5#5 ++ 8#5 ++ 0#4 ++ 2#2 ++ 9#5) = .ok (.sldxBg 6 5 8 2) ∧
    decode true (0x32#6 ++ 5#5 ++ 8#5 ++ 0xb#5 ++ 1#1 ++ 1#1 ++ 0#2 ++ 2#2 ++ 2#5) = .ok (.cpcvt 5 8 0xb 1 1 2) ∧
    decode true (0x33#6 ++ 5#5 ++ 8#5 ++ 0#16) = .ok (.nring 5 8) ∧
    decode true (0x34#6 ++ 5#5 ++ 8#5 ++ 0xb#5 ++ 0#11) = .ok (.lturn 5 8 0xb) ∧
    decode true (0x35#6 ++ 5#5 ++ 8#5 ++ 0xb#5 ++ 0#11) = .ok (.bput 5 8 0xb) ∧
    decode true (0x36#6 ++ 5#5 ++ 8#5 ++ 0#16) = .ok (.klaunch 5 8) ∧
    decode true (0x37#6 ++ 5#5 ++ 8#5 ++ 0#16) = .ok (.svrd 5 8) := by decide +kernel
/-- R97: an unassigned major opcode, a nonzero field that must be zero, a queue out of range, an instruction A0 leaves out, a
privileged one. -/
theorem test_decode_rejects :
    decode true 0 = .error (.illegal 1) ∧ decode true (1#6 ++ 3#5 ++ 4#5 ++ 0#5 ++ 1#5 ++ 0x1B#6) = .error (.illegal 3) ∧
    decode true (0x30#6 ++ 16#5 ++ 0#5 ++ 0#5 ++ 0#4 ++ 0#2 ++ 0#5) = .error (.illegal 4) ∧
    decode true (0x38#6 ++ 1#5 ++ 2#5 ++ 3#5 ++ 0#11) = .ok (.vdadd 1 2 3 0 0 0 0) ∧
    decode false (0x37#6 ++ 5#5 ++ 8#5 ++ 0#16) = .error .priv := by decide +kernel

/-! ### Small states -/

/-- Hart 0 right after reset, running in supervisor mode on a page that holds a word at its pc. -/
def base (w : Nat) : State := State.reset.withFetchWord 32 w

/-- The same hart with some of its fields set. -/
def hartWith (f : Hart → Hart) : State := (base 0).updMe f

/-- The same hart with scalar registers set. -/
def regs (l : List (Nat × Word)) : State := hartWith (fun x => l.foldl (fun x p => x.setS p.1 p.2) x)

/-- What a next state shows; nothing of a fault or a refusal. -/
def shows {α : Type} (o : Out) (f : State → α) : Option α := match o with
  | .next t => some (f t)
  | _ => none

/-- A computation that ends well. -/
def isDone {α : Type} (r : Except Exc α × State) : Bool := match r.1 with
  | .ok _ => true
  | .error _ => false

/-- A computation that ends in a trap. -/
def isTrap {α : Type} (r : Except Exc α × State) : Bool := match r.1 with
  | .error (.trap _) => true
  | _ => false

theorem done_iff {α : Type} {r : Except Exc α × State} (h : isDone r = true) : ∃ v t, r = (.ok v, t) := by
  obtain ⟨a, t⟩ := r
  cases a with
  | ok v => exact ⟨v, t, rfl⟩
  | error e => simp [isDone] at h

theorem trap_iff {α : Type} {r : Except Exc α × State} (h : isTrap r = true) : ∃ e t, r = (.error (.trap e), t) := by
  obtain ⟨a, t⟩ := r
  cases a with
  | ok v => simp [isTrap] at h
  | error e => cases e with
    | trap e => exact ⟨e, t, rfl⟩
    | endTrap e => simp [isTrap] at h
    | wait => simp [isTrap] at h

/-! ### One step, scalar -/

/-- R139: sums are modulo 2^64. -/
theorem test_add_wraps : shows (exec (.add 3 1 2) (regs [(1, 0xFFFFFFFFFFFFFFFF), (2, 2)])) (fun t => (t.me.s 3, t.me.pc)) =
    some (1, 4) := by decide +kernel

/-- R139: sub is s[a] - s[b]. -/
theorem test_sub_order : shows (exec (.sub 3 1 2) (regs [(1, 5), (2, 7)])) (fun t => t.me.s 3) =
    some 0xFFFFFFFFFFFFFFFE := by decide +kernel

/-- R139: the quotient of the most negative number by -1 is itself, and of anything by 0 is -1. -/
theorem test_div_corners :
    shows (exec (.div 3 1 2) (regs [(1, 0x8000000000000000), (2, 0xFFFFFFFFFFFFFFFF)])) (fun t => t.me.s 3) =
      some 0x8000000000000000 ∧
    shows (exec (.div 3 1 2) (regs [(1, 5)])) (fun t => t.me.s 3) = some 0xFFFFFFFFFFFFFFFF := by decide +kernel

/-- R139: mulhsu takes s[a] signed and s[b] unsigned. -/
theorem test_mulhsu_signs :
    shows (exec (.mulhsu 3 1 2) (regs [(1, 0xFFFFFFFFFFFFFFFF), (2, 0xFFFFFFFFFFFFFFFF)])) (fun t => t.me.s 3) =
      some 0xFFFFFFFFFFFFFFFF := by decide +kernel

/-- R140: ori zero-extends its immediate, addi sign-extends it. -/
theorem test_immediate_extension : shows (exec (.ori 3 0 0x8000) (regs [])) (fun t => t.me.s 3) = some 0x8000 ∧
    shows (exec (.addi 3 0 0x8000) (regs [])) (fun t => t.me.s 3) = some 0xFFFFFFFFFFFF8000 := by decide +kernel

/-- R141: bfxs extends the sign of the field; a length of 0 gives 0. -/
theorem test_bfxs_sign : shows (exec (.bfxs 3 1 2 4) (regs [(1, 0xF0), (2, 4), (4, 4)])) (fun t => t.me.s 3) =
      some 0xFFFFFFFFFFFFFFFF ∧
    shows (exec (.bfxs 3 1 2 4) (regs [(1, 0xF0), (2, 4)])) (fun t => t.me.s 3) = some 0 := by decide +kernel

/-- R143, R120: 1.0 + 2^-24 in single precision is a tie that goes to the even 1.0, and raises NX, bit 0. -/
theorem test_fadd_tie : shows (exec (.faddS 3 1 2) (regs [(1, 0x3F800000), (2, 0x33800000)])) (fun t => (t.me.s 3, t.me.fflags)) =
    some (0x3F800000, 1) := by decide +kernel

/-- R133: s0 stays 0, and the instruction goes on. -/
theorem test_s0_discards : shows (exec (.addi 0 0 7) (regs [])) (fun t => (t.me.s 0, t.me.pc)) = some (0, 4) := by decide +kernel

/-- R144: a byte loaded with its sign; the lowest address holds the lowest byte. -/
theorem test_ldb_sign : shows (exec (.ldb 3 1 1) ((regs [(1, 0x100)]).setBytes 0x100 2 0x80FF)) (fun t => t.me.s 3) =
    some 0xFFFFFFFFFFFFFF80 := by decide +kernel

/-- R144: a store of 2 bytes leaves its neighbours. -/
theorem test_sth_width : shows (exec (.sth 3 1 0) ((regs [(1, 0x100), (3, 0x1234)]).setBytes 0x100 4 0xAABBCCDD))
    (fun t => t.bytesAt 0x100 4) = some 0xAABB1234 := by decide +kernel

/-- R145: an atomic answers the old value with its sign, and its sum stays in 4 bytes. -/
theorem test_rmadd_width : shows (exec (.rmadd 3 1 2 0 0 0 0) ((regs [(1, 0x100), (2, 1)]).setBytes 0x100 8 0xFFFFFFFF))
    (fun t => (t.me.s 3, t.bytesAt 0x100 8)) = some (0xFFFFFFFFFFFFFFFF, 0) := by decide +kernel

/-- R145: CAS writes only if the old value is the expected one in s[d]. -/
theorem test_cas_compares : shows (exec (.cas 3 1 2 0 0 0 1) ((regs [(1, 0x100), (2, 9), (3, 4)]).setBytes 0x100 8 5))
    (fun t => (t.me.s 3, t.bytesAt 0x100 8)) = some (5, 5) := by decide +kernel

/-- R147: a branch back by one word; JALR clears the two low bits, and reads its register before it links. -/
theorem test_branch_back : shows (exec (.beq 0 0 0x1FFF) (hartWith (fun x => { x with pc := 0x40 }))) (fun t => t.me.pc) =
      some 0x3C ∧
    shows (exec (.jalr 1 1 3) (regs [(1, 0x100)])) (fun t => (t.me.s 1, t.me.pc)) = some (4, 0x100) := by decide +kernel

/-- R150: LOOPV counts down by VL, moves its pointer and goes back while elements are left. -/
theorem test_loopv : shows (exec (.loopv 10 11 0 2 0xFFF)
      ((regs [(10, 20), (11, 0x100)]).updMe (fun x => { x with vl := 16, pc := 0x40 })))
    (fun t => (t.me.s 10, t.me.s 11, t.me.pc)) = some (4, 0x140, 0x3C) := by decide +kernel

/-- R152, R160: TRAP saves the address of the next instruction and goes to TVEC. -/
theorem test_trap : shows (exec (.trap 7) (hartWith (fun x => { x with tvec := 0x200, pc := 0x40 })))
    (fun t => (t.me.tcause, t.me.tpc, t.me.tinfo0, t.me.pc)) = some (0x15, 0x44, 7, 0x200) := by decide +kernel

/-- R160: with no handler the hart fails. -/
theorem test_no_handler : shows (exec (.trap 7) (base 0)) (fun t => t.me.run) = some .failed := by decide +kernel

/-- R162: RETT goes to TPC and ends the trap. -/
theorem test_rett : shows (exec .rett (hartWith (fun x => { x with tcause := 0x15, tpc := 0x88 }))) (fun t => (t.me.pc, t.me.tcause)) =
    some (0x88, 0) := by decide +kernel

/-- R117: a VL above 16384 is not written. -/
theorem test_vl_range : shows (exec (.cwwrite 1 0) (regs [(1, 16385)])) (fun t => t.me.vl) = some 0 ∧
    shows (exec (.cwwrite 1 0) (regs [(1, 16384)])) (fun t => t.me.vl) = some 16384 := by decide +kernel

/-- A step fetches, decodes and runs: 0x04642800 is add s3, s4, s5. -/
theorem test_step_runs : shows (step (base 0x04642800)) (fun t => (t.me.pc, t.cycle)) = some (4, 1) := by decide +kernel

/-! ### One step, vector -/

/-- A hart with quarter 0 in registers and VL = 2; the selector and VTYPE are those of reset, of 32-bit elements. -/
def vecHart (f : Hart → Hart) : State :=
  hartWith (fun x => f { x with owned := 1, cfg := some { nreg := 16, quarters := 1 }, vl := 2, vtype := 0x0002 })

/-- R179, R36: VADD with a scalar writes the live elements of v1, in the columns 12 to 23 of rows 0 and 1, and no other. -/
theorem test_vadd_scalar : shows (exec (.vaddVs 1 0 3 0 0 0) (vecHart (fun x => x.setS 3 5)))
    (fun t => (smGet 0 t.grid (cellKey 0 0 12), t.me.pc, t.me.queue, t.me.vstart)) = some (5, 4, [], 0) := by decide +kernel

/-- R205: MAND from VSTART to VL; the other bits stay. -/
theorem test_mand : shows (exec (.mand 3 1 2)
      (hartWith (fun x => ({ x with vl := 3, vstart := 1 }.setMask 1 0xF).setMask 2 0xB)))
    (fun t => (t.me.mask 3, t.me.vstart)) = some (2, 0) := by decide +kernel

/-- R205: MPOPC counts the live set bits. -/
theorem test_mpopc : shows (exec (.mpopc 7 1) (hartWith (fun x => { x with vl := 3 }.setMask 1 0xD))) (fun t => t.me.s 7) =
    some 2 := by decide +kernel

/-! ### Events -/

/-- R407: only the key 0xA5 resets. -/
theorem test_reset_key : shows (exec (.resetkey 0xA4) (regs [(1, 5)])) (fun t => t.me.s 1) = some 5 ∧
    shows (exec (.resetkey 0xA5) (regs [(1, 5)])) (fun t => t.me.s 1) = some 0 := by decide +kernel

/-- R415: an owner entry that changes zeroes its unit. -/
theorem test_owner_scrub : shows (exec (.ownerEntryWrite 0 0x83) ((base 0).setBytes 0x40 1 7)) (fun t => (t.byteAt 0x40, t.splitLock)) =
    some (0, true) := by decide +kernel

/-! ### States that meet the hypotheses of the statements -/

/-- A fetch that answers a word. -/
def gives (r : Except AccErr (BitVec 32) × State) (w : BitVec 32) : Bool := match r.1 with
  | .ok v => v == w
  | .error _ => false

theorem gives_iff {r : Except AccErr (BitVec 32) × State} {w : BitVec 32} (h : gives r w = true) : r = (.ok w, r.2) := by
  obtain ⟨a, t⟩ := r
  cases a with
  | ok v => simp only [gives, beq_iff_eq] at h; rw [h]
  | error e => simp [gives] at h

/-- An outcome that is a next state. -/
def isNext (o : Out) : Bool := match o with
  | .next _ => true
  | _ => false

theorem next_iff {o : Out} (h : isNext o = true) : ∃ t, o = .next t := by
  cases o with
  | next t => exact ⟨t, rfl⟩
  | fault f => simp [isNext] at h
  | refused r => simp [isNext] at h

/-- Encoding statements: a well-formed instruction with its word, a word that decodes, in both modes. -/
theorem witness_encoding : (Instr.add 3 4 5).wellFormed = true ∧ encode (.add 3 4 5) = some 0x04642800 ∧
    decode true 0x04642800 = .ok (.add 3 4 5) ∧ decode true 0xDCA60000 = .ok (.svrd 5 6) := by decide +kernel

/-- PrivilegedTraps, and the words of the conditional issues. -/
theorem witness_PrivilegedTraps : privileged (.svrd 5 6) = true ∧ encode (.svrd 5 6) = some 0xDCA60000 ∧
    State.reset.me.super = false := by decide +kernel

/-- A placed word is fetched. -/
theorem fetched (w : Nat) (v : BitVec 32)
    (h : gives (fetchWord 0 ((base w).turn 0 [])) v = true) (he : emulated (fetchWord 0 ((base w).turn 0 [])).2 v = none) :
    (base w).fetches 0 [] v (fetchWord 0 ((base w).turn 0 [])).2 :=
  ⟨rfl, by decide, rfl, Bool.and_eq_false_iff.2 (.inl rfl), rfl, rfl, rfl, gives_iff h, he⟩

/-- StepRunsDecoded. -/
theorem witness_StepRunsDecoded : ∃ t, (base 0x04642800).fetches 0 [] 0x04642800 t ∧ decode t.me.super 0x04642800 = .ok (.add 3 4 5) :=
  ⟨_, fetched _ _ (by decide +kernel) (by decide +kernel), by decide +kernel⟩

/-- StepTrapsRejectedWords: a word of no instruction. -/
theorem witness_StepTrapsRejectedWords : ∃ t, (base 0).fetches 0 [] 0 t ∧ t.me.run = .running ∧
    decode t.me.super 0 = .error (.illegal 1) :=
  ⟨_, fetched _ _ (by decide +kernel) (by decide +kernel), by decide +kernel, by decide +kernel⟩

/-- Registers ready, at both ends of their numbers, and nothing holds an access back: the scalar statements, the branches and the
system instructions. -/
theorem witness_ready : (base 0).me.ready [0, 31, 15, 1] = true ∧ (base 0).me.ready [] = true ∧ (base 0).me.vtypePending = false ∧
    (base 0).fenced 1 = false ∧ (base 0).fenced 2 = false ∧ (base 0).fenced 3 = false ∧ (base 0).me.queue = [] ∧
    (base 0).me.queue.any (·.open) = false ∧ (base 0).me.super = true := by decide +kernel

/-- MemoryReadAfterWrite: the last 8 bytes of a page, and a byte outside them. -/
theorem witness_MemoryReadAfterWrite : 8 ∈ [1, 2, 4, 8] ∧ 4088 % 8 = 0 ∧ ∀ i, i < 8 → memKey 4096 ≠ memKey (4088 + i) := by
  decide +kernel

/-- StepKeepsMemoryCanonical. -/
theorem witness_StepKeepsMemoryCanonical : (base 0x04642800).Inv ∧ ∃ t, step (base 0x04642800) = .next t :=
  ⟨by unfold State.Inv; decide +kernel, next_iff (by decide +kernel)⟩

/-- ScalarFloatNaN: a quiet and a signalling NaN. -/
theorem witness_ScalarFloatNaN : (fdecode .f32 0x7FC00001).isNan = true ∧ (fdecode .f32 0x7F800001).isNan = true ∧
    (fdecode .f64 0xFFF8000000000000).isNan = true := by decide +kernel

/-- AbsentInstructions: a word of each shape, and TMULSP at both ends of the absent formats. -/
theorem witness_AbsentInstructions : (encode (.vferf 1 2 0 0 0 0)).isSome = true ∧ (encode (.vdadd 1 2 3 1 7 3 1)).isSome = true ∧
    (encode (.fdivD 1 2 3)).isSome = true ∧ (encode (.fsqrtD 1 2)).isSome = true ∧
    (encode (.tmulsp 0 1 2 0 0 0 6)).isSome = true ∧ (encode (.tmulsp 0 1 2 0 0 0 13)).isSome = true := by decide +kernel

/-- ScalarFrame. -/
theorem witness_ScalarFrame : (∃ t, exec (.add 31 1 2) (base 0) = .next t) ∧ ∃ t, exec (.faddS 31 1 2) (base 0) = .next t :=
  ⟨next_iff (by decide +kernel), next_iff (by decide +kernel)⟩

/-- LoadResults, ZeroRegister: aligned reads of each width at the start and the end of the page. -/
theorem witness_reads : ∀ n ∈ [1, 2, 4, 8], (0 : Word).toNat % n = 0 ∧ (∃ v t, (base 5).reads 0 n v t) ∧
    ∃ v t, (base 5).reads (BitVec.ofNat 64 (4096 - n)) n v t := by
  intro n hn
  fin_cases hn <;> exact ⟨by decide, done_iff (by decide +kernel), done_iff (by decide +kernel)⟩

/-- The TLB entry of the page of the small states. -/
def pageEntry : TlbEntry := { tenant := 0, va := 0, size := 4096, level := 5, pte := placedLeaf }

/-- TlbAccess, StoreResults, AtomicResults, BarrierResults, ClaimResult: the page maps loads, stores and atomics, and no watchpoint
is armed. -/
theorem witness_maps (k : Acc) (hk : k = .load ∨ k = .store ∨ k = .atomic) : (base 0).maps 0x100 8 k 0x100 ∧ (base 0).unwatched 0x100 8 := by
  rcases hk with rfl | rfl | rfl <;>
  exact ⟨⟨by decide, by decide, by decide +kernel,
    ⟨pageEntry, by decide +kernel, by decide, by decide +kernel, by decide +kernel, by decide⟩, by decide +kernel, by decide +kernel,
    by decide +kernel⟩,
    by decide +kernel, rfl⟩

/-- StoresPerform: a write of each width. -/
theorem witness_writes : ∀ n ∈ [1, 2, 4, 8], ∃ t, (base 0).writes 0 n 1 t := by
  intro n hn
  fin_cases hn <;> exact (done_iff (by decide +kernel)).elim fun _ h => h

/-- AccessTraps: addresses that are not multiples of the width, and a page that nothing maps. -/
theorem witness_AccessTraps : (1 : Word).toNat % 2 ≠ 0 ∧ (2 : Word).toNat % 4 ≠ 0 ∧ (4 : Word).toNat % 8 ≠ 0 ∧
    (∀ n ∈ [1, 2, 4, 8], ∃ e t, runM (memRead none 0 0x2000 n .load 0) (base 0) = (.error (.trap e), t)) ∧
    ∀ n ∈ [1, 2, 4, 8], ∃ e t, runM (memWrite none 0 0x2000 n 1 .store 0) (base 0) = (.error (.trap e), t) := by
  refine ⟨by decide, by decide, by decide, ?_, ?_⟩ <;> intro n hn <;> fin_cases hn <;> exact trap_iff (by decide +kernel)

/-- AccessTraps: a hart with s1 = 8, no multiple of 16, that may issue an atomic, CLAIM or BAR, and with s1 = 2, none of 4. -/
theorem witness_atomic_misaligned : ∀ v ∈ [2, 8], (regs [(1, v)]).me.ready [31, 1, 2] = true ∧ (regs [(1, v)]).me.ready [0, 1, 2] = true ∧
    (regs [(1, v)]).fenced 3 = false ∧ (regs [(1, v)]).vlmaxSeen.isSome = true ∧ (regs [(1, v)]).me.bar = none ∧
    (regs [(1, v)]).reg 1 = v ∧ v.toNat % 16 ≠ 0 ∧ (v = 2 → v.toNat % 4 ≠ 0) := by
  intro v hv
  fin_cases hv <;> decide +kernel

/-- The supervisor core, which runs. -/
def supvCore : State := { (base 0).updHart supvHart (fun x => { x with run := .running }) with cur := supvHart }

/-- AccessTraps: an atomic at a page that nothing maps, and of the supervisor core at an address outside memory; a BAR in its wait. -/
theorem witness_atomic_traps : (∀ n ∈ [4, 8, 16], ∃ e t, (regs [(1, 0x2000)]).atomicTraps 0x2000 n e t) ∧
    (∀ n ∈ [4, 8], ∃ e t, supvCore.atomicTraps 0xF00000000000 n e t) ∧ supvCore.me.ready [31, 1, 2] = true ∧
    supvCore.fenced 3 = false ∧ supvCore.vlmaxSeen.isSome = true ∧ supvCore.me.bar = none ∧
    (let s := hartWith (fun x => { x.setS 1 0x2000 with bar := some (0x2000, 1) })
     s.me.bar = some (s.reg 1, 1) ∧ s.me.ready [1] = true ∧
     ∃ e t, runM (memRead none 0 0x2000 8 .load 0) s = (.error (.trap e), t)) := by
  refine ⟨?_, ?_, by decide +kernel, by decide +kernel, by decide +kernel, by decide +kernel, by decide +kernel, by decide +kernel,
    trap_iff (by decide +kernel)⟩ <;> intro n hn
  · simp only [State.atomicTraps, if_neg (show (regs [(1, 0x2000)]).cur ≠ supvHart by decide)]
    fin_cases hn <;> exact trap_iff (by decide +kernel)
  · simp only [State.atomicTraps, if_pos (show supvCore.cur = supvHart from rfl)]
    fin_cases hn <;> exact trap_iff (by decide +kernel)

/-- A hart in user mode on a page of its tenant, with a watchpoint on each of the 16 bytes from 0x100 on, where a farm record of 5 elements
stands. -/
def watched : State :=
  { (vecHart (fun x => { x.setS 1 0x100 with super := false }.setS 2 3)).setBytes 0x108 8 5 with
    owners := [(0, 0x80)], watch := [(0, { pa := 0x100, bmask := 0xFFFF, kinds := 0xF, tenant := 0 })] }

/-- AccessTraps: a hart that may issue an atomic at s1, CLAIM and BAR among them. -/
theorem witness_watched : watched.me.ready [31, 1, 2] = true ∧ watched.me.ready [0, 1, 2] = true ∧ watched.fenced 3 = false ∧
    watched.reg 1 = 0x100 ∧ (watched.reg 3).toNat = 0 ∧ watched.me.bar = none ∧ watched.vlmaxSeen = some 6144 ∧
    Nat.min (watched.reg 2).toNat (Nat.min (5 - 0) 6144) ≠ 0 := by decide +kernel

/-- AccessTraps: each width passes its check, the write that follows meets the watchpoint, and s3 holds what a CAS expects. -/
theorem witness_watch_traps : ∀ n ∈ [4, 8, 16], ∃ u, watched.checked 0x100 n 0x100 u ∧ u.bytesAt 0x100 8 = 0 ∧ u.bytesAt 0x100 4 = 0 ∧
    u.bytesAt 0x108 8 = 5 ∧ (∃ e t, runM (watchCheck none 0 0x100 0x100 (Nat.min n 8) 0) u = (.error (.trap e), t)) ∧
    ∀ v ∈ [1, 0x100000000], ∃ e t, runM (memWrite none 0 0x100 8 v .atomic 0) u = (.error (.trap e), t) := by
  intro n hn
  refine ⟨(runM (writeCheck none 0 0x100 n .atomic 0) watched).2, ?_⟩
  fin_cases hn <;>
    refine ⟨⟨by decide, by decide +kernel⟩, by decide +kernel, by decide +kernel, by decide +kernel, trap_iff (by decide +kernel), ?_⟩ <;>
    intro v hv <;> fin_cases hv <;> exact trap_iff (by decide +kernel)

/-- The hart of the small states with an entry that waits. -/
def queued : State := hartWith (fun x => pushEntry x .tsync 0 0 0 0 0 none false)

/-- ClaimResult: the 16 bytes of a farm record at the end of the page, and no watchpoint on its counter. -/
theorem witness_maps_record : (base 0).maps 0xFF0 16 .atomic 0xFF0 ∧ (base 0).unwatched 0xFF0 8 ∧ (0xFF0 : Word).toNat % 16 = 0 :=
  ⟨⟨by decide, by decide, by decide +kernel,
    ⟨pageEntry, by decide +kernel, by decide, by decide +kernel, by decide +kernel, by decide⟩, by decide +kernel, by decide +kernel,
    by decide +kernel⟩, ⟨by decide +kernel, rfl⟩, by decide⟩

/-- ClaimResult: VLMAX known, with the queue empty and with an entry that waits. -/
theorem witness_ClaimResult : (vecHart id).vlmaxSeen = some 6144 ∧ (vecHart id).me.queue.any (·.open) = false ∧
    queued.vlmaxSeen = some 0 ∧ queued.me.queue.any (·.open) = true ∧ queued.me.ready [31, 1, 2] = true ∧ queued.fenced 3 = false := by
  decide +kernel

/-- LoopvResult: no elements and the most, with pointers up to s31 and with none. -/
theorem witness_LoopvResult : (Instr.loopv 1 28 3 3 0).wellFormed = true ∧ (Instr.loopv 31 0 0 0 0).wellFormed = true ∧
    (base 0).vlSeen = some 0 ∧ (hartWith (fun x => { x with vl := 16384 })).vlSeen = some 16384 ∧
    (base 0).me.ready [1, 28, 29, 30, 31] = true := by decide +kernel

/-- ControlWordAccess: a listed word of each side, with the queue empty and with an entry that waits, one that is not listed in either
mode, a privileged number in user mode. -/
theorem witness_ControlWordAccess : cwListed 0x050 = true ∧ cwVector 0x050 = false ∧ cwListed 0x000 = true ∧ cwVector 0x000 = true ∧
    (base 0).me.queue.any (·.open) = false ∧ queued.me.queue.any (·.open) = true ∧ (base 0).me.ready [31] = true ∧
    queued.me.ready [31] = true ∧ cwListed 0x7FF = false ∧ cwListed 0x800 = false ∧ cwListed 0xFFF = false ∧ (base 0).me.super = true ∧
    State.reset.me.super = false ∧ (∀ k ∈ [0x7FF, 0x800, 0xFFF], (encode (.cwread 1 k)).isSome = true ∧
      (encode (.cwwrite 1 k)).isSome = true ∧ (encode (.cwset 1 k)).isSome = true ∧ (encode (.cwclr 1 k)).isSome = true) := by
  decide +kernel

/-- A hart with a vector load that waits, and the FENCE that it has then issued: PS = {V}, QS = {READ, W}. -/
def fencedHart : State := hartWith (fun x =>
  { pushEntry x (.vmem .ld (vf 1 2 3 0 0 0 0)) 0 0 0 0 0 none false with fence := [{ ps := 4, qs := 3, scope := 2, before := 1, qsn := 1 }] })

/-- SystemResults: ready with no entry open and with one, and a FENCE whose predecessor has not performed. -/
theorem witness_SystemResults : (base 0).me.ready [] = true ∧ (base 0).me.queue.any (·.open) = false ∧ fencedHart.me.ready [] = true ∧
    fencedHart.me.queue.any (·.open) = true ∧ fencedHart.me.nextUid = 1 ∧ fencedHart.me.nextQsn = 1 ∧
    ({ ps := 4, qs := 3, scope := 2, before := 1, qsn := 1 } : FenceHold) ∈ fencedHart.me.fence ∧
    fencedHart.fenceBusy fencedHart.cur { ps := 4, qs := 3, scope := 2, before := 1, qsn := 1 } = true ∧
    (3 : BitVec 5) &&& 1 ≠ 0 := by decide +kernel

/-- An entry of a hart of the small states in a status. -/
def entryIn (st : EStat) (restart : Option Nat) : Option Entry := queued.me.queue.head?.map (fun e => { e with st := st, restart := restart })

/-- TrapEntry: a queue that begins with an entry in each status, and one whose oldest entry that is not complete waits with no index. -/
theorem witness_TrapEntry : (∀ st ∈ [EStat.waiting, .started, .held], ∀ e ∈ entryIn st (some 3),
      (e.st == .complete) = false ∧ e.st = st ∧ e.restart = some 3) ∧
    (∀ e ∈ entryIn .waiting none, e.st = .waiting ∧ e.restart = none) ∧ (entryIn .complete none).isSome = true ∧
    (queued.me.queue.dropWhile (fun e => e.st == .complete)).length = 1 := by decide +kernel

/-- TrapAndBreak and both halves of TrapEntry. -/
theorem witness_traps : (hartWith (fun x => { x with tvec := 4 })).me.tvec ≠ 0 ∧
    (hartWith (fun x => { x with tvec := 4 })).me.tcause.extractLsb' 0 8 = 0 ∧
    (hartWith (fun x => { x with tvec := 4 })).me.ready [] = true ∧ (base 0).me.tvec = 0 ∧
    (hartWith (fun x => { x with tvec := 4, tcause := 0x101 })).me.tcause.extractLsb' 0 8 ≠ 0 := by decide +kernel

/-- BarrierResults: the last of one and the first of two to arrive, and one that waits for a generation gone by. -/
theorem witness_BarrierResults : (base 0).me.bar = none ∧ 0 + 1 ≤ (base 0).bytesAt 0x100 8 % 2 ^ 32 + 1 ∧
    (base 0).bytesAt 0x100 8 % 2 ^ 32 + 1 < 1 + 1 ∧
    (hartWith (fun x => { x with bar := some (0x100, 1) })).me.bar = some (0x100, 1) ∧
    BitVec.ofNat 32 ((base 0).bytesAt 0x100 8 / 2 ^ 32) ≠ 1#32 := by decide +kernel

/-- The issue statements: entries of every kind may issue from a hart of the small states, and from one with an entry that waits. -/
theorem witness_issue : ∀ op ∈ [QOp.vint .add false (vf 1 2 3 0 0 0 0), .vmem .ld (vf 1 2 3 0 0 0 0), .tsync, .strm .sopen 0 1 0 0,
      .copy .cpwait false false 0 0, .stor .nring, .link .lpause, .beacon .batom, .vset 0 0 16384, .tmulsp 0 1 2 false 0 0 5],
    (base 0).mayQueue op [0, 31, 1] ∧ queued.mayQueue op [0, 31, 1] := by
  unfold State.mayQueue; decide +kernel

/-- The words of the conditional issues. -/
theorem witness_ConditionalIssue : (encode (.vsetvli 1 2 0x000A)).isSome = true ∧ vtypeOk 0x000A = true ∧ vtypeOk 0 = true ∧
    (encode (.vsetvl 1 2 3 3)).isSome = true ∧ (encode (.tmulsp 0 1 2 0 0 0 5)).isSome = true ∧
    (encode (.batom 1 2 3)).isSome = true ∧ (encode (.lpause 1)).isSome = true ∧ (encode (.lresume 1)).isSome = true ∧
    (encode (.lremap 1 2)).isSome = true ∧ (encode (.ltrain 1 2)).isSome = true := by decide +kernel

/-- HeldQueueTraps: a hart that took a trap while an entry waited. -/
theorem witness_HeldQueueTraps : let s := queued.updMe (fun x => takeTrap { x with tvec := 4 } false 0 0 { code := 0x15 })
    s.me.holding = true ∧ s.cur ≠ supvHart ∧ s.me.ready [0, 31, 1] = true ∧
    (∀ op ∈ [QOp.vint .add false (vf 1 2 3 0 0 0 0), .tsync, .strm .sopen 0 1 0 0, .copy .cpwait false false 0 0, .stor .nring,
      .link .lturn, .beacon .bput], s.fenced op.kinds = false) ∧
    (encode (.vadd 1 2 3 0 0 0)).isSome = true ∧ (encode .tsync).isSome = true ∧ (encode (.sopen 0 1 0)).isSome = true ∧
    (encode .cpwait).isSome = true ∧ (encode (.nring 1 2)).isSome = true ∧ (encode (.lturn 1 2 3)).isSome = true ∧
    (encode (.bput 1 2 3)).isSome = true := by decide +kernel

/-- MaskLogicRuns, MaskCounts: the dies take commands. -/
theorem witness_commandsPass : (base 0).commandsPass := by unfold State.commandsPass; decide +kernel

/-- A hart in tile mode with quarter 0 and the shape that TSHAPE grants eight dies and 64 columns. -/
def tileHart : State := hartWith (fun x => { x with owned := 1, tile := 1, tileIssue := 1, tm := 512, tn := 64, tk := 32 })

/-- MaskCounts: TZERO of the last accumulator that the tile columns hold, with a row in service. -/
theorem witness_tzero : tileHart.cur ≠ supvHart ∧ tileHart.me.ready [] = true ∧ tileHart.me.queue = [] ∧ tileHart.me.lag = false ∧
    tileHart.commandsPass ∧ tileHart.me.run = .running ∧ tileHart.me.laneRetired = false ∧ tileHart.me.tile ≠ 0 ∧
    tileHart.me.tileIssue ≠ 0 ∧ tileHart.me.tm ≠ 0 ∧ 64 * (tileHart.dies (tileHart.me.dsel 0)).length = tileHart.me.tm ∧
    64 * 2 + tileHart.me.tn ≤ tileHart.me.tileCols.length ∧ tileHart.rowOn 0 (64 * 7 + 63) = true := by
  unfold State.commandsPass; decide +kernel

/-- A queue of one entry that a check accepts. -/
def sole (s : State) (p : Entry → Bool) : Bool := match s.me.queue with
  | [e] => p e
  | _ => false

/-- What EntryRunsAtOnce runs. -/
def ranAlone (u : State) (e : Entry) : Except Exc Unit × State := runM (runEntryM e) (u.updMe (fun x => { x with p := 0 }))

/-- EntryRunsAtOnce: an entry that ends well and retires, and one that traps for want of a configuration. -/
theorem witness_EntryRunsAtOnce : (base 0).me.queue = [] ∧ (base 0).me.lag = false ∧ (base 0).me.run = .running ∧
    (let u := (base 0).issued (.mask .set 1 0 0) 0 0 0 0 none
     sole u (fun e => (u.entryShut 0 e).isEmpty && isDone (ranAlone u e) && (ranAlone u e).2.cur == 0 &&
       (completeEntry (ranAlone u e).2.me e.uid).queue.isEmpty) = true) ∧
    (let u := (base 0).issued (.vint .add false (vf 1 2 3 0 0 0 0)) 0 0 0 0 none
     sole u (fun e => (u.entryShut 0 e).isEmpty && isTrap (ranAlone u e) && (ranAlone u e).2.cur == 0 &&
       (ranAlone u e).2.me.queue.all (fun o => o.uid == e.uid)) = true) ∧
    (base 0).me.consumes (.mask .set 1 0 0) = false ∧ (base 0).me.consumes (.vint .add false (vf 1 2 3 0 0 0 0)) = false ∧
    (hartWith (fun x => x.setQ 0 { desc := BitVec.ofNat 512 (2 ^ 405) })).me.consumes (.vqsrc .mv false 0 (vf 1 0 0 0 0 0 0)) = true := by
  decide +kernel

/-- VectorIntegerElements: the ends of each width. -/
theorem witness_VectorIntegerElements : ∀ w ∈ [8, 16, 32, 64], 0 < 2 ^ w ∧ 2 ^ w - 1 < 2 ^ w ∧ 2 ^ (w - 1) < 2 ^ w := by decide +kernel

/-- ContextResults: KLAUNCH reads its block and is answered, KWAIT finds no launch. -/
theorem witness_launch : (0 : Word).toNat % 64 = 0 ∧ (∃ v t, (base 5).reads 0 64 v t) ∧
    (base 5).fenceBusy 0 ((base 5).me.fenceFrom 0b01111 0 2) = false ∧
    ((base 5).attempt (hartFlit 0) (deviceLaunch (base 5).me 5)).1.isSome = true ∧ (base 5).launchUnder (base 5).me.tenant 5 = false :=
  ⟨by decide, done_iff (by decide +kernel), by decide +kernel, by decide +kernel, by decide +kernel⟩

/-- The small state with a native kernel of one role in the descriptor cache, for tenant 0 at address 0. -/
def withKernel : State :=
  { base 5 with kernels := [{ tenant := 0, va := 0, desc := BitVec.ofNat 512 (1 + 2 ^ 16 + 0xA0 * 2 ^ 32), roles := [0] }] }

/-- The block of a KLAUNCH of that kernel whose DONEADDR is 8, with a byte of PRIO. -/
def launchBlock (prio : Nat) : BitVec 512 := BitVec.ofNat 512 (prio * 2 ^ 192 + 8 * 2 ^ 320)

/-- ContextResults: a block without DONEADDR, one whose checks fail and one whose checks pass. -/
theorem witness_deviceLaunch : (0 : BitVec 512).extractLsb' 320 64 = 0 ∧ (launchBlock 0).extractLsb' 384 128 = 0 ∧
    (launchBlock 0).extractLsb' 320 64 ≠ 0 ∧ (launchBlock 255).extractLsb' 384 128 = 0 ∧ (launchBlock 255).extractLsb' 320 64 ≠ 0 ∧
    (match (checkLaunch 0 (launchBlock 255 <<< 128) none withKernel).1 with | .error e => e.1 == 0x82 | .ok _ => false) = true ∧
    (match (checkLaunch 0 (launchBlock 0 <<< 128) none withKernel).1 with | .error _ => false | .ok l => l.2.isNone) = true := by
  decide +kernel

/-- A launch that runs in slot 0, or is suspended with its area at 0x200000. -/
def launched (stage : Stage) : State :=
  let l : Launch := { gen := 0, stage := stage, tenant := 0, cmd := none, prio := 0, preempt := false, pnote := false, savepa := 0x200000
                      affinity := 0, emup := 0, doneaddr := 0, kdesc := 0, roles := [], args := [], arrival := 0 }
  { base 0 with launches := smPut [] 0 l }

/-- The suspended launch with its area whole: memory that belongs to its tenant, and the header of a save. -/
def saved : State := { launched .suspended with owners := smPut [] 1 0x80 }.setByte 0x200002 2

/-- ContextResults: CTXSAVE and CTXLOAD of a launch id that is not open end at once; CTXSAVE of one that runs starts a save, CTXLOAD of one that is suspended a restore; a request
whose action has ended has its status to write. -/
theorem witness_context : (∃ v t, (base 5).reads 0x100 16 v t) ∧ (∃ v t, (launched .running).reads 0x100 16 v t) ∧
    (∃ v t, saved.reads 0x100 16 v t) ∧ (0x100 : Word).toNat % 16 = 0 ∧
    ((base 5).attempt (hartFlit 0) (askSuspend 0 0 (.hart 0))).1 = some (some 0x89) ∧
    ((base 5).attempt (hartFlit 0) (askResume 0 0 0 0 (.hart 0))).1 = some (some 0x89) ∧
    (∃ t, ((base 5).updMe (fun x => { x with ctx := some (0, some 0x89) })).writes (0x100 + 9) 1 0x89 t) ∧
    (base 5).me.ctx = none ∧ ((launched .running).attempt (hartFlit 0) (askSuspend 0 0 (.hart 0))).1 = some none ∧
    (saved.attempt (hartFlit 0) (askResume 0 0 0 0 (.hart 0))).1 = some none ∧
    (hartWith (fun x => { x with ctx := some (0, some 0) })).me.ctx = some (0, some 0) :=
  ⟨done_iff (by decide +kernel), done_iff (by decide +kernel), done_iff (by decide +kernel), by decide, by decide +kernel, by decide +kernel,
   (done_iff (by decide +kernel)).elim fun _ h => h, by decide +kernel, by decide +kernel, by decide +kernel, by decide +kernel⟩

/-- A read or write of physical memory that succeeds. -/
def physDone {α : Type} (r : Except AccErr α × State) : Bool := match r.1 with
  | .ok _ => true
  | .error _ => false

/-- A state whose page holds a watchpoint descriptor of tenant 3's granule 0x200000, with a grant that lets it be watched. -/
def watchable : State :=
  let v := 0x200000 + 0xFFFF * 2 ^ 48 + 3 * 2 ^ 64 + 3 * 2 ^ 72
  { (base 0).setBytes 0x100 16 v with
    owners := smPut [] 1 0x83
    grants := smPut [] 0 { tenant := 3, read := true, write := true, watch := true, base := 0x200000, count := 1 } }

/-- SupervisorResults. -/
theorem witness_SupervisorResults : physDone (physRead (base 0).supvAccess 0x100 8 .load (base 0)) = true ∧
    physDone (physWrite (base 0).supvAccess 0x100 8 1 .store (base 0)) = true ∧
    (∃ v t, watchable.reads 0x100 16 v t) ∧ (watchOf watchable (watchable.bytesAt 0x100 16)).isSome = true ∧
    watchable.fenceBusy 0 (watchable.me.fenceFrom 0b11111 0 2) = false :=
  ⟨by decide +kernel, by decide +kernel, done_iff (by decide +kernel), by decide +kernel, by decide +kernel⟩

/-- UnitEvents, BeaconEvents, LaunchQueueEvents, SupervisorEvents, FatalFreeze, OwnerEntryScrub: a device that is not frozen, the last
link, queue and owner entry, an entry that keeps its value and one that does not; and a frozen device whose dump is not written. -/
theorem witness_events : State.reset.boot.fatal = false ∧ 13 < 14 ∧ 128 ≤ 128 ∧ 0x7FFFF < 0x80000 ∧
    smGet 0 State.reset.owners 0 = 0x70 &&& 0x8F ∧ smGet 0 State.reset.owners 0x7FFFF ≠ 0x83 &&& 0x8F ∧
    (State.reset.fatalFreeze 6 8).boot.fatal = true ∧ (State.reset.fatalFreeze 6 8).boot.dumpdone = false ∧
    (0xA4 : BitVec 64).extractLsb' 0 8 ≠ 0xA5 ∧ (0x1A5 : BitVec 64).extractLsb' 0 8 = 0xA5 ∧
    State.reset.dieOn 7 = true ∧ (0x7FFFFFFFFFFFFFFF : BitVec 64).getLsbD 63 = false := by decide +kernel

/-- A link as after reset but for some of its fields. -/
def linkWith (f : Link → Link) : State := State.reset.setLink 13 (f {})

/-- UnitEvents: a link that is pausing; a winner whose split is the one in force, and one whose turn begins; a turn in its dead time. -/
theorem witness_linkEvents : ((linkWith (fun k => { k with state := 1 })).link 13).state = 1 ∧
    ((linkWith (fun k => { k with state := 1 })).link 13).turn = none ∧
    (∀ n ∈ [4, 8], let w : TurnReq := { serial := 1, n := n, weight := 256, who := .supervisor }
      let s := linkWith (fun k => { k with winner := some w })
      (s.link 13).state = 0 ∧ (s.link 13).turn = none ∧ (s.link 13).winner = some w ∧
      ((s.link 13).clamp n (s.facing 13).1 (s.facing 13).2 = (s.link 13).nab ↔ n = 4)) ∧
    (let u : Turn := { req := { serial := 1, n := 8, weight := 256, who := .supervisor }, n := 8, clamped := false, groups := [4, 5, 6, 7]
                       dead := true }
     ((linkWith (fun k => { k with turn := some u })).link 13).turn = some u ∧ u.dead = true ∧ u.groups.Nodup) := by decide +kernel

/-- BeaconEvents: ports that are up, with 15 and with 16 failed replays of a flit. -/
theorem witness_ports : ∀ n ∈ [15, 16], (smGet {} (smPut [] 15 ({ up := true, fails := n } : Port)) 15).up = true ∧ 15 < 16 := by decide +kernel

/-- A device that takes commands, with an enabled queue of four slots in each ring. -/
def ringed : State :=
  { State.reset with boot := { bstate := 2 }, hostq := smPut [] 128 { enable := true, sqsize := 3, cqsize := 3 } }

/-- LaunchQueueEvents: doorbells at the end of the rings and beyond. -/
theorem witness_doorbells : ringed.boot.fatal = false ∧ ringed.serving = true ∧ (ringed.hq 128).enable = true ∧
    (3 : BitVec 64).toNat ≤ (ringed.hq 128).cqsize ∧ (ringed.hq 128).cqsize < (4 : BitVec 64).toNat ∧
    (ringed.hq 128).sqsize < (4 : BitVec 64).toNat := by decide +kernel

/-- FatalFreeze: a byte of host memory outside a dump window of one page, and no window. -/
theorem witness_dump : State.reset.boot.dumpsize = 0 ∧ (0x10000000000 : Word).toNat = 0x10000000000 ∧
    ∀ i, i < 4096 → memKey 0x10000001000 ≠ memKey (0x10000000000 + i) := by
  refine ⟨rfl, rfl, fun i hi h => ?_⟩
  have e : memKey (0x10000000000 + i) = 0x10000000000 + i := by
    unfold memKey
    rw [if_neg (by omega), if_neg (by omega)]
  rw [e] at h
  exact absurd h (by rw [show memKey 0x10000001000 = 0x10000001000 from rfl]; omega)

/-- The oldest command of its queue on a device that has booted; `low` holds the block's bytes from 16 on. -/
def cmdFor (op : Nat) (low : Nat) : HostCmd :=
  { queue := if op < 0x20 then 0 else 1, seq := 1, opcode := BitVec.ofNat 8 op, flags := 0
    block := BitVec.ofNat 512 (op + 2 ^ 8 + 2 ^ 64 + low * 2 ^ 128), block2 := 0 }

/-- The device on which that command waits. -/
def waitingOn (c : HostCmd) : State :=
  { State.reset with boot := { bstate := 2 }, hostq := smPut [] c.queue { enable := true, waiting := [c] } }

/-- No link holds it up there. -/
def goes (c : HostCmd) : Prop := (waitingOn c).unheld c (perform c ((waitingOn c).taken c))

/-- HostCommands: every opcode; GANG_SWITCH with the actions SAVE and RESUME, FAULT_REPLY with RETRY and ABORT. -/
theorem witness_HostCommands : (∀ op ∈ [1, 2, 3, 4, 5, 6, 7, 8, 9, 10, 12, 13, 14, 32, 33, 35],
      (waitingOn (cmdFor op 0)).starts (cmdFor op 0) ∧ goes (cmdFor op 0) ∧ (cmdFor op 0).opcode = BitVec.ofNat 8 op) ∧
    (∀ a ∈ [1, 2], (waitingOn (cmdFor 11 a)).starts (cmdFor 11 a) ∧ goes (cmdFor 11 a) ∧ blkField (cmdFor 11 a).block 16 1 = a) ∧
    ∀ a ∈ [1, 2], (waitingOn (cmdFor 0x22 (a * 2 ^ 64))).starts (cmdFor 0x22 (a * 2 ^ 64)) ∧ goes (cmdFor 0x22 (a * 2 ^ 64)) ∧
      blkField (cmdFor 0x22 (a * 2 ^ 64)).block 24 1 = a := by
  unfold State.starts goes State.unheld; decide +kernel

/-- HostCommandResults: the bodies of DEBUG_GRANT for tenant 3, with COUNT 0 and with every permission for the last unit of the
interleaved view, where the tenant is and is not ACTIVE and a grant index is free. -/
theorem witness_DebugGrant : let off := cmdFor 14 3
    let on := cmdFor 14 (3 + 7 * 2 ^ 8 + 0x7FFFE00000 * 2 ^ 64 + 2 ^ 128)
    let s := State.reset.setTenant 3 { status := .active }
    bodyOk off [(16, 2), (24, 12)] = true ∧ blkField off.block 16 1 = 3 ∧ blkField off.block 17 1 = 0 ∧ blkField off.block 32 4 = 0 ∧
    blkField off.block 24 8 % 0x200000 = 0 ∧ bodyOk on [(16, 2), (24, 12)] = true ∧ blkField on.block 16 1 = 3 ∧
    blkField on.block 17 1 = 7 ∧ blkField on.block 32 4 = 1 ∧ blkField on.block 24 8 % 0x200000 = 0 ∧
    s.inDram (blkField on.block 24 8) = true ∧ s.inDram (blkField on.block 24 8 + blkField on.block 32 4 * 0x200000 - 1) = true ∧
    (s.tenant 3).status = .active ∧ (State.reset.tenant 3).status ≠ .active ∧ smFind s.grants 15 = none := by decide +kernel

/-- HostCommandResults: the bodies of TENANT_CREATE, OWNER_SET of the last unit with VALID 0 and of the last two for tenant 3, INVALIDATE of
everything, NOP. -/
theorem witness_HostCommandResults : bodyOk (cmdFor 1 0) [(16, 1), (24, 34)] = true ∧ blkField (cmdFor 1 0).block 16 1 < 128 ∧
    (State.reset.tenant 0).status = .none ∧
    (∀ x ∈ [(1, 0), (2, 0x83)], let c := cmdFor 4 ((0x80000 - x.1) * 0x200000 + x.1 * 2 ^ 64 + x.2 * 2 ^ 96)
      bodyOk c [(16, 13)] = true ∧ blkField c.block 16 8 % 0x200000 = 0 ∧ blkField c.block 28 1 / 16 % 8 = 0 ∧ blkField c.block 28 1 = x.2 ∧
      blkField c.block 24 4 = x.1 ∧ blkField c.block 16 8 / 0x200000 + blkField c.block 24 4 ≤ 0x80000) ∧
    ((State.reset.setTenant 3 { status := .active }).tenant (0x83 % 16)).status = .active ∧
    (queueTenant (cmdFor 33 0).queue).isSome = true ∧ bodyOk (cmdFor 33 0) [(16, 16)] = true ∧ bodyOk (cmdFor 35 0) [] = true := by
  decide +kernel

/-! ### Assembly -/

/-- An environment for one line: its symbols and its address. -/
def asmEnv (syms : List (String × Word)) (here : Word) : AsmEnv :=
  { sym := fun n => (syms.find? (fun s => s.1.toList == n)).map (·.2), here }

/-- R122: label, word, operands; the comment is cut off, and commas in parentheses do not part operands. -/
theorem test_asm_line : asmLine "top:  addi s1, s2, 3 ; x".toList = ⟨some "top".toList, "addi".toList, "s1, s2, 3".toList⟩ ∧
    asmOperands "a , (b,c), d".toList = ["a".toList, "(b,c)".toList, "d".toList] := by decide +kernel

/-- R125: precedence, DIV's quotient, a logical right shift, unary minus; 12 - 3 - 4 = 5, then | (~0 & 2) = 7. -/
theorem test_asm_expression : ((asmEnv [("A", 6)] 0).value "A*2 + -7 / 2 - (1 << 3 >> 1) | ~0 & 5 % 3".toList).toOption = some 7 ∧
    ((asmEnv [] 0).value "-1 >> 63".toList).toOption = some 1 ∧
    ((asmEnv [] 0).value "1 << 64".toList).toOption = some 0 := by decide +kernel

/-- R125: %hi and %lo of a value whose low half is negative; past the range of %hi is an error. -/
theorem test_asm_parts : ((asmEnv [("x", 0x12348765)] 0).value "%hi(x)".toList).toOption = some 0x1235 ∧
    ((asmEnv [("x", 0x12348765)] 0).value "%lo(x)".toList).toOption = some 0x8765 ∧
    ((asmEnv [("x", 0x7FFF8000)] 0).value "%hi(x)".toList).toOption = none := by decide +kernel

/-- R127: li's three sequences; 0x12348765 is LUI 0x1235 and ADDI of a negative low half. -/
theorem test_asm_li : liWords 9 1 = [0x11200001] ∧ liWords 9 0x12348765 = [0x29201235, 0x11298765] ∧
    (liWords 9 0x123456789ABCDEF0).length = 5 := by decide +kernel

/-- R124, R125: `.x` without a mask operand, `umN` without `.x`, an immediate that does not fit, a target that is no multiple
of 4 away. -/
theorem test_asm_errors : (sourceWords (asmEnv [] 0) "vfadd.x v4, v5, v6".toList).toOption = none ∧
    (sourceWords (asmEnv [] 0) "vfadd v4, v5, v6, um3".toList).toOption = none ∧
    (sourceWords (asmEnv [] 0) "addi s1, s2, 32768".toList).toOption = none ∧
    (sourceWords (asmEnv [] 0) "j .+2".toList).toOption = none := by decide +kernel

/-- 06 R216, R222: COUNT0 at byte 8, STRIDE0 at byte 24, FMT z64 and SRC scratchpad in byte 50. -/
theorem test_asm_stream : (streamValue (asmEnv [] 0) streamFields
    ["base=0".toList, "COUNT0=16".toList, "stride0=64".toList, "fmt=z64".toList, "src=spad".toList]).toOption =
    some (16 * 256 ^ 8 + 64 * 256 ^ 24 + 0x27 * 256 ^ 50) := by decide +kernel

/-- R128: 0.1 rounded to f32 with RNE is 0x3DCCCCCD, and .align in .text pads with nop words. -/
theorem test_asm_data : (decimal "-0.1".toList).map (Decimal.round .f32) = some 0xBDCCCCCD ∧
    padding true 6 8 = [0, 0] ∧ padding true 4 8 = [0, 0, 0, 0x10] := by decide +kernel

end Sys2Proof.Tests
end

/-!
Physical memory (02 R51 to R54, R75): aligned bytes lie side by side, and read back as they were written.
-/

namespace Sys2Proof.Machine

/-- The bytes of a page lie side by side, whichever view names them. -/
theorem memKey_add (pa i : Nat) (h : pa % 4096 + i < 4096) : memKey (pa + i) = memKey pa + i := by
  unfold memKey
  dsimp only
  split
  · rw [if_pos (by omega)]; omega
  · split
    · rw [if_neg (by omega), if_pos (by omega)]; omega
    · rw [if_neg (by omega), if_neg (by omega)]

/-- A byte of a page is at most as far from its end as its alignment. -/
theorem pageOffset_add_lt {pa n i : Nat} (hn : n ∈ [1, 2, 4, 8]) (ha : pa % n = 0) (hi : i < n) : pa % 4096 + i < 4096 := by
  simp only [List.mem_cons, List.not_mem_nil, or_false] at hn
  rcases hn with rfl | rfl | rfl | rfl <;> omega

/-- Bytes at locations of their own read back as the value written, little-endian. -/
theorem bytesAt_setBytes_of_distinct (n : Nat) (s : State) (pa v : Nat)
    (h : ∀ i, 0 < i → ∀ j, i + j < n → memKey (pa + j) ≠ memKey (pa + j + i)) :
    (s.setBytes pa n v).bytesAt pa n = v % 2 ^ (8 * n) := by
  induction n generalizing s pa v with
  | zero => simp [State.bytesAt, Nat.mod_one]
  | succ n ih =>
    have low : ((s.setByte pa (BitVec.ofNat 8 v)).setBytes (pa + 1) n (v / 256)).byteAt pa = BitVec.ofNat 8 v := by
      rw [byteAt_setBytes_other _ _ _ _ _ fun i hi => by
        simpa [Nat.add_comm, Nat.add_left_comm] using h (i + 1) (by omega) 0 (by omega), byteAt_setByte, if_pos rfl]
    have high := ih (s.setByte pa (BitVec.ofNat 8 v)) (pa + 1) (v / 256) fun i hi j hj => by
      simpa [Nat.add_comm, Nat.add_left_comm] using h i hi (j + 1) (by omega)
    simp only [State.bytesAt, State.setBytes, low, high, BitVec.toNat_ofNat]
    rw [show 2 ^ (8 * (n + 1)) = 256 * 2 ^ (8 * n) by rw [Nat.mul_add, Nat.pow_add]; omega, Nat.mod_mul]

end Sys2Proof.Machine

/-!
Device reset (13 R425): the bytes that it keeps.
-/

namespace Sys2Proof.Machine

/-- The location of a byte is in the host window exactly when its address is (02 R51 to R54). -/
theorem isHost_memKey (pa : Nat) : isHost (memKey pa) = isHost pa := by
  unfold memKey
  dsimp only
  split
  · simp only [isHost, ← Bool.decide_and, decide_eq_decide]; omega
  · split
    · simp only [isHost, ← Bool.decide_and, decide_eq_decide]; omega
    · rfl

/-- Device reset keeps the bytes of host memory and loses every other (R425). -/
theorem byteAt_deviceReset (s : State) (pa : Nat) :
    (deviceReset s).byteAt pa = if isHost pa then s.byteAt pa else State.reset.byteAt pa := by
  have kept := smFind_filter s.mem isHost (memKey pa)
  rw [isHost_memKey] at kept
  show (smFind (s.mem.filter fun c => isHost c.1) (memKey pa)).getD 0 = _
  rw [kept]
  split <;> rfl

end Sys2Proof.Machine

/-!
The control words (03 R117 to R120): what a write of each leaves in its field, and what no write changes.
-/

namespace Sys2Proof.Machine

/-- A reserved format code leaves the format of VTYPE (R118). -/
theorem vtypeWrite_format (old new : BitVec 16) :
    (vtypeWrite old new).extractLsb' 0 5 = if (new.extractLsb' 0 5).toNat < 20 then new.extractLsb' 0 5 else old.extractLsb' 0 5 := by
  unfold vtypeWrite
  split <;> split <;> ext i hi <;> interval_cases i <;> simp

/-- A reserved rounding code leaves the rounding mode of VTYPE (R118). -/
theorem vtypeWrite_rounding (old new : BitVec 16) :
    (vtypeWrite old new).extractLsb' 12 3 = if (new.extractLsb' 12 3).toNat < 6 then new.extractLsb' 12 3 else old.extractLsb' 12 3 := by
  unfold vtypeWrite
  split <;> split <;> ext i hi <;> interval_cases i <;> simp

theorem extractLsb'_clearLow (v : Word) : (v &&& ~~~(3 : Word)).extractLsb' 0 2 = 0 := by
  ext i hi
  interval_cases i <;> simp

/-- A write of one lane LFSR leaves the others (R117). -/
theorem laneLfsr_setLaneLfsr (x : Hart) (i k : Nat) (w : BitVec 32) :
    (x.setLaneLfsr i w).laneLfsr k = if k = i then w else x.laneLfsr k := by
  unfold Hart.laneLfsr Hart.setLaneLfsr
  by_cases h : k = i
  · subst h; simp
  · unfold smSet
    split <;> simp [smGet, h]

/-- What no write of a control word changes. -/
theorem cwPut_frame (x : Hart) (i : Nat) (v : Word) :
    let y := cwPut x i v
    y.super = x.super ∧ y.tenant = x.tenant ∧ y.sregs = x.sregs ∧ y.pc = x.pc ∧ y.queue = x.queue ∧ y.masks = x.masks := by
  unfold cwPut
  repeat' split
  all_goals exact ⟨rfl, rfl, rfl, rfl, rfl, rfl⟩

/-- VL stays within its limit (R117). -/
theorem cwPut_vl_le (x : Hart) (i : Nat) (v : Word) (h : x.vl.toNat ≤ 16384) : (cwPut x i v).vl.toNat ≤ 16384 := by
  unfold cwPut
  split
  case h_1 => split <;> assumption
  all_goals repeat' split
  all_goals exact h

/-- No lane LFSR becomes 0 (R117). -/
theorem cwPut_laneLfsr_ne (x : Hart) (i : Nat) (v : Word) (h : ∀ k, x.laneLfsr k ≠ 0) (k : Nat) :
    (cwPut x i v).laneLfsr k ≠ 0 := by
  unfold cwPut
  split
  case h_7 =>
    rw [laneLfsr_setLaneLfsr]
    split
    · split
      · decide
      · assumption
    · exact h k
  all_goals repeat' split
  all_goals exact h k

/-- TVEC keeps its low two bits clear (R120). -/
theorem cwPut_tvec_low (x : Hart) (i : Nat) (v : Word) (h : x.tvec.extractLsb' 0 2 = 0) :
    (cwPut x i v).tvec.extractLsb' 0 2 = 0 := by
  unfold cwPut
  split
  case h_8 => exact extractLsb'_clearLow v
  all_goals repeat' split
  all_goals exact h

/-- TPC keeps its low two bits clear (R120). -/
theorem cwPut_tpc_low (x : Hart) (i : Nat) (v : Word) (h : x.tpc.extractLsb' 0 2 = 0) :
    (cwPut x i v).tpc.extractLsb' 0 2 = 0 := by
  unfold cwPut
  split
  case h_10 => exact extractLsb'_clearLow v
  all_goals repeat' split
  all_goals exact h

/-- A die selector takes the bits that are not reserved, and the others stay (R119). -/
theorem cwPut_dsel (x : Hart) (v : Word) (n : Nat) (hn : n < 4) :
    (cwPut x (0x008 + n) v).dsel n = v &&& 0x0001FFFFFFFFFFFF ∧ ∀ k, k ≠ n → (cwPut x (0x008 + n) v).dsel k = x.dsel k := by
  have put : cwPut x (0x008 + n) v = { x with ds := smSet 0x00010000000000FF x.ds n (v &&& 0x0001FFFFFFFFFFFF) } := by
    interval_cases n <;> rfl
  rw [put]
  exact ⟨by simp [Hart.dsel], fun k hk => by simp [Hart.dsel, hk]⟩

/-- A word of FEXC takes the bits that are not reserved, and the others stay (R120). -/
theorem cwPut_fexc (x : Hart) (v : Word) (n : Nat) (hn : n < 5) :
    smGet 0 (cwPut x (0x011 + n) v).fexc n = v &&& 0x8000FFFF00003FFF ∧
      ∀ k, k ≠ n → smGet 0 (cwPut x (0x011 + n) v).fexc k = smGet 0 x.fexc k := by
  have put : (cwPut x (0x011 + n) v).fexc = smSet 0 x.fexc n (v &&& 0x8000FFFF00003FFF) := by
    interval_cases n <;> rfl
  rw [put]
  exact ⟨by simp, fun k hk => by simp [hk]⟩

theorem cwPut_vl (x : Hart) (v : Word) :
    (cwPut x 0x000 v).vl = if (v.extractLsb' 0 15).toNat ≤ 16384 then v.extractLsb' 0 15 else x.vl :=
  apply_ite Hart.vl _ _ _

/-- A write of LFSRDAT reaches the lane that LFSRIDX names (R117). -/
theorem cwPut_lfsrdat (x : Hart) (v : Word) :
    (cwPut x 0x019 v).laneLfsr x.lfsrIdx.toNat = if v.extractLsb' 0 32 = 0 then 1 else v.extractLsb' 0 32 :=
  (laneLfsr_setLaneLfsr x _ _ _).trans (if_pos rfl)

/-- The read-only words ignore a write (R117, R151). -/
theorem cwPut_readOnly (x : Hart) (v : Word) (i : Nat)
    (hi : i ∈ [0x003, 0x004, 0x020, 0x021, 0x022, 0x023, 0x040, 0x041, 0x042, 0x043, 0x053, 0x054, 0x055, 0x056, 0x057]) :
    cwPut x i v = x := by
  fin_cases hi <;> rfl

end Sys2Proof.Machine

/-!
The statements on control words, memory and reset.
-/

namespace Sys2Proof.Settled

open Sys2Proof.Machine

/-- Settles O12: aligned bytes lie in one page, so their locations differ. -/
theorem memoryReadAfterWrite : Obligations.MemoryReadAfterWrite := by
  intro s pa n v hn ha
  refine ⟨bytesAt_setBytes_of_distinct n s pa v fun i hi j hj => ?_, fun q hq => byteAt_setBytes_other n s pa v q hq⟩
  have near := pageOffset_add_lt hn ha hj
  rw [Nat.add_assoc, memKey_add pa j (by omega), memKey_add pa (j + i) (by omega)]
  omega

/-- Settles O10: every table of the reset state is empty, so every lookup answers the table's default. -/
theorem resetValues : Obligations.ResetValues := by
  refine ⟨fun _ => ?_, fun _ => rfl, fun _ => ?_, rfl, rfl, rfl, ?_, fun _ => rfl, rfl⟩
  · refine ⟨rfl, rfl, rfl, fun _ => rfl, rfl, rfl, fun _ => rfl, rfl, rfl, rfl, rfl, fun _ => rfl, fun _ => rfl, ?_⟩
    simp [State.reset, State.hart, smGet, smFind]
  · simp [State.reset, State.laneMask, State.core, smGet, smFind]
  · simp [State.reset]

/-- Settles O57: POWER_ON and the key 0xA5 run the same reset. -/
theorem deviceReset : Obligations.DeviceReset := by
  intro s
  refine ⟨Machine.deviceReset s, rfl, byteAt_deviceReset s, rfl, fun v hv => ?_, fun v hv => ?_⟩
  · exact congrArg Host.Outcome.next (if_pos hv)
  · exact congrArg Host.Outcome.next (if_neg hv)

/-- Settles O32: each word by its own write, and what no write changes by the branches of `cwPut`. -/
theorem controlWordFields : Obligations.ControlWordFields := by
  intro x v
  have low : (v.extractLsb' 0 16).extractLsb' 0 5 = v.extractLsb' 0 5 := by ext i hi; interval_cases i <;> simp
  have mid : (v.extractLsb' 0 16).extractLsb' 12 3 = v.extractLsb' 12 3 := by ext i hi; interval_cases i <;> simp
  refine ⟨cwPut_vl x v, rfl, ?_, ?_, rfl, rfl, rfl, rfl, cwPut_readOnly x v, ?_, ?_, cwPut_dsel x v, cwPut_fexc x v,
    ?_, rfl, rfl, rfl, ?_, cwPut_lfsrdat x v⟩
  · exact low ▸ vtypeWrite_format x.vtype (v.extractLsb' 0 16)
  · exact mid ▸ vtypeWrite_rounding x.vtype (v.extractLsb' 0 16)
  · intro n hn; interval_cases n <;> rfl
  · intro n hn; interval_cases n <;> rfl
  · exact BitVec.ofNat_toNat _ _
  · intro i
    exact ⟨cwPut_vl_le x i v, cwPut_laneLfsr_ne x i v, cwPut_tvec_low x i v, cwPut_tpc_low x i v, cwPut_frame x i v⟩

end Sys2Proof.Settled

/-!
Memory in its canonical form (02 R51): what keeps it. Only `State.setByte`, `State.writeOwner` and `deviceReset` write memory, and each
keeps the form (Laws/Memory). That a step keeps it is said function by function: `inv_f` says it of an `f` that answers a state, alone
or beside a value (`PairInv`), `keeps_f` of a computation (`Keeps`, `CKeeps`), `optInv_f` of one that may answer none and `outInv_f`
of one that answers an outcome.
-/

namespace Sys2Proof.Machine

theorem State.Inv.of_mem {s t : State} (hs : s.Inv) (h : t.mem = s.mem) : t.Inv := by
  unfold State.Inv at *
  rwa [h]

/-- The state beside a value has the canonical form. -/
def PairInv {α : Type} (x : α × State) : Prop := x.2.Inv

theorem PairInv.of_eq {α : Type} {x : α × State} {a : α} {t : State} (hx : PairInv x) (e : x = (a, t)) : t.Inv := by
  subst e
  exact hx

theorem PairInv.mk {α : Type} {a : α} {t : State} (h : t.Inv) : PairInv (a, t) := h

theorem PairInv.ite {α : Type} {c : Prop} [Decidable c] {x y : α × State} (hx : PairInv x) (hy : PairInv y) :
    PairInv (if c then x else y) := by
  split <;> assumption

/-- A state that a computation may answer has the canonical form. -/
def OptInv (o : Option State) : Prop := ∀ t, o = some t → t.Inv

theorem OptInv.of_eq {o : Option State} {t : State} (h : OptInv o) (e : o = Option.some t) : t.Inv := h t e

theorem OptInv.some {t : State} (h : t.Inv) : OptInv (Option.some t) := by
  intro _ e
  rwa [← Option.some.inj e]

theorem OptInv.none : OptInv Option.none := fun _ e => (Option.some_ne_none _ e.symm).elim

theorem OptInv.ite {c : Prop} [Decidable c] {a b : Option State} (ha : OptInv a) (hb : OptInv b) :
    OptInv (if c then a else b) := by
  split <;> assumption

theorem State.Inv.ite {c : Prop} [Decidable c] {s t : State} (hs : s.Inv) (ht : t.Inv) : (if c then s else t).Inv := by
  split <;> assumption

theorem inv_foldl {α : Type} {f : State → α → State} {l : List α} {s : State} (hs : s.Inv) (hf : ∀ s a, s.Inv → (f s a).Inv) :
    (l.foldl f s).Inv := by
  induction l generalizing s with
  | nil => exact hs
  | cons a l ih => exact ih (hf s a hs)

section
variable {α β : Type} {P : State → Prop}

theorem Keeps.pure {a : α} : Keeps P (Pure.pure a : M α) := keeps_pure a
theorem Keeps.throw {e : Exc} : Keeps P (MonadExcept.throw e : M α) := keeps_throw e
theorem Keeps.raise {t : TrapInfo} : Keeps P (Machine.raise t : M α) := keeps_raise t
theorem Keeps.raiseEnd {t : TrapInfo} : Keeps P (Machine.raiseEnd t : M α) := keeps_raiseEnd t
theorem Keeps.set {t : State} (h : P t) : Keeps P (MonadStateOf.set t : M PUnit) := keeps_set t h
theorem Keeps.modify {f : State → State} (h : ∀ s, P s → P (f s)) : Keeps P (modify f : M PUnit) := keeps_modify f h

theorem Keeps.bind {m : M α} {f : α → M β} (hm : Keeps P m) (hf : ∀ a, Keeps P (f a)) : Keeps P (m >>= f) := keeps_bind m f hm hf

theorem Keeps.getBind {f : State → M β} (hf : ∀ s, P s → Keeps P (f s)) : Keeps P (get >>= f) :=
  keeps_getBind f fun s hs => hf s hs s hs

theorem Keeps.ite {c : Prop} [Decidable c] {a b : M α} (ha : Keeps P a) (hb : Keeps P b) : Keeps P (if c then a else b) := by
  split <;> assumption

theorem Keeps.when {c : Prop} [Decidable c] {x : M Unit} {k : Unit → M α} (hx : Keeps P x) (hk : ∀ r, Keeps P (k r)) :
    Keeps P (if c then x >>= k else k ()) := .ite (hx.bind hk) (hk ())

theorem Keeps.branch {c : Prop} [Decidable c] {x y : M β} {k : β → M α} (hx : Keeps P x) (hy : Keeps P y)
    (hk : ∀ r, Keeps P (k r)) : Keeps P (if c then x >>= k else y >>= k) := .ite (hx.bind hk) (hy.bind hk)

theorem Keeps.forIn {l : List β} {b : α} {f : β → α → M (ForInStep α)} (hf : ∀ a b, Keeps P (f a b)) :
    Keeps P (ForIn.forIn l b f) := by
  induction l generalizing b with
  | nil => exact .pure
  | cons a l ih =>
    rw [List.forIn_cons]
    refine (hf a b).bind fun r => ?_
    cases r with
    | done b => exact .pure
    | yield b => exact ih

theorem Keeps.forM {l : List β} {f : β → M PUnit} (hf : ∀ a, Keeps P (f a)) : Keeps P (l.forM f) := by
  induction l with
  | nil => exact .pure
  | cons a l ih =>
    exact (hf a).bind fun _ => ih

theorem Keeps.mapM {l : List β} {f : β → M α} (hf : ∀ a, Keeps P (f a)) : Keeps P (l.mapM f) := by
  induction l with
  | nil => exact .pure
  | cons a l ih =>
    rw [List.mapM_cons]
    exact (hf a).bind fun _ => ih.bind fun _ => .pure

theorem Keeps.discard {m : M α} (hm : Keeps P m) : Keeps P (Functor.discard m) := hm.bind fun _ => .pure

theorem runM_tryCatch (m : M α) (f : Exc → M α) (s : State) :
    runM (MonadExcept.tryCatch m f) s = match runM m s with
      | (.ok a, t) => (.ok a, t)
      | (.error e, t) => runM (f e) t := by
  change (ExceptT.tryCatch m f).run s = _
  unfold ExceptT.tryCatch ExceptT.mk runM
  change StateT.run (StateT.bind m _) s = _
  unfold StateT.bind StateT.run ExceptT.run
  change (match m s with | (r, t) => _) = _
  rcases m s with ⟨_ | _, _⟩ <;> rfl

theorem Keeps.tryCatch {m : M α} {f : Exc → M α} (hm : Keeps P m) (hf : ∀ e, Keeps P (f e)) :
    Keeps P (MonadExcept.tryCatch m f) := by
  intro s hs
  have h := hm s hs
  rw [runM_tryCatch]
  generalize runM m s = x at h ⊢
  obtain ⟨e | a, t⟩ := x
  · exact hf e t h
  · exact h

theorem Keeps.forRange {n lo : Nat} {f : Nat → M Unit} (hf : ∀ i, Keeps P (f i)) : Keeps P (Machine.forRange lo n f) :=
  keeps_forRange n lo f hf

end

theorem Keeps.updMeM {f : Hart → Hart} : Keeps State.Inv (Machine.updMeM f) := keeps_updMeM f fun _ hs => hs

theorem inv_runM {α : Type} {m : M α} {s : State} (hm : Keeps State.Inv m) (hs : s.Inv) : PairInv (runM m s) := hm s hs

/-- The work of a chunk keeps the invariant, however it ends. -/
def CKeeps {α : Type} (m : CM α) : Prop := ∀ s, s.Inv → PairInv (m.run s)

section
variable {α β : Type}

theorem CKeeps.pure {a : α} : CKeeps (Pure.pure a) := fun _ hs => hs

theorem CKeeps.throw {e : CopyStop} : CKeeps (MonadExcept.throw e : CM α) := fun _ hs => hs

theorem CKeeps.set {t : State} (h : t.Inv) : CKeeps (MonadStateOf.set t : CM PUnit) := fun _ _ => h

theorem CKeeps.modify {f : State → State} (h : ∀ s, s.Inv → (f s).Inv) : CKeeps (modify f) := h

theorem CKeeps.bind {m : CM α} {f : α → CM β} (hm : CKeeps m) (hf : ∀ a, CKeeps (f a)) : CKeeps (m >>= f) := by
  intro s hs
  have h := hm s hs
  change PairInv (ExceptT.bindCont f (m.run s).1 (m.run s).2)
  generalize m.run s = x at h ⊢
  obtain ⟨_ | a, t⟩ := x
  · exact h
  · exact hf a t h

theorem CKeeps.getBind {f : State → CM β} (hf : ∀ s, s.Inv → CKeeps (f s)) : CKeeps (get >>= f) := fun s hs => hf s hs s hs

theorem CKeeps.ite {c : Prop} [Decidable c] {a b : CM α} (ha : CKeeps a) (hb : CKeeps b) : CKeeps (if c then a else b) := by
  split <;> assumption

theorem CKeeps.when {c : Prop} [Decidable c] {x : CM Unit} {k : Unit → CM α} (hx : CKeeps x) (hk : ∀ r, CKeeps (k r)) :
    CKeeps (if c then x >>= k else k ()) := .ite (hx.bind hk) (hk ())

theorem CKeeps.branch {c : Prop} [Decidable c] {x y : CM β} {k : β → CM α} (hx : CKeeps x) (hy : CKeeps y)
    (hk : ∀ r, CKeeps (k r)) : CKeeps (if c then x >>= k else y >>= k) := .ite (hx.bind hk) (hy.bind hk)

end

/-- The next states of an outcome keep the invariant. -/
def OutInv (o : Out) : Prop := ∀ t, o = .next t → t.Inv

theorem outInv_next {t : State} (h : t.Inv) : OutInv (.next t) := by
  intro _ e
  rwa [← Host.Outcome.next.inj e]

theorem OutInv.of_eq {o : Out} {t : State} (h : OutInv o) (e : o = .next t) : t.Inv := h t e

theorem outInv_fault {r : Fault} : OutInv (.fault r) := by
  intro _ e
  cases e

theorem OutInv.ite {c : Prop} [Decidable c] {a b : Out} (ha : OutInv a) (hb : OutInv b) : OutInv (if c then a else b) := by
  split <;> assumption

/-- A move of the device keeps the invariant. -/
def MoveInv (f : State → State) : Prop := ∀ s, s.Inv → (f s).Inv

end Sys2Proof.Machine

/-!
The functions of the model in the order of its files: each keeps memory canonical because those it calls do. A record update that does
not name `mem` is `of_mem`; every other proof follows the branches of the function.
-/

namespace Sys2Proof.Machine

/-! ### `Machine/Ops` -/

theorem inv_setByte {s : State} {pa b} (hs : s.Inv) : (s.setByte pa b).Inv := wf_setByte s pa b hs

theorem inv_markPage {s : State} {core die off} (hs : s.Inv) : (State.markPage s core die off).Inv :=
  .ite hs (hs.of_mem rfl)

theorem inv_setFull {s : State} {core die off b} (hs : s.Inv) : (State.setFull s core die off b).Inv :=
  (inv_markPage hs).of_mem rfl

theorem inv_setSpByte {s : State} {core die off b} (hs : s.Inv) : (State.setSpByte s core die off b).Inv :=
  (inv_markPage hs).of_mem rfl

theorem inv_setCell {s : State} {key v} (hs : s.Inv) : (State.setCell s key v).Inv :=
  hs.of_mem rfl

theorem inv_nextFree {s : State} (hs : s.Inv) : PairInv (State.nextFree s) :=
  hs.of_mem rfl

/-! ### `Machine/Links` -/

theorem inv_setLink {s : State} {l k} (hs : s.Inv) : (State.setLink s l k).Inv :=
  hs.of_mem rfl

theorem inv_noteFlit {s : State} {h} (hs : s.Inv) : (State.noteFlit s h).Inv := by
  unfold State.noteFlit
  split
  · exact .ite hs (hs.of_mem rfl)

theorem inv_dropFlits {s : State} {gone : Flit → Bool} (hs : s.Inv) : (State.dropFlits s gone).Inv :=
  .ite hs (hs.of_mem rfl)

theorem inv_flowFlits {f : State → State} {n : Nat} {s : State} (hf : ∀ s, s.Inv → (f s).Inv) (hs : s.Inv) :
    (State.flowFlits f n s).Inv := by
  induction n generalizing s with
  | zero => exact hs
  | succ n ih => exact .ite hs (ih (inv_dropFlits (hf _ hs)))

theorem inv_attempt {α : Type} {o} {f : State → α × State} {s : State} (hf : ∀ a, a.Inv → PairInv (f a)) (hs : s.Inv) :
    PairInv (State.attempt o f s) := by
  unfold State.attempt
  split
  · split
    · refine .mk ((PairInv.of_eq (hf _ ?_) ‹_›).of_mem (by rfl))
      exact hs.of_mem rfl
    · exact .mk (.ite hs (hs.of_mem rfl))

theorem inv_attempts {o} {f : State → State} {s : State} (hf : ∀ a, a.Inv → (f a).Inv) (hs : s.Inv) :
    (State.attempts o f s).Inv :=
  inv_attempt (fun _ hs => hf _ hs) hs

theorem inv_sent {s : State} {o} (hs : s.Inv) : (State.sent s o).Inv :=
  hs.of_mem rfl

theorem inv_dropUnneeded {s : State} (hs : s.Inv) : (State.dropUnneeded s).Inv :=
  inv_dropFlits hs

theorem inv_putFlit {s : State} {l toB cls payer n} (hs : s.Inv) : (State.putFlit s l toB cls payer n).Inv :=
  .ite (inv_noteFlit hs) hs

theorem inv_turnBegin {l} {s : State} (hs : s.Inv) : (turnBegin l s).Inv := by
  unfold turnBegin
  dsimp only
  split
  · exact hs
  · exact .ite hs (.ite (inv_setLink hs) (inv_setLink (hs.of_mem rfl)))

theorem inv_beginDue {s : State} {l} (hs : s.Inv) : (State.beginDue s l).Inv :=
  .ite (inv_turnBegin hs) hs

theorem inv_autoTurn {l toB} {s : State} (hs : s.Inv) : (autoTurn l toB s).Inv :=
  .ite (inv_beginDue hs) (inv_setLink (inv_beginDue hs))

theorem inv_turnDrainEnd {l} {s : State} (hs : s.Inv) : (turnDrainEnd l s).Inv := by
  unfold turnDrainEnd
  dsimp only
  split
  · exact inv_setLink hs
  · exact hs

theorem inv_turnDeadTimeEnd {l} {s : State} (hs : s.Inv) : (turnDeadTimeEnd l s).Inv := by
  unfold turnDeadTimeEnd
  dsimp only
  split
  · exact .ite (inv_setLink (hs.of_mem rfl)) hs
  · exact hs

theorem inv_withdrawTurns {t} {s : State} (hs : s.Inv) : (withdrawTurns t s).Inv := by
  unfold withdrawTurns
  refine inv_foldl hs fun _ _ hs => ?_
  dsimp only
  split
  · exact .ite (inv_setLink (inv_beginDue hs)) (inv_beginDue hs)
  · exact inv_beginDue hs

theorem inv_linkPaused {l} {s : State} (hs : s.Inv) : (linkPaused l s).Inv :=
  .ite (hs.of_mem rfl) hs

theorem inv_ltrainDone {l failed badSpares} {s : State} (hs : s.Inv) : (ltrainDone l failed badSpares s).Inv :=
  .ite hs (inv_setLink hs)

theorem inv_resumeLink {l} {s : State} (hs : s.Inv) : (resumeLink l s).Inv :=
  inv_setLink hs

/-! ### `Machine/Mmu` -/

theorem inv_setTenant {s : State} {t x} (hs : s.Inv) : (State.setTenant s t x).Inv :=
  hs.of_mem rfl

theorem inv_fillCore {s : State} {c e} (hs : s.Inv) : (State.fillCore s c e).Inv :=
  hs.of_mem rfl

theorem inv_fillDie {s : State} {d e} (hs : s.Inv) : (State.fillDie s d e).Inv :=
  hs.of_mem rfl

theorem inv_useLeaf {s : State} {ag va wr l} (hs : s.Inv) : (State.useLeaf s ag va wr l).Inv := by
  unfold State.useLeaf
  refine .ite hs ?_
  dsimp only
  split
  · refine inv_fillCore ?_
    split
    · exact inv_fillDie (inv_setByte hs)
    · exact hs
  · split
    · exact inv_fillDie (inv_setByte hs)
    · exact hs

theorem inv_translate {ag va k} {s : State} (hs : s.Inv) : PairInv (translate ag va k s) := by
  unfold translate
  refine .ite hs ?_
  split
  · dsimp only
    split <;> exact hs
  · split
    · exact hs
    · refine .ite hs ?_
      split
      · exact hs
      · exact inv_useLeaf hs

theorem inv_logDenial {s : State} {die ag pa k} (hs : s.Inv) : (State.logDenial s die ag pa k).Inv :=
  hs.of_mem rfl

theorem inv_checkOwner {ag scalar pa n k} {s : State} (hs : s.Inv) : PairInv (checkOwner ag scalar pa n k s) :=
  .ite hs (inv_logDenial hs)

theorem inv_noted {α : Type} {r : Except AccErr α × State} (hr : PairInv r) : PairInv (noted r) := by
  obtain ⟨a, s⟩ := r
  unfold noted
  split
  · next e =>
    cases e
    exact inv_noteFlit hr
  · exact hr

theorem inv_resolve {ag scalar va n k} {s : State} (hs : s.Inv) : PairInv (resolve ag scalar va n k s) := by
  unfold resolve
  refine inv_noted ?_
  split
  · exact (inv_translate hs).of_eq ‹_›
  · split
    · exact hs
    · split <;> exact (inv_checkOwner ((inv_translate hs).of_eq ‹_›)).of_eq ‹_›

theorem inv_expandRead {ag scalar k p o n} {s : State} (hs : s.Inv) : PairInv (expandRead ag scalar k p o n s) := by
  unfold expandRead
  extract_lets _ from'
  have hfrom : ∀ a len read, PairInv (from' a len read) := by
    intro a len read
    refine .ite ?_ hs
    split
    · exact hs
    · split
      · exact (inv_checkOwner hs).of_eq ‹_›
      · split <;> exact (inv_checkOwner ((inv_checkOwner hs).of_eq ‹_›)).of_eq ‹_›
  clear_value from'
  split
  · exact hs
  · exact hs
  · exact hfrom _ _ _
  · exact hfrom _ _ _

theorem inv_loadVirt {ag scalar va n k} {s : State} (hs : s.Inv) : PairInv (loadVirt ag scalar va n k s) := by
  unfold loadVirt
  split
  · exact (inv_resolve hs).of_eq ‹_›
  · exact .ite (inv_noted (inv_expandRead ((inv_resolve hs).of_eq ‹_›))) ((inv_resolve hs).of_eq ‹_›)

theorem inv_recordWatch {s : State} {k die source qsn hits} (hs : s.Inv) :
    (State.recordWatch s k die source qsn hits).Inv := by
  unfold State.recordWatch
  refine inv_foldl hs fun _ _ hs => ?_
  split
  · exact hs.of_mem rfl

/-! ### `Machine/Fatal` -/

theorem inv_dumpBytes {s : State} {off n v} (hs : s.Inv) : (State.dumpBytes s off n v).Inv :=
  inv_setBytes _ _ _ _ hs

theorem inv_dumpHeader {s : State} {cause die} (hs : s.Inv) : (State.dumpHeader s cause die).Inv :=
  .ite hs (inv_dumpBytes (inv_dumpBytes (inv_dumpBytes (inv_dumpBytes (inv_dumpBytes (inv_dumpBytes (inv_dumpBytes
    (inv_dumpBytes hs))))))))

theorem inv_fatalFreeze {s : State} {cause die} (hs : s.Inv) : (State.fatalFreeze s cause die).Inv := by
  unfold State.fatalFreeze
  refine .ite hs (.ite ((inv_dumpHeader ?_).of_mem rfl) (hs.of_mem rfl))
  exact hs.of_mem rfl

theorem inv_writeOwner {s : State} {u v} (hs : s.Inv) : (s.writeOwner u v).Inv := wf_writeOwner s u v hs

theorem inv_undefineRegs {s : State} {h} (hs : s.Inv) : (State.undefineRegs s h).Inv :=
  inv_foldl hs fun _ _ hs => .ite (hs.of_mem rfl) hs

theorem inv_retireCluster {s : State} {core die c} (hs : s.Inv) : (State.retireCluster s core die c).Inv :=
  .ite hs (inv_foldl (hs.of_mem rfl) fun _ _ hs => .ite (inv_updHart _ _ _ (inv_undefineRegs hs)) hs)

/-! ### `Machine/SupvRegs` -/

theorem optInv_supvWrite {s : State} {off v m} (hs : s.Inv) : OptInv (State.supvWrite s off v m) :=
  .ite (.some (inv_setBytes _ _ _ _ hs)) (.ite (.ite (.some (inv_foldl hs fun _ _ hs =>
    .ite (inv_writeOwner hs) hs)) (.ite (.some (inv_foldl hs fun _ _ hs =>
    .ite (inv_writeOwner hs) hs)) (.ite (.some hs) (.ite (.some (hs.of_mem rfl)) (.ite (.some (inv_foldl hs fun _ _ hs =>
    .ite (inv_retireCluster hs) hs)) .none))))) (.ite (.ite (.some hs) (.ite (.some (hs.of_mem rfl)) (.some hs))) (.ite
    (.some (hs.of_mem rfl)) (.ite (.some (inv_fatalFreeze hs)) (.ite (.some (.ite (hs.of_mem rfl) hs)) (.ite (.some hs) (.ite
    (.some hs) .none)))))))

theorem inv_physErr {s : State} {e} (hs : s.Inv) : (physErr s e).Inv := by
  unfold physErr
  split
  · exact .ite (inv_fatalFreeze hs) hs
  · exact hs

theorem inv_physCheck {s : State} {ag pa n k} (hs : s.Inv) : PairInv (physCheck s ag pa n k) :=
  .ite (.ite hs (inv_logDenial hs)) (.ite (inv_checkOwner hs) hs)

theorem inv_physRoute {α : Type} {ag pa} {f : State → Except AccErr α × State} {s : State} (hf : ∀ a, a.Inv → PairInv (f a))
    (hs : s.Inv) :
    PairInv (physRoute ag pa f s) := by
  unfold physRoute
  split
  · exact inv_noted hs
  · exact hf _ hs

theorem inv_physRead {ag pa n k} {s : State} (hs : s.Inv) : PairInv (physRead ag pa n k s) := by
  unfold physRead
  refine inv_physRoute (fun _ hs => .ite ?_ ?_) hs
  · split <;> exact hs
  · split <;> exact (inv_physCheck hs).of_eq ‹_›

theorem inv_physWrite {ag pa n v k} {s : State} (hs : s.Inv) : PairInv (physWrite ag pa n v k s) := by
  unfold physWrite
  refine inv_physRoute (fun _ hs => .ite ?_ ?_) hs
  · dsimp only
    split
    · exact (optInv_supvWrite hs).of_eq ‹_›
    · exact hs
  · split
    · exact (inv_physCheck hs).of_eq ‹_›
    · exact inv_setBytes _ _ _ _ ((inv_physCheck hs).of_eq ‹_›)

/-! ### `Machine/Access` -/

theorem keeps_crossDies {qsn src dst} : Keeps State.Inv (crossDies qsn src dst) := by
  unfold crossDies
  refine .getBind fun _ hs => ?_
  extract_lets w
  split
  · exact .bind (.set (inv_noteFlit hs)) fun _ => keeps_block
  · exact .pure

theorem keeps_accM {α : Type} {f : State → Except AccErr α × State} {mk : AccErr → TrapInfo} (hf : ∀ a, a.Inv → PairInv (f
    a)) :
    Keeps State.Inv (accM f mk : M α) := by
  unfold accM
  refine .getBind fun _ hs => ?_
  split
  · exact .bind (.set ((hf _ hs).of_eq ‹_›)) fun _ => .pure
  · exact .bind (.set ((hf _ hs).of_eq ‹_›)) fun _ => keeps_block
  · exact .bind (.set ((hf _ hs).of_eq ‹_›)) fun _ => .raise

theorem keeps_attemptM {α : Type} {o} {f : State → α × State} (hf : ∀ a, a.Inv → PairInv (f a)) :
    Keeps State.Inv (attemptM o f : M α) := by
  unfold attemptM
  refine .getBind fun _ hs => .bind (.set ?_) fun _ => ?_
  · split
    · refine (hf _ ?_).of_mem rfl
      exact hs.of_mem rfl
    · exact .ite hs (hs.of_mem rfl)
  · split
    · exact .pure
    · exact keeps_block

theorem keeps_memRead {at' qsn va n k elem} : Keeps State.Inv (memRead at' qsn va n k elem) := by
  unfold memRead
  refine .getBind fun _ hs => .ite (keeps_accM fun _ hs => ?_) (.when keeps_block fun _ => keeps_accM fun _ hs =>
    inv_loadVirt hs)
  split
  · exact inv_physErr ((inv_physRead hs).of_eq ‹_›)
  · exact inv_physRead hs

theorem keeps_takePass {entry key} : Keeps State.Inv (takePass entry key) :=
  .bind keeps_meM fun _ => .ite (.bind .updMeM fun _ => .pure) .pure

theorem keeps_passUnused {at' qsn elem} : Keeps State.Inv (passUnused at' qsn elem) :=
  .bind keeps_meM fun _ => .discard keeps_takePass

theorem keeps_writeCheck {at' qsn va n k elem} : Keeps State.Inv (writeCheck at' qsn va n k elem) :=
  .getBind fun _ _ => .when keeps_block fun _ => .bind (keeps_accM fun _ hs => inv_resolve hs) fun _ => .pure

theorem keeps_watchCheck {at' qsn va pa n elem} : Keeps State.Inv (watchCheck at' qsn va pa n elem) :=
  .getBind fun _ _ => .bind keeps_takePass fun _ => .ite (.bind (.modify fun _ hs => inv_recordWatch hs) fun _ =>
    .raise) .pure

theorem keeps_memWrite {at' qsn va n v k elem} : Keeps State.Inv (memWrite at' qsn va n v k elem) := by
  unfold memWrite
  refine .getBind fun _ hs => .ite (keeps_accM fun _ hs => ?_) (.bind keeps_writeCheck fun _ =>
    .bind keeps_watchCheck fun _ => .modify fun _ hs => inv_setBytes _ _ _ _ hs)
  split
  · exact inv_physErr ((inv_physWrite hs).of_eq ‹_›)
  · exact inv_physWrite hs

theorem keeps_alignCheck {va n elem} : Keeps State.Inv (alignCheck va n elem) :=
  .ite .raise .pure

theorem outInv_scalarM {m} {s : State} (hm : Keeps State.Inv m) (hs : s.Inv) : OutInv (scalarM m s) := by
  unfold scalarM
  split
  · exact outInv_next ((inv_runM hm hs).of_eq ‹_›)
  · exact outInv_next (inv_trapHere _ _ ((inv_runM hm hs).of_eq ‹_›))
  · exact outInv_next (inv_trapHere _ _ ((inv_runM hm hs).of_eq ‹_›))
  · exact outInv_next ((inv_runM hm hs).of_eq ‹_›)

theorem outInv_scalarOp {regs} {f : Hart → Hart} {s : State} (hs : s.Inv) : OutInv (scalarOp regs f s) :=
  .ite (outInv_next (inv_updMe _ _ hs)) (outInv_next hs)

theorem outInv_scalarRun {regs m} {s : State} (hm : Keeps State.Inv m) (hs : s.Inv) : OutInv (scalarRun regs m s) :=
  .ite (outInv_scalarM (.bind hm fun _ => .updMeM) hs) (outInv_next hs)

/-! ### `Machine/Alu` -/

theorem outInv_aluOp {rd ra rb} {f : Word → Word → Word} {s : State} (hs : s.Inv) : OutInv (aluOp rd ra rb f s) :=
  outInv_scalarOp hs

theorem outInv_aluOp1 {rd ra} {f : Word → Word} {s : State} (hs : s.Inv) : OutInv (aluOp1 rd ra f s) :=
  outInv_scalarOp hs

theorem outInv_aluOp3 {rd ra rb rc} {f : Word → Word → Word → Word} {s : State} (hs : s.Inv) :
    OutInv (aluOp3 rd ra rb rc f s) :=
  outInv_scalarOp hs

/-! ### `Machine/Engine` -/

theorem inv_engineRead {ag va a2} {s : State} (hs : s.Inv) : PairInv (engineRead ag va a2 s) := by
  induction a2 generalizing va s with
  | zero => exact hs
  | succ a2 ih =>
    rw [engineRead]
    split
    · exact (inv_loadVirt hs).of_eq ‹_›
    · split <;> exact (ih ((inv_loadVirt hs).of_eq ‹_›)).of_eq ‹_›

theorem inv_resolveParts {ag a1} {s : State} (hs : s.Inv) : PairInv (resolveParts ag a1 s) := by
  induction a1 generalizing s with
  | nil => exact hs
  | cons _ _ ih =>
    rw [resolveParts]
    split
    · exact (inv_resolve hs).of_eq ‹_›
    · split <;> exact (ih ((inv_resolve hs).of_eq ‹_›)).of_eq ‹_›

theorem inv_putParts {ag k wsrc a3 a4} {s : State} (hs : s.Inv) : (putParts ag k wsrc a3 a4 s).Inv := by
  induction a3 generalizing a4 s with
  | nil => exact hs
  | cons _ _ ih => exact ih (.ite (inv_setBytes _ _ _ _ hs) (inv_recordWatch (inv_setBytes _ _ _ _ hs)))

theorem inv_engineWrite {ag wsrc va n v} {s : State} (hs : s.Inv) : PairInv (engineWrite ag wsrc va n v s) := by
  unfold engineWrite
  split
  · exact (inv_resolveParts hs).of_eq ‹_›
  · exact inv_putParts ((inv_resolveParts hs).of_eq ‹_›)

theorem inv_putQuiet {a0 a1} {s : State} (hs : s.Inv) : (putQuiet a0 a1 s).Inv := by
  induction a0 generalizing a1 s with
  | nil => exact hs
  | cons _ _ ih => exact ih (inv_setBytes _ _ _ _ hs)

theorem inv_deviceWrite {ag va n v} {s : State} (hs : s.Inv) : PairInv (deviceWrite ag va n v s) := by
  unfold deviceWrite
  split
  · exact (inv_resolveParts hs).of_eq ‹_›
  · exact inv_putQuiet ((inv_resolveParts hs).of_eq ‹_›)

theorem inv_raiseIrq {s : State} {vec what} (hs : s.Inv) : (State.raiseIrq s vec what).Inv :=
  hs.of_mem rfl

theorem inv_postFault {t va reason kind die source hart qsn src} {s : State} (hs : s.Inv) :
    PairInv (postFault t va reason kind die source hart qsn src s) := by
  unfold postFault
  refine .ite hs ?_
  extract_lets at' v
  split
  · split
    · exact hs.of_mem rfl
    · exact inv_raiseIrq ((inv_resolveParts (inv_setTenant hs)).of_eq ‹_›)
    · exact inv_raiseIrq (inv_setTenant (inv_putQuiet ((inv_resolveParts (inv_setTenant hs)).of_eq ‹_›)))

theorem inv_heldReq_post {r t hart qsn src} {s : State} (hs : s.Inv) : PairInv (HeldReq.post r t hart qsn src s) :=
  inv_postFault hs

/-! ### `Machine/Operands` -/

theorem keeps_vCtx_ill {α : Type} {c reason} : Keeps State.Inv (VCtx.ill c reason : M α) :=
  .raise

theorem keeps_vCtx_groups {c ops cls clash} : Keeps State.Inv (VCtx.groups c ops cls clash) :=
  .when keeps_vCtx_ill fun _ => .when keeps_vCtx_ill fun _ => .when keeps_vCtx_ill fun _ => .when keeps_vCtx_ill fun _ =>
    .bind keeps_meM fun _ => .when keeps_block fun _ => .pure

theorem keeps_readCellEcc {core die lane col elem} : Keeps State.Inv (readCellEcc core die lane col elem) :=
  .getBind fun _ hs => .when .raise fun _ => .when (.set (hs.of_mem rfl)) fun _ => .pure

theorem keeps_readCell {core die lane col elem} : Keeps State.Inv (readCell core die lane col elem) :=
  .bind keeps_meM fun _ => .when keeps_block fun _ => keeps_readCellEcc

theorem keeps_markCell {c reg ci die rank} : Keeps State.Inv (markCell c reg ci die rank) :=
  .updMeM

theorem keeps_writeCellBits {core die lane col sh w v} : Keeps State.Inv (writeCellBits core die lane col sh w v) :=
  .getBind fun _ hs => .when keeps_block fun _ => .set (inv_setCell hs)

theorem keeps_vCtx_getAt {c g e elem} : Keeps State.Inv (VCtx.getAt c g e elem) := by
  unfold VCtx.getAt
  split
  · exact .pure
  · exact .bind keeps_readCell fun _ => .ite (.bind keeps_readCell fun _ => .pure) .pure

theorem keeps_vCtx_carry {c src dst} : Keeps State.Inv (VCtx.carry c src dst) := by
  unfold VCtx.carry
  split
  · exact keeps_crossDies
  · exact .pure

theorem keeps_vCtx_getFor {c d g i e} : Keeps State.Inv (VCtx.getFor c d g i e) :=
  .bind keeps_vCtx_carry fun _ => keeps_vCtx_getAt

theorem keeps_vCtx_get {c g e} : Keeps State.Inv (VCtx.get c g e) :=
  keeps_vCtx_getAt

theorem keeps_vCtx_put {c g e v} : Keeps State.Inv (VCtx.put c g e v) := by
  unfold VCtx.put
  split
  · exact .pure
  · exact .ite (.bind keeps_writeCellBits fun _ => .bind keeps_writeCellBits fun _ =>
      keeps_markCell) (.bind keeps_writeCellBits fun _ => keeps_markCell)

theorem keeps_readLanes {core die col elem a4} : Keeps State.Inv (readLanes core die col elem a4) := by
  induction a4 with
  | nil => exact .pure
  | cons _ _ ih => exact .bind keeps_readCell fun _ => .bind ih fun _ => .pure

theorem keeps_writeLanes {core die col a3 a4} : Keeps State.Inv (writeLanes core die col a3 a4) := by
  induction a3 generalizing a4 with
  | nil => exact .pure
  | cons _ _ ih => exact .bind keeps_writeCellBits fun _ => ih

theorem keeps_vCtx_getBlock {c g b elem} : Keeps State.Inv (VCtx.getBlock c g b elem) := by
  unfold VCtx.getBlock
  split
  · exact .pure
  · exact .bind keeps_readLanes fun _ => .pure

theorem keeps_vCtx_getMx {c g b i elem} : Keeps State.Inv (VCtx.getMx c g b i elem) := by
  unfold VCtx.getMx
  split
  · exact .pure
  · exact .bind keeps_readLanes fun _ => .bind keeps_readLanes fun _ => .pure

theorem keeps_vCtx_putBlock {c g b v} : Keeps State.Inv (VCtx.putBlock c g b v) := by
  unfold VCtx.putBlock
  split
  · exact .pure
  · exact .bind keeps_writeLanes fun _ => .bind keeps_writeLanes fun _ => .bind (.forIn fun _ _ =>
      .bind keeps_markCell fun _ => .pure) fun _ => .pure

/-! ### `Machine/Stream` -/

theorem inv_spWrite {s : State} {core die off a4 a5} (hs : s.Inv) : (State.spWrite s core die off a4 a5).Inv := by
  induction a4 generalizing s off a5 with
  | zero => exact hs
  | succ a4 ih => exact ih (inv_setSpByte hs)

theorem inv_emptyGranule {s : State} {core die g} (hs : s.Inv) : (State.emptyGranule s core die g).Inv :=
  inv_foldl (inv_setFull hs) fun _ _ hs => inv_updHart _ _ _ hs

theorem inv_updQ {s : State} {h n} {f : StreamQ → StreamQ} (hs : s.Inv) : (State.updQ s h n f).Inv :=
  inv_updHart _ _ _ hs

theorem inv_postStream {h n r} {s : State} (hs : s.Inv) : (postStream h n r s).Inv := by
  unfold postStream
  split <;> exact inv_updQ ((inv_heldReq_post hs).of_eq ‹_›)

theorem inv_holdStream {h n r} {before : State} {s : State} (hbefore : before.Inv) (hs : s.Inv) :
    (holdStream h n r before s).Inv :=
  .ite hbefore (inv_postStream hs)

theorem inv_awaitReply {h n} {s : State} (hs : s.Inv) : (awaitReply h n s).Inv := by
  unfold awaitReply
  split
  · exact .ite (inv_postStream hs) hs
  · exact hs

theorem inv_putFetched {h n key v} {s : State} (hs : s.Inv) : (putFetched h n key v s).Inv :=
  inv_updQ hs

theorem inv_fetchMem {h n p die qsn va k key} {s : State} (hs : s.Inv) : PairInv (fetchMem h n p die qsn va k key s) := by
  unfold fetchMem
  refine .ite (inv_awaitReply hs) (.ite hs ?_)
  split
  · exact (inv_engineRead hs).of_eq ‹_›
  · exact (inv_engineRead hs).of_eq ‹_›
  · exact inv_holdStream hs ((inv_engineRead hs).of_eq ‹_›)

theorem inv_fetchRun {h n p die a4 a5} {s : State} (hs : s.Inv) : (fetchRun h n p die a4 a5 s).Inv := by
  induction a4 generalizing a5 s with
  | zero => exact hs
  | succ a4 ih => exact ih (inv_updQ (inv_putFetched hs))

theorem inv_fetchAffine {h n p} {s : State} (hs : s.Inv) : (fetchAffine h n p s).Inv := by
  unfold fetchAffine
  refine .ite hs (.ite hs (.ite (.ite (inv_updQ hs) (.ite (inv_fetchRun hs) hs)) ?_))
  split
  · exact inv_updQ (inv_putFetched ((inv_fetchMem hs).of_eq ‹_›))
  · exact (inv_fetchMem hs).of_eq ‹_›

theorem inv_takeIndex {h n p} {s : State} (hs : s.Inv) : (takeIndex h n p s).Inv := by
  unfold takeIndex
  refine .ite hs ?_
  split
  · exact hs
  · split
    · exact hs
    · exact inv_updQ (inv_updQ hs)

theorem inv_fetchRequest {h n p} {s : State} (hs : s.Inv) : (fetchRequest h n p s).Inv := by
  unfold fetchRequest
  dsimp only
  split
  · exact hs
  · refine .ite hs ?_
    split
    · exact inv_updQ (inv_putFetched ((inv_fetchMem hs).of_eq ‹_›))
    · exact (inv_fetchMem hs).of_eq ‹_›

theorem inv_fetchStaged {h n die} {s : State} (hs : s.Inv) : (fetchStaged h n die s).Inv := by
  unfold fetchStaged
  dsimp only
  split
  · exact hs
  · split
    · exact .ite (inv_putFetched hs) hs
    · exact hs

theorem inv_streamFetch {h n p} {s : State} (hs : s.Inv) : (streamFetch h n p s).Inv := by
  unfold streamFetch
  refine .ite hs ?_
  split
  · exact inv_fetchRequest (inv_takeIndex hs)
  · exact inv_fetchRequest hs
  · exact inv_fetchStaged hs
  · exact inv_fetchAffine hs

theorem inv_sgatherRow {h n engine} {s : State} (hs : s.Inv) : (sgatherRow h n engine s).Inv := by
  unfold sgatherRow
  refine .ite hs ?_
  split
  · exact hs
  · refine .ite (inv_awaitReply hs) (.ite hs (.ite hs ?_))
    split
    · exact inv_updQ (inv_spWrite ((inv_engineRead hs).of_eq ‹_›))
    · exact (inv_engineRead hs).of_eq ‹_›
    · exact inv_holdStream hs ((inv_engineRead hs).of_eq ‹_›)

theorem inv_pumpFetch {h n a2} {s : State} (hs : s.Inv) : (pumpFetch h n a2 s).Inv := by
  induction a2 generalizing s with
  | zero => exact hs
  | succ a2 ih => exact .ite hs (ih (inv_foldl (.ite (inv_foldl (.ite (inv_foldl hs fun _ _ hs =>
    inv_streamFetch hs) hs) fun _ _ hs => inv_sgatherRow hs) (.ite (inv_foldl hs fun _ _ hs =>
    inv_streamFetch hs) hs)) fun _ _ hs => inv_streamFetch hs))

theorem inv_writeSpElem {s : State} {core die d i v} (hs : s.Inv) : (writeSpElem s core die d i v).Inv :=
  .ite (inv_setSpByte hs) (inv_spWrite hs)

theorem inv_storeVisit {h n p i flush} {s : State} (hs : s.Inv) : (storeVisit h n p i flush s).Inv :=
  .ite (inv_updQ (inv_foldl hs fun _ _ hs => inv_writeSpElem hs)) hs

theorem inv_storeNext {h n p i} {s : State} (hs : s.Inv) : (storeNext h n p i s).Inv := by
  unfold storeNext
  refine .ite (inv_awaitReply hs) (.ite hs ?_)
  split
  · refine inv_updQ (PairInv.of_eq (.ite ?_ (inv_engineWrite hs)) ‹_›)
    split
    · exact (inv_resolveParts hs).of_eq ‹_›
    · exact inv_putParts ((inv_resolveParts hs).of_eq ‹_›)
  · refine PairInv.of_eq (.ite ?_ (inv_engineWrite hs)) ‹_›
    split
    · exact (inv_resolveParts hs).of_eq ‹_›
    · exact inv_putParts ((inv_resolveParts hs).of_eq ‹_›)
  · refine inv_updQ (PairInv.of_eq (.ite ?_ (inv_engineWrite hs)) ‹_›)
    split
    · exact (inv_resolveParts hs).of_eq ‹_›
    · exact inv_putParts ((inv_resolveParts hs).of_eq ‹_›)
  · refine inv_holdStream hs (PairInv.of_eq (.ite ?_ (inv_engineWrite hs)) ‹_›)
    split
    · exact (inv_resolveParts hs).of_eq ‹_›
    · exact inv_putParts ((inv_resolveParts hs).of_eq ‹_›)

theorem inv_streamStoreWrite {h n p flush} {s : State} (hs : s.Inv) : (streamStoreWrite h n p flush s).Inv := by
  unfold streamStoreWrite
  refine .ite hs ?_
  split
  · exact hs
  · exact .ite (inv_storeVisit hs) (inv_storeNext hs)

theorem inv_pumpStores {h n flush a3} {s : State} (hs : s.Inv) : (pumpStores h n flush a3 s).Inv := by
  induction a3 generalizing s with
  | zero => exact hs
  | succ a3 ih => exact .ite hs (ih (inv_foldl hs fun _ _ hs => inv_streamStoreWrite hs))

/-! ### `Machine/Elements` -/

theorem keeps_startIndex {e} : Keeps State.Inv (startIndex e) :=
  .bind keeps_meM fun _ => .pure

theorem keeps_beginAt {e p} : Keeps State.Inv (beginAt e p) :=
  .updMeM

theorem keeps_reach {p} : Keeps State.Inv (reach p) :=
  .updMeM

theorem keeps_vstart0 : Keeps State.Inv (vstart0) :=
  .updMeM

theorem keeps_setResult {e v} : Keeps State.Inv (setResult e v) :=
  .updMeM

theorem keeps_record {e fl i} : Keeps State.Inv (record e fl i) :=
  .ite .pure .updMeM

theorem keeps_setExc {c e b} : Keeps State.Inv (setExc c e b) :=
  .ite .updMeM .pure

theorem keeps_addSat {n} : Keeps State.Inv (addSat n) :=
  .updMeM

theorem keeps_stepLfsr {c lane} : Keeps State.Inv (stepLfsr c lane) := by
  unfold stepLfsr
  split
  · exact .bind keeps_meM fun _ => .bind .updMeM fun _ => .pure
  · exact .pure

theorem keeps_laneStep {c g e} : Keeps State.Inv (laneStep c g e) := by
  unfold laneStep
  split
  · exact keeps_stepLfsr
  · exact .pure

theorem keeps_snanCheck {c f idx bits e} : Keeps State.Inv (snanCheck c f idx bits e) :=
  .ite .raise .pure

theorem keeps_tailFrom {c d lo L} : Keeps State.Inv (tailFrom c d lo L) :=
  .ite (.forRange fun _ => keeps_vCtx_put) .pure

theorem keeps_elemLoop {c d L} {op : Nat → M ElemRes} (hop : ∀ a, Keeps State.Inv (op a)) :
    Keeps State.Inv (elemLoop c d L op) :=
  .ite (.bind keeps_startIndex fun _ => .bind keeps_beginAt fun _ => .bind (.forRange fun _ => .ite (.bind (hop _) fun _ =>
    .bind keeps_vCtx_put fun _ => .bind keeps_record fun _ => .when keeps_addSat fun _ => .bind keeps_setExc fun _ =>
    keeps_reach) (.when keeps_vCtx_put fun _ => .bind keeps_setExc fun _ => keeps_reach)) fun _ =>
    .bind keeps_tailFrom fun _ => keeps_vstart0) keeps_vstart0

theorem keeps_maskLoop {c md L} {op : Nat → M (Bool × Flags)} (hop : ∀ a, Keeps State.Inv (op a)) :
    Keeps State.Inv (maskLoop c md L op) :=
  .ite (.bind keeps_startIndex fun _ => .bind keeps_beginAt fun _ => .bind (.forRange fun _ =>
    .ite (.bind (hop _) fun ⟨_, _⟩ => .bind .updMeM fun _ => .bind keeps_record fun _ => .bind keeps_setExc fun _ =>
    keeps_reach) (.when .updMeM fun _ => .bind keeps_setExc fun _ => keeps_reach)) fun _ => keeps_vstart0) keeps_vstart0

theorem keeps_everyLoop {c d L} {op : Nat → M Nat} (hop : ∀ a, Keeps State.Inv (op a)) :
    Keeps State.Inv (everyLoop c d L op) :=
  .ite (.bind keeps_startIndex fun _ => .bind keeps_beginAt fun _ => .bind (.forRange fun _ => .bind (hop _) fun _ =>
    .bind keeps_vCtx_put fun _ => keeps_reach) fun _ => .bind keeps_tailFrom fun _ => keeps_vstart0) keeps_vstart0

theorem keeps_wholeBody {c body} (hbody : Keeps State.Inv (body)) : Keeps State.Inv (wholeBody c body) :=
  .ite (.bind keeps_beginAt fun _ => .bind hbody fun _ => keeps_vstart0) keeps_vstart0

theorem keeps_collect {op : Nat → M (Option Nat)} {a1} (hop : ∀ a, Keeps State.Inv (op a)) :
    Keeps State.Inv (collect op a1) := by
  induction a1 with
  | nil => exact .pure
  | cons _ _ ih => exact .bind (hop _) fun _ => .bind ih fun _ => .pure

theorem keeps_wholeLoop {c d L} {keep : Nat → Bool} {op : Nat → M (Option Nat)} (hop : ∀ a, Keeps State.Inv (op a)) :
    Keeps State.Inv (wholeLoop c d L keep op) :=
  keeps_wholeBody (.bind (keeps_collect fun _ => .ite (hop _) .pure) fun _ => .bind (.forM fun _ => keeps_vCtx_put) fun _ =>
    keeps_tailFrom)

theorem keeps_waitEarlier {e} : Keeps State.Inv (waitEarlier e) :=
  .bind keeps_meM fun _ => .ite keeps_block .pure

/-! ### `Machine/Flags` -/

theorem outInv_fpsOp {regs rd ra rb rc fn} {s : State} (hs : s.Inv) : OutInv (fpsOp regs rd ra rb rc fn s) :=
  .ite (outInv_next hs) (outInv_scalarOp hs)

/-! ### `Machine/VArith` -/

theorem keeps_vctxM {e f} : Keeps State.Inv (vctxM e f) :=
  .getBind fun _ _ => .pure

theorem keeps_secondOp {c vs gs i e} : Keeps State.Inv (secondOp c vs gs i e) :=
  .ite .pure keeps_vCtx_get

theorem keeps_runVint {en op vs f} : Keeps State.Inv (runVint en op vs f) :=
  .bind keeps_vctxM fun _ => .when keeps_vCtx_ill fun _ => .bind keeps_vCtx_groups fun ⟨_, _⟩ => keeps_elemLoop fun _ =>
    .bind keeps_vCtx_get fun _ => .bind keeps_secondOp fun _ => .pure

theorem keeps_fpElem {c op ff d e a b unary} : Keeps State.Inv (fpElem c op ff d e a b unary) := by
  unfold fpElem
  refine .branch keeps_vCtx_get .pure fun _ => ?_
  beta_reduce
  extract_lets -underBinder +onlyGivenNames rest
  have hrest : ∀ r, Keeps State.Inv (rest r) := fun _ => .branch keeps_laneStep .pure fun _ => .pure
  exact .ite (.bind keeps_snanCheck fun _ => .when keeps_snanCheck fun _ =>
    .ite (.bind keeps_snanCheck hrest) (hrest ())) (hrest ())

theorem keeps_runVfp {en op vs f} : Keeps State.Inv (runVfp en op vs f) := by
  unfold runVfp
  refine .bind keeps_vctxM fun _ => ?_
  split
  · exact keeps_vCtx_ill
  · exact .bind keeps_vCtx_groups fun ⟨_, _⟩ => keeps_elemLoop fun _ => .bind keeps_vCtx_get fun _ =>
      .bind keeps_secondOp fun _ => keeps_fpElem

theorem keeps_runVfp64 {en op f} : Keeps State.Inv (runVfp64 en op f) :=
  .bind keeps_vctxM fun _ => .when keeps_vCtx_ill fun _ => .bind keeps_vCtx_groups fun ⟨_, _⟩ => keeps_elemLoop fun _ =>
    .bind keeps_vCtx_get fun _ => .branch .pure keeps_vCtx_get fun _ => keeps_fpElem

theorem keeps_runVspec {en op f} : Keeps State.Inv (runVspec en op f) := by
  unfold runVspec
  refine .bind keeps_vctxM fun _ => ?_
  split
  · exact keeps_vCtx_ill
  · exact .bind keeps_vCtx_groups fun ⟨_, _⟩ => keeps_elemLoop fun _ => .bind keeps_vCtx_get fun _ =>
      .bind keeps_snanCheck fun _ => .bind keeps_laneStep fun _ => .pure

theorem keeps_runVcmp {en op vs f} : Keeps State.Inv (runVcmp en op vs f) := by
  unfold runVcmp
  refine .bind keeps_vctxM fun _ => .when keeps_vCtx_ill fun _ => .bind keeps_vCtx_groups fun ⟨_, _⟩ =>
    keeps_maskLoop fun _ => .bind keeps_vCtx_get fun _ => .bind keeps_secondOp fun _ => ?_
  split
  · exact .ite .pure (.bind keeps_snanCheck fun _ => .bind keeps_snanCheck fun _ => .pure)
  · exact .pure

theorem keeps_runVcvt {en op dst f} : Keeps State.Inv (runVcvt en op dst f) := by
  unfold runVcvt
  refine .bind keeps_vctxM fun _ => .when keeps_vCtx_ill fun _ => .bind keeps_vCtx_groups fun ⟨_, _⟩ =>
    keeps_elemLoop fun _ => .bind keeps_vCtx_get fun _ => ?_
  split
  · split
    · exact .bind keeps_snanCheck fun _ => .bind keeps_laneStep fun _ => .pure
    · exact .bind keeps_laneStep fun _ => .pure
  · exact .pure
  · exact .pure
  · exact .pure

theorem keeps_readElems {c g d b ff a5} : Keeps State.Inv (readElems c g d b ff a5) := by
  induction a5 with
  | nil => exact .pure
  | cons _ _ ih =>
    unfold readElems
    exact .bind keeps_vCtx_carry fun _ => .bind keeps_vCtx_get fun _ => .bind keeps_snanCheck fun _ => .bind ih fun _ => .pure

theorem keeps_packElems {c d b code a4} : Keeps State.Inv (packElems c d b code a4) := by
  induction a4 with
  | nil => exact .pure
  | cons _ _ ih => exact .bind keeps_stepLfsr fun _ => .bind ih fun ⟨_, _⟩ => .pure

theorem keeps_runVmxpack {en dst f} : Keeps State.Inv (runVmxpack en dst f) := by
  unfold runVmxpack
  refine .bind keeps_vctxM fun _ => ?_
  split
  · exact keeps_vCtx_ill
  · refine .when keeps_vCtx_ill fun _ => .bind keeps_vCtx_groups fun ⟨_, _⟩ => .ite (.bind keeps_startIndex fun _ =>
      .bind keeps_beginAt fun _ => .bind (.forRange fun _ => .bind keeps_readElems fun _ =>
      .bind keeps_packElems fun ⟨_, _⟩ => .bind keeps_vCtx_putBlock fun _ => .bind (.forIn fun _ _ => ?_) fun _ =>
      keeps_reach) fun _ => .ite (.bind (.forRange fun _ => keeps_vCtx_putBlock) fun _ =>
      keeps_vstart0) keeps_vstart0) keeps_vstart0
    split
    · exact .when keeps_record fun _ => .bind keeps_setExc fun _ => .pure
    · split
      · exact .bind keeps_record fun _ => .when keeps_addSat fun _ => .bind keeps_setExc fun _ => .pure
      · exact .bind keeps_setExc fun _ => .pure

theorem keeps_runVmxunpack {en src f} : Keeps State.Inv (runVmxunpack en src f) := by
  unfold runVmxunpack
  refine .bind keeps_vctxM fun _ => ?_
  split
  · exact keeps_vCtx_ill
  · exact .when keeps_vCtx_ill fun _ => .bind keeps_vCtx_groups fun ⟨_, _⟩ => keeps_elemLoop fun _ =>
      .bind keeps_vCtx_carry fun _ => .bind keeps_vCtx_getMx fun ⟨_, _⟩ => .bind keeps_laneStep fun _ => .pure

theorem keeps_readMags {c g d a3} : Keeps State.Inv (readMags c g d a3) := by
  induction a3 with
  | nil => exact .pure
  | cons _ _ ih =>
    unfold readMags
    extract_lets -underBinder +onlyGivenNames rest
    have hrest : ∀ r, Keeps State.Inv (rest r) := by
      refine fun _ => ?_
      unfold rest
      extract_lets rest
      have hrest : ∀ r, Keeps State.Inv (rest r) := fun _ => .bind ih fun _ => .pure
      split
      · exact .bind keeps_snanCheck hrest
      · exact hrest ()
    split
    · exact .bind (.bind keeps_vCtx_carry fun _ => keeps_vCtx_getAt) hrest
    · exact .bind keeps_vCtx_get hrest

theorem keeps_recordNans {c n ms} : Keeps State.Inv (recordNans c n ms) :=
  .forRange fun _ => .when keeps_record fun _ => keeps_setExc

theorem keeps_runVamax {en f} : Keeps State.Inv (runVamax en f) :=
  .bind keeps_vctxM fun _ => .when keeps_vCtx_ill fun _ => .bind keeps_vCtx_groups fun ⟨_, _⟩ =>
    .ite (.bind keeps_setResult fun _ => keeps_vstart0) (keeps_wholeBody (.bind keeps_readMags fun _ =>
    .bind keeps_recordNans fun _ => keeps_setResult))

theorem keeps_runVbamax {en f} : Keeps State.Inv (runVbamax en f) :=
  .bind keeps_vctxM fun _ => .when keeps_vCtx_ill fun _ => .bind keeps_vCtx_groups fun ⟨_, _⟩ =>
    keeps_wholeBody (.bind keeps_readMags fun _ => .bind keeps_recordNans fun _ => .bind (.forRange fun _ =>
    keeps_vCtx_put) fun _ => keeps_tailFrom)

theorem keeps_runVscale {en fmt} : Keeps State.Inv (runVscale en fmt) :=
  .when .raise fun _ => .bind keeps_meM fun _ => .when .updMeM fun _ => .bind .updMeM fun _ => keeps_setResult

theorem keeps_runVquant {en f} : Keeps State.Inv (runVquant en f) := by
  unfold runVquant
  refine .bind keeps_vctxM fun _ => ?_
  extract_lets dst okDst
  split
  · exact keeps_vCtx_ill
  · exact .when keeps_vCtx_ill fun _ => .bind keeps_vCtx_groups fun ⟨_, _⟩ => keeps_elemLoop fun _ =>
      .bind keeps_vCtx_get fun _ => .bind keeps_snanCheck fun _ => .bind keeps_laneStep fun _ => .pure

theorem keeps_runVdequant {en f} : Keeps State.Inv (runVdequant en f) := by
  unfold runVdequant
  refine .bind keeps_vctxM fun _ => ?_
  extract_lets src
  split
  · exact keeps_vCtx_ill
  · refine .when keeps_vCtx_ill fun _ => .bind keeps_vCtx_groups fun ⟨_, _⟩ => keeps_elemLoop fun _ =>
      .bind keeps_vCtx_get fun _ => ?_
    split
    · exact .bind keeps_snanCheck fun _ => .bind keeps_laneStep fun _ => .pure
    · exact .bind keeps_laneStep fun _ => .pure

theorem keeps_readRed {c g ff a3} : Keeps State.Inv (readRed c g ff a3) := by
  induction a3 with
  | nil => exact .pure
  | cons _ _ ih =>
    rw [readRed]
    refine .bind keeps_vCtx_get fun _ => ?_
    split
    · exact .bind keeps_snanCheck fun _ => .bind ih fun _ => .pure
    · exact .bind ih fun _ => .pure

theorem keeps_recordLog {c n log} : Keeps State.Inv (recordLog c n log) :=
  .bind (.forIn fun _ _ => .bind keeps_record fun _ => .pure) fun _ => .forRange fun _ => keeps_setExc

theorem keeps_runVred {en op f} : Keeps State.Inv (runVred en op f) := by
  unfold runVred
  refine .bind keeps_vctxM fun _ => .when keeps_vCtx_ill fun _ => .bind keeps_vCtx_groups fun ⟨_, _⟩ =>
    .ite (.bind (keeps_wholeBody keeps_recordLog) fun _ => keeps_setResult) (keeps_wholeBody ?_)
  split
  · exact .when .raise fun _ => .bind keeps_readRed fun _ => .getBind fun _ hs => .ite (.bind (.set (hs.of_mem rfl)) fun _ =>
      .bind keeps_recordLog fun _ => .when keeps_record fun _ => keeps_setResult) (.bind keeps_recordLog fun _ =>
      .when keeps_record fun _ => keeps_setResult)
  · exact .bind keeps_readRed fun _ => keeps_setResult

/-! ### `Machine/StreamRun` -/

theorem keeps_unbegin {e} : Keeps State.Inv (unbegin e) :=
  .updMeM

theorem keeps_illEntry {α : Type} {e reason} : Keeps State.Inv (illEntry e reason : M α) :=
  .bind keeps_unbegin fun _ => .raise

theorem keeps_raiseAt {α : Type} {e p t} : Keeps State.Inv (raiseAt e p t : M α) :=
  .bind keeps_beginAt fun _ => .raise

theorem keeps_getQ {n} : Keeps State.Inv (getQ n) :=
  .bind keeps_meM fun _ => .pure

theorem keeps_modQ {n} {f : StreamQ → StreamQ} : Keeps State.Inv (modQ n f) :=
  .updMeM

theorem keeps_background {n} : Keeps State.Inv (background n) :=
  .modify fun _ hs => .ite hs (.ite (inv_pumpFetch hs) (inv_pumpStores hs))

theorem keeps_drainQ {n} : Keeps State.Inv (drainQ n) :=
  .bind (.modify fun _ hs => inv_pumpStores hs) fun _ => .bind keeps_getQ fun _ => .ite keeps_block .pure

theorem keeps_closeQ {n} : Keeps State.Inv (closeQ n) :=
  .updMeM

theorem keeps_raiseCause {e n elem} : Keeps State.Inv (raiseCause e n elem) := by
  unfold raiseCause
  refine .bind keeps_meM fun _ => ?_
  split
  · exact keeps_raiseAt
  · exact .pure

theorem keeps_captureDesc {e n ds tr} : Keeps State.Inv (captureDesc e n ds tr) := by
  unfold captureDesc
  refine .bind keeps_beginAt fun _ => .bind keeps_alignCheck fun _ => .bind keeps_memRead fun _ =>
    .bind keeps_memRead fun _ => .getBind fun _ hs => .when keeps_illEntry fun _ => ?_
  beta_reduce
  extract_lets -underBinder +onlyGivenNames rest
  have hrest : ∀ r, Keeps State.Inv (rest r) := by
    refine fun _ => ?_
    unfold rest
    extract_lets -underBinder +onlyGivenNames rest
    have hrest : ∀ r, Keeps State.Inv (rest r) := fun _ => .bind .updMeM fun _ => .pure
    split
    · exact .bind .raise hrest
    · exact hrest ()
  split
  · exact .bind .raise hrest
  · exact hrest ()

theorem keeps_runSopen {e n ds tr} : Keeps State.Inv (runSopen e n ds tr) := by
  unfold runSopen
  extract_lets -underBinder +onlyGivenNames rest
  have hrest : ∀ r, Keeps State.Inv (rest r) := by
    refine fun ⟨_, _⟩ => ?_
    dsimp -zeta only [rest]
    extract_lets -underBinder +onlyGivenNames rest
    have hrest : ∀ r, Keeps State.Inv (rest r) := fun _ => .bind keeps_getQ fun _ => .when keeps_drainQ fun _ =>
      .bind keeps_closeQ fun _ => .when keeps_modQ fun _ => keeps_modQ
    exact .ite (.bind keeps_meM fun _ => .ite (.bind keeps_block hrest) (hrest ())) (hrest ())
  split
  · exact .bind .pure hrest
  · exact .bind keeps_captureDesc hrest

theorem keeps_refuseBound {e q} : Keeps State.Inv (refuseBound e q) :=
  .ite keeps_illEntry .pure

theorem keeps_runSclose {e n} : Keeps State.Inv (runSclose e n) :=
  .bind keeps_getQ fun _ => .ite (.bind keeps_refuseBound fun _ => .ite (.bind keeps_raiseCause fun _ =>
    .bind keeps_drainQ fun _ => .bind keeps_raiseCause fun _ => keeps_closeQ) keeps_closeQ) .pure

theorem keeps_runSwait {e n} : Keeps State.Inv (runSwait e n) :=
  .bind keeps_getQ fun _ => .ite (.bind keeps_refuseBound fun _ => .bind keeps_raiseCause fun _ =>
    .bind keeps_background fun _ => .bind keeps_raiseCause fun _ => .bind keeps_meM fun _ =>
    .ite (.ite keeps_block .pure) (.ite keeps_block .pure)) .pure

theorem keeps_runSskip {e n} : Keeps State.Inv (runSskip e n) :=
  .bind keeps_meM fun _ => .ite (.bind keeps_refuseBound fun _ => .when keeps_illEntry fun _ =>
    .bind keeps_raiseCause fun _ => .ite keeps_modQ .updMeM) .pure

theorem keeps_runSdrain {e n} : Keeps State.Inv (runSdrain e n) :=
  .bind keeps_getQ fun _ => .ite (.bind keeps_raiseCause fun _ => .bind keeps_drainQ fun _ => keeps_raiseCause) .pure

theorem keeps_runSrewind {e n} : Keeps State.Inv (runSrewind e n) :=
  .bind keeps_getQ fun _ => .ite (.bind keeps_refuseBound fun _ => .when keeps_illEntry fun _ =>
    .ite (.bind keeps_raiseCause fun _ => .bind keeps_drainQ fun _ => .bind keeps_raiseCause fun _ =>
    keeps_modQ) keeps_modQ) .pure

theorem keeps_runSpref {e n} : Keeps State.Inv (runSpref e n) :=
  keeps_modQ

theorem keeps_readGroup {c g a2} : Keeps State.Inv (readGroup c g a2) := by
  induction a2 with
  | nil => exact .pure
  | cons _ _ ih => exact .bind keeps_vCtx_get fun _ => .bind ih fun _ => .pure

theorem keeps_runSldx {e n va md ds} : Keeps State.Inv (runSldx e n va md ds) := by
  unfold runSldx
  refine .bind keeps_vctxM fun _ => .bind keeps_vCtx_groups fun ⟨_, _⟩ => .bind keeps_getQ fun _ =>
    .when keeps_illEntry fun _ => .bind keeps_beginAt fun _ => .bind keeps_readGroup fun _ => .bind keeps_raiseCause fun _ =>
    ?_
  extract_lets rest
  have hrest : ∀ r, Keeps State.Inv (rest r) := fun _ => .bind keeps_modQ fun _ => .ite .updMeM .pure
  exact .ite (.bind keeps_background fun _ => .bind keeps_block hrest) (hrest ())

theorem keeps_runSgather {e n va ds} : Keeps State.Inv (runSgather e n va ds) :=
  .bind keeps_vctxM fun _ => .bind keeps_vCtx_groups fun ⟨_, _⟩ => .bind keeps_getQ fun _ => .when keeps_illEntry fun _ =>
    .bind keeps_beginAt fun _ => .bind keeps_readGroup fun _ => .bind keeps_raiseCause fun _ =>
    .ite (.bind keeps_background fun _ => .bind keeps_block fun _ => keeps_modQ) keeps_modQ

theorem keeps_runStrm {e op n ra rb ds} : Keeps State.Inv (runStrm e op n ra rb ds) := by
  unfold runStrm
  split
  · exact keeps_runSopen
  · exact keeps_runSopen
  · exact keeps_runSclose
  · exact .bind keeps_background fun _ => .bind keeps_meM fun _ => keeps_setResult
  · exact .bind keeps_background fun _ => .bind keeps_meM fun _ => keeps_setResult
  · exact keeps_runSwait
  · exact keeps_runSskip
  · exact keeps_runSdrain
  · exact keeps_runSrewind
  · exact keeps_runSpref
  · exact keeps_runSgather
  · exact keeps_runSldx

theorem keeps_awaitHead {α : Type} {e n consume} : Keeps State.Inv (awaitHead e n consume : M α) :=
  .getBind fun _ hs => .bind (.set (inv_updMe _ _ hs)) fun _ => keeps_block

theorem keeps_headValue {e n i consume} : Keeps State.Inv (headValue e n i consume) := by
  unfold headValue
  refine .bind keeps_getQ fun _ => .when keeps_background fun _ => .bind keeps_getQ fun _ => ?_
  split
  · exact keeps_block
  · split
    · refine .bind keeps_meM fun _ => ?_
      split
      · exact .raise
      · exact keeps_awaitHead
    · split
      · exact .pure
      · exact .getBind fun _ hs => .when keeps_block fun _ => .ite (.ite (.bind keeps_modQ fun _ =>
          .pure) keeps_awaitHead) .pure

theorem keeps_commitTake {n consume} : Keeps State.Inv (commitTake n consume) := by
  unfold commitTake
  refine .bind keeps_getQ fun _ => ?_
  split
  · exact .pure
  · refine .ite ?_ keeps_modQ
    split
    · exact .bind (.modify fun _ hs => inv_foldl hs fun _ _ hs => inv_emptyGranule hs) fun _ => keeps_modQ
    · exact keeps_modQ

theorem keeps_startTakes {e n p0 consume} : Keeps State.Inv (startTakes e n p0 consume) := by
  unfold startTakes
  refine .bind keeps_meM fun _ => .ite (.ite .updMeM .pure) (.ite (.bind keeps_background fun _ =>
    .bind keeps_raiseCause fun _ => .bind keeps_meM fun _ => .ite ?_ (.ite .updMeM .pure)) .pure)
  split
  · exact .bind .raise fun _ => .ite .updMeM .pure
  · exact .ite (.bind keeps_awaitHead fun _ => .ite .updMeM .pure) (.ite .updMeM .pure)

theorem keeps_runVqsrc {e op peek n f} : Keeps State.Inv (runVqsrc e op peek n f) := by
  unfold runVqsrc
  refine .bind keeps_vctxM fun _ => .bind keeps_meM fun _ => .when keeps_vCtx_ill fun _ =>
    .bind keeps_vCtx_groups fun ⟨_, _⟩ => .when keeps_vCtx_ill fun _ => .bind keeps_startIndex fun _ => ?_
  extract_lets -underBinder +onlyGivenNames consume rest
  have hrest : ∀ r, Keeps State.Inv (rest r) := by
    refine fun _ => .bind keeps_meM fun _ => ?_
    extract_lets -underBinder +onlyGivenNames c d cnt rest
    have hrest : ∀ r, Keeps State.Inv (rest r) := fun _ => keeps_vstart0
    refine .ite (.bind keeps_beginAt fun _ => .bind (.forRange fun _ => .bind keeps_headValue fun _ => ?_) fun _ =>
      .bind keeps_tailFrom hrest) (hrest ())
    extract_lets -underBinder +onlyGivenNames rest
    have hrest : ∀ r, Keeps State.Inv (rest r) := fun _ => .bind keeps_commitTake fun _ => .bind .updMeM fun _ => keeps_reach
    refine .ite (.bind keeps_getQ fun _ => ?_) (.when keeps_vCtx_put fun _ => .bind keeps_setExc hrest)
    extract_lets -underBinder +onlyGivenNames rest
    have hrest : ∀ r, Keeps State.Inv (rest r) := by
      refine fun _ => ?_
      unfold rest
      extract_lets rest
      have hrest : ∀ r, Keeps State.Inv (rest r) := fun _ => .bind keeps_vCtx_put fun _ => .bind keeps_record fun _ =>
        .bind keeps_setExc hrest
      split
      · exact .bind keeps_vCtx_get fun _ => .bind .pure hrest
      · exact .bind keeps_vCtx_get fun _ => .bind keeps_fpElem hrest
      · exact .bind .pure hrest
    split
    · exact .bind keeps_crossDies hrest
    · exact hrest ()
  exact .ite (.bind keeps_startTakes fun _ => .bind .updMeM hrest) (hrest ())

theorem keeps_enqueue {c g n i} : Keeps State.Inv (enqueue c g n i) := by
  unfold enqueue
  refine .bind keeps_getQ fun _ => ?_
  split
  · exact .pure
  · refine .when .raise fun _ => .when keeps_background fun _ => .bind keeps_getQ fun _ => .when keeps_block fun _ =>
      .bind keeps_vCtx_get fun _ => ?_
    split
    · exact .bind keeps_crossDies fun _ => keeps_modQ
    · exact keeps_modQ

theorem keeps_runVenq {e n f} : Keeps State.Inv (runVenq e n f) :=
  .bind keeps_vctxM fun _ => .bind keeps_meM fun _ => .when keeps_vCtx_ill fun _ => .bind keeps_vCtx_groups fun ⟨_, _⟩ =>
    .bind keeps_startIndex fun _ => .when keeps_vCtx_ill fun _ => .bind keeps_raiseCause fun _ =>
    .ite (.bind keeps_beginAt fun _ => .bind (.forRange fun _ => .when keeps_enqueue fun _ => keeps_reach) fun _ =>
    .bind keeps_background fun _ => keeps_vstart0) keeps_vstart0

/-! ### `Machine/LinkRun` -/

theorem keeps_linkFault {α : Type} {status operand info3} : Keeps State.Inv (linkFault status operand info3 : M α) :=
  .raiseEnd

theorem keeps_linkNamed {e x} : Keeps State.Inv (linkNamed e x) :=
  .when keeps_illEntry fun _ => .pure

theorem keeps_getLink {l} : Keeps State.Inv (getLink l) :=
  .getBind fun _ _ => .pure

theorem keeps_modLink {l} {f : Link → Link} : Keeps State.Inv (modLink l f) :=
  .modify fun _ hs => inv_setLink hs

theorem keeps_hasBegun {e} : Keeps State.Inv (hasBegun e) :=
  .bind keeps_meM fun _ => .pure

theorem keeps_markBegun {e} : Keeps State.Inv (markBegun e) :=
  .updMeM

theorem keeps_runLturn {e} : Keeps State.Inv (runLturn e) :=
  .bind keeps_linkNamed fun _ => .when keeps_illEntry fun _ => .bind (.modify fun _ hs => inv_beginDue hs) fun _ =>
    .getBind fun _ _ => .bind keeps_modLink fun _ => keeps_setResult

theorem keeps_runLwait {e} : Keeps State.Inv (runLwait e) := by
  unfold runLwait
  refine .when keeps_illEntry fun _ => .bind keeps_meM fun _ => .bind keeps_getLink fun _ => ?_
  split
  · refine .ite keeps_setResult ?_
    split
    · exact keeps_setResult
    · exact .bind keeps_beginAt fun _ => keeps_block
  · exact keeps_setResult

theorem keeps_runLstat {e} : Keeps State.Inv (runLstat e) :=
  .when keeps_illEntry fun _ => .bind keeps_getLink fun _ => .getBind fun _ _ =>
    .ite keeps_setResult (.ite keeps_setResult (.ite keeps_setResult keeps_setResult))

theorem keeps_runLpause {e} : Keeps State.Inv (runLpause e) :=
  .bind keeps_linkNamed fun _ => .bind keeps_getLink fun _ => .when keeps_linkFault fun _ => .bind keeps_hasBegun fun _ =>
    .ite .pure (.bind keeps_beginAt fun _ => .ite (.bind (.modify fun _ hs => inv_beginDue hs) fun _ =>
    .bind keeps_modLink fun _ => .when keeps_markBegun fun _ => keeps_block) (.when keeps_markBegun fun _ => keeps_block))

theorem keeps_runLresume {e} : Keeps State.Inv (runLresume e) := by
  unfold runLresume
  refine .bind keeps_linkNamed fun _ => .bind keeps_getLink fun _ => .ite .pure ?_
  extract_lets -underBinder +onlyGivenNames rest
  have hrest : ∀ r, Keeps State.Inv (rest r) := fun _ => .when keeps_linkFault fun _ => .modify fun _ hs => inv_resumeLink hs
  exact .ite (.bind keeps_beginAt fun _ => .bind keeps_block hrest) (hrest ())

theorem keeps_runLremap {e} : Keeps State.Inv (runLremap e) :=
  .bind keeps_linkNamed fun _ => .when keeps_illEntry fun _ => .bind keeps_getLink fun _ => .when keeps_linkFault fun _ =>
    .when keeps_linkFault fun _ => keeps_modLink

theorem keeps_runLtrain {e} : Keeps State.Inv (runLtrain e) := by
  unfold runLtrain
  refine .bind keeps_linkNamed fun _ => .when keeps_illEntry fun _ => .getBind fun _ hs => ?_
  extract_lets -underBinder +onlyGivenNames k me rest
  have hrest : ∀ r, Keeps State.Inv (rest r) := by
    refine fun _ => ?_
    unfold rest
    split
    · exact .bind keeps_modLink fun _ => .ite keeps_linkFault .pure
    · exact .when keeps_linkFault fun _ => .ite keeps_modLink (.bind keeps_modLink fun _ => .bind keeps_beginAt fun _ =>
        keeps_block)
  exact .ite (.bind keeps_beginAt fun _ => .bind keeps_block hrest) (hrest ())

theorem keeps_runLink {e op} : Keeps State.Inv (runLink e op) := by
  unfold runLink
  split
  · exact keeps_runLturn
  · exact keeps_runLstat
  · exact keeps_runLpause
  · exact keeps_runLresume
  · exact keeps_runLremap
  · exact keeps_runLtrain
  · exact keeps_runLwait

theorem inv_resend {l toB} {s : State} (hs : s.Inv) : (resend l toB s).Inv := by
  unfold resend
  refine .ite hs ?_
  split
  · exact inv_noteFlit ((inv_nextFree hs).of_eq ‹_›)

theorem inv_flitReplay {l g lane again} {s : State} (hs : s.Inv) : (flitReplay l g lane again s).Inv :=
  .ite hs (.ite (inv_setLink hs) (.ite (inv_fatalFreeze (inv_setLink (inv_beginDue hs))) (inv_resend (inv_setLink
    (inv_beginDue hs)))))

/-! ### `Machine/LoadStore` -/

theorem outInv_memInstr {regs kinds m} {s : State} (hm : Keeps State.Inv m) (hs : s.Inv) : OutInv (memInstr regs kinds m s) :=
  .ite (outInv_next hs) (outInv_scalarRun hm hs)

theorem outInv_loadOp {rd ra off n} {ext : Nat → Word} {s : State} (hs : s.Inv) : OutInv (loadOp rd ra off n ext s) :=
  outInv_memInstr (.bind keeps_meM fun _ => .bind keeps_alignCheck fun _ => .bind keeps_memRead fun _ => .updMeM) hs

theorem outInv_storeOp {rd ra off n} {s : State} (hs : s.Inv) : OutInv (storeOp rd ra off n s) :=
  outInv_memInstr (.bind keeps_meM fun _ => .bind keeps_alignCheck fun _ => keeps_memWrite) hs

theorem keeps_rmwBody {rd ra rb n} {f : Nat → Nat → Nat → Option Nat} {writeRd} :
    Keeps State.Inv (rmwBody rd ra rb n f writeRd) := by
  unfold rmwBody
  refine .bind keeps_meM fun _ => .bind keeps_alignCheck fun _ => .getBind fun _ hs => .ite (.bind keeps_memRead fun _ =>
    ?_) (.bind keeps_writeCheck fun _ => .getBind fun _ hs => ?_)
  · extract_lets rest
    have hrest : ∀ r, Keeps State.Inv (rest r) := fun _ => .ite .updMeM .pure
    split
    · exact .bind keeps_memWrite hrest
    · exact hrest ()
  · extract_lets old rest
    have hrest : ∀ r, Keeps State.Inv (rest r) := fun _ => .ite .updMeM .pure
    split
    · exact .bind keeps_watchCheck fun _ => .bind (.modify fun _ hs => inv_setBytes _ _ _ _ hs) hrest
    · exact .bind keeps_passUnused hrest

theorem outInv_rmwOp {rd ra rb w} {f : Nat → Nat → Nat → Nat → Option Nat} {writeRd} {s : State} (hs : s.Inv) :
    OutInv (rmwOp rd ra rb w f writeRd s) :=
  outInv_memInstr keeps_rmwBody hs

theorem outInv_ldaOp {rd ra w} {s : State} (hs : s.Inv) : OutInv (ldaOp rd ra w s) :=
  outInv_memInstr (.bind keeps_meM fun _ => .bind keeps_alignCheck fun _ => .bind keeps_memRead fun _ => .updMeM) hs

/-! ### `Machine/Beacon` -/

theorem inv_setPart {s : State} {t p} (hs : s.Inv) : (State.setPart s t p).Inv :=
  hs.of_mem rfl

theorem inv_updPart {s : State} {t} {f : Partition → Partition} (hs : s.Inv) : (State.updPart s t f).Inv := by
  unfold State.updPart
  split
  · exact inv_setPart hs
  · exact hs

theorem inv_logHeader {s : State} {h} (hs : s.Inv) : (State.logHeader s h).Inv :=
  hs.of_mem rfl

theorem inv_logPacket {s : State} {k} (hs : s.Inv) : (State.logPacket s k).Inv :=
  inv_logHeader hs

theorem inv_releaseTail {t src key} {s : State} (hs : s.Inv) : (releaseTail t src key s).Inv := by
  unfold releaseTail
  split
  · exact hs
  · dsimp only
    split
    · exact inv_noteFlit hs
    · exact inv_updPart (inv_putParts hs)

theorem inv_fabricWrite {t src key va bs last} {s : State} (hs : s.Inv) : PairInv (fabricWrite t src key va bs last s) := by
  unfold fabricWrite
  dsimp only
  split
  · exact (inv_resolveParts hs).of_eq ‹_›
  · exact inv_releaseTail ((inv_resolveParts hs).of_eq ‹_›)
  · exact .mk (.ite (inv_putParts (inv_releaseTail ((inv_resolveParts hs).of_eq ‹_›))) (inv_updPart (inv_putParts
      (inv_releaseTail ((inv_resolveParts hs).of_eq ‹_›)))))

theorem inv_readShared {ag va n rest ahead} {s : State} (hs : s.Inv) : PairInv (readShared ag va n rest ahead s) := by
  unfold readShared
  dsimp only
  split <;> exact (inv_engineRead hs).of_eq ‹_›

theorem inv_fabricRead {t src key va n rest} {s : State} (hs : s.Inv) : PairInv (fabricRead t src key va n rest s) := by
  unfold fabricRead
  dsimp only
  split
  · exact inv_updPart ((inv_readShared hs).of_eq ‹_›)
  · split <;> exact inv_updPart ((inv_readShared hs).of_eq ‹_›)

theorem inv_bump {t cbase idx} {s : State} (hs : s.Inv) : PairInv (bump t cbase idx s) := by
  unfold bump
  refine .ite hs ?_
  dsimp only
  split
  · exact (inv_resolve hs).of_eq ‹_›
  · exact .ite ((inv_resolve hs).of_eq ‹_›) (inv_setBytes _ _ _ _ ((inv_resolve hs).of_eq ‹_›))

theorem inv_fabComplete {t key o} {s : State} (hs : s.Inv) : (fabComplete t key o s).Inv := by
  unfold fabComplete
  split
  · exact hs
  · split
    next s e =>
    have hs : s.Inv := PairInv.of_eq (.ite (inv_bump hs) (.mk hs)) e
    exact inv_updPart hs

theorem inv_fabResponse {t p k} {s : State} (hs : s.Inv) : (fabResponse t p k s).Inv := by
  unfold fabResponse
  split
  · exact hs
  · refine .ite ?_ (inv_fabComplete (inv_releaseTail hs))
    extract_lets -underBinder +onlyGivenNames remote
    split
    next s e =>
    have hs : s.Inv := PairInv.of_eq (.ite (.mk (inv_releaseTail hs)) (inv_fabricWrite hs)) e
    exact .ite (inv_fabComplete hs) (inv_updPart hs)

theorem inv_targetCount {t p k f} {s : State} (hs : s.Inv) : PairInv (targetCount t p k f s) := by
  unfold targetCount
  split
  · exact hs
  · split <;> exact (inv_bump hs).of_eq ‹_›

theorem inv_fabPut {t p k} {s : State} (hs : s.Inv) : (fabPut t p k s).Inv := by
  unfold fabPut
  extract_lets -underBinder +onlyGivenNames tail
  split
  next s e =>
  have hs : s.Inv := PairInv.of_eq (.ite (.mk (inv_releaseTail hs)) (inv_fabricWrite hs)) e
  refine .ite (inv_updPart hs) ?_
  split
  · exact inv_updPart ((inv_targetCount hs).of_eq ‹_›)

theorem inv_fabGet {t p k} {s : State} (hs : s.Inv) : (fabGet t p k s).Inv := by
  unfold fabGet
  extract_lets -underBinder +onlyGivenNames len size
  split
  next s e =>
  have hs : s.Inv := PairInv.of_eq (.ite (.mk hs) (inv_fabricRead hs)) e
  extract_lets -underBinder +onlyGivenNames f last
  split
  next s e =>
  have hs : s.Inv := PairInv.of_eq (.ite (inv_targetCount hs) (.mk hs)) e
  exact inv_updPart hs

theorem inv_fabAtom {t p k} {s : State} (hs : s.Inv) : (fabAtom t p k s).Inv := by
  unfold fabAtom
  extract_lets -underBinder +onlyGivenNames n v b d ag
  split
  next s e =>
  have hs : s.Inv := by
    refine PairInv.of_eq (.ite (.mk hs) ?_) e
    split <;> exact .mk ((inv_resolve hs).of_eq ‹_›)
  split
  · exact inv_updPart hs
  · extract_lets old s'
    split
    next s e =>
    refine inv_updPart (PairInv.of_eq (inv_targetCount ?_) e)
    unfold s'
    split
    · exact inv_putParts hs
    · exact hs

theorem inv_fabFailed {t k} {s : State} (hs : s.Inv) : (fabFailed t k s).Inv :=
  inv_updPart hs

theorem inv_fabAhead {t k} {s : State} (hs : s.Inv) : (fabAhead t k s).Inv :=
  inv_updPart hs

theorem inv_deliver {t p k} {s : State} (hs : s.Inv) : (deliver t p k s).Inv := by
  unfold deliver
  split
  · exact .ite (inv_fabPut hs) (.ite (inv_fabFailed hs) (inv_fabAhead hs))
  · exact inv_fabPut hs
  · exact inv_fabGet hs
  · exact inv_fabAtom hs
  · exact inv_fabResponse hs
  · exact inv_fabResponse hs
  · exact inv_fabResponse hs
  · exact hs

theorem inv_serveLocal {t key} {s : State} (hs : s.Inv) : (serveLocal t key s).Inv := by
  unfold serveLocal
  split
  · exact hs
  · split
    · exact hs
    · exact inv_deliver (inv_updPart hs)

theorem inv_routeOne {t key} {s : State} (hs : s.Inv) : (routeOne t key s).Inv := by
  unfold routeOne
  split
  · exact hs
  · split
    · exact hs
    · exact .ite hs (.ite (inv_attempts (fun _ hs => inv_serveLocal hs) hs) (inv_updPart (hs.of_mem rfl)))

theorem inv_finishService {t limit a2} {s : State} (hs : s.Inv) : (finishService t limit a2 s).Inv := by
  induction a2 generalizing s with
  | zero => exact hs
  | succ a2 ih =>
    rw [finishService]
    split
    · exact hs
    · exact .ite (ih (inv_serveLocal hs)) hs

theorem inv_pumpFabric {a0} {s : State} (hs : s.Inv) : (pumpFabric a0 s).Inv := by
  induction a0 generalizing s with
  | zero => exact hs
  | succ a0 ih =>
    rw [pumpFabric]
    refine .ite hs (ih (inv_foldl hs fun _ _ hs => ?_))
    split
    · exact inv_foldl hs fun _ _ hs => inv_routeOne hs

theorem inv_markRecord {s : State} {pa bad} (hs : s.Inv) : (State.markRecord s pa bad).Inv :=
  hs.of_mem rfl

theorem inv_writePkts {p sect a2 a3} {s : State} (hs : s.Inv) : PairInv (writePkts p sect a2 a3 s) := by
  induction a2 generalizing a3 s with
  | nil => exact .mk hs
  | cons _ _ ih =>
    rw [writePkts]
    split
    · exact ih (inv_markRecord (inv_setBytes _ _ _ _ hs))

theorem inv_putLate {t} {s : State} (hs : s.Inv) : (putLate t s).Inv := by
  unfold putLate
  split
  · exact hs
  · split
    · exact inv_noteFlit hs
    · extract_lets -underBinder +onlyGivenNames s lateOff
      split
      · exact inv_setBytes _ _ _ _ (inv_setBytes _ _ _ _ (inv_setBytes _ _ _ _ (inv_setBytes _ _ _ _ ((inv_writePkts
          (inv_setPart hs)).of_eq ‹_›))))

theorem inv_writeLate {t} {s : State} (hs : s.Inv) : (writeLate t s).Inv := by
  unfold writeLate
  split
  · exact (inv_attempt (fun _ hs => .mk (inv_putLate hs)) hs).of_eq ‹_›
  · exact inv_updPart ((inv_attempt (fun _ hs => .mk (inv_putLate hs)) hs).of_eq ‹_›)

theorem inv_packetArrives {typ port k} {s : State} (hs : s.Inv) : (packetArrives typ port k s).Inv := by
  unfold packetArrives
  refine .ite (inv_logPacket hs) ?_
  split
  · exact inv_logPacket hs
  · exact .ite (.ite (inv_setPart hs) hs) (.ite (.ite (.ite (inv_writeLate (inv_setPart hs)) (inv_setPart hs)) (inv_logPacket
      hs)) (.ite (inv_setPart hs) hs))

theorem inv_packetUpset {t key} {s : State} (hs : s.Inv) : (packetUpset t key s).Inv :=
  inv_updPart hs

theorem inv_portUp {port} {s : State} (hs : s.Inv) : (portUp port s).Inv :=
  .ite hs (hs.of_mem rfl)

theorem inv_beaconFlitReplay {port again} {s : State} (hs : s.Inv) : (beaconFlitReplay port again s).Inv := by
  unfold beaconFlitReplay
  refine .ite hs (.ite (hs.of_mem rfl) (State.Inv.of_mem ?_ rfl))
  exact hs.of_mem rfl

theorem keeps_fabFault {α : Type} {status ctl va reason} : Keeps State.Inv (fabFault status ctl va reason : M α) :=
  .raiseEnd

theorem keeps_myPart : Keeps State.Inv (myPart) :=
  .getBind fun _ _ => .pure

theorem keeps_modPart {f : Partition → Partition} : Keeps State.Inv (modPart f) :=
  .modify fun _ hs => inv_updPart hs

theorem keeps_checkRange {ag k base a3} : Keeps State.Inv (checkRange ag k base a3) := by
  induction a3 with
  | nil => exact .pure
  | cons _ _ ih =>
    unfold checkRange
    refine .getBind fun _ hs => ?_
    split
    · exact .bind (.set ((inv_resolve hs).of_eq ‹_›)) fun _ => ih
    · exact .bind (.set ((inv_resolve hs).of_eq ‹_›)) fun _ => keeps_block
    · exact .bind (.set ((inv_resolve hs).of_eq ‹_›)) fun _ => .raiseEnd

theorem keeps_fabChecks {e r} : Keeps State.Inv (fabChecks e r) := by
  unfold fabChecks
  refine .getBind fun _ hs => ?_
  split
  · exact keeps_fabFault
  · exact .when keeps_fabFault fun _ => .when .raiseEnd fun _ => .when keeps_fabFault fun _ =>
      .ite (.bind keeps_unbegin fun _ => .bind .raise fun _ => .ite keeps_checkRange .pure) (.ite keeps_checkRange .pure)

theorem keeps_fabPayload {e r exp j ahead} : Keeps State.Inv (fabPayload e r exp j ahead) := by
  unfold fabPayload
  extract_lets -underBinder +onlyGivenNames bytes
  split
  · refine .getBind fun _ hs => ?_
    split
    · exact .bind (.set ((inv_readShared hs).of_eq ‹_›)) fun _ => .pure
    · exact .bind (.set ((inv_readShared hs).of_eq ‹_›)) fun _ => keeps_block
    · exact .bind (.set ((inv_readShared hs).of_eq ‹_›)) fun _ => .raise
  · exact .pure
  · exact .pure
  · exact .pure

theorem keeps_fabSlot {e r j} : Keeps State.Inv (fabSlot e r j) := by
  unfold fabSlot
  refine .getBind fun _ hs => ?_
  extract_lets mine
  split
  · exact .pure
  · split
    · exact keeps_block
    · exact .pure

theorem keeps_inject {e r exp count a4 a5} : Keeps State.Inv (inject e r exp count a4 a5) := by
  induction a4 generalizing a5 with
  | zero => exact .pure
  | succ a4 ih =>
    unfold inject
    refine .bind keeps_meM fun _ => .bind keeps_myPart fun _ => ?_
    split
    · exact keeps_block
    · exact .when keeps_block fun _ => .bind keeps_fabSlot fun ⟨_, _⟩ => .bind keeps_fabPayload fun ⟨_, _⟩ =>
        .when keeps_block fun _ => .bind keeps_modPart fun _ => .bind (.modify fun _ hs => inv_pumpFabric hs) fun _ =>
        .bind keeps_reach fun _ => ih

theorem keeps_runFabric {e r exp} : Keeps State.Inv (runFabric e r exp) := by
  unfold runFabric
  refine .bind keeps_startIndex fun _ => .bind keeps_hasBegun fun _ => ?_
  extract_lets -underBinder +onlyGivenNames rest
  have hrest : ∀ r, Keeps State.Inv (rest r) := fun _ => .bind keeps_beginAt fun _ => .getBind fun _ hs =>
    .when keeps_block fun _ => keeps_inject
  exact .ite (.bind keeps_fabChecks fun _ => .bind keeps_markBegun hrest) (hrest ())

theorem keeps_awaitAtom {e r} : Keeps State.Inv (awaitAtom e r) := by
  unfold awaitAtom
  refine .getBind fun _ hs => ?_
  split
  · exact keeps_block
  · exact .when keeps_block fun _ => .bind keeps_modPart fun _ => .bind keeps_vstart0 fun _ => .when keeps_fabFault fun _ =>
      keeps_setResult

theorem keeps_readCounter {e p idx} : Keeps State.Inv (readCounter e p idx) :=
  .getBind fun _ _ => keeps_accM fun _ hs => inv_loadVirt hs

theorem keeps_runBwait {e} : Keeps State.Inv (runBwait e) := by
  unfold runBwait
  refine .when keeps_illEntry fun _ => .bind keeps_myPart fun _ => ?_
  split
  · exact keeps_fabFault
  · exact .bind keeps_readCounter fun _ => .ite (.bind keeps_beginAt fun _ => .bind keeps_block fun _ =>
      keeps_setResult) keeps_setResult

theorem keeps_runBpoll {e} : Keeps State.Inv (runBpoll e) := by
  unfold runBpoll
  refine .when keeps_illEntry fun _ => .bind keeps_myPart fun _ => ?_
  split
  · exact keeps_fabFault
  · exact .bind keeps_readCounter fun _ => keeps_setResult

theorem keeps_runBfence {e} : Keeps State.Inv (runBfence e) := by
  unfold runBfence
  refine .getBind fun _ hs => ?_
  extract_lets rest
  have hrest : ∀ r, Keeps State.Inv (rest r) := by
    refine fun _ => ?_
    unfold rest
    split
    · exact .pure
    · split
      · exact .pure
      · exact .bind keeps_modPart fun _ => keeps_fabFault
  exact .ite (.bind keeps_beginAt fun _ => .bind keeps_block hrest) (hrest ())

theorem keeps_runBstat {e} : Keeps State.Inv (runBstat e) := by
  unfold runBstat
  refine .when keeps_illEntry fun _ => .getBind fun _ hs => ?_
  split
  · exact keeps_setResult
  · exact .ite keeps_setResult (.ite keeps_setResult (.ite (.bind keeps_modPart fun _ => keeps_setResult) keeps_setResult))

theorem keeps_runBlport {e} : Keeps State.Inv (runBlport e) := by
  unfold runBlport
  refine .when keeps_illEntry fun _ => .getBind fun _ hs => ?_
  split <;> exact keeps_setResult

theorem keeps_runBeacon {e op} : Keeps State.Inv (runBeacon e op) := by
  unfold runBeacon
  split
  · exact .bind keeps_runFabric fun _ => keeps_vstart0
  · exact .bind keeps_runFabric fun _ => keeps_vstart0
  · exact .bind keeps_runFabric fun _ => keeps_vstart0
  · exact .bind keeps_runFabric fun _ => keeps_awaitAtom
  · exact keeps_runBwait
  · exact keeps_runBpoll
  · exact keeps_runBfence
  · exact keeps_runBstat
  · exact keeps_runBlport

/-! ### `Machine/Copy` -/

theorem keeps_modProg {c} {f : CopyProg → CopyProg} : CKeeps (modProg c f) :=
  .modify fun _ hs => inv_updHart _ _ _ hs

theorem keeps_touch {c va n} : CKeeps (touch c va n) :=
  .getBind fun _ _ => .ite keeps_modProg .pure

theorem keeps_copyFail {α : Type} {d unit status detail} : CKeeps (copyFail d unit status detail : CM α) :=
  .throw

theorem keeps_copyPost {α : Type} {c pos r} : CKeeps (copyPost c pos r : CM α) := by
  unfold copyPost
  refine .getBind fun _ hs => ?_
  extract_lets hold
  have hhold : ∀ r, CKeeps (hold r) := fun _ => keeps_modProg
  split
  · exact .bind (.set ((inv_heldReq_post hs).of_eq ‹_›)) fun _ => .bind (hhold _) fun _ => .throw
  · exact .bind (.set ((inv_heldReq_post hs).of_eq ‹_›)) fun _ => .throw
  · exact .bind (.set ((inv_heldReq_post hs).of_eq ‹_›)) fun _ => .bind (hhold _) fun _ => .throw

theorem keeps_copyHold {α : Type} {c d kind va unit e} : CKeeps (copyHold c d kind va unit e : CM α) :=
  .getBind fun _ _ => .when .throw fun _ => keeps_copyPost

theorem keeps_copyReadMem {c d va n} {unitAt : Word → Nat} : CKeeps (copyReadMem c d va n unitAt) := by
  unfold copyReadMem
  refine .bind keeps_touch fun _ => .getBind fun _ hs => .when .throw fun _ => ?_
  split
  · exact .bind (.set ((inv_engineRead hs).of_eq ‹_›)) fun _ => .pure
  · exact .bind (.set ((inv_engineRead hs).of_eq ‹_›)) fun _ => .throw
  · exact .bind (.set ((inv_engineRead hs).of_eq ‹_›)) fun _ => keeps_copyHold

theorem keeps_copyWriteMem {c d va n v} {unitAt : Word → Nat} : CKeeps (copyWriteMem c d va n v unitAt) := by
  unfold copyWriteMem
  refine .bind keeps_touch fun _ => .getBind fun _ hs => .when .throw fun _ => ?_
  split
  · exact .set ((inv_engineWrite hs).of_eq ‹_›)
  · exact .bind (.set ((inv_engineWrite hs).of_eq ‹_›)) fun _ => .throw
  · exact .bind (.set ((inv_engineWrite hs).of_eq ‹_›)) fun _ => .throw
  · exact .bind (.set ((inv_engineWrite hs).of_eq ‹_›)) fun _ => keeps_copyHold

theorem keeps_copyRead {c d sp va n} {unitAt : Word → Nat} : CKeeps (copyRead c d sp va n unitAt) :=
  .ite (.getBind fun _ _ => .ite .pure .throw) keeps_copyReadMem

theorem keeps_copyWrite {c d sp va n v} {unitAt : Word → Nat} : CKeeps (copyWrite c d sp va n v unitAt) :=
  .ite (.modify fun _ hs => inv_spWrite hs) keeps_copyWriteMem

theorem keeps_relocRecord {c d i} : CKeeps (relocRecord c d i) :=
  .bind keeps_copyReadMem fun _ => .when keeps_copyFail fun _ => .when keeps_copyFail fun _ =>
    .ite (.branch .pure keeps_copyReadMem fun _ => keeps_copyWriteMem) .pure

theorem keeps_expandBlock {c d k u} : CKeeps (expandBlock c d k u) := by
  unfold expandBlock
  refine .bind keeps_copyReadMem fun _ => ?_
  extract_lets data
  have hdata : ∀ a b, CKeeps (data a b) := fun _ _ => keeps_copyReadMem
  split
  · exact keeps_copyFail
  · exact .pure
  · exact hdata _ _
  · refine .bind (hdata _ _) fun _ => ?_
    split
    · exact keeps_copyFail
    · exact .pure

theorem keeps_relocFrom {c d i a3} : CKeeps (relocFrom c d i a3) := by
  induction a3 generalizing i with
  | zero => exact .pure
  | succ a3 ih =>
    unfold relocFrom
    exact .bind keeps_relocRecord fun _ => .bind keeps_modProg fun _ => ih

theorem keeps_copyWork {c d u} : CKeeps (copyWork c d u) := by
  unfold copyWork
  extract_lets -underBinder +onlyGivenNames p n eb at' un
  split
  · exact .bind keeps_copyRead fun _ => .bind keeps_copyWrite fun _ => .pure
  · exact .bind keeps_copyWrite fun _ => .pure
  · refine .bind keeps_copyRead fun _ => .getBind fun _ hs => ?_
    split
    · extract_lets -underBinder +onlyGivenNames dn da rest
      have hrest : ∀ r, CKeeps (rest r) := fun _ => .bind keeps_copyWrite fun _ => .bind keeps_modProg fun _ => .pure
      exact .ite (.bind .pure hrest) (.branch (.getBind fun _ hs => .when .throw fun _ => .pure) keeps_copyReadMem fun _ =>
        .bind .pure hrest)
  · exact .bind keeps_copyRead fun _ => .getBind fun _ hs => .when keeps_copyWriteMem fun _ =>
      .bind keeps_copyWriteMem fun _ => .bind keeps_modProg fun _ => .pure
  · exact .bind keeps_expandBlock fun _ => .bind keeps_copyWrite fun _ => .pure
  · exact .bind keeps_copyRead fun _ => .bind keeps_modProg fun _ => .pure
  · exact .bind keeps_copyRead fun _ => .bind keeps_modProg fun _ => .pure
  · exact .bind keeps_relocFrom fun _ => .pure
  · exact .bind keeps_copyReadMem fun _ => .bind keeps_copyWriteMem fun _ => .pure
  · exact .pure
  · exact .pure

theorem inv_copyChunk {h uid pos engine} {s : State} (hs : s.Inv) : (copyChunk h uid pos engine s).Inv := by
  unfold copyChunk
  split
  · exact hs
  · split
    · exact hs
    · refine .ite hs ?_
      extract_lets -underBinder +onlyGivenNames u d put fixed work
      have hfixed : (fixed s).Inv := .ite (inv_updHart _ _ _ hs) hs
      have hwork : CKeeps work := by
        unfold work
        split
        · exact .ite keeps_copyPost keeps_copyWork
        · exact keeps_copyWork
      have hrun := hwork _ hfixed
      split
      · exact inv_updHart _ _ _ (hrun.of_eq ‹_›)
      · exact hs.of_mem rfl
      · exact hrun.of_eq ‹_›
      · exact inv_updHart _ _ _ (hrun.of_eq ‹_›)

theorem inv_copyUpset {h uid pos} {s : State} (hs : s.Inv) : (copyUpset h uid pos s).Inv := by
  unfold copyUpset
  split
  · exact hs
  · split
    · exact hs
    · exact .ite hs (inv_updHart _ _ _ hs)

theorem inv_pumpCopy {h uid n a3} {s : State} (hs : s.Inv) : (pumpCopy h uid n a3 s).Inv := by
  induction a3 generalizing s with
  | zero => exact hs
  | succ a3 ih => exact .ite hs (ih (inv_foldl hs fun _ _ hs => inv_copyChunk hs))

theorem keeps_waitCopies {e} : Keeps State.Inv (waitCopies e) :=
  .bind keeps_meM fun _ => .ite keeps_block .pure

theorem inv_setRegion {s : State} {t i r} (hs : s.Inv) : (State.setRegion s t i r).Inv :=
  inv_setTenant hs

theorem keeps_shadowFault {α : Type} {status detail} : Keeps State.Inv (shadowFault status detail : M α) :=
  .raiseEnd

theorem keeps_regionNamed {e} : Keeps State.Inv (regionNamed e) := by
  unfold regionNamed
  refine .getBind fun _ hs => ?_
  split
  · exact .pure
  · exact keeps_shadowFault

theorem keeps_runCpbl {e} : Keeps State.Inv (runCpbl e) :=
  .bind keeps_waitCopies fun _ => .bind keeps_regionNamed fun ⟨_, _⟩ => .getBind fun _ _ => .when keeps_shadowFault fun _ =>
    .when keeps_shadowFault fun _ => .modify fun _ hs => inv_setRegion hs

theorem keeps_openShadow {e} : Keeps State.Inv (openShadow e) := by
  unfold openShadow
  refine .bind keeps_regionNamed fun ⟨_, _⟩ => .getBind fun _ hs => ?_
  extract_lets rest
  have hrest : ∀ r, Keeps State.Inv (rest r) := fun _ => .modify fun _ hs => inv_setRegion hs
  split
  · exact .ite (.bind keeps_shadowFault hrest) (hrest ())
  · exact hrest ()

theorem keeps_spoil {rs} : Keeps State.Inv (spoil rs) :=
  .modify fun _ hs => inv_setTenant hs

theorem keeps_copyFinish {c prog} : Keeps State.Inv (copyFinish c prog) := by
  unfold copyFinish
  split
  · exact .bind keeps_addSat fun _ => .updMeM
  · exact keeps_setResult
  · exact keeps_setResult
  · exact .pure

theorem keeps_slotWait {op cap} : Keeps State.Inv (slotWait op cap) :=
  .getBind fun _ _ => .ite keeps_block .pure

theorem keeps_copyRestart {e op cap} : Keeps State.Inv (copyRestart e op cap) :=
  .bind keeps_slotWait fun _ => .updMeM

theorem keeps_copyStart {e op spd sps ds} : Keeps State.Inv (copyStart e op spd sps ds) := by
  unfold copyStart
  refine .getBind fun _ hs => .when .raise fun _ => .bind keeps_slotWait fun _ => ?_
  extract_lets -underBinder +onlyGivenNames rest
  have hrest : ∀ r, Keeps State.Inv (rest r) := fun _ => .branch keeps_startIndex .pure fun _ => .when keeps_vstart0 fun _ =>
    .bind keeps_beginAt fun _ => .getBind fun _ hs => .updMeM
  split
  · exact .ite (.when keeps_block fun _ => .bind .updMeM hrest) (hrest ())
  · exact .bind keeps_waitCopies fun _ => .bind keeps_openShadow hrest
  · exact hrest ()

theorem keeps_reportBack {c} : Keeps State.Inv (reportBack c) := by
  unfold reportBack
  refine .getBind fun _ hs => ?_
  extract_lets w
  split
  · exact .bind (.set (inv_noteFlit hs)) fun _ => keeps_block
  · exact .pure

theorem keeps_runCopy {e op spd sps ds} : Keeps State.Inv (runCopy e op spd sps ds) := by
  unfold runCopy
  split
  · exact keeps_waitCopies
  · exact keeps_runCpbl
  · extract_lets -underBinder +onlyGivenNames rest
    have hrest : ∀ r, Keeps State.Inv (rest r) := by
      refine fun _ => .getBind fun _ hs => ?_
      extract_lets -underBinder +onlyGivenNames rest
      have hrest : ∀ r, Keeps State.Inv (rest r) := by
        refine fun _ => .getBind fun _ hs => ?_
        split
        · exact .pure
        · split
          · exact .pure
          · refine .when keeps_block fun _ => .bind keeps_reportBack fun _ => ?_
            split
            · exact .bind keeps_spoil fun _ => .raiseEnd
            · exact keeps_copyFinish
      refine .ite ?_ (hrest ())
      split
      · exact .bind (.set (inv_pumpCopy hs)) hrest
      · exact hrest ()
    refine .ite ?_ (hrest ())
    split
    · exact .bind keeps_copyRestart hrest
    · exact .bind keeps_copyStart hrest

/-! ### `Machine/Storage` -/

theorem inv_setPair {s : State} {h p} (hs : s.Inv) : (State.setPair s h p).Inv :=
  hs.of_mem rfl

theorem inv_pairEvent {s : State} {t h} (hs : s.Inv) : (State.pairEvent s t h).Inv :=
  inv_raiseIrq hs

theorem keeps_prpList {rd : Nat → Nat → M Nat} {k at' n} (hrd : ∀ a n, Keeps State.Inv (rd a n)) :
    Keeps State.Inv (prpList rd k at' n) := by
  induction k generalizing at' n with
  | zero => exact .pure
  | succ k ih => exact .ite .pure (.bind (hrd _ _) fun _ => .ite ih (.bind ih fun _ => .pure))

theorem keeps_sglParts {rd : Nat → Nat → M Nat} {k at' len n} (hrd : ∀ a n, Keeps State.Inv (rd a n)) :
    Keeps State.Inv (sglParts rd k at' len n) := by
  induction k generalizing at' len n with
  | zero => exact .pure
  | succ k ih =>
    exact .ite .pure (.bind (hrd _ _) fun _ => .bind (hrd _ _) fun _ => .bind (hrd _ _) fun _ => .ite ih (.bind ih fun _ =>
      .pure))

theorem keeps_dataParts {rd : Nat → Nat → M Nat} {p e} (hrd : ∀ a n, Keeps State.Inv (rd a n)) :
    Keeps State.Inv (dataParts rd p e) :=
  .ite (.ite .pure (keeps_sglParts hrd)) (.ite .pure (.ite .pure (.bind (keeps_prpList hrd) fun _ => .pure)))

theorem keeps_storFault {α : Type} {status operand slot detail} :
    Keeps State.Inv (storFault status operand slot detail : M α) :=
  .raiseEnd

theorem keeps_checkPair {x selector active} : Keeps State.Inv (checkPair x selector active) := by
  unfold checkPair
  refine .getBind fun _ hs => .when keeps_storFault fun _ => ?_
  split
  · exact keeps_storFault
  · exact .when keeps_storFault fun _ => .when keeps_storFault fun _ => .pure

theorem keeps_storRead {e va n slot} : Keeps State.Inv (storRead e va n slot) := by
  unfold storRead
  refine .getBind fun _ hs => .when keeps_block fun _ => ?_
  split
  · exact .bind (.set ((inv_engineRead hs).of_eq ‹_›)) fun _ => .pure
  · exact .bind (.set ((inv_engineRead hs).of_eq ‹_›)) fun _ => keeps_block
  · exact .bind (.set ((inv_engineRead hs).of_eq ‹_›)) fun _ => .raise

theorem keeps_captureEntries {e h p a3 a4 a5} : Keeps State.Inv (captureEntries e h p a3 a4 a5) := by
  induction a3 generalizing a4 a5 with
  | zero => exact .pure
  | succ a3 ih =>
    unfold captureEntries
    refine .bind keeps_storRead fun _ => ?_
    extract_lets q
    split
    · exact keeps_storFault
    · exact .bind ih fun _ => .pure

theorem keeps_windowRead {e h p slot b n} : Keeps State.Inv (windowRead e h p slot b n) := by
  unfold windowRead
  split
  · exact keeps_storRead
  · exact .pure

theorem keeps_ringTurn {e h p} : Keeps State.Inv (ringTurn e h p) :=
  .getBind fun _ _ => .bind (.modify fun _ hs => inv_setPair hs) fun _ => .ite keeps_block .pure

theorem keeps_generateGuards {e h p slot q} : Keeps State.Inv (generateGuards e h p slot q) := by
  unfold generateGuards
  refine .bind (keeps_dataParts fun _ _ => keeps_windowRead) fun _ => .bind (.forIn fun _ _ => .bind (.mapM fun _ =>
    keeps_windowRead) fun _ => .getBind fun _ hs => ?_) fun _ => .pure
  split
  · exact .bind (.set ((inv_deviceWrite hs).of_eq ‹_›)) fun _ => .pure
  · exact .bind (.set ((inv_deviceWrite hs).of_eq ‹_›)) fun _ => .bind keeps_block fun _ => .pure
  · exact .bind (.set ((inv_deviceWrite hs).of_eq ‹_›)) fun _ => .bind .raise fun _ => .pure

theorem keeps_runNring {e} : Keeps State.Inv (runNring e) :=
  .bind keeps_checkPair fun ⟨_, _⟩ => .bind keeps_ringTurn fun _ => .when keeps_storFault fun _ =>
    .when keeps_storFault fun _ => .bind keeps_captureEntries fun _ => .bind (.forIn fun _ _ =>
    .ite (.bind keeps_generateGuards fun _ => .pure) .pure) fun _ => .modify fun _ hs => hs.of_mem rfl

theorem keeps_runNcqhd {e} : Keeps State.Inv (runNcqhd e) :=
  .bind keeps_checkPair fun ⟨_, _⟩ => .when keeps_storFault fun _ => .when keeps_storFault fun _ => .modify fun _ hs =>
    hs.of_mem rfl

theorem keeps_runNqstat {e} : Keeps State.Inv (runNqstat e) :=
  .bind keeps_checkPair fun ⟨_, _⟩ => .ite (.bind (.modify fun _ hs => inv_setPair hs) fun _ =>
    keeps_setResult) keeps_setResult

theorem keeps_runNcqpoll {e} : Keeps State.Inv (runNcqpoll e) :=
  .bind keeps_checkPair fun ⟨_, _⟩ => .bind keeps_storRead fun _ => .when keeps_block fun _ => keeps_setResult

theorem keeps_runStor {e op} : Keeps State.Inv (runStor e op) := by
  unfold runStor
  split
  · exact keeps_runNring
  · exact keeps_runNcqhd
  · exact keeps_runNqstat
  · exact keeps_runNcqpoll

theorem inv_resolveDrive {ag k a2} {s : State} (hs : s.Inv) : PairInv (resolveDrive ag k a2 s) := by
  induction a2 generalizing s with
  | nil => exact .mk hs
  | cons _ _ ih =>
    rw [resolveDrive]
    split
    · exact inv_noted (.mk ((inv_translate hs).of_eq ‹_›))
    · refine .ite (.mk ((inv_translate hs).of_eq ‹_›)) ?_
      split
      · exact .mk ((inv_resolve hs).of_eq ‹_›)
      · split <;> exact .mk ((ih ((inv_resolve hs).of_eq ‹_›)).of_eq ‹_›)

theorem inv_refuseDrive {h addr write reason} {s : State} (hs : s.Inv) : (refuseDrive h addr write reason s).Inv := by
  unfold refuseDrive
  dsimp only
  split
  · exact .ite (inv_pairEvent (inv_setPair (hs.of_mem rfl))) (hs.of_mem rfl)
  · exact hs.of_mem rfl

theorem inv_driveReq_serve {r} {s : State} (hs : s.Inv) : (DriveReq.serve r s).Inv := by
  unfold DriveReq.serve
  extract_lets -underBinder +onlyGivenNames addr write len a tag h off
  split
  · exact inv_refuseDrive hs
  · refine .ite (inv_refuseDrive hs) ?_
    extract_lets -underBinder +onlyGivenNames va _ ag
    generalize (if write then Acc.store else Acc.load) = k
    split
    · exact (inv_resolveDrive hs).of_eq ‹_›
    · exact inv_refuseDrive ((inv_resolveDrive hs).of_eq ‹_›)
    · refine .ite ?_ (.ite (((inv_resolveDrive hs).of_eq ‹_›).of_mem (by rfl)) ?_)
      · exact (inv_putParts ((inv_resolveDrive hs).of_eq ‹_›)).of_mem (by rfl)
      · split
        · exact ((inv_engineRead ((inv_resolveDrive hs).of_eq ‹_›)).of_eq ‹_›).of_mem (by rfl)
        · exact (inv_engineRead ((inv_resolveDrive hs).of_eq ‹_›)).of_eq ‹_›
        · exact inv_refuseDrive ((inv_engineRead ((inv_resolveDrive hs).of_eq ‹_›)).of_eq ‹_›)

theorem inv_serveInTurn {done a1} {s : State} (hs : s.Inv) : (serveInTurn done a1 s).Inv := by
  induction a1 generalizing done s with
  | nil => exact hs.of_mem rfl
  | cons _ _ ih =>
    rw [serveInTurn]
    refine .ite (ih hs) ?_
    split <;> exact ih ((inv_attempt (fun _ hs => .mk (inv_driveReq_serve hs)) hs).of_eq ‹_›)

theorem inv_driveServe {port rid addr write len data} {s : State} (hs : s.Inv) :
    (driveServe port rid addr write len data s).Inv :=
  inv_serveInTurn hs

theorem inv_zeroPages {ag a1} {s : State} (hs : s.Inv) : PairInv (zeroPages ag a1 s) := by
  induction a1 generalizing s with
  | nil => exact .mk hs
  | cons _ _ ih =>
    rw [zeroPages]
    split
    · exact .mk ((inv_deviceWrite hs).of_eq ‹_›)
    · exact ih ((inv_deviceWrite hs).of_eq ‹_›)

theorem inv_createPair {desc} {s : State} (hs : s.Inv) : PairInv (createPair desc s) := by
  unfold createPair
  refine .ite (.mk hs) (.ite (.mk hs) ?_)
  split
  · exact .mk hs
  · refine .ite (.mk hs) ?_
    dsimp only
    split
    · exact .mk ((inv_zeroPages hs).of_eq ‹_›)
    · split
      · exact .mk ((inv_zeroPages ((inv_zeroPages hs).of_eq ‹_›)).of_eq ‹_›)
      · exact .mk (inv_setPair ((inv_zeroPages ((inv_zeroPages hs).of_eq ‹_›)).of_eq ‹_›))

theorem inv_pairFails {h} {s : State} (hs : s.Inv) : (pairFails h s).Inv := by
  unfold pairFails
  split
  · exact .ite (inv_pairEvent (inv_setPair hs)) hs
  · exact hs

theorem inv_detachDrive {port rid} {s : State} (hs : s.Inv) : (detachDrive port rid s).Inv :=
  inv_foldl (hs.of_mem rfl) fun _ _ hs => inv_pairFails hs

/-! ### `Machine/VMove` -/

theorem keeps_vCtx_blockFor {c d g i b} : Keeps State.Inv (VCtx.blockFor c d g i b) :=
  .bind keeps_vCtx_carry fun _ => keeps_vCtx_getBlock

theorem keeps_runPermBlocks {c op} : Keeps State.Inv (runPermBlocks c op) := by
  unfold runPermBlocks
  refine .bind keeps_vCtx_groups fun ⟨_, _⟩ => ?_
  dsimp -zeta only
  extract_lets -underBinder +onlyGivenNames d n nb s rest
  have hrest : ∀ r, Keeps State.Inv (rest r) := fun _ => keeps_vstart0
  refine .ite (.branch .pure keeps_startIndex fun _ => .bind keeps_beginAt fun _ => ?_) (hrest ())
  extract_lets -underBinder +onlyGivenNames value
  have hvalue : ∀ r, Keeps State.Inv (value r) := by
    refine fun _ => ?_
    unfold value
    extract_lets act zero
    split
    · exact .ite .pure (.ite (.bind keeps_vCtx_blockFor fun _ => .pure) .pure)
    · exact .ite .pure (.ite (.bind keeps_vCtx_blockFor fun _ => .pure) .pure)
    · exact .bind keeps_vCtx_blockFor fun _ => .pure
    · exact .ite (.bind keeps_vCtx_blockFor fun _ => .pure) .pure
  extract_lets -underBinder +onlyGivenNames bs rest
  have hrest : ∀ r, Keeps State.Inv (rest r) := fun _ => .ite (.bind (.forRange fun _ =>
    keeps_vCtx_putBlock) hrest) (hrest ())
  refine .ite (.bind (keeps_collect hvalue) fun _ => .bind (.forM fun _ => keeps_vCtx_putBlock) hrest) (.bind (.forM fun _ =>
    .bind (hvalue _) fun _ => ?_) hrest)
  extract_lets rest
  have hrest : ∀ r, Keeps State.Inv (rest r) := fun _ => keeps_reach
  split
  · exact .bind keeps_vCtx_putBlock hrest
  · exact hrest ()

theorem keeps_compress {c d a act} : Keeps State.Inv (compress c d a act) :=
  .bind (keeps_collect fun _ => .bind keeps_vCtx_getFor fun _ => .pure) fun _ => .bind (.forM fun _ =>
    keeps_vCtx_put) fun _ => .pure

theorem keeps_runVperm {en op f} : Keeps State.Inv (runVperm en op f) := by
  unfold runVperm
  refine .bind keeps_vctxM fun _ => .ite ?_ ?_
  · split
    · exact keeps_runPermBlocks
    · exact keeps_runPermBlocks
    · exact keeps_runPermBlocks
    · exact keeps_runPermBlocks
    · exact keeps_vCtx_ill
  · extract_lets -underBinder +onlyGivenNames w d1 a1 b1 s
    split
    · exact .bind keeps_vCtx_groups fun ⟨_, _⟩ => keeps_wholeLoop fun _ => .ite (.bind keeps_vCtx_getFor fun _ => .pure) .pure
    · exact .bind keeps_vCtx_groups fun ⟨_, _⟩ => keeps_wholeLoop fun _ => .ite (.bind keeps_vCtx_getFor fun _ => .pure) .pure
    · exact .when keeps_vCtx_ill fun _ => .bind keeps_vCtx_groups fun ⟨_, _⟩ => keeps_wholeLoop fun _ =>
        .bind keeps_vCtx_get fun _ => .ite (.bind keeps_vCtx_getFor fun _ => .pure) .pure
    · exact .bind keeps_vCtx_groups fun ⟨_, _⟩ => .ite (.bind keeps_setResult fun _ =>
        keeps_vstart0) (keeps_wholeBody (.bind keeps_compress fun _ => .bind keeps_tailFrom fun _ => keeps_setResult))
    · exact .bind keeps_vCtx_groups fun ⟨_, _⟩ => keeps_wholeLoop fun _ => .bind keeps_vCtx_getFor fun _ => .pure
    · exact .bind keeps_vCtx_groups fun ⟨_, _⟩ => keeps_everyLoop fun _ => keeps_vCtx_get
    · exact .bind keeps_vCtx_groups fun ⟨_, _⟩ => keeps_elemLoop fun _ => .bind keeps_vCtx_get fun _ => .pure
    · exact .bind keeps_vCtx_groups fun ⟨_, _⟩ => keeps_elemLoop fun _ => .pure
    · exact .bind keeps_vCtx_groups fun ⟨_, _⟩ => .bind keeps_beginAt fun _ => .branch .pure keeps_vCtx_get fun _ =>
        .bind keeps_setResult fun _ => keeps_vstart0
    · exact .when keeps_vCtx_ill fun _ => .bind keeps_vCtx_groups fun ⟨_, _⟩ => keeps_everyLoop fun _ => .pure
    · refine .bind keeps_vCtx_groups fun ⟨_, _⟩ => keeps_wholeLoop fun _ => ?_
      split
      · exact .bind keeps_vCtx_getAt fun _ => .pure
      · exact .pure
    · refine .bind keeps_vCtx_groups fun ⟨_, _⟩ => keeps_wholeLoop fun _ => ?_
      split
      · exact .bind keeps_vCtx_getAt fun _ => .pure
      · exact .pure
    · refine .bind keeps_vCtx_groups fun ⟨_, _⟩ => keeps_wholeLoop fun _ => ?_
      split
      · exact .bind keeps_vCtx_getAt fun _ => .pure
      · exact .pure
    · refine .bind keeps_vCtx_groups fun ⟨_, _⟩ => keeps_wholeLoop fun _ => ?_
      split
      · exact .bind keeps_vCtx_getAt fun _ => .pure
      · exact .pure

theorem keeps_unpackElem {c d a L o fw e} : Keeps State.Inv (unpackElem c d a L o fw e) :=
  .branch keeps_vCtx_getFor .pure fun _ => .branch keeps_vCtx_getFor .pure fun _ => .pure

theorem keeps_runVbits {en op f} : Keeps State.Inv (runVbits en op f) := by
  unfold runVbits
  refine .bind keeps_vctxM fun _ => .when keeps_vCtx_ill fun _ => ?_
  beta_reduce
  extract_lets -underBinder +onlyGivenNames d1 a1 b1
  split
  · exact .bind keeps_vCtx_groups fun ⟨_, _⟩ => .when keeps_vCtx_ill fun _ => keeps_wholeLoop fun _ =>
      .bind keeps_unpackElem fun _ => .pure
  · exact .bind keeps_vCtx_groups fun ⟨_, _⟩ => keeps_wholeLoop fun _ => .bind keeps_vCtx_get fun _ =>
      .ite (.bind keeps_vCtx_getAt fun _ => .pure) .pure
  · exact .bind keeps_vCtx_groups fun ⟨_, _⟩ => keeps_elemLoop fun _ => .bind keeps_vCtx_get fun _ =>
      .bind keeps_vCtx_get fun _ => .pure
  · exact .bind keeps_vCtx_groups fun ⟨_, _⟩ => keeps_elemLoop fun _ => .bind keeps_vCtx_get fun _ =>
      .bind keeps_vCtx_get fun _ => .bind keeps_vCtx_get fun _ => .pure
  · exact .bind keeps_vCtx_groups fun ⟨_, _⟩ => keeps_elemLoop fun _ => .bind keeps_vCtx_get fun _ =>
      .bind keeps_vCtx_get fun _ => .bind keeps_vCtx_get fun _ => .pure
  · exact .bind keeps_vCtx_groups fun ⟨_, _⟩ => keeps_elemLoop fun _ => .bind keeps_vCtx_get fun _ => .pure

theorem keeps_elemAddr {c gs op e} : Keeps State.Inv (elemAddr c gs op e) :=
  .branch keeps_vCtx_get .pure fun _ => .pure

theorem keeps_probeLoad {die qsn va n again} : Keeps State.Inv (probeLoad die qsn va n again) := by
  unfold probeLoad
  refine .ite .pure (.getBind fun _ hs => ?_)
  split
  · exact .bind (.set ((inv_resolve hs).of_eq ‹_›)) fun _ => .pure
  · exact .bind (.set ((inv_resolve hs).of_eq ‹_›)) fun _ => keeps_block
  · exact .when (.set ((inv_resolve hs).of_eq ‹_›)) fun _ => .pure

theorem keeps_firstFault {c gs p0 a3} : Keeps State.Inv (firstFault c gs p0 a3) := by
  induction a3 with
  | nil => exact .pure
  | cons _ _ ih =>
    unfold firstFault
    exact .bind keeps_elemAddr fun _ => .bind keeps_probeLoad fun _ => .ite .pure ih

theorem keeps_loadElem {c gs op e} : Keeps State.Inv (loadElem c gs op e) :=
  .bind keeps_elemAddr fun _ => .bind keeps_alignCheck fun _ => .bind keeps_memRead fun _ => .pure

theorem keeps_storeElem {c gs op e} : Keeps State.Inv (storeElem c gs op e) := by
  unfold storeElem
  refine .bind keeps_elemAddr fun _ => .bind keeps_alignCheck fun _ => .bind keeps_vCtx_get fun _ =>
    .ite (.bind keeps_writeCheck fun _ => .bind keeps_watchCheck fun _ => .modify fun _ hs => inv_setByte hs) ?_
  extract_lets rest
  have hrest : ∀ r, Keeps State.Inv (rest r) := fun _ => .ite (.bind keeps_writeCheck fun _ =>
    keeps_watchCheck) keeps_memWrite
  exact .ite (.bind keeps_startIndex fun _ => .getBind fun _ hs => .ite (.bind (.set (hs.of_mem rfl)) fun _ =>
    .bind .pure hrest) (.bind .pure hrest)) (.bind .pure hrest)

theorem keeps_blockBytes {c at' va e a4} : Keeps State.Inv (blockBytes c at' va e a4) := by
  induction a4 generalizing va with
  | zero => exact .pure
  | succ a4 ih =>
    unfold blockBytes
    exact .bind keeps_memRead fun _ => .bind ih fun _ => .pure

theorem keeps_blockChecks {c at' va e a4} : Keeps State.Inv (blockChecks c at' va e a4) := by
  induction a4 generalizing va with
  | zero => exact .pure
  | succ a4 ih =>
    unfold blockChecks
    exact .bind keeps_writeCheck fun _ => .bind ih fun _ => .pure

theorem keeps_storeBlock {c at' va e v n} : Keeps State.Inv (storeBlock c at' va e v n) := by
  unfold storeBlock
  refine .bind keeps_blockChecks fun _ => .bind keeps_meM fun _ => .bind keeps_takePass fun _ => .getBind fun _ hs => ?_
  extract_lets -underBinder +onlyGivenNames hits rest
  have hrest : ∀ r, Keeps State.Inv (rest r) := fun _ => .modify fun _ hs => inv_foldl hs fun _ _ hs => inv_setByte hs
  exact .ite (.bind (.set (inv_foldl hs fun _ _ hs => inv_recordWatch hs)) fun _ => .bind .raise hrest) (hrest ())

theorem keeps_runVmemMx {c op} : Keeps State.Inv (runVmemMx c op) :=
  .bind keeps_vCtx_groups fun ⟨_, _⟩ => .ite (.bind keeps_startIndex fun _ => .bind keeps_beginAt fun _ =>
    .bind (.forRange fun _ => .ite (.ite (.bind keeps_vCtx_getBlock fun _ => .bind keeps_storeBlock fun _ =>
    keeps_reach) (.bind keeps_blockBytes fun _ => .bind keeps_vCtx_putBlock fun _ =>
    keeps_reach)) (.ite (.bind keeps_vCtx_putBlock fun _ => keeps_reach) keeps_reach)) fun _ =>
    .ite (.bind (.forRange fun _ => keeps_vCtx_putBlock) fun _ => keeps_vstart0) keeps_vstart0) keeps_vstart0

theorem keeps_runVmem {en op f} : Keeps State.Inv (runVmem en op f) := by
  unfold runVmem
  refine .bind keeps_vctxM fun _ => .ite ?_ (.when keeps_vCtx_ill fun _ => .bind keeps_vCtx_groups fun ⟨_, _⟩ =>
    .ite (.ite (.bind keeps_startIndex fun _ => .bind keeps_beginAt fun _ => .bind (.forRange fun _ =>
    .when keeps_storeElem fun _ => keeps_reach) fun _ => keeps_vstart0) keeps_vstart0) (.bind keeps_startIndex fun _ => ?_))
  · split
    · exact keeps_runVmemMx
    · exact keeps_runVmemMx
    · exact keeps_vCtx_ill
  · extract_lets n rest
    have hrest : ∀ r, Keeps State.Inv (rest r) := fun _ => keeps_elemLoop fun _ => .bind keeps_loadElem fun _ => .pure
    refine .ite (.bind keeps_firstFault fun _ => ?_) (.bind .pure hrest)
    split
    · exact .ite (.bind .updMeM fun _ => .bind .pure hrest) (.bind .pure hrest)
    · exact .bind .pure hrest

theorem keeps_markGridCell {c row col} : Keeps State.Inv (markGridCell c row col) :=
  .ite keeps_markCell .pure

theorem keeps_readSlice {c d} {read : Nat → Nat → Nat → Nat → M (BitVec 32)} {a3 a4}
    (hread : ∀ a b c d, Keeps State.Inv (read a b c
    d)) :
    Keeps State.Inv (readSlice c d read a3 a4) := by
  induction a3 generalizing a4 with
  | nil => exact .pure
  | cons _ _ ih =>
    unfold readSlice
    extract_lets -underBinder +onlyGivenNames rest
    have hrest : ∀ r, Keeps State.Inv (rest r) := fun _ => .bind ih fun _ => .pure
    split
    · refine .bind ?_ hrest
      extract_lets rest
      have hrest : ∀ r, Keeps State.Inv (rest r) := fun _ => .bind (hread _ _ _ _) fun _ => .pure
      split
      · exact .bind keeps_crossDies hrest
      · exact hrest ()
    · exact .bind .pure hrest

theorem keeps_readForDies {c g} {toDie : Nat → Option Nat} {a3} : Keeps State.Inv (readForDies c g toDie a3) := by
  induction a3 with
  | nil => exact .pure
  | cons _ _ ih =>
    unfold readForDies
    extract_lets rest
    have hrest : ∀ r, Keeps State.Inv (rest r) := fun _ => .bind keeps_vCtx_get fun _ => .bind ih fun _ => .pure
    split
    · exact .bind keeps_crossDies hrest
    · exact hrest ()

theorem keeps_runGslice {en op write f} : Keeps State.Inv (runGslice en op write f) := by
  unfold runGslice
  refine .bind keeps_vctxM fun _ => .when keeps_vCtx_ill fun _ => .bind keeps_vCtx_groups fun ⟨_, _⟩ => .getBind fun _ hs =>
    ?_
  split
  · exact keeps_vCtx_ill
  · refine keeps_wholeBody (.ite (.bind keeps_readForDies fun _ => .bind keeps_meM fun _ => .when keeps_block fun _ =>
      .bind (.forIn fun _ _ => ?_) fun _ => .pure) (.bind (keeps_readSlice fun _ _ _ _ => keeps_readCell) fun _ =>
      .bind (.forRange fun _ => .ite keeps_vCtx_put (.ite keeps_vCtx_put .pure)) fun _ => keeps_tailFrom))
    split
    · exact .bind keeps_writeCellBits fun _ => .bind keeps_markGridCell fun _ => .pure
    · exact .pure

theorem keeps_runGpass {en q} : Keeps State.Inv (runGpass en q) :=
  .bind keeps_waitEarlier fun _ => .getBind fun _ _ => .when .raise fun _ => .when .raise fun _ => .when .raise fun _ =>
    .modify fun _ hs => inv_updHart _ _ _ (inv_updMe _ _ hs)

theorem keeps_writeRegion {md region v} : Keeps State.Inv (writeRegion md region v) :=
  .updMeM

theorem keeps_readMaskBytes {en base j a3} : Keeps State.Inv (readMaskBytes en base j a3) := by
  induction a3 generalizing j with
  | zero => exact .pure
  | succ a3 ih =>
    unfold readMaskBytes
    exact .bind keeps_memRead fun _ => .bind ih fun _ => .pure

theorem keeps_maskTargets {en base pass j a4} : Keeps State.Inv (maskTargets en base pass j a4) := by
  induction a4 generalizing j with
  | zero => exact .pure
  | succ a4 ih =>
    unfold maskTargets
    exact .bind keeps_writeCheck fun _ => .when keeps_watchCheck fun _ => .bind ih fun _ => .pure

theorem keeps_writeMaskBytes {en base pass v n} : Keeps State.Inv (writeMaskBytes en base pass v n) := by
  unfold writeMaskBytes
  refine .bind keeps_maskTargets fun _ => .modify fun _ hs => inv_foldl hs fun _ _ hs => ?_
  split
  · exact inv_setByte hs

theorem keeps_runMask {en op md ma mb} : Keeps State.Inv (runMask en op md ma mb) := by
  unfold runMask
  refine .bind keeps_meM fun _ => ?_
  extract_lets -underBinder +onlyGivenNames vl a
  split
  · exact .ite (.bind keeps_beginAt fun _ => .bind keeps_writeRegion fun _ => keeps_vstart0) keeps_vstart0
  · exact .ite (.bind keeps_beginAt fun _ => .bind keeps_writeRegion fun _ => keeps_vstart0) keeps_vstart0
  · exact .ite (.bind keeps_beginAt fun _ => .bind keeps_writeRegion fun _ => keeps_vstart0) keeps_vstart0
  · exact .bind keeps_setResult fun _ => keeps_vstart0
  · exact .bind keeps_setResult fun _ => keeps_vstart0
  · exact .ite (.bind keeps_beginAt fun _ => .bind keeps_readMaskBytes fun _ => .bind keeps_writeRegion fun _ =>
      keeps_vstart0) keeps_vstart0
  · exact .ite (.bind keeps_beginAt fun _ => .bind keeps_takePass fun _ => .bind keeps_writeMaskBytes fun _ =>
      keeps_vstart0) keeps_vstart0
  · exact .bind keeps_startIndex fun _ => .ite (.bind keeps_beginAt fun _ => .bind keeps_writeRegion fun _ =>
      .bind keeps_reach fun _ => keeps_vstart0) keeps_vstart0

theorem inv_configure {s : State} {h n} (hs : s.Inv) : (configure s h n).Inv :=
  inv_setHart _ _ _ hs

theorem keeps_runVcfg {en n} : Keeps State.Inv (runVcfg en n) :=
  .bind keeps_waitEarlier fun _ => .modify fun _ hs => inv_configure hs

theorem keeps_runVset {en vt} : Keeps State.Inv (runVset en vt) :=
  .bind .updMeM fun _ => keeps_setResult

/-! ### `Machine/Tile` -/

theorem keeps_writeTileCell {core die lane col v} : Keeps State.Inv (writeTileCell core die lane col v) :=
  .modify fun _ hs => inv_setCell hs

theorem keeps_tileOn {e} : Keeps State.Inv (tileOn e) :=
  .bind keeps_meM fun _ => .ite .raiseEnd .pure

theorem keeps_laneRetiredCheck {e} : Keeps State.Inv (laneRetiredCheck e) :=
  .getBind fun _ _ => .ite (.bind .updMeM fun _ => keeps_raiseAt) .pure

theorem keeps_resetShape : Keeps State.Inv (resetShape) :=
  .updMeM

theorem keeps_runTmodeOn {e qmask} : Keeps State.Inv (runTmodeOn e qmask) :=
  .bind keeps_meM fun _ => .when .raise fun _ => .bind keeps_waitEarlier fun _ => .bind .updMeM fun _ => keeps_resetShape

theorem keeps_runTmodeOff {e qmask} : Keeps State.Inv (runTmodeOff e qmask) :=
  .bind keeps_meM fun _ => .when .raise fun _ => .bind .updMeM fun _ => .bind (.modify fun _ hs => inv_configure hs) fun _ =>
    .bind keeps_resetShape fun _ => .updMeM

theorem keeps_setPredicates {rows m n k} : Keeps State.Inv (setPredicates rows m n k) :=
  .bind keeps_writeRegion fun _ => .bind keeps_writeRegion fun _ => keeps_writeRegion

theorem keeps_runTshape {e ds} : Keeps State.Inv (runTshape e ds) :=
  .bind keeps_tileOn fun _ => .getBind fun _ _ => .when .raise fun _ => .bind .updMeM fun _ =>
    .bind keeps_setPredicates fun _ => keeps_vstart0

theorem keeps_runTpred {e ds} : Keeps State.Inv (runTpred e ds) :=
  .bind keeps_tileOn fun _ => .getBind fun _ _ => .bind keeps_setPredicates fun _ => .bind keeps_writeRegion fun _ =>
    keeps_vstart0

theorem keeps_runTsync {e} : Keeps State.Inv (runTsync e) :=
  keeps_tileOn

theorem keeps_runTzero {e acc ds} : Keeps State.Inv (runTzero e acc ds) :=
  .bind keeps_tileOn fun _ => .getBind fun _ _ => .when .raise fun _ => .bind keeps_beginAt fun _ =>
    .bind (.forIn fun _ _ => .ite (.bind (.forIn fun _ _ => .bind keeps_writeTileCell fun _ => .pure) fun _ =>
    .pure) .pure) fun _ => keeps_vstart0

theorem keeps_runTslice {e write col v ds} : Keeps State.Inv (runTslice e write col v ds) := by
  unfold runTslice
  refine .bind keeps_vctxM fun _ => .bind keeps_vCtx_groups fun ⟨_, _⟩ => .when keeps_laneRetiredCheck fun _ =>
    .bind keeps_tileOn fun _ => .when keeps_vCtx_ill fun _ => .getBind fun _ hs => ?_
  extract_lets -underBinder +onlyGivenNames k rows
  split
  · exact keeps_vCtx_ill
  · refine keeps_wholeBody (.ite (.bind keeps_readForDies fun _ => .forRange fun _ =>
      ?_) (.bind (keeps_readSlice fun _ _ _ _ => keeps_readCellEcc) fun _ => .bind (.forRange fun _ =>
      .bind keeps_meM fun _ => .ite keeps_vCtx_put (.ite keeps_vCtx_put .pure)) fun _ => keeps_tailFrom))
    split
    · exact .bind keeps_meM fun _ => .ite keeps_writeTileCell .pure
    · exact .pure

theorem keeps_gangRange {n p k0 js} : Keeps State.Inv (gangRange n p k0 js) := by
  unfold gangRange
  refine .bind keeps_getQ fun _ => ?_
  split
  · exact .raiseEnd
  · exact .pure

theorem keeps_gangMeta {m p i k0 js} : Keeps State.Inv (gangMeta m p i k0 js) := by
  unfold gangMeta
  refine .getBind fun _ hs => ?_
  split
  · exact keeps_block
  · split
    · exact .raiseEnd
    · exact .pure

theorem keeps_gangCell {g core die lane col p} : Keeps State.Inv (gangCell g core die lane col p) := by
  unfold gangCell
  refine .bind (.tryCatch keeps_readCellEcc fun _ => ?_) fun _ => .getBind fun _ hs =>
    .ite (.bind (.set (hs.of_mem rfl)) fun _ => .raiseEnd) .pure
  split
  · exact .raiseEnd
  · exact .throw

theorem keeps_gangCheckRow {g w i row} : Keeps State.Inv (gangCheckRow g w i row) := by
  unfold gangCheckRow
  refine .bind keeps_gangRange fun _ => .when keeps_gangRange fun _ => ?_
  beta_reduce
  extract_lets rest
  have hrest : ∀ r, Keeps State.Inv (rest r) := fun _ => .bind keeps_meM fun _ => .ite (.forM fun _ => keeps_gangCell) .pure
  split
  · exact .bind keeps_gangRange fun _ => .bind keeps_gangMeta hrest
  · exact hrest ()

theorem inv_gangLost {g w mask i row} {s : State} (hs : s.Inv) : (gangLost g w mask i row s).Inv := by
  unfold gangLost
  split
  · refine .ite ?_ hs
    split
    · exact inv_foldl ((inv_nextFree hs).of_eq ‹_›) fun _ _ hs => inv_setCell hs

theorem keeps_gangDie {e g w rows p ts} : Keeps State.Inv (gangDie e g w rows p ts) :=
  .getBind fun _ hs => .bind (.set (inv_foldl (inv_foldl hs fun _ _ hs => inv_setCell hs) fun _ _ hs =>
    inv_gangLost hs)) fun _ => .bind (.forIn fun _ _ => .bind keeps_modQ fun _ => .pure) fun _ => .pure

theorem keeps_gangLoop {e g core rows dies a5 a6} : Keeps State.Inv (gangLoop e g core rows dies a5 a6) := by
  induction a5 generalizing a6 with
  | zero => exact .pure
  | succ a5 ih =>
    unfold gangLoop
    refine .ite (.bind keeps_meM fun _ => .bind (.forM fun _ => keeps_gangCheckRow) fun _ => .getBind fun _ hs => ?_) .pure
    extract_lets rest
    have hrest : ∀ r, Keeps State.Inv (rest r) := fun _ => .bind .updMeM fun _ => .bind keeps_reach fun _ => ih
    split
    · exact .bind keeps_block hrest
    · exact .bind (.forM fun _ => keeps_gangDie) hrest

theorem keeps_runTmul {e g kOp acc ds} : Keeps State.Inv (runTmul e g kOp acc ds) := by
  unfold runTmul
  refine .getBind fun _ hs => ?_
  extract_lets -underBinder +onlyGivenNames x core rest
  have hrest : ∀ r, Keeps State.Inv (rest r) := by
    refine fun _ => .bind keeps_meM fun _ => .bind keeps_reach fun _ => .bind (.tryCatch keeps_gangLoop fun _ => ?_) fun _ =>
      .updMeM
    split
    · exact .bind .updMeM fun _ => .raiseEnd
    · exact .throw
  refine .ite (.bind keeps_tileOn fun _ => ?_) (hrest ())
  extract_lets dies k rest
  have hrest : ∀ r, Keeps State.Inv (rest r) := fun _ => .bind keeps_beginAt fun _ => .bind keeps_vstart0 fun _ =>
    .bind .updMeM hrest
  split
  · exact .bind .raise hrest
  · exact .bind keeps_raiseAt hrest
  · exact hrest ()

/-! ### `Machine/EntryRun` -/

theorem keeps_runOp {e} : Keeps State.Inv (runOp e) := by
  unfold runOp
  split
  · exact keeps_runVint
  · exact keeps_runVfp
  · exact keeps_runVfp64
  · exact keeps_runVspec
  · exact keeps_runVcmp
  · exact keeps_runVcvt
  · exact keeps_runVmxpack
  · exact keeps_runVmxunpack
  · exact keeps_runVamax
  · exact keeps_runVbamax
  · exact keeps_runVscale
  · exact keeps_runVquant
  · exact keeps_runVdequant
  · exact keeps_runVred
  · exact keeps_runVperm
  · exact keeps_runVbits
  · exact keeps_runVcfg
  · exact keeps_runVset
  · exact .updMeM
  · exact keeps_runVmem
  · exact keeps_runGslice
  · exact keeps_runGpass
  · exact keeps_runVqsrc
  · exact keeps_runVenq
  · exact keeps_runMask
  · exact keeps_runTmul
  · exact keeps_runTmul
  · exact keeps_runTmodeOn
  · exact keeps_runTmodeOff
  · exact keeps_runTshape
  · exact keeps_runTzero
  · exact keeps_runTslice
  · exact keeps_runTslice
  · exact keeps_runTpred
  · exact keeps_runTsync
  · exact keeps_runStrm
  · exact keeps_runCopy
  · exact keeps_runStor
  · exact keeps_runLink
  · exact keeps_runBeacon

theorem keeps_runEntryM {e} : Keeps State.Inv (runEntryM e) :=
  .when keeps_waitEarlier fun _ => .when keeps_beginAt fun _ => .when keeps_laneRetiredCheck fun _ => keeps_runOp

theorem inv_releasePass {s : State} {h} (hs : s.Inv) : (State.releasePass s h).Inv := by
  unfold State.releasePass
  refine inv_foldl hs fun _ _ hs => .ite hs (inv_foldl (inv_foldl hs fun _ _ hs => inv_pumpFetch hs) fun _ _ hs => ?_)
  split
  · exact .ite (inv_pumpCopy hs) hs
  · exact hs

theorem inv_releasePasses {h a1} {s : State} (hs : s.Inv) : (State.releasePasses h a1 s).Inv := by
  induction a1 generalizing s with
  | zero => exact hs
  | succ a1 ih => exact .ite hs (ih (inv_releasePass hs))

theorem inv_releaseReads {s : State} {h} (hs : s.Inv) : (State.releaseReads s h).Inv :=
  inv_releasePasses hs

theorem inv_runEntry {h uid} {s : State} (hs : s.Inv) : (runEntry h uid s).Inv := by
  unfold runEntry
  split
  · exact hs
  · refine .ite hs ?_
    split
    · exact inv_noteFlit hs
    · dsimp only
      split
      · refine (inv_updHart _ _ _ (PairInv.of_eq (inv_runM keeps_runEntryM (inv_updHart _ _ _ ?_)) ‹_›)).of_mem (by
          with_reducible rfl)
        exact State.Inv.of_mem (.ite (inv_releaseReads hs) hs) (by with_reducible rfl)
      · refine (inv_updHart _ _ _ (PairInv.of_eq (inv_runM keeps_runEntryM (inv_updHart _ _ _ ?_)) ‹_›)).of_mem (by
          with_reducible rfl)
        exact State.Inv.of_mem (.ite (inv_releaseReads hs) hs) (by with_reducible rfl)
      · refine (inv_updHart _ _ _ (PairInv.of_eq (inv_runM keeps_runEntryM (inv_updHart _ _ _ ?_)) ‹_›)).of_mem (by
          with_reducible rfl)
        exact State.Inv.of_mem (.ite (inv_releaseReads hs) hs) (by with_reducible rfl)
      · refine (inv_updHart _ _ _ (PairInv.of_eq (inv_runM keeps_runEntryM (inv_updHart _ _ _ ?_)) ‹_›)).of_mem (by
          with_reducible rfl)
        exact State.Inv.of_mem (.ite (inv_releaseReads hs) hs) (by with_reducible rfl)

theorem inv_sweepQueue {h uids} {s : State} (hs : s.Inv) : (sweepQueue h uids s).Inv := by
  induction uids generalizing s with
  | nil => exact hs
  | cons _ _ ih =>
    rw [sweepQueue]
    split
    · exact ih (.ite (inv_runEntry hs) hs)
    · exact ih hs

theorem inv_drainQueue {h a1} {s : State} (hs : s.Inv) : (drainQueue h a1 s).Inv := by
  induction a1 generalizing s with
  | zero => exact hs
  | succ a1 ih => exact .ite hs (ih (inv_sweepQueue hs))

theorem inv_drain {h} {s : State} (hs : s.Inv) : (drain h s).Inv :=
  .ite hs (inv_drainQueue hs)

theorem outInv_issue {op word rd ra rb dst regs} {s : State} (hs : s.Inv) : OutInv (issue op word rd ra rb dst regs s) :=
  .ite (outInv_next (inv_trapHere _ _ hs)) (.ite (outInv_next hs) (.ite (outInv_next (inv_updMe _ _ hs)) (outInv_next
    (inv_drain (inv_updMe _ _ hs)))))

/-! ### `Machine/Branch` -/

theorem outInv_branchOp {ra rb off} {cond : Word → Word → Bool} {s : State} (hs : s.Inv) :
    OutInv (branchOp ra rb off cond s) :=
  outInv_scalarRun .updMeM hs

theorem outInv_execLoopv {rc rp np esh off} {s : State} (hs : s.Inv) : OutInv (execLoopv rc rp np esh off s) := by
  unfold execLoopv
  split
  · exact outInv_next hs
  · exact outInv_scalarOp hs

/-! ### `Machine/Fps` -/

theorem outInv_fdivDEffect {rd ra rb} {s : State} (hs : s.Inv) : OutInv (fdivDEffect rd ra rb s) :=
  outInv_fpsOp hs

theorem outInv_fsqrtDEffect {rd ra} {s : State} (hs : s.Inv) : OutInv (fsqrtDEffect rd ra s) :=
  outInv_fpsOp hs

/-! ### `Machine/Sys` -/

theorem outInv_cwOp {regs word cw} {f : Word → Hart → Hart} {s : State} (hs : s.Inv) : OutInv (cwOp regs word cw f s) := by
  unfold cwOp
  split
  · exact outInv_next (inv_trapHere _ _ hs)
  · exact .ite (outInv_next hs) (outInv_scalarOp hs)

theorem keeps_claimFarm {va want vlmax} : Keeps State.Inv (claimFarm va want vlmax) :=
  .when .raise fun _ => .getBind fun _ _ => .ite (.bind keeps_memRead fun _ => .bind keeps_memRead fun _ =>
    .when keeps_memWrite fun _ => .pure) (.bind keeps_writeCheck fun _ => .getBind fun _ _ =>
    .ite (.bind keeps_watchCheck fun _ => .bind (.modify fun _ hs => inv_setBytes _ _ _ _ hs) fun _ =>
    .pure) (.bind keeps_passUnused fun _ => .pure))

theorem keeps_queueVl {n} : Keeps State.Inv (queueVl n) :=
  .bind keeps_meM fun _ => .ite .updMeM .updMeM

theorem outInv_execClaim {rd ra rb _sc _aq _rl} {s : State} (hs : s.Inv) : OutInv (execClaim rd ra rb _sc _aq _rl s) := by
  unfold execClaim
  split
  · exact outInv_next hs
  · exact outInv_memInstr (.bind keeps_meM fun _ => .bind keeps_claimFarm fun ⟨_, _⟩ => .bind .updMeM fun _ =>
      keeps_queueVl) hs

theorem outInv_execTrap {n} {s : State} (hs : s.Inv) : OutInv (execTrap n s) :=
  .ite (outInv_next (inv_updMe _ _ hs)) (outInv_next hs)

theorem outInv_execBrk {n} {s : State} (hs : s.Inv) : OutInv (execBrk n s) :=
  .ite (outInv_next (inv_updMe _ _ hs)) (outInv_next hs)

theorem outInv_execRett {s : State} (hs : s.Inv) : OutInv (execRett s) :=
  .ite (outInv_next (inv_drain (inv_updMe _ _ hs))) (outInv_next hs)

theorem outInv_execYield {s : State} (hs : s.Inv) : OutInv (execYield s) :=
  .ite (outInv_next (inv_updMe _ _ hs)) (outInv_next hs)

theorem inv_closeShadows {h} {s : State} (hs : s.Inv) : (closeShadows h s).Inv :=
  hs.of_mem rfl

theorem inv_haltHart {h} {s : State} (hs : s.Inv) : (haltHart h s).Inv :=
  inv_closeShadows (inv_updHart _ _ _ hs)

theorem outInv_execHalt {s : State} (hs : s.Inv) : OutInv (execHalt s) :=
  .ite (outInv_next hs) (outInv_next (inv_haltHart hs))

theorem keeps_barWait {va g} : Keeps State.Inv (barWait va g) :=
  .bind keeps_memRead fun _ => .when keeps_block fun _ => .updMeM

theorem keeps_barArrive {va n} : Keeps State.Inv (barArrive va n) := by
  unfold barArrive
  refine .bind keeps_alignCheck fun _ => .getBind fun _ hs => ?_
  extract_lets -underBinder +onlyGivenNames rest
  have hrest : ∀ r, Keeps State.Inv (rest r) := fun _ => .ite (.bind keeps_memWrite fun _ =>
    .updMeM) (.bind keeps_memWrite fun _ => .bind .updMeM fun _ => keeps_block)
  exact .ite (.bind keeps_memRead hrest) (.bind keeps_writeCheck fun _ => .getBind fun _ hs => .bind .pure hrest)

theorem outInv_execBar {ra n} {s : State} (hs : s.Inv) : OutInv (execBar ra n s) := by
  unfold execBar
  refine outInv_memInstr (.bind keeps_meM fun _ => ?_) hs
  extract_lets va
  split
  · exact .ite keeps_barWait keeps_barArrive
  · exact keeps_barArrive

theorem outInv_execFence {ps qs sc} {s : State} (hs : s.Inv) : OutInv (execFence ps qs sc s) :=
  .ite (outInv_next (inv_updMe _ _ hs)) (outInv_next hs)

/-! ### `Machine/Vector` -/

theorem outInv_vsetOp {vt ds rd ra regs word} {s : State} (hs : s.Inv) : OutInv (vsetOp vt ds rd ra regs word s) :=
  .ite (outInv_next (inv_trapHere _ _ hs)) (outInv_issue hs)

/-! ### `Machine/Units` -/

theorem outInv_execTmulsp {qc qr sk p acc ds gc} {s : State} (hs : s.Inv) : OutInv (execTmulsp qc qr sk p acc ds gc s) :=
  .ite (outInv_next (inv_trapHere _ _ hs)) (outInv_issue hs)

theorem outInv_issuePriv {op word rd ra rb dst regs} {s : State} (hs : s.Inv) :
    OutInv (issuePriv op word rd ra rb dst regs s) :=
  .ite (outInv_next (inv_trapHere _ _ hs)) (outInv_issue hs)

/-! ### `Machine/HostQueue` -/

theorem inv_setHq {s : State} {q x} (hs : s.Inv) : (State.setHq s q x).Inv :=
  hs.of_mem rfl

theorem inv_updHq {s : State} {q} {f : HostQueue → HostQueue} (hs : s.Inv) : (State.updHq s q f).Inv :=
  inv_setHq hs

theorem inv_complete {c status rest} {s : State} (hs : s.Inv) : (complete c status rest s).Inv :=
  inv_updHq hs

theorem inv_completeWith {c status result} {s : State} (hs : s.Inv) : (completeWith c status result s).Inv :=
  inv_complete hs

theorem inv_answer {w status result} {s : State} (hs : s.Inv) : (answer w status result s).Inv := by
  unfold answer
  split
  · exact inv_completeWith hs
  · exact inv_updHart _ _ _ hs

theorem inv_putCompletion {q} {s : State} (hs : s.Inv) : (putCompletion q s).Inv := by
  unfold putCompletion
  extract_lets -underBinder +onlyGivenNames x
  split
  · exact hs
  · refine .ite hs ?_
    split
    · exact inv_noteFlit hs
    · extract_lets -underBinder +onlyGivenNames dseq v s' above
      have hs' : s'.Inv := inv_setBytes _ _ _ _ hs
      split
      exact .ite ((inv_setHq hs').of_mem (by with_reducible rfl)) (inv_setHq hs')

theorem inv_writeCompletion {q} {s : State} (hs : s.Inv) : (writeCompletion q s).Inv :=
  inv_attempts (fun _ hs => inv_putCompletion hs) hs

theorem inv_readSlot {q} {s : State} (hs : s.Inv) : PairInv (readSlot q s) := by
  unfold readSlot
  refine .ite (.mk hs) ?_
  split
  · exact .mk (inv_noteFlit hs)
  · exact .mk (inv_setHq hs)

theorem inv_readSlots {q a1} {s : State} (hs : s.Inv) : (readSlots q a1 s).Inv := by
  induction a1 generalizing s with
  | zero => exact hs
  | succ a1 ih =>
    rw [readSlots]
    split
    · exact ih ((inv_attempt (fun _ hs => inv_readSlot hs) hs).of_eq ‹_›)
    · exact (inv_attempt (fun _ hs => inv_readSlot hs) hs).of_eq ‹_›

theorem inv_readRing {q} {s : State} (hs : s.Inv) : (readRing q s).Inv :=
  .ite hs (inv_readSlots hs)

theorem inv_sqtailBell {q v} {s : State} (hs : s.Inv) : (sqtailBell q v s).Inv :=
  .ite hs (inv_readRing (inv_setHq hs))

theorem inv_cqheadBell {q v} {s : State} (hs : s.Inv) : (cqheadBell q v s).Inv :=
  .ite hs (inv_setHq hs)

theorem inv_enableWrite {q v} {s : State} (hs : s.Inv) : (enableWrite q v s).Inv :=
  .ite (inv_setHq hs) (.ite (inv_setHq hs) (.ite (inv_setHq hs) (inv_setHq hs)))

theorem inv_queueRegWrite {q off v} {s : State} (hs : s.Inv) : (queueRegWrite q off v s).Inv := by
  unfold queueRegWrite
  dsimp only
  split
  · exact .ite hs (inv_setHq hs)
  · exact .ite hs (inv_setHq hs)
  · exact inv_enableWrite hs
  · exact inv_sqtailBell hs
  · exact inv_cqheadBell hs
  · exact hs

/-! ### `Machine/Save` -/

theorem inv_writeHeader {slot l} {s : State} (hs : s.Inv) : (writeHeader slot l s).Inv := by
  unfold writeHeader
  refine inv_foldl hs fun _ _ hs => ?_
  split
  · exact inv_setBytes _ _ _ _ hs

theorem inv_scrubCells {cells} {s : State} (hs : s.Inv) : (scrubCells cells s).Inv :=
  inv_foldl hs fun _ _ hs => hs.of_mem rfl

theorem inv_writeRecords {slot pa full a3 a4} {s : State} (hs : s.Inv) : PairInv (writeRecords slot pa full a3 a4 s) := by
  induction a3 generalizing a4 s with
  | nil => exact .mk hs
  | cons _ _ ih =>
    rw [writeRecords]
    dsimp only
    split
    · exact .mk (inv_noteFlit hs)
    · exact ih (inv_setBytes _ _ _ _ (.ite (inv_scrubCells (inv_foldl (inv_sent hs) fun _ _ hs =>
        inv_setBytes _ _ _ _ hs)) (inv_sent hs)))

theorem inv_mapOwners {s : State} {t} {f : Nat → Option Nat} (hs : s.Inv) : (State.mapOwners s t f).Inv :=
  inv_setTenant hs

theorem inv_releaseHarts {slot} {s : State} (hs : s.Inv) : (releaseHarts slot s).Inv :=
  inv_foldl hs fun _ _ hs => inv_setHart _ _ _ hs

theorem inv_clearDirty {slot l} {s : State} (hs : s.Inv) : (clearDirty slot l s).Inv :=
  inv_foldl (hs.of_mem rfl) fun _ _ hs => inv_updHart _ _ _ hs

theorem inv_setLaunch {s : State} {slot l} (hs : s.Inv) : (State.setLaunch s slot l).Inv :=
  hs.of_mem rfl

theorem inv_flushVisits {h} {s : State} (hs : s.Inv) : (flushVisits h s).Inv :=
  inv_foldl hs fun _ _ hs => .ite (inv_pumpStores hs) hs

theorem inv_contextSave {slot} {s : State} (hs : s.Inv) : (contextSave slot s).Inv := by
  unfold contextSave
  split
  · exact hs
  · refine .ite hs ?_
    split
    · exact inv_noteFlit hs
    · dsimp only
      split
      · refine .ite (State.Inv.of_mem (.ite (inv_writeHeader (inv_foldl (inv_sent hs) fun _ _ hs =>
          inv_flushVisits hs)) (inv_sent hs)) rfl) (inv_setLaunch (PairInv.of_eq (inv_writeRecords ?_) ‹_›))
        exact State.Inv.of_mem (.ite (inv_writeHeader (inv_foldl (inv_sent hs) fun _ _ hs =>
          inv_flushVisits hs)) (inv_sent hs)) rfl
      · split
        · refine inv_answer (inv_setLaunch (inv_releaseHarts (inv_mapOwners (inv_clearDirty (inv_setBytes _ _ _ _
            (inv_setBytes _ _ _ _ (PairInv.of_eq (inv_writeRecords ?_) ‹_›)))))))
          exact State.Inv.of_mem (.ite (inv_writeHeader (inv_foldl (inv_sent hs) fun _ _ hs =>
            inv_flushVisits hs)) (inv_sent hs)) rfl
        · refine inv_setLaunch (inv_releaseHarts (inv_mapOwners (inv_clearDirty (inv_setBytes _ _ _ _ (inv_setBytes _ _ _ _
            (PairInv.of_eq (inv_writeRecords ?_) ‹_›))))))
          exact State.Inv.of_mem (.ite (inv_writeHeader (inv_foldl (inv_sent hs) fun _ _ hs =>
            inv_flushVisits hs)) (inv_sent hs)) rfl

theorem inv_servedRows {h} {s : State} (hs : s.Inv) : (servedRows h s).Inv :=
  inv_foldl hs fun _ _ hs => inv_updQ hs

theorem inv_restoreGrid {h b} {s : State} (hs : s.Inv) : (restoreGrid h b s).Inv := by
  unfold restoreGrid
  refine inv_foldl hs fun _ _ hs => ?_
  split
  · refine inv_foldl hs fun _ _ hs => ?_
    split
    · exact inv_setCell hs

theorem inv_restoreSp {l g core} {s : State} (hs : s.Inv) : (restoreSp l g core s).Inv := by
  unfold restoreSp
  refine inv_foldl hs fun _ _ hs => ?_
  split
  · exact inv_foldl hs fun _ _ hs => inv_foldl (inv_foldl hs fun _ _ hs => inv_setSpByte hs) fun _ _ hs => inv_setFull hs

theorem inv_restoreHart {slot l r h} {s : State} (hs : s.Inv) : (restoreHart slot l r h s).Inv :=
  inv_restoreGrid (inv_setHart _ _ _ (inv_mapOwners hs))

theorem inv_restartHart {l h} {s : State} (hs : s.Inv) : (restartHart l h s).Inv :=
  inv_updHart _ _ _ hs

theorem inv_markLanes {oldMask h} {s : State} (hs : s.Inv) : (markLanes oldMask h s).Inv :=
  inv_updHart _ _ _ hs

/-! ### `Machine/Launch` -/

theorem inv_readRange {t a1 a2 a3} {s : State} (hs : s.Inv) : PairInv (readRange t a1 a2 a3 s) := by
  induction a1 generalizing a2 a3 s with
  | zero => exact .mk hs
  | succ a1 ih =>
    rw [readRange]
    refine .ite (.mk hs) ?_
    dsimp only
    split
    · exact .mk ((inv_engineRead hs).of_eq ‹_›)
    · split <;> exact .mk ((ih ((inv_engineRead hs).of_eq ‹_›)).of_eq ‹_›)

theorem inv_readWords {t va n} {s : State} (hs : s.Inv) : PairInv (readWords t va n s) :=
  inv_readRange hs

theorem inv_readArgs {t argp} {s : State} (hs : s.Inv) : PairInv (readArgs t argp s) := by
  unfold readArgs
  refine .ite (.mk hs) ?_
  split <;> exact .mk ((inv_readWords hs).of_eq ‹_›)

theorem inv_readDsh {t l args} {s : State} (hs : s.Inv) : PairInv (readDsh t l args s) := by
  unfold readDsh
  split
  · exact .mk ((inv_readWords hs).of_eq ‹_›)
  · refine .ite (.mk ((inv_readWords hs).of_eq ‹_›)) ?_
    split
    · exact .mk ((inv_readWords ((inv_readWords hs).of_eq ‹_›)).of_eq ‹_›)
    · exact .ite (.mk ((inv_readWords ((inv_readWords hs).of_eq ‹_›)).of_eq ‹_›)) (.mk ((inv_readWords ((inv_readWords
        hs).of_eq ‹_›)).of_eq ‹_›))

theorem optInv_loaderWrite {t va v} {s : State} (hs : s.Inv) : OptInv (loaderWrite t va v s) := by
  unfold loaderWrite
  split
  · exact .ite .none (.some (inv_setBytes _ _ _ _ ((inv_resolve hs).of_eq ‹_›)))
  · exact .some ((inv_resolve hs).of_eq ‹_›)
  · exact .none

theorem someInv_placeRoutine {l w} {s : State} (hs : s.Inv) : ∀ r ∈ placeRoutine l w s, r.2.2.Inv := by
  intro r hr
  obtain ⟨_, _, hr⟩ := Option.bind_eq_some_iff.1 hr
  obtain ⟨t, ht, rfl⟩ := Option.map_eq_some_iff.1 hr
  exact (optInv_loaderWrite hs t ht).of_mem rfl

theorem someInv_patchWord {l va w} {s : State} (hs : s.Inv) : ∀ r ∈ patchWord l va w s, r.2.Inv := by
  intro r hr
  unfold patchWord at hr
  split at hr
  · cases hr
  · obtain ⟨⟨_, _, s'⟩, hp, hr⟩ := Option.bind_eq_some_iff.1 hr
    have hs' : s'.Inv := someInv_placeRoutine hs _ hp
    dsimp only at hr
    split at hr
    · cases hr
    · obtain ⟨t, ht, rfl⟩ := Option.map_eq_some_iff.1 hr
      exact (optInv_loaderWrite hs' t ht).of_mem rfl

theorem someInv_patchCode {ws va l} {s : State} (hs : s.Inv) : ∀ r ∈ patchCode ws va l s, r.2.Inv := by
  induction ws generalizing va l s with
  | nil =>
    intro r hr
    cases hr
    exact hs
  | cons w ws ih =>
    intro r hr
    dsimp only [patchCode] at hr
    split at hr
    · obtain ⟨x, hx, hr⟩ := Option.bind_eq_some_iff.1 hr
      exact ih (someInv_patchWord hs x hx) r hr
    · exact ih hs r hr

theorem someInv_bodyRoutines {ws l} {s : State} (hs : s.Inv) : ∀ r ∈ bodyRoutines ws l s, r.2.Inv := by
  induction ws generalizing l s with
  | nil =>
    intro r hr
    cases hr
    exact hs
  | cons w ws ih =>
    intro r hr
    rw [bodyRoutines] at hr
    split at hr
    · obtain ⟨x, hx, hr⟩ := Option.bind_eq_some_iff.1 hr
      exact ih (someInv_placeRoutine hs x hx) r hr
    · exact ih hs r hr

theorem inv_cacheKernel {s : State} {k} (hs : s.Inv) : (State.cacheKernel s k).Inv :=
  hs.of_mem rfl

theorem inv_readKernel {t va} {s : State} (hs : s.Inv) : PairInv (readKernel t va s) := by
  unfold readKernel
  split
  · exact .mk hs
  · split
    · exact .mk ((inv_readWords hs).of_eq ‹_›)
    · dsimp only
      split <;> exact .mk ((inv_readWords ((inv_readWords hs).of_eq ‹_›)).of_eq ‹_›)

theorem inv_checkLaunch {t b cmd} {s : State} (hs : s.Inv) : PairInv (checkLaunch t b cmd s) := by
  unfold checkLaunch
  refine .ite (.mk hs) ?_
  extract_lets -underBinder +onlyGivenNames kva
  split
  · exact .mk ((inv_readKernel hs).of_eq ‹_›)
  · refine .ite (.mk ((inv_readKernel hs).of_eq ‹_›)) ?_
    split
    · exact .mk ((inv_readArgs (inv_cacheKernel ((inv_readKernel hs).of_eq ‹_›))).of_eq ‹_›)
    · refine .ite ?_ (.ite (.mk ((inv_readArgs (inv_cacheKernel ((inv_readKernel hs).of_eq ‹_›))).of_eq ‹_›)) ?_)
      · split
        · exact .mk ((inv_readWords ((inv_readArgs (inv_cacheKernel ((inv_readKernel hs).of_eq ‹_›))).of_eq ‹_›)).of_eq ‹_›)
        · exact .mk ((inv_readWords ((inv_readArgs (inv_cacheKernel ((inv_readKernel hs).of_eq ‹_›))).of_eq ‹_›)).of_eq ‹_›)
      · split
        · exact .mk ((inv_readDsh ((inv_readArgs (inv_cacheKernel ((inv_readKernel hs).of_eq ‹_›))).of_eq ‹_›)).of_eq ‹_›)
        · exact .mk ((inv_readDsh ((inv_readArgs (inv_cacheKernel ((inv_readKernel hs).of_eq ‹_›))).of_eq ‹_›)).of_eq ‹_›)

theorem inv_queueLaunch {l} {s : State} (hs : s.Inv) : PairInv (queueLaunch l s) :=
  .mk (hs.of_mem rfl)

theorem inv_writeDone {l status} {s : State} (hs : s.Inv) : (writeDone l status s).Inv :=
  .ite hs (inv_deviceWrite hs)

theorem inv_reportLaunch {l status rest} {s : State} (hs : s.Inv) : (reportLaunch l status rest s).Inv := by
  unfold reportLaunch
  refine .ite hs ?_
  dsimp only
  split
  · exact inv_complete (inv_writeDone hs)
  · exact inv_writeDone hs

theorem inv_closeLaunch {slot l} {s : State} (hs : s.Inv) : (closeLaunch slot l s).Inv :=
  inv_mapOwners (inv_foldl hs fun _ _ hs => inv_closeShadows hs)

theorem inv_endLaunch {slot status rest} {s : State} (hs : s.Inv) : (endLaunch slot status rest s).Inv := by
  unfold endLaunch
  split
  · exact hs
  · dsimp only
    split
    · exact inv_answer (inv_reportLaunch (inv_releaseHarts ((inv_closeLaunch hs).of_mem (by with_reducible rfl))))
    · exact inv_reportLaunch (inv_releaseHarts ((inv_closeLaunch hs).of_mem (by with_reducible rfl)))

theorem inv_flushStores {h} {s : State} (hs : s.Inv) : (flushStores h s).Inv :=
  inv_foldl hs fun _ _ hs => inv_pumpStores hs

theorem inv_endedLaunch_haltOne {h} {s : State} (hs : s.Inv) : (endedLaunch.haltOne h s).Inv :=
  .ite hs (inv_haltHart hs)

theorem inv_endedLaunch {slot} {s : State} (hs : s.Inv) : (endedLaunch slot s).Inv := by
  unfold endedLaunch
  split
  · exact hs
  · refine .ite hs ?_
    dsimp only
    split
    · exact inv_endLaunch (inv_foldl hs fun _ _ hs => inv_flushStores (inv_endedLaunch_haltOne hs))
    · exact .ite (.ite (inv_endLaunch (inv_foldl hs fun _ _ hs => inv_flushStores hs)) (inv_foldl hs fun _ _ hs =>
        inv_flushStores hs)) hs

theorem inv_launchDone {slot} {s : State} (hs : s.Inv) : (launchDone slot s).Inv :=
  inv_attempts (fun _ hs => inv_endedLaunch hs) hs

theorem inv_acceptLaunch {l ends} {s : State} (hs : s.Inv) : PairInv (acceptLaunch l ends s) := by
  unfold acceptLaunch
  split
  · dsimp only
    split
    · exact .mk (inv_endLaunch ((inv_queueLaunch hs).of_eq ‹_›))
    · exact .mk ((inv_queueLaunch hs).of_eq ‹_›)

theorem inv_clearCore {c} {s : State} (hs : s.Inv) : (clearCore c s).Inv :=
  hs.of_mem rfl

theorem inv_clearQuarter {c q} {s : State} (hs : s.Inv) : (clearQuarter c q s).Inv :=
  hs.of_mem rfl

theorem inv_clearRange {l c} {s : State} (hs : s.Inv) : (clearRange l c s).Inv :=
  hs.of_mem rfl

theorem inv_takeCore {l g c} {s : State} (hs : s.Inv) : (takeCore l g c s).Inv :=
  inv_foldl (inv_clearRange (State.Inv.of_mem (.ite hs (inv_clearCore hs)) rfl)) fun _ _ hs => inv_foldl hs fun _ _ hs =>
    .ite (inv_clearQuarter hs) hs

theorem inv_runLoader {l} {s : State} (hs : s.Inv) : PairInv (runLoader l s) := by
  unfold runLoader
  split
  · split
    · exact .mk ((inv_readWords hs).of_eq ‹_›)
    · split
      · exact .mk ((inv_readWords hs).of_eq ‹_›)
      · exact .mk (someInv_patchCode ((inv_readWords hs).of_eq ‹_›) _ ‹_›)
  · split
    · exact .mk ((inv_readDsh hs).of_eq ‹_›)
    · split
      · exact .mk ((inv_readDsh hs).of_eq ‹_›)
      · exact .mk (someInv_bodyRoutines ((inv_readDsh hs).of_eq ‹_›) _ ‹_›)

theorem inv_placeGroups {l cores} {f : Nat → Nat → State → State} {s : State} (hf : ∀ a b c, c.Inv → (f a b c).Inv)
    (hs : s.Inv) :
    (placeGroups l cores f s).Inv := by
  unfold placeGroups
  refine inv_foldl hs fun _ _ hs => ?_
  split
  · refine inv_foldl (inv_takeCore hs) fun _ _ hs => ?_
    split
    · exact hf _ _ _ hs

theorem inv_bindFresh {slot l cores} {s : State} (hs : s.Inv) : (bindFresh slot l cores s).Inv := by
  unfold bindFresh
  split
  · exact inv_endLaunch ((inv_runLoader hs).of_eq ‹_›)
  · dsimp only
    split
    · exact inv_placeGroups (fun _ _ _ hs => inv_setHart _ _ _ hs) (inv_setLaunch (((inv_runLoader hs).of_eq ‹_›).of_mem (by
        rfl)))
    · split
      · exact inv_placeGroups (fun _ _ _ hs => inv_setHart _ _ _ hs) (inv_setLaunch (((inv_runLoader hs).of_eq ‹_›).of_mem
          (by rfl)))
      · split
        · exact inv_endLaunch (inv_placeGroups (fun _ _ _ hs =>
            inv_setHart _ _ _ hs) (inv_setLaunch (((inv_runLoader hs).of_eq ‹_›).of_mem (by rfl))))
        · exact inv_configure (inv_setHart _ _ _ (inv_placeGroups (fun _ _ _ hs =>
            inv_setHart _ _ _ hs) (inv_setLaunch (((inv_runLoader hs).of_eq ‹_›).of_mem (by rfl)))))

theorem inv_lateNote {slot l} {s : State} (hs : s.Inv) : (lateNote slot l s).Inv := by
  unfold lateNote
  split
  · exact inv_updHart _ _ _ hs
  · exact hs

theorem inv_releaseLaunch {slot} {s : State} (hs : s.Inv) : (releaseLaunch slot s).Inv := by
  unfold releaseLaunch
  split
  · exact hs
  · exact inv_lateNote (inv_foldl (inv_setLaunch hs) fun _ _ hs => inv_restartHart hs)

theorem inv_refuseSaved {slot l} {s : State} (hs : s.Inv) : (refuseSaved slot l s).Inv := by
  unfold refuseSaved
  split
  · exact inv_answer (inv_setLaunch hs)
  · exact inv_endLaunch hs

theorem inv_bindSaved {slot l cores} {s : State} (hs : s.Inv) : (bindSaved slot l cores s).Inv := by
  unfold bindSaved
  split
  · exact inv_noteFlit hs
  · refine .ite (inv_refuseSaved hs) ?_
    dsimp only
    split
    · exact inv_answer (.ite (inv_foldl (inv_setBytes _ _ _ _ (inv_clearDirty (inv_foldl (inv_foldl (inv_placeGroups (fun _ _
        _ hs => inv_restoreHart hs) (inv_setLaunch ((inv_setBytes _ _ _ _ hs).of_mem rfl))) fun _ _ hs =>
        inv_restoreSp hs) fun _ _ hs => .ite hs (inv_servedRows hs)))) fun _ _ hs =>
        inv_markLanes hs) (inv_releaseLaunch (inv_foldl (inv_setBytes _ _ _ _ (inv_clearDirty (inv_foldl (inv_foldl
        (inv_placeGroups (fun _ _ _ hs => inv_restoreHart hs) (inv_setLaunch ((inv_setBytes _ _ _ _ hs).of_mem rfl))) fun _ _
        hs => inv_restoreSp hs) fun _ _ hs => .ite hs (inv_servedRows hs)))) fun _ _ hs => inv_markLanes hs)))
    · exact .ite (inv_foldl (inv_setBytes _ _ _ _ (inv_clearDirty (inv_foldl (inv_foldl (inv_placeGroups (fun _ _ _ hs =>
        inv_restoreHart hs) (inv_setLaunch ((inv_setBytes _ _ _ _ hs).of_mem rfl))) fun _ _ hs =>
        inv_restoreSp hs) fun _ _ hs => .ite hs (inv_servedRows hs)))) fun _ _ hs =>
        inv_markLanes hs) (inv_releaseLaunch (inv_foldl (inv_setBytes _ _ _ _ (inv_clearDirty (inv_foldl (inv_foldl
        (inv_placeGroups (fun _ _ _ hs => inv_restoreHart hs) (inv_setLaunch ((inv_setBytes _ _ _ _ hs).of_mem rfl))) fun _ _
        hs => inv_restoreSp hs) fun _ _ hs => .ite hs (inv_servedRows hs)))) fun _ _ hs => inv_markLanes hs))

theorem inv_bindNow {slot} {s : State} (hs : s.Inv) : (bindNow slot s).Inv := by
  unfold bindNow
  split
  · exact hs
  · refine .ite hs ?_
    split
    · exact hs
    · split
      · exact inv_noteFlit hs
      · exact .ite (inv_bindSaved hs) (inv_bindFresh hs)

theorem inv_launchBind {slot} {s : State} (hs : s.Inv) : (launchBind slot s).Inv :=
  inv_attempts (fun _ hs => inv_bindNow hs) hs

theorem inv_preEmption {slot} {s : State} (hs : s.Inv) : (preEmption slot s).Inv := by
  unfold preEmption
  split
  · exact hs
  · refine .ite hs (.ite ?_ (.ite (inv_launchDone (inv_foldl hs fun _ _ hs =>
      inv_updHart _ _ _ hs)) (inv_setLaunch (inv_foldl hs fun _ _ hs => inv_updHart _ _ _ hs))))
    dsimp only
    split
    · exact inv_answer (inv_reportLaunch (inv_setLaunch hs))
    · exact inv_reportLaunch (inv_setLaunch hs)

theorem inv_askSuspend {t id w} {s : State} (hs : s.Inv) : PairInv (askSuspend t id w s) := by
  unfold askSuspend
  dsimp only
  split
  · exact .mk hs
  · exact .ite (.mk hs) (.ite (.mk hs) (.mk (inv_setLaunch hs)))

theorem inv_askResume {t id savepa affinity w} {s : State} (hs : s.Inv) : PairInv (askResume t id savepa affinity w s) := by
  unfold askResume
  dsimp only
  split
  · exact .mk hs
  · refine .ite (.mk hs) (.ite (.mk hs) (.ite (.mk hs) (.ite (.mk hs) ?_)))
    split
    · exact .mk (inv_noteFlit hs)
    · exact .ite (.mk hs) (.ite (.mk (inv_endLaunch (inv_setLaunch hs))) (.mk (inv_setLaunch hs)))

/-! ### `Machine/GangSwitch` -/

theorem inv_createPartition {pa} {s : State} (hs : s.Inv) : PairInv (createPartition pa s) :=
  .ite (.mk hs) (.ite (.mk hs) (.ite (.mk hs) (.mk (inv_setPart hs))))

theorem inv_deletePartition {gpn} {s : State} (hs : s.Inv) : PairInv (deletePartition gpn s) := by
  unfold deletePartition
  split
  · exact .mk hs
  · refine .mk ?_
    split
    · exact inv_completeWith (hs.of_mem rfl)
    · exact hs.of_mem rfl

/-- `unfold` would have the kernel evaluate the check of the command; replaced as a function, the definition is not evaluated. -/
theorem inv_gangSave {c} {s : State} (hs : s.Inv) : (gangSave c s).Inv := by
  generalize hf : gangSave = f
  delta gangSave at hf
  subst hf
  beta_reduce
  split
  · exact inv_completeWith hs
  · next t p _ =>
    extract_lets -underBinder +onlyGivenNames b p' s₁ s₂ s₃ p₂ s₄ p₃ pkts
    have h₁ : s₁.Inv := hs.of_mem rfl
    have h₂ : s₂.Inv := by
      refine inv_foldl h₁ fun _ _ hs => ?_
      split
      · exact .ite (inv_preEmption hs) hs
      · exact hs
    have h₃ : s₃.Inv := inv_finishService (inv_setPart h₂)
    have h₄ : s₄.Inv := inv_setBytes _ _ _ _ h₃
    clear_value s₄
    split
    exact inv_setPart ((inv_writePkts h₄).of_eq ‹_›)

theorem inv_endSave {t} {s : State} (hs : s.Inv) : (endSave t s).Inv := by
  unfold endSave
  split
  · exact hs
  · refine .ite hs ?_
    split
    · exact inv_noteFlit hs
    · extract_lets -underBinder +onlyGivenNames lostPort p
      split
      · split
        · extract_lets recs s s s
          split
          · refine inv_completeWith (inv_setPart (inv_setBytes _ _ _ _ (inv_foldl ((inv_writePkts ((inv_writePkts hs).of_eq
              ‹_›)).of_eq ‹_›) fun _ _ hs => ?_)))
            split
            · exact inv_setBytes _ _ _ _ hs
          · refine inv_setPart (inv_setBytes _ _ _ _ (inv_foldl ((inv_writePkts ((inv_writePkts hs).of_eq ‹_›)).of_eq ‹_›)
              fun _ _ hs => ?_))
            split
            · exact inv_setBytes _ _ _ _ hs

theorem inv_finishSave {t} {s : State} (hs : s.Inv) : (finishSave t s).Inv :=
  .ite (inv_writeLate hs) (inv_attempts (fun _ hs => inv_endSave hs) hs)

theorem inv_claimJob {t} {s : State} (hs : s.Inv) : (claimJob t s).Inv :=
  hs.of_mem rfl

/-- `unfold` would have the kernel evaluate the check of the command; replaced as a function, the definition is not evaluated. -/
theorem inv_gangResume {c} {s : State} (hs : s.Inv) : (gangResume c s).Inv := by
  generalize hf : gangResume = f
  delta gangResume at hf
  subst hf
  beta_reduce
  split
  · exact inv_completeWith hs
  · exact inv_setPart (inv_claimJob (inv_nextFree (.ite (inv_putLate hs) hs)))

theorem inv_releaseGang {t} {s : State} (hs : s.Inv) : (releaseGang t s).Inv := by
  unfold releaseGang
  split
  · exact hs
  · exact .ite hs (hs.of_mem rfl)

theorem inv_finishResume {t} {s : State} (hs : s.Inv) : (finishResume t s).Inv := by
  unfold finishResume
  split
  · exact hs
  · refine .ite hs ?_
    dsimp only
    split
    · exact inv_completeWith (inv_foldl (inv_setPart hs) fun _ _ hs => inv_releaseLaunch hs)
    · exact inv_foldl (inv_setPart hs) fun _ _ hs => inv_releaseLaunch hs

theorem inv_bellArrives {port vc gpn} {s : State} (hs : s.Inv) : (bellArrives port vc gpn s).Inv := by
  unfold bellArrives
  split
  · exact inv_logPacket hs
  · exact inv_finishSave (inv_setPart hs)

theorem inv_rbellArrives {port vc gpn} {s : State} (hs : s.Inv) : (rbellArrives port vc gpn s).Inv := by
  unfold rbellArrives
  split
  · exact inv_logPacket hs
  · exact inv_releaseGang (inv_setPart hs)

theorem inv_headerArrives {port h payload} {s : State} (hs : s.Inv) : (headerArrives port h payload s).Inv := by
  unfold headerArrives
  refine .ite (inv_logHeader hs) ?_
  split
  · exact inv_packetArrives hs
  · exact inv_packetArrives hs
  · exact inv_packetArrives hs
  · exact inv_packetArrives hs
  · exact inv_packetArrives hs
  · exact inv_packetArrives hs
  · exact inv_packetArrives hs
  · exact inv_bellArrives hs
  · exact inv_rbellArrives hs
  · exact inv_logHeader hs

/-! ### `Machine/Manage` -/

theorem inv_ends {c r} (hr : PairInv r) : (ends c r).Inv :=
  inv_completeWith hr

theorem inv_forget {s : State} {t} (hs : s.Inv) : (State.forget s t).Inv :=
  hs.of_mem rfl

theorem inv_dropRoutines {s : State} {t} (hs : s.Inv) : (State.dropRoutines s t).Inv :=
  hs.of_mem rfl

theorem inv_startTenantCreate {c} {s : State} (hs : s.Inv) : (startTenantCreate c s).Inv :=
  .ite (inv_completeWith hs) (.ite (inv_completeWith hs) (inv_completeWith (inv_setTenant (inv_dropRoutines (inv_forget
    hs)))))

theorem inv_flushQueue {q} {s : State} (hs : s.Inv) : (flushQueue q s).Inv :=
  inv_updHq hs

theorem inv_endTrust {t} {s : State} (hs : s.Inv) : (endTrust t s).Inv :=
  hs.of_mem rfl

theorem inv_resetBegin {t} {s : State} (hs : s.Inv) : (resetBegin t s).Inv := by
  unfold resetBegin
  refine inv_endTrust ?_
  split
  · exact inv_deletePartition ((inv_withdrawTurns (inv_setTenant (inv_foldl (inv_foldl (inv_setTenant (inv_forget hs)) fun _
      _ hs => inv_flushQueue hs) fun _ _ hs => inv_endLaunch hs))).of_mem (by with_reducible rfl))
  · exact (inv_withdrawTurns (inv_setTenant (inv_foldl (inv_foldl (inv_setTenant (inv_forget hs)) fun _ _ hs =>
      inv_flushQueue hs) fun _ _ hs => inv_endLaunch hs))).of_mem (by with_reducible rfl)

theorem inv_pairGone {h} {s : State} (hs : s.Inv) : (pairGone h s).Inv := by
  unfold pairGone
  split
  · exact hs
  · dsimp only
    split
    · exact inv_completeWith (hs.of_mem rfl)
    · exact hs.of_mem rfl

theorem inv_pairDeleted {h} {s : State} (hs : s.Inv) : (pairDeleted h s).Inv := by
  unfold pairDeleted
  split
  · exact .ite (inv_pairGone hs) hs
  · exact hs

theorem inv_resetEnd {t} {s : State} (hs : s.Inv) : (resetEnd t s).Inv := by
  unfold resetEnd
  split
  · exact hs
  · refine inv_foldl (.ite (inv_foldl ((inv_foldl ?_ fun _ _ hs => inv_pairGone hs).of_mem rfl) fun _ _ hs =>
      inv_updHq hs) (inv_setTenant (inv_foldl (hs.of_mem rfl) fun _ _ hs => inv_pairGone hs))) fun _ _ hs =>
      inv_completeWith hs
    exact hs.of_mem rfl

theorem inv_startReset {del c} {s : State} (hs : s.Inv) : (startReset del c s).Inv := by
  unfold startReset
  refine .ite (inv_completeWith hs) ?_
  split
  · exact inv_completeWith hs
  · exact hs.of_mem rfl
  · exact inv_resetBegin (hs.of_mem rfl)

theorem inv_startOwnerSet {c} {s : State} (hs : s.Inv) : (startOwnerSet c s).Inv := by
  unfold startOwnerSet
  refine .ite (inv_completeWith hs) ?_
  split
  · exact inv_completeWith hs
  · exact inv_completeWith (inv_foldl hs fun _ _ hs => inv_writeOwner hs)

theorem inv_startPairCreate {c} {s : State} (hs : s.Inv) : (startPairCreate c s).Inv := by
  unfold startPairCreate
  refine .ite (inv_completeWith hs) ?_
  split
  · exact inv_completeWith hs
  · exact inv_ends (inv_createPair hs)

theorem inv_startPairDelete {c} {s : State} (hs : s.Inv) : (startPairDelete c s).Inv := by
  unfold startPairDelete
  refine .ite (inv_completeWith hs) ?_
  split
  · exact inv_completeWith hs
  · exact .ite (inv_completeWith hs) (inv_setPair hs)

theorem inv_startRegionCreate {c} {s : State} (hs : s.Inv) : (startRegionCreate c s).Inv := by
  unfold startRegionCreate
  refine .ite (inv_completeWith hs) ?_
  split
  · exact inv_completeWith hs
  · exact inv_completeWith hs
  · refine .ite (inv_completeWith hs) ?_
    split
    · exact inv_completeWith hs
    · exact .ite (inv_completeWith hs) (inv_completeWith (inv_setTenant hs))

theorem inv_startRegionDelete {c} {s : State} (hs : s.Inv) : (startRegionDelete c s).Inv := by
  unfold startRegionDelete
  refine .ite (inv_completeWith hs) ?_
  dsimp only
  split
  · exact inv_completeWith hs
  · exact inv_completeWith (inv_setTenant hs)

theorem inv_startGangCreate {c} {s : State} (hs : s.Inv) : (startGangCreate c s).Inv := by
  unfold startGangCreate
  dsimp only
  split
  · exact inv_completeWith hs
  · exact .ite (inv_completeWith hs) (inv_ends (inv_createPartition hs))

theorem inv_startGangDelete {c} {s : State} (hs : s.Inv) : (startGangDelete c s).Inv :=
  .ite (inv_completeWith hs) (inv_ends (inv_deletePartition hs))

theorem inv_startGangSwitch {c} {s : State} (hs : s.Inv) : (startGangSwitch c s).Inv :=
  .ite (inv_gangResume hs) (inv_gangSave hs)

theorem inv_startSuspend {c} {s : State} (hs : s.Inv) : (startSuspend c s).Inv := by
  unfold startSuspend
  refine .ite (inv_completeWith hs) ?_
  split
  · exact inv_completeWith ((inv_askSuspend hs).of_eq ‹_›)
  · exact (inv_askSuspend hs).of_eq ‹_›

theorem inv_startResume {c} {s : State} (hs : s.Inv) : (startResume c s).Inv := by
  unfold startResume
  refine .ite (inv_completeWith hs) ?_
  split
  · exact inv_completeWith ((inv_askResume hs).of_eq ‹_›)
  · exact (inv_askResume hs).of_eq ‹_›

theorem inv_revokeGrants {t} {s : State} (hs : s.Inv) : (revokeGrants t s).Inv :=
  hs.of_mem rfl

theorem inv_startDebugGrant {c} {s : State} (hs : s.Inv) : (startDebugGrant c s).Inv := by
  unfold startDebugGrant
  refine .ite (inv_completeWith hs) (.ite (inv_completeWith hs) (.ite (inv_completeWith (inv_revokeGrants hs)) ?_))
  split
  · exact inv_completeWith hs
  · exact inv_completeWith (hs.of_mem rfl)

theorem inv_startLaunch {c} {s : State} (hs : s.Inv) : (startLaunch c s).Inv := by
  unfold startLaunch
  dsimp only
  split
  · exact inv_completeWith ((inv_checkLaunch hs).of_eq ‹_›)
  · exact inv_acceptLaunch ((inv_checkLaunch hs).of_eq ‹_›)

theorem inv_startInvalidate {c} {s : State} (hs : s.Inv) : (startInvalidate c s).Inv :=
  .ite (inv_completeWith hs) (inv_completeWith (hs.of_mem rfl))

theorem inv_startFaultReply {c} {s : State} (hs : s.Inv) : (startFaultReply c s).Inv :=
  .ite (inv_completeWith hs) (.ite (inv_completeWith hs) (inv_completeWith (hs.of_mem rfl)))

theorem inv_startNop {c} {s : State} (hs : s.Inv) : (startNop c s).Inv :=
  .ite (inv_completeWith hs) (inv_completeWith hs)

theorem inv_perform {c} {s : State} (hs : s.Inv) : (perform c s).Inv := by
  unfold perform
  split
  · exact inv_startTenantCreate hs
  · exact inv_startReset hs
  · exact inv_startReset hs
  · exact inv_startOwnerSet hs
  · exact inv_startPairCreate hs
  · exact inv_startPairDelete hs
  · exact inv_startRegionCreate hs
  · exact inv_startRegionDelete hs
  · exact inv_startGangCreate hs
  · exact inv_startGangDelete hs
  · exact inv_startGangSwitch hs
  · exact inv_startSuspend hs
  · exact inv_startResume hs
  · exact inv_startDebugGrant hs
  · exact inv_startLaunch hs
  · exact inv_startInvalidate hs
  · exact inv_startFaultReply hs
  · exact inv_startNop hs

theorem inv_commandStart {c} {s : State} (hs : s.Inv) : (commandStart c s).Inv := by
  unfold commandStart
  dsimp only
  split
  · exact inv_completeWith (inv_updHq hs)
  · split
    · exact inv_noteFlit (inv_updHq hs)
    · exact inv_perform (inv_updHq hs)

theorem inv_startCommand {c} {s : State} (hs : s.Inv) : (startCommand c s).Inv :=
  inv_attempts (fun _ hs => inv_commandStart hs) hs

theorem inv_startNext {q} {s : State} (hs : s.Inv) : (startNext q s).Inv := by
  unfold startNext
  split
  · exact .ite (inv_startCommand hs) hs
  · exact hs

theorem inv_hostCommand {row : HostCmd → Bool} {c} {s : State} (hs : s.Inv) : (hostCommand row c s).Inv :=
  .ite hs (.ite (inv_startCommand (.ite hs (inv_setHq hs))) (.ite hs (inv_setHq hs)))

/-! ### `Machine/Context` -/

theorem keeps_fenceWait {ps} : Keeps State.Inv (fenceWait ps) :=
  .getBind fun _ _ => .ite keeps_block .pure

theorem inv_deviceLaunch {x blk} {s : State} (hs : s.Inv) : PairInv (deviceLaunch x blk s) := by
  unfold deviceLaunch
  refine .ite (.mk hs) ?_
  split
  · exact .mk ((inv_checkLaunch hs).of_eq ‹_›)
  · exact inv_acceptLaunch ((inv_checkLaunch hs).of_eq ‹_›)

theorem outInv_execKlaunch {rd ra} {s : State} (hs : s.Inv) : OutInv (execKlaunch rd ra s) :=
  outInv_memInstr (.bind keeps_meM fun _ => .bind keeps_alignCheck fun _ => .bind keeps_fenceWait fun _ =>
    .bind keeps_memRead fun _ => .getBind fun _ _ => .bind (keeps_attemptM fun _ hs => inv_deviceLaunch hs) fun _ =>
    .updMeM) hs

theorem outInv_execKwait {ra} {s : State} (hs : s.Inv) : OutInv (execKwait ra s) :=
  outInv_scalarRun (.getBind fun _ _ => .ite keeps_block .pure) hs

theorem outInv_contextOp {word ra} {ask : Nat → Nat → Waiter → State → Option Nat × State} {s : State}
    (hask : ∀ a b c d, d.Inv →
    PairInv (ask a b c d)) (hs : s.Inv) :
    OutInv (contextOp word ra ask s) := by
  unfold contextOp
  refine .ite (outInv_next (inv_trapHere _ _ hs)) (outInv_memInstr (.bind keeps_meM fun _ => .bind keeps_alignCheck fun _ =>
    .bind keeps_memRead fun _ => ?_) hs)
  extract_lets -underBinder +onlyGivenNames id finish
  have hfinish : ∀ r, Keeps State.Inv (finish r) := fun _ => .bind keeps_memWrite fun _ => .updMeM
  extract_lets -underBinder +onlyGivenNames start
  have hstart : Keeps State.Inv start := by
    refine .getBind fun _ hs => .bind (keeps_attemptM fun _ hs => hask _ _ _ _ hs) fun _ => ?_
    split
    · exact .bind .updMeM fun _ => hfinish _
    · exact .bind .updMeM fun _ => keeps_block
  split
  · refine .ite hstart ?_
    split
    · exact hfinish _
    · exact keeps_block
  · exact hstart

theorem outInv_execSvrd {rd ra} {s : State} (hs : s.Inv) : OutInv (execSvrd rd ra s) := by
  unfold execSvrd
  refine .ite (outInv_next (inv_trapHere _ _ hs)) (outInv_memInstr (.bind keeps_meM fun _ => .bind keeps_alignCheck fun _ =>
    .getBind fun _ hs => .bind (keeps_accM fun _ hs => ?_) fun _ => .updMeM) hs)
  split
  · exact .mk (inv_physErr ((inv_physRead hs).of_eq ‹_›))
  · exact inv_physRead hs

theorem outInv_execSvwr {rd ra} {s : State} (hs : s.Inv) : OutInv (execSvwr rd ra s) := by
  unfold execSvwr
  refine .ite (outInv_next (inv_trapHere _ _ hs)) (outInv_memInstr (.bind keeps_meM fun _ => .bind keeps_alignCheck fun _ =>
    .getBind fun _ hs => keeps_accM fun _ hs => ?_) hs)
  split
  · exact .mk (inv_physErr ((inv_physWrite hs).of_eq ‹_›))
  · exact inv_physWrite hs

theorem outInv_execWarm {ra n} {s : State} (hs : s.Inv) : OutInv (execWarm ra n s) := by
  unfold execWarm
  refine .ite (outInv_next (inv_trapHere _ _ hs)) (outInv_memInstr (.bind keeps_meM fun _ => .bind keeps_alignCheck fun _ =>
    .bind keeps_memRead fun _ => .getBind fun _ hs => ?_) hs)
  split
  · exact .raise
  · exact .bind keeps_fenceWait fun _ => .modify fun _ hs => hs.of_mem rfl

theorem outInv_execWdisarm {n} {s : State} (hs : s.Inv) : OutInv (execWdisarm n s) :=
  .ite (outInv_next (inv_trapHere _ _ hs)) (outInv_scalarRun (.bind keeps_fenceWait fun _ => .modify fun _ hs =>
    hs.of_mem rfl) hs)

/-! ### `Machine/Boot` -/

theorem inv_deviceReset {s : State} (hs : s.Inv) : (deviceReset s).Inv := wf_deviceReset s hs

theorem inv_bootRun {readError} {s : State} (hs : s.Inv) : (bootRun readError s).Inv := by
  unfold bootRun
  refine .ite (hs.of_mem rfl) (.ite (State.Inv.of_mem ?_ rfl) ?_)
  · refine State.Inv.of_mem ?_ rfl
    exact hs.of_mem rfl
  · split
    · refine State.Inv.of_mem ?_ rfl
      refine State.Inv.of_mem ?_ rfl
      exact hs.of_mem rfl
    · refine inv_setBytes _ _ _ _ (inv_setHart _ _ _ (State.Inv.of_mem ?_ rfl))
      refine State.Inv.of_mem ?_ rfl
      exact hs.of_mem rfl

theorem inv_attest {s : State} (hs : s.Inv) : (attest s).Inv :=
  .ite (inv_setBytes _ _ _ _ (hs.of_mem rfl)) (hs.of_mem rfl)

theorem inv_setSupv {s : State} {x} (hs : s.Inv) : (State.setSupv s x).Inv :=
  hs.of_mem rfl

theorem inv_lowerClock {s : State} (hs : s.Inv) : (lowerClock s).Inv :=
  inv_setSupv hs

theorem inv_powerWindow {watts} {s : State} (hs : s.Inv) : (powerWindow watts s).Inv :=
  .ite (.ite (.ite (inv_fatalFreeze (inv_setSupv (hs.of_mem rfl))) (inv_setSupv (hs.of_mem rfl))) (inv_lowerClock
    (inv_setSupv (hs.of_mem rfl)))) (.ite (inv_setSupv (inv_setSupv (hs.of_mem rfl))) (inv_setSupv (hs.of_mem rfl)))

theorem inv_dumpWords {a0 a1} {s : State} (hs : s.Inv) : (dumpWords a0 a1 s).Inv := by
  induction a1 generalizing a0 s with
  | nil => exact hs
  | cons _ _ ih => exact ih (inv_dumpBytes hs)

theorem inv_writeDump {s : State} (hs : s.Inv) : (writeDump s).Inv := by
  unfold writeDump
  refine .ite hs (inv_foldl (inv_foldl (inv_foldl (inv_dumpBytes (inv_dumpBytes (inv_dumpBytes (inv_dumpBytes (inv_dumpBytes
    (inv_dumpBytes (inv_dumpBytes hs))))))) fun _ _ hs => ?_) fun _ _ hs => inv_foldl (inv_dumpBytes hs) fun _ _ hs =>
    inv_dumpBytes hs) fun _ _ hs => inv_dumpWords hs)
  split
  · exact inv_dumpBytes hs

theorem inv_dumpDone {s : State} (hs : s.Inv) : (dumpDone s).Inv :=
  .ite hs (inv_raiseIrq ((inv_writeDump hs).of_mem rfl))

theorem inv_setBoot {s : State} {b} (hs : s.Inv) : (State.setBoot s b).Inv :=
  hs.of_mem rfl

theorem inv_dmawWrite {w word v} {s : State} (hs : s.Inv) : (dmawWrite w word v s).Inv := by
  unfold dmawWrite
  dsimp only
  split
  · exact .ite (hs.of_mem rfl) hs
  · exact .ite (hs.of_mem rfl) hs
  · exact hs.of_mem rfl
  · exact hs

theorem inv_bootPageWrite {off v} {s : State} (hs : s.Inv) : (bootPageWrite off v s).Inv := by
  unfold bootPageWrite
  dsimp only
  split
  · exact .ite (inv_bootRun hs) hs
  · exact .ite (inv_deviceReset hs) hs
  · exact .ite (inv_setBoot hs) hs
  · exact .ite (inv_setBoot hs) hs
  · exact .ite (inv_setBoot hs) hs
  · exact .ite (inv_setBoot hs) hs
  · exact .ite (inv_setBoot hs) hs
  · exact .ite (inv_setBoot hs) hs
  · exact .ite (inv_attest hs) (inv_setBoot hs)
  · exact .ite (inv_setBoot hs) (.ite (inv_dmawWrite hs) hs)

theorem inv_registerWrite {off v} {s : State} (hs : s.Inv) : (registerWrite off v s).Inv := by
  unfold registerWrite
  refine .ite hs (.ite (inv_bootPageWrite hs) ?_)
  split
  · exact inv_queueRegWrite hs
  · exact hs

theorem inv_launchSuper {h pc tenant} {s : State} (hs : s.Inv) : (launchSuper h pc tenant s).Inv :=
  .ite (inv_setHart _ _ _ hs) hs

/-! ### `Machine/Fetch` -/

theorem inv_fetchWord {h} {s : State} (hs : s.Inv) : PairInv (fetchWord h s) := by
  unfold fetchWord
  dsimp only
  split
  · refine .mk (PairInv.of_eq (.ite ?_ (inv_loadVirt hs)) ‹_›)
    split
    · exact .mk (inv_physErr ((inv_physRead hs).of_eq ‹_›))
    · exact inv_physRead hs
  · refine .mk (PairInv.of_eq (.ite ?_ (inv_loadVirt hs)) ‹_›)
    split
    · exact .mk (inv_physErr ((inv_physRead hs).of_eq ‹_›))
    · exact inv_physRead hs

theorem inv_takeOutside {h} {s : State} (hs : s.Inv) : (takeOutside h s).Inv := by
  unfold takeOutside
  dsimp only
  split
  · exact .ite (inv_setHart _ _ _ hs) hs
  · exact hs

theorem inv_barEnds {h} {s : State} (hs : s.Inv) : (barEnds h s).Inv := by
  unfold barEnds
  dsimp only
  split
  · exact hs
  · split
    · exact hs
    · refine .ite ?_ hs
      split
      · refine (PairInv.of_eq (inv_runM (.bind keeps_barWait fun _ => .updMeM) ?_) ‹_›).of_mem (by rfl)
        exact ((inv_fetchWord hs).of_eq ‹_›).of_mem (by rfl)
      · exact hs

theorem outInv_emulate {w} {s : State} (hs : s.Inv) : OutInv (emulate w s) := by
  unfold emulate
  dsimp only
  split
  · exact outInv_next (inv_trapHere _ _ (inv_updMe _ _ hs))
  · refine .ite (.ite (outInv_fdivDEffect (inv_updMe _ _ hs)) (outInv_fsqrtDEffect (inv_updMe _ _ hs))) ?_
    split
    · exact outInv_issue (inv_updMe _ _ hs)
    · exact outInv_next (inv_trapHere _ _ (inv_updMe _ _ hs))

theorem outInv_portableStep {p} {s : State} (hs : s.Inv) : OutInv (portableStep p s) := by
  unfold portableStep
  refine .ite ?_ (.ite (outInv_next hs) (outInv_next (inv_haltHart hs)))
  dsimp only
  split
  · exact outInv_next (inv_haltHart (inv_updMe _ _ hs))
  · split
    · exact outInv_next (.ite ((outInv_issue (inv_updMe _ _ hs)).of_eq ‹_›) (inv_updMe _ _ ((outInv_issue (inv_updMe _ _
        hs)).of_eq ‹_›)))
    · exact outInv_issue (inv_updMe _ _ hs)

/-! ### `Machine/Events` -/

theorem inv_ifLive {f : State → State} {s : State} (hf : ∀ a, a.Inv → (f a).Inv) (hs : s.Inv) : (ifLive f s).Inv :=
  .ite hs (hf _ hs)

theorem inv_onLink {l} {f : Nat → State → State} {s : State} (hf : ∀ a b, b.Inv → (f a b).Inv) (hs : s.Inv) :
    (onLink l f s).Inv :=
  .ite (hf _ _ hs) hs

theorem inv_onQueue {q} {f : Nat → State → State} {s : State} (hf : ∀ a b, b.Inv → (f a b).Inv) (hs : s.Inv) :
    (onQueue q f s).Inv :=
  .ite (hf _ _ hs) hs

theorem inv_completeOldest {h} {s : State} (hs : s.Inv) : (completeOldest h s).Inv := by
  unfold completeOldest
  dsimp only
  split
  · exact .ite (inv_runEntry hs) hs
  · exact hs

theorem inv_yieldEnds {h} {s : State} (hs : s.Inv) : (yieldEnds h s).Inv :=
  inv_updHart _ _ _ (hs.of_mem rfl)

theorem inv_resetKey {v} {s : State} (hs : s.Inv) : (resetKey v s).Inv :=
  .ite (inv_deviceReset hs) hs

theorem inv_fatalRequest {s : State} (hs : s.Inv) : (State.fatalRequest s).Inv :=
  inv_fatalFreeze hs

theorem inv_blowFuses {v} {s : State} (hs : s.Inv) : (blowFuses v s).Inv := by
  unfold blowFuses
  cases h : s.supvWrite 0x2000018 v (BitVec.allOnes 64) with
  | none => exact hs
  | some t => exact optInv_supvWrite hs t h

theorem inv_retireAt {core die cluster} {s : State} (hs : s.Inv) : (retireAt core die cluster s).Inv :=
  .ite (inv_retireCluster hs) hs

theorem inv_ownerWriteAt {entry v} {s : State} (hs : s.Inv) : (ownerWriteAt entry v s).Inv :=
  .ite (inv_writeOwner hs) hs

theorem inv_hotDie {die} {s : State} (hs : s.Inv) : (hotDie die s).Inv :=
  .ite (inv_lowerClock hs) hs

theorem inv_thermalAt {die} {s : State} (hs : s.Inv) : (thermalAt die s).Inv :=
  .ite (inv_fatalFreeze hs) hs

theorem inv_memoryError {s : State} (hs : s.Inv) : (State.memoryError s).Inv :=
  inv_fatalFreeze hs

/-! ### `Machine/Dispatch` -/

theorem outInv_exec {i} {s : State} (hs : s.Inv) : OutInv (exec i s) := by
  unfold exec
  cases i with
  | add | sub | and | or | xor | andn | orn | xnor | sll | srl | sra | rol | ror | slt | sltu | mul | mulh | mulhu
  | mulhsu | div | divu | rem | remu | min | max | minu | maxu | bdep | bcmpr =>
    exact outInv_aluOp hs
  | clz | ctz | popc | rev8 | slli | srli | srai | rori | sextb | sexth | sextw | zextw | brev | addi | andi | ori | xori
  | slti | sltiu | addhi =>
    exact outInv_aluOp1 hs
  | selz | selnz | fsl | fsr | bfx | bfxs => exact outInv_aluOp3 hs
  | bfi | lui | jalr | jal => exact outInv_scalarOp hs
  | faddS | fsubS | fmulS | fdivS | fsqrtS | fminS | fmaxS | fmaS | fnmaS | fcsignS | fnsignS | fxsignS | feqS | fltS
  | fleS | fkindS | ftoiS | ftoiuS | itofS | utofS | ftohS | ftobS | htofS | btofS | fcvtxS | faddD | fsubD | fmulD
  | fminD | fmaxD | fmaD | fnmaD | fcsignD | fnsignD | fxsignD | feqD | fltD | fleD | fkindD | ftoiD | ftoiuD | itofD
  | utofD | ftohD | ftobD | htofD | btofD | fcvtxD =>
    exact outInv_fpsOp hs
  | fdivD | fsqrtD | vferf | vdadd | vdsub | vdmul | vddiv | vdmin | vdmax | vdfma | vdfnma | vdfms | vdcsign | vdnsign
  | vdxsign | vdkind | vdsubr | vdsqrt =>
    exact outInv_next (inv_trapHere _ _ hs)
  | ldb | ldh | ldw | ldd | ldbu | ldhu | ldwu => exact outInv_loadOp hs
  | stb | sth | stw | std => exact outInv_storeOp hs
  | rmswap | rmadd | rmand | rmor | rmxor | rmmin | rmmax | rmminu | rmmaxu | cas | stl => exact outInv_rmwOp hs
  | lda => exact outInv_ldaOp hs
  | claim => exact outInv_execClaim hs
  | beq | bne | blt | bge | bltu | bgeu => exact outInv_branchOp hs
  | loopv => exact outInv_execLoopv hs
  | cwread | cwwrite | cwset | cwclr => exact outInv_cwOp hs
  | trap => exact outInv_execTrap hs
  | brk => exact outInv_execBrk hs
  | rett => exact outInv_execRett hs
  | yield => exact outInv_execYield hs
  | halt => exact outInv_execHalt hs
  | bar => exact outInv_execBar hs
  | fence => exact outInv_execFence hs
  | vadd | vsub | vsubr | vmul | vmulh | vmulhu | vmin | vmax | vminu | vmaxu | vand | vor | vxor | vsll | vsrl | vsra
  | vaddVs | vsubVs | vsubrVs | vmulVs | vmulhVs | vmulhuVs | vminVs | vmaxVs | vminuVs | vmaxuVs | vandVs | vorVs
  | vxorVs | vsllVs | vsrlVs | vsraVs | vfadd | vfsub | vfmul | vfdiv | vfmin | vfmax | vfma | vfnma | vfms | vfcsign
  | vfnsign | vfxsign | vfkind | vfsubr | vfaddVs | vfsubVs | vfmulVs | vfdivVs | vfminVs | vfmaxVs | vfmaVs | vfnmaVs
  | vfmsVs | vfcsignVs | vfnsignVs | vfxsignVs | vfkindVs | vfsubrVs | vfsqrt | vfrcp | vfrsqrt | vfexp2 | vflog2 | vfexp
  | vflog | vftanh | vfsigm | vfgelu | vfsilu | vfsin | vfcos | vcvt | vwiden | vnarrow | vnarrows | vmxpack | vmxunpack
  | vamax | vscale | vquant | vdequant | vbamax | vsumr | vmaxr | vminr | vmaxur | vminur | vandr | vorr | vxorr | vfsumr
  | vfmaxr | vfminr | vshup | vshdn | vgather | vcompress | vexpand | vmerge | vmove | vsplat | vhead | vacnt | vxup
  | vxdn | vxbc | vxrev | vunpack | vbext | vfsl | vfsr | vlut | vclz | vctz | vpopc | vbrev | vcfg | vld | vlds | vldx
  | vldff | vst | vsts | vstx | vstU | vstsU | vstxU | grow | gcol | gdiag | grows | gcols | gdiags | gpass | vmvq | vaddq
  | vsubq | vmulq | vfaddq | vfsubq | vfmulq | vfmaq | vandq | vorq | vxorq | venq | mand | mor | mxor | mandn | morn
  | mnand | mnor | mxnor | mmv | mnot | mset | mclr | msbf | msif | msof | mpopc | mfirst | mld | mst | vceq | vcne | vclt
  | vcltu | vcle | vcleu | vcgt | vcgtu | vfceq | vfcne | vfclt | vfcle | vfcgt | vfcge | vfcun | vceqVs | vcneVs | vcltVs
  | vcltuVs | vcleVs | vcleuVs | vcgtVs | vcgtuVs | vfceqVs | vfcneVs | vfcltVs | vfcleVs | vfcgtVs | vfcgeVs | vfcunVs
  | tmul | tmodeOn | tmodeOff | tshape | tzero | trdr | trdc | twrr | twrc | tpred | tsync | sopen | sclose | savail
  | swait | sskip | sdrain | srewind | spref | sgather | sldxBg | strans | sstat | cpy | cpfill | cpcvt | cplz | cpxp
  | cpcrc | cpcrc64 | cprel | cpshad | cpbl | cpwait | nring | ncqhd | nqstat | ncqpoll | lturn | lstat | lwait | bput
  | bget | batom | bnotify | bwait | bpoll | bfence | bstat | blport =>
    exact outInv_issue hs
  | vsetvl | vsetvli => exact outInv_vsetOp hs
  | tmulsp => exact outInv_execTmulsp hs
  | lpause | lresume | lremap | ltrain => exact outInv_issuePriv hs
  | klaunch => exact outInv_execKlaunch hs
  | kwait => exact outInv_execKwait hs
  | ctxsave => exact outInv_contextOp (fun _ _ _ _ hs => inv_askSuspend hs) hs
  | ctxload => exact outInv_contextOp (fun _ _ _ _ hs => inv_askResume hs) hs
  | svrd => exact outInv_execSvrd hs
  | svwr => exact outInv_execSvwr hs
  | warm => exact outInv_execWarm hs
  | wdisarm => exact outInv_execWdisarm hs
  | trapEntry => exact outInv_next (inv_ifLive (fun _ hs => inv_takeOutside hs) hs)
  | entryComplete => exact outInv_next (inv_ifLive (fun _ hs => inv_completeOldest hs) hs)
  | barWaitEnd => exact outInv_next (inv_ifLive (fun _ hs => inv_barEnds hs) hs)
  | yieldExpiry => exact outInv_next (inv_ifLive (fun _ hs => inv_yieldEnds hs) hs)
  | streamFetch => exact outInv_next (inv_ifLive (fun _ hs => inv_streamFetch hs) hs)
  | streamStoreWrite => exact outInv_next (inv_ifLive (fun _ hs => inv_streamStoreWrite hs) hs)
  | sgatherRow => exact outInv_next (inv_ifLive (fun _ hs => inv_sgatherRow hs) hs)
  | copyChunk => exact outInv_next (inv_ifLive (fun _ hs => inv_copyChunk hs) hs)
  | driveRequest => exact outInv_next (inv_ifLive (fun _ hs => inv_driveServe hs) hs)
  | pairError => exact outInv_next (inv_ifLive (fun _ hs => inv_pairFails hs) hs)
  | turnBegin => exact outInv_next (inv_ifLive (fun _ hs => inv_onLink (fun _ _ hs => inv_turnBegin hs) hs) hs)
  | autoTurn => exact outInv_next (inv_ifLive (fun _ hs => inv_onLink (fun _ _ hs => inv_autoTurn hs) hs) hs)
  | turnDrainEnd => exact outInv_next (inv_ifLive (fun _ hs => inv_onLink (fun _ _ hs => inv_turnDrainEnd hs) hs) hs)
  | turnDeadTimeEnd => exact outInv_next (inv_ifLive (fun _ hs => inv_onLink (fun _ _ hs => inv_turnDeadTimeEnd hs) hs) hs)
  | linkPaused => exact outInv_next (inv_ifLive (fun _ hs => inv_onLink (fun _ _ hs => inv_linkPaused hs) hs) hs)
  | ltrainDone => exact outInv_next (inv_ifLive (fun _ hs => inv_onLink (fun _ _ hs => inv_ltrainDone hs) hs) hs)
  | flitReplay => exact outInv_next (inv_ifLive (fun _ hs => inv_onLink (fun _ _ hs => inv_flitReplay hs) hs) hs)
  | put | getreq | atom | notify | ack | getdata | atomrsp =>
    exact outInv_next (inv_ifLive (fun _ hs => inv_packetArrives hs) hs)
  | bell => exact outInv_next (inv_ifLive (fun _ hs => inv_bellArrives hs) hs)
  | rbell => exact outInv_next (inv_ifLive (fun _ hs => inv_rbellArrives hs) hs)
  | beaconFlitReplay => exact outInv_next (inv_ifLive (fun _ hs => inv_beaconFlitReplay hs) hs)
  | portUp => exact outInv_next (inv_ifLive (fun _ hs => inv_portUp hs) hs)
  | launchBind => exact outInv_next (inv_ifLive (fun _ hs => inv_launchBind hs) hs)
  | preEmption => exact outInv_next (inv_ifLive (fun _ hs => inv_preEmption hs) hs)
  | contextSave => exact outInv_next (inv_ifLive (fun _ hs => inv_contextSave hs) hs)
  | completionEntryWrite =>
    exact outInv_next (inv_ifLive (fun _ hs => inv_onQueue (fun _ _ hs => inv_writeCompletion hs) hs) hs)
  | sqtail => exact outInv_next (inv_ifLive (fun _ hs => inv_onQueue (fun _ _ hs => inv_sqtailBell hs) hs) hs)
  | cqhead => exact outInv_next (inv_ifLive (fun _ hs => inv_onQueue (fun _ _ hs => inv_cqheadBell hs) hs) hs)
  | enable => exact outInv_next (inv_onQueue (fun _ _ hs => inv_enableWrite hs) hs)
  | tenantCreate | tenantReset | tenantDelete | ownerSet | pairCreate | pairDelete | regionCreate | regionDelete
  | gangCreate | gangDelete | gangSwitchSave | gangSwitchResume | launchSuspend | launchResume | debugGrant | launch
  | invalidate | faultReplyRetry | faultReplyAbort | nop =>
    exact outInv_next (inv_hostCommand hs)
  | bootgo => exact outInv_next (inv_bootRun hs)
  | resetkey => exact outInv_next (inv_resetKey hs)
  | powerOn => exact outInv_next (inv_deviceReset hs)
  | attreq => exact outInv_next (inv_attest hs)
  | fatalreq => exact outInv_next (inv_fatalRequest hs)
  | svnfuse => exact outInv_next (inv_ifLive (fun _ hs => inv_blowFuses hs) hs)
  | clusterRetire => exact outInv_next (inv_ifLive (fun _ hs => inv_retireAt hs) hs)
  | ownerEntryWrite => exact outInv_next (inv_ifLive (fun _ hs => inv_ownerWriteAt hs) hs)
  | registerWrite => exact outInv_next (inv_registerWrite hs)
  | powerClampWindow => exact outInv_next (inv_ifLive (fun _ hs => inv_powerWindow hs) hs)
  | junctionHot => exact outInv_next (inv_ifLive (fun _ hs => inv_hotDie hs) hs)
  | thermal => exact outInv_next (inv_thermalAt hs)
  | cdMemory => exact outInv_next (inv_memoryError hs)
  | dumpdone => exact outInv_next (inv_dumpDone hs)

/-! ### `Machine/Run` -/

theorem outInv_runWord {w} {s : State} (hs : s.Inv) : OutInv (runWord w s) := by
  unfold runWord
  split
  · exact outInv_emulate hs
  · split
    · exact outInv_exec hs
    · exact .ite (outInv_next (inv_trapHere _ _ hs)) (outInv_next hs)

theorem outInv_runNext {s : State} (hs : s.Inv) : OutInv (runNext s) := by
  unfold runNext
  dsimp only
  split
  · exact outInv_portableStep hs
  · split
    · exact outInv_runWord ((inv_fetchWord hs).of_eq ‹_›)
    · exact outInv_next ((inv_fetchWord hs).of_eq ‹_›)
    · exact outInv_next (inv_trapHere _ _ ((inv_fetchWord hs).of_eq ‹_›))

theorem outInv_runTurn {s : State} (hs : s.Inv) : OutInv (runTurn s) :=
  .ite (outInv_next hs) (.ite (outInv_runNext hs) (outInv_next (inv_takeOutside hs)))

theorem inv_rotate {s : State} {c} (hs : s.Inv) : (State.rotate s c).Inv :=
  hs.of_mem rfl

theorem inv_turned {s : State} {h} {t : State} (_ : s.Inv) (ht : t.Inv) : (State.turned s h t).Inv :=
  .ite (inv_dropFlits ht) (inv_rotate (inv_dropFlits ht))

theorem outInv_runHart {h} {s : State} (hs : s.Inv) : OutInv (runHart h s) := by
  unfold runHart
  have hturn : OutInv (runTurn { s with cur := h }) := outInv_runTurn (hs.of_mem rfl)
  refine .ite (outInv_next hs) ?_
  split
  · exact outInv_next (inv_turned hs (hturn.of_eq ‹_›))
  · exact hturn

theorem inv_closeFailed {s : State} (hs : s.Inv) : (State.closeFailed s).Inv :=
  inv_foldl (inv_foldl hs fun _ _ hs => inv_closeShadows hs) fun _ _ hs => inv_haltHart hs

theorem inv_settle {s : State} (hs : s.Inv) : (settle s).Inv :=
  .ite (inv_fatalFreeze (.ite hs (inv_closeFailed (inv_flowFlits (fun _ hs => inv_foldl hs fun _ _ hs =>
    inv_drain hs) (inv_closeFailed (inv_foldl hs fun _ _ hs => inv_drain hs)))))) (.ite hs (inv_closeFailed (inv_flowFlits
    (fun _ hs => inv_foldl hs fun _ _ hs => inv_drain hs) (inv_closeFailed (inv_foldl hs fun _ _ hs => inv_drain hs)))))

theorem inv_upsetSub {core row col} {s : State} (hs : s.Inv) : (upsetSub core row col s).Inv :=
  .ite (hs.of_mem rfl) hs

theorem inv_dropEntry {lane unit i} {s : State} (hs : s.Inv) : (dropEntry lane unit i s).Inv :=
  .ite (hs.of_mem rfl) (hs.of_mem rfl)

theorem inv_upsetWord {pa on} {s : State} (hs : s.Inv) : (upsetWord pa on s).Inv :=
  hs.of_mem rfl

theorem inv_attachDrive {port rid accepts} {s : State} (hs : s.Inv) : (attachDrive port rid accepts s).Inv :=
  .ite (hs.of_mem rfl) hs

theorem inv_upsetCell {core row col correctable} {s : State} (hs : s.Inv) : (upsetCell core row col correctable s).Inv :=
  .ite (hs.of_mem rfl) (hs.of_mem rfl)

theorem outInv_runEvent {i} {s : State} (hs : s.Inv) : OutInv (runEvent i s) := by
  unfold runEvent
  split
  · exact .ite (outInv_runHart hs) (outInv_exec hs)
  · exact outInv_exec hs

theorem outInv_runAct {a} {s : State} (hs : s.Inv) : OutInv (runAct a s) := by
  unfold runAct
  split
  · exact .ite outInv_fault (outInv_runHart hs)
  · exact outInv_runEvent hs
  · exact outInv_next (inv_setByte hs)
  · exact outInv_next (inv_upsetCell hs)
  · exact outInv_next (inv_upsetSub hs)
  · exact outInv_next (inv_copyUpset hs)
  · exact outInv_next (inv_packetUpset hs)
  · exact outInv_next (inv_dropEntry hs)
  · exact outInv_next (inv_upsetWord hs)
  · exact outInv_next (hs.of_mem rfl)
  · exact outInv_next (inv_putFlit hs)
  · exact outInv_next (hs.of_mem rfl)
  · exact outInv_next (inv_updHart _ _ _ hs)
  · exact outInv_next (inv_attachDrive hs)
  · exact outInv_next (inv_detachDrive hs)
  · exact outInv_next hs
  · exact outInv_next (.ite hs (inv_headerArrives hs))
  · exact outInv_next (hs.of_mem rfl)
  · exact outInv_next (inv_launchSuper hs)
  · exact outInv_next (inv_setSupv hs)

theorem moveInv_linkMoves {l} : ∀ f ∈ linkMoves l, MoveInv f := by
  simp only [linkMoves, List.forall_mem_cons, List.not_mem_nil, false_implies, implies_true, and_true]
  refine ⟨fun s hs => ?_, fun _ hs => .ite (inv_autoTurn hs) hs, fun _ hs => .ite (inv_autoTurn hs) hs,
    fun _ hs => inv_turnBegin hs, fun _ hs => inv_linkPaused hs, fun _ hs => .ite (inv_ltrainDone hs) hs⟩
  beta_reduce
  split
  · exact .ite (inv_turnDeadTimeEnd hs) (inv_turnDrainEnd hs)
  · exact hs

theorem moveInv_deviceMoves {s : State} : ∀ f ∈ deviceMoves s, MoveInv f := by
  simp only [deviceMoves, List.forall_mem_append, List.forall_mem_map, List.mem_flatMap, List.forall_mem_cons,
    List.not_mem_nil, false_implies, implies_true, and_true, and_assoc]
  refine ⟨fun _ _ _ => inv_readRing, fun _ _ _ => inv_startNext, fun _ _ _ => inv_contextSave, fun _ _ _ => inv_launchDone,
    fun _ _ _ => inv_launchBind, fun _ _ _ => inv_preEmption, fun _ _ _ => inv_pairDeleted, fun _ _ _ => inv_finishSave,
    fun _ _ _ => inv_releaseGang, fun _ _ _ => inv_finishResume, fun _ _ _ => inv_resetEnd, fun _ _ _ => inv_writeCompletion,
    fun _ hs => .ite hs (inv_serveInTurn hs), ?_, fun _ => inv_pumpFabric, fun _ => inv_dropUnneeded⟩
  rintro f ⟨l, -, hf⟩
  exact moveInv_linkMoves f hf

theorem inv_firstMove {fs} {s : State} (hf : ∀ f ∈ fs, MoveInv f) (hs : s.Inv) : (firstMove fs s).Inv := by
  induction fs with
  | nil => exact hs
  | cons f fs ih => exact .ite (ih fun g hg => hf g (List.mem_cons_of_mem f hg)) (hf f List.mem_cons_self s hs)

theorem inv_deviceMove {s : State} (hs : s.Inv) : (deviceMove s).Inv := .ite hs (inv_firstMove moveInv_deviceMoves hs)

theorem outInv_firstTurn {a0} {s : State} (hs : s.Inv) : OutInv (firstTurn a0 s) := by
  induction a0 generalizing s with
  | nil => exact outInv_next hs
  | cons _ _ ih =>
    rw [firstTurn]
    split
    · exact .ite (ih hs) (outInv_next ((outInv_runHart hs).of_eq ‹_›))
    · exact outInv_runHart hs

theorem outInv_runIdle {s : State} (hs : s.Inv) : OutInv (runIdle s) :=
  outInv_firstTurn (inv_deviceMove hs)

theorem outInv_advance {s : State} (hs : s.Inv) : OutInv (advance s) := by
  unfold advance
  split
  · exact outInv_runAct (hs.of_mem rfl)
  · exact outInv_runIdle hs

/-! ### `Machine/Step` -/

theorem outInv_step {s : State} (hs : s.Inv) : OutInv (step s) := by
  unfold step
  have hadvance : OutInv (advance { s with cycle := s.cycle + 1 }) := outInv_advance (hs.of_mem rfl)
  split
  · exact outInv_next (inv_settle (hadvance.of_eq ‹_›))
  · exact hadvance

end Sys2Proof.Machine

/-!
The step.
-/

namespace Sys2Proof.Settled

open Sys2Proof.Machine

/-- Settles O14: whatever the step runs keeps memory canonical, down to the byte written. -/
theorem stepKeepsMemoryCanonical : Obligations.StepKeepsMemoryCanonical := fun _ _ hs e => (outInv_step hs).of_eq e

end Sys2Proof.Settled

/-!
An entry alone in its queue (04 R45, R157 to R160): one attempt at it is all that the advance of the queue makes of it, when the
attempt completes it or ends in a trap. A queue without an open entry stays as it is.
-/

namespace Sys2Proof.Machine

/-! ### Queues with nothing open -/

/-- Each entry that a trap holds is held or complete (R159). -/
theorem open_holdEntries (v : Nat) (q : List Entry) : ∀ o ∈ holdEntries v q, o.open = false := by
  induction q generalizing v with
  | nil => simp [holdEntries]
  | cons e q ih =>
    unfold holdEntries
    cases h : e.st
    all_goals exact List.forall_mem_cons.2 ⟨by simp [Entry.open, h], ih _⟩

/-- A hart that has taken a trap works on no entry, whether its queue is held (R159) or discarded (R160). -/
theorem open_takeTrap (x : Hart) (vec : Bool) (qsn : BitVec 16) (tpc : Word) (t : TrapInfo) :
    ∀ o ∈ (takeTrap x vec qsn tpc t).queue, o.open = false := by
  unfold takeTrap
  split
  · simp [contextFault]
  · exact open_holdEntries _ _

section
variable {h : Nat} {s : State}

theorem sweepQueue_of_closed (hs : ∀ o ∈ (s.hart h).queue, o.open = false) (uids : List Nat) : sweepQueue h uids s = s := by
  induction uids with
  | nil => rfl
  | cons uid uids ih =>
    rw [sweepQueue]
    split
    · next e he => simpa [hs e (List.mem_of_find?_eq_some he)] using ih
    · exact ih

theorem drainQueue_of_closed (hs : ∀ o ∈ (s.hart h).queue, o.open = false) (n : Nat) : drainQueue h n s = s := by
  cases n with
  | zero => rfl
  | succ n => rw [drainQueue, sweepQueue_of_closed hs, if_pos rfl]

/-! ### One entry -/

variable {e : Entry}

/-- The sweep of a queue of one open entry is one attempt at it: no earlier entry holds it back. -/
theorem sweepQueue_alone (hq : (s.hart h).queue = [e]) (ho : e.open = true) (hr : (s.hart h).run = .running) :
    sweepQueue h ((s.hart h).queue.map (·.uid)) s = runEntry h e.uid s := by
  simp [sweepQueue, hq, ho, hr, Hart.mayRun]

/-- An attempt that leaves nothing open is all that the advance of a queue of one entry does. -/
theorem drain_alone (hlag : (s.hart h).lag = false) (hr : (s.hart h).run = .running) (hq : (s.hart h).queue = [e])
    (ho : e.open = true) (hc : ∀ o ∈ ((runEntry h e.uid s).hart h).queue, o.open = false) : drain h s = runEntry h e.uid s := by
  have once : drain h s = drainQueue h 256 s := by simp [drain, hlag, hr, hq, ho]
  rw [once, drainQueue, sweepQueue_alone hq ho hr, drainQueue_of_closed hc, ite_eq_right_iff]
  exact Eq.symm

/-! ### One attempt -/

/-- The state in which an attempt at an entry of hart `h` begins: the other reads that wait on the scratchpad have what is full before
a consuming read of it (02 R86), and the running index is the entry's (R159). -/
def State.attempting (s : State) (h : Nat) (e : Entry) : State :=
  { if (s.hart h).consumes e.op then s.releaseReads h else s with cur := h }.updHart h (fun x => { x with p := e.restart.getD 0 })

variable {t : State}

/-- An attempt that ends completes its entry (R158). -/
theorem runEntry_of_ok (hq : (s.hart h).queue = [e]) (hf : s.entryFenced h e = false) (hs : s.entryShut h e = [])
    (hl : e.lazyTile = false) (hr : runM (runEntryM e) (s.attempting h e) = (.ok (), t)) :
    runEntry h e.uid s = { t.updHart h (fun x => completeEntry x e.uid) with cur := s.cur } := by
  unfold State.attempting at hr
  simp [runEntry, hq, hf, hs, hl, hr]

/-- An attempt that traps is the trap of its entry, which keeps its index (R159, R160). -/
theorem runEntry_of_trap {c : TrapInfo} (hq : (s.hart h).queue = [e]) (hf : s.entryFenced h e = false)
    (hs : s.entryShut h e = []) (hr : runM (runEntryM e) (s.attempting h e) = (.error (.trap c), t)) :
    runEntry h e.uid s = { t.updHart h (fun x => takeTrap (keepIndex x e.uid) true e.qsn x.pc c) with cur := s.cur } := by
  unfold State.attempting at hr
  simp [runEntry, hq, hf, hs, hr]

/-- An update of the hart whose turn it still is. -/
theorem updHart_of_cur (ht : t.cur = h) (f : Hart → Hart) : { t.updHart h f with cur := h } = t.updMe f := by
  subst ht
  rfl

end

/-! ### An entry that has just issued -/

section
variable {s : State} {op : QOp} {w : BitVec 32} {rd ra rb : Nat} {dst : Option Nat}

@[simp] theorem lag_issued : (s.issued op w rd ra rb dst).me.lag = s.me.lag := by
  unfold State.issued; rw [me_updMe]; rfl

@[simp] theorem run_issued : (s.issued op w rd ra rb dst).me.run = s.me.run := by
  unfold State.issued; rw [me_updMe]; rfl

/-- The only entry of a queue that was empty is the one that issues: it waits, with no index of its own (R157). -/
theorem entry_issued {e : Entry} (hq : s.me.queue = []) (he : (s.issued op w rd ra rb dst).me.queue = [e]) :
    e.op = op ∧ e.st = .waiting ∧ e.restart = none ∧ e.lazyTile = (op.tileWord && s.me.tileIssue == 0) := by
  simp only [State.issued, me_updMe, Hart.adv, Hart.updEntry, pushEntry, hq, List.nil_append, List.map_cons, List.map_nil,
    if_true, List.cons.injEq, and_true] at he
  subst he
  exact ⟨rfl, rfl, rfl, rfl⟩

end

end Sys2Proof.Machine

/-!
Supervisor events (13 R406 to R412): what attestation changes of the registers, and what the retirement of a cluster does to LANEMASK.
-/

namespace Sys2Proof.Machine

section
variable (s : State)

@[simp] theorem setBytes_harts (pa n v : Nat) : (s.setBytes pa n v).harts = s.harts := by
  induction n generalizing s pa v with
  | zero => rfl
  | succ n ih => exact ih ..

@[simp] theorem setBytes_boot (pa n v : Nat) : (s.setBytes pa n v).boot = s.boot := by
  induction n generalizing s pa v with
  | zero => rfl
  | succ n ih => exact ih ..

/-- ATTREQ is clear once the report is made (13 R410). -/
theorem attreq_attest : (attest s).boot.attreq = false := by
  unfold attest
  dsimp only
  split <;> simp

theorem harts_attest : (attest s).harts = s.harts := by
  unfold attest
  dsimp only
  split <;> simp

/-- Undefined registers of the grid leave the cores' clusters in service (05 R208). -/
theorem cores_undefineRegs (h : Nat) : (s.undefineRegs h).cores = s.cores := by
  refine List.foldlRecOn (motive := fun t : State => t.cores = s.cores) _ _ rfl fun t ht q _ => ?_
  dsimp only
  split <;> exact ht

/-- The cores after a cluster of `core` has left service: what its harts lose is none of theirs (01 R32). -/
theorem cores_retireCluster (core die c : Nat) : (s.retireCluster core die c).cores =
    if (s.core core).retired.getLsbD (4 * die + c) then s.cores
    else smPut s.cores core { s.core core with retired := (s.core core).retired ||| 1#32 <<< (4 * die + c) } := by
  unfold State.retireCluster
  refine (apply_ite State.cores _ _ _).trans (if_congr Iff.rfl rfl ?_)
  refine List.foldlRecOn (motive := fun t : State => t.cores = _) _ _ rfl fun t ht i _ => ?_
  dsimp only
  split
  · exact (cores_undefineRegs t _).trans ht
  · exact ht

theorem core_retireCluster (core die c k : Nat) : (s.retireCluster core die c).core k =
    if (s.core core).retired.getLsbD (4 * die + c) then s.core k
    else if k = core then { s.core core with retired := (s.core core).retired ||| 1#32 <<< (4 * die + c) } else s.core k := by
  rw [State.core, cores_retireCluster]
  split
  · rfl
  · exact smGet_put ..

/-- LANEMASK after CLUSTER_RETIRE: the cluster's bit of that core is clear, and every other bit is as it was (01 R32, 05 R208). -/
theorem laneMask_retireCluster (core die c k : Nat) {i : Nat} (hi : i < 32) :
    ((s.retireCluster core die c).laneMask k).getLsbD i =
      ((s.laneMask k).getLsbD i && !(decide (k = core) && decide (i = 4 * die + c))) := by
  rw [State.laneMask, core_retireCluster, State.laneMask]
  by_cases hk : k = core
  · subst hk
    by_cases hr : (s.core k).retired.getLsbD (4 * die + c) = true
    · by_cases hb : i = 4 * die + c <;> simp [hr, hb]
    · have hbit : (1#32 <<< (4 * die + c)).getLsbD i = decide (i = 4 * die + c) := by
        rw [← BitVec.twoPow_eq, BitVec.getLsbD_twoPow, Bool.eq_iff_iff]
        simp only [Bool.and_eq_true, decide_eq_true_eq]
        omega
      simp [hr, BitVec.getLsbD_or, hbit, Bool.and_assoc]
  · simp [hk]

/-- What a device that is not frozen makes of a move that the freeze stops (13 R427). -/
theorem next_ifLive {s : State} {f : State → State} (h : s.boot.fatal = false) : (.next (ifLive f s) : Out) = .next (f s) := by
  simp [ifLive, h]

end

end Sys2Proof.Machine

namespace Sys2Proof.Settled

open Sys2Proof.Machine

/-- Settles O45: the queue holds nothing but the entry, so the one attempt at it, whatever its end, leaves nothing open. -/
theorem entryRunsAtOnce : Obligations.EntryRunsAtOnce := by
  intro s t op w rd ra rb dst hq hlag hrun hlazy u v e he hshut r
  obtain ⟨hop, hst, hrestart, hl⟩ := entry_issued hq he
  have hfence : u.entryFenced s.cur e = false := by simp [State.entryFenced, hrestart]
  have hdrain := drain_alone (h := s.cur) (lag_issued.trans hlag) (run_issued.trans hrun) he (by simp [Entry.open, hst])
  have hbegin : runM (runEntryM e) (u.attempting s.cur e) = r := by
    unfold State.attempting
    rw [hop, hrestart]
    rfl
  have hme (f : Hart → Hart) (ht : t.cur = s.cur) : (t.updMe f).hart s.cur = f t.me := ht ▸ me_updMe t f
  refine ⟨fun hr ht hret => ?_, fun c hr ht _ => ?_⟩
  · have hran : runEntry s.cur e.uid u = _ :=
      (runEntry_of_ok he hfence hshut (hl.trans hlazy) (hbegin.trans hr)).trans (updHart_of_cur ht _)
    exact (hdrain (by rw [hran, hme _ ht, hret]; simp)).trans hran
  · have hran : runEntry s.cur e.uid u = _ := (runEntry_of_trap he hfence hshut (hbegin.trans hr)).trans (updHart_of_cur ht _)
    exact (hdrain (by rw [hran, hme _ ht]; exact open_takeTrap _ _ _ _ _)).trans hran

/-- Settles O56: each event by the meaning of its instruction, and its results by what `attest` and `retireCluster` do. -/
theorem supervisorEvents : Obligations.SupervisorEvents := by
  refine ⟨fun _ _ => next_ifLive, fun _ _ _ _ => next_ifLive, fun _ _ _ => next_ifLive, fun _ _ => next_ifLive, fun _ _ => next_ifLive,
    fun _ _ => rfl, fun s => ⟨rfl, attreq_attest s, harts_attest s⟩, ?_, ?_, fun _ _ _ => rfl, ?_⟩
  · intro die s hs hd
    refine ⟨_, (next_ifLive hs).trans (congrArg _ ?_), rfl⟩
    simp [hotDie, lowerClock, State.setSupv, hd]
  · intro core die cluster s hs hcore hdie hcluster
    refine ⟨s.retireCluster core die cluster, (next_ifLive hs).trans (congrArg _ ?_), ?_, ?_, ?_⟩
    · exact if_pos ⟨hcore, hdie, hcluster⟩
    · simp [laneMask_retireCluster s core die cluster core (show 4 * die + cluster < 32 by omega)]
    · intro i hi hne
      simp [laneMask_retireCluster s core die cluster core hi, hne]
    · intro k hk
      refine BitVec.eq_of_getLsbD_eq fun i hi => ?_
      simp [laneMask_retireCluster s core die cluster k hi, hk]
  · intro s hs hd
    show Host.Outcome.next (dumpDone s) = _
    simp [dumpDone, hs, hd]

end Sys2Proof.Settled

/-!
Scalar accesses (02 R55 to R67, 04 R144 to R146, R155): how the computation of an access ends, and what its instruction makes of that.
-/

namespace Sys2Proof.Machine

/-! ### How a computation goes on -/

section
variable {α β : Type} {s t : State} {m : M α} {f : α → M β} {a : α} {e : Exc}

/-- A computation goes on from where its first part ends. -/
theorem runM_bind_ok (h : runM m s = (.ok a, t)) : runM (m >>= f) s = runM (f a) t := by
  rw [runM_bind, h]

/-- A computation ends where its first part does not go through. -/
theorem runM_bind_error (h : runM m s = (.error e, t)) : runM (m >>= f) s = (.error e, t) := by
  rw [runM_bind, h]

end

section
variable {s : State} {n : Nat} {va : Hart → Word} {rest : Hart → Unit → M Unit}

theorem runM_alignCheck_of_mod {va : Word} (h : va.toNat % n = 0) : runM (alignCheck va n 0) s = (.ok (), s) := by
  rw [runM_alignCheck, if_pos h]

theorem runM_alignCheck_of_not_mod {va : Word} (h : va.toNat % n ≠ 0) :
    runM (alignCheck va n 0) s = (.error (.trap { code := 4, i0 := va }), s) := by
  rw [runM_alignCheck, if_neg h]
  rfl

/-- The effect of an instruction with an address of the running hart that is aligned (02 R75). -/
theorem runM_aligned (h : (va s.me).toNat % n = 0) :
    runM (meM >>= fun x => alignCheck (va x) n 0 >>= rest x) s = runM (rest s.me ()) s :=
  (runM_bind_ok (runM_meM s)).trans (runM_bind_ok (runM_alignCheck_of_mod h))

/-- The effect of an instruction with an address that is not aligned (02 R75). -/
theorem runM_misaligned (h : (va s.me).toNat % n ≠ 0) :
    runM (meM >>= fun x => alignCheck (va x) n 0 >>= rest x) s = (.error (.trap { code := 4, i0 := va s.me }), s) :=
  (runM_bind_ok (runM_meM s)).trans (runM_bind_error (runM_alignCheck_of_not_mod h))

end

/-! ### Instructions that access memory -/

section
variable {s t : State} {m : M Unit} {regs : List Nat} {kinds : BitVec 5} {e : TrapInfo}

/-- A FENCE that holds nothing of some kinds back holds nothing of fewer back (04 R156). -/
theorem fenced_of_subset {a b : BitVec 5} (hab : a &&& b = a) (hb : s.fenced b = false) : s.fenced a = false := by
  have sub (q : BitVec 5) (hq : q &&& b = 0) : q &&& a = 0 := by
    rw [← hab, BitVec.and_comm a b, ← BitVec.and_assoc, hq]
    exact BitVec.zero_and
  have scalar : (b &&& 3 != 0) = false → (a &&& 3 != 0) = false := by
    simpa [BitVec.and_comm] using sub 3
  simp only [State.fenced, Bool.or_eq_false_iff, List.any_eq_false, Bool.and_eq_true, Bool.and_eq_false_iff, decide_eq_true_eq] at hb ⊢
  obtain ⟨hfences, hacquire⟩ := hb
  exact ⟨fun f hf ⟨hq, hbusy⟩ => hfences f hf ⟨fun h => hq (sub _ h), hbusy⟩, hacquire.imp_left scalar⟩

section
variable (hf : s.fenced kinds = false) (hr : s.me.ready regs = true)
include hf hr

theorem memInstr_ok (h : runM m s = (.ok (), t)) : memInstr regs kinds m s = .next t.past := by
  simp only [memInstr, hf, scalarRun, hr, if_true, Bool.false_eq_true, if_false, scalarM]
  rw [runM_bind_ok h]
  rfl

theorem memInstr_trap (h : runM m s = (.error (.trap e), t)) : memInstr regs kinds m s = .next (t.trapHere e) := by
  simp only [memInstr, hf, scalarRun, hr, if_true, Bool.false_eq_true, if_false, scalarM]
  rw [runM_bind_error h]

/-- An instruction whose effect ends in a write of s[rd]. -/
theorem memInstr_put {rd : BitVec 5} {v : Word} (h : runM m s = runM (updMeM (fun x => x.setS rd.toNat v)) t) :
    memInstr regs kinds m s = .next (t.put rd v) :=
  (memInstr_ok hf hr (h.trans (runM_updMeM ..))).trans (congrArg _ (updMe_updMe ..))

end

end

/-! ### Loads, stores and LDA -/

section
variable {rd ra : BitVec 5} {off : BitVec 13} {w : BitVec 1} {s t : State} {n v : Nat} {ext : Nat → Word} {e : TrapInfo}
variable (hr : s.me.ready [rd.toNat, ra.toNat] = true)
include hr

section
variable (hf : s.fenced 1 = false)
include hf

theorem loadOp_misaligned (ha : (s.reg ra + off.signExtend 64).toNat % n ≠ 0) :
    loadOp rd ra off n ext s = .next (s.trapHere { code := 4, i0 := s.reg ra + off.signExtend 64 }) :=
  memInstr_trap hf hr (runM_misaligned ha)

theorem loadOp_trap (ha : (s.reg ra + off.signExtend 64).toNat % n = 0)
    (h : runM (memRead none 0 (s.reg ra + off.signExtend 64) n .load 0) s = (.error (.trap e), t)) :
    loadOp rd ra off n ext s = .next (t.trapHere e) :=
  memInstr_trap hf hr ((runM_aligned ha).trans (runM_bind_error h))

theorem loadOp_ok (ha : (s.reg ra + off.signExtend 64).toNat % n = 0) (h : s.reads (s.reg ra + off.signExtend 64) n v t) :
    loadOp rd ra off n ext s = .next (t.put rd (ext v)) :=
  memInstr_put hf hr ((runM_aligned ha).trans (runM_bind_ok h))

theorem ldaOp_misaligned (ha : (s.reg ra).toNat % rmwBytes w ≠ 0) :
    ldaOp rd ra w s = .next (s.trapHere { code := 4, i0 := s.reg ra }) :=
  memInstr_trap hf hr (runM_misaligned ha)

theorem ldaOp_trap (ha : (s.reg ra).toNat % rmwBytes w = 0)
    (h : runM (memRead none 0 (s.reg ra) (rmwBytes w) .load 0) s = (.error (.trap e), t)) :
    ldaOp rd ra w s = .next (t.trapHere e) :=
  memInstr_trap hf hr ((runM_aligned ha).trans (runM_bind_error h))

theorem ldaOp_ok (ha : (s.reg ra).toNat % rmwBytes w = 0) (h : s.reads (s.reg ra) (rmwBytes w) v t) :
    ldaOp rd ra w s = .next (t.put rd (signBytes (rmwBytes w) v)) :=
  memInstr_put hf hr ((runM_aligned ha).trans (runM_bind_ok h))

end

section
variable (hf : s.fenced 2 = false)
include hf

theorem storeOp_misaligned (ha : (s.reg ra + off.signExtend 64).toNat % n ≠ 0) :
    storeOp rd ra off n s = .next (s.trapHere { code := 4, i0 := s.reg ra + off.signExtend 64 }) :=
  memInstr_trap hf hr (runM_misaligned ha)

theorem storeOp_trap (ha : (s.reg ra + off.signExtend 64).toNat % n = 0)
    (h : runM (memWrite none 0 (s.reg ra + off.signExtend 64) n ((s.reg rd).toNat % 2 ^ (8 * n)) .store 0) s = (.error (.trap e), t)) :
    storeOp rd ra off n s = .next (t.trapHere e) :=
  memInstr_trap hf hr ((runM_aligned ha).trans h)

theorem storeOp_ok (ha : (s.reg ra + off.signExtend 64).toNat % n = 0)
    (h : s.writes (s.reg ra + off.signExtend 64) n ((s.reg rd).toNat % 2 ^ (8 * n)) t) :
    storeOp rd ra off n s = .next t.past :=
  memInstr_ok hf hr ((runM_aligned ha).trans h)

end

end

/-! ### Accesses that a TLB entry maps -/

section
variable {s : State} {va : Word} {n pa v : Nat} {k : Acc}

/-- An access that a TLB entry maps translates by it and changes nothing (02 R55 to R60, R63). -/
theorem translate_of_maps (h : s.maps va n k pa) :
    ∃ p, p.pa = pa ∧ p.attr ≠ 2 ∧ translate (s.coreAgent s.cur) va k s = (.ok p, s) := by
  obtain ⟨-, hcanon, hregion, ⟨e, hfind, hattr, rfl, hframe, hperm⟩, -⟩ := h
  have hregion' : s.regionAt (s.coreAgent s.cur).tenant va.toNat = none := hregion
  have hleaf : s.leafFor (s.coreAgent s.cur) va.toNat k.isWrite = .ok { level := e.level, pte := e.pte, walked := none, die := 8 } := by
    have hfirst : (s.coreAgent s.cur).core.bind (fun c => tlbFind (s.coreTlb c) (s.coreAgent s.cur).tenant va.toNat k.isWrite) = some e :=
      hfind
    rw [State.leafFor, hfirst]
  refine ⟨{ pa := _, attr := (e.pte.extractLsb' 8 3).toNat, map := (e.pte.extractLsb' 12 36).toNat * 4096 }, rfl, hattr, ?_⟩
  simp only [translate, hcanon, hregion', hleaf, hattr, hframe, hperm, ne_eq, not_true_eq_false, if_false, if_true, Bool.not_true,
    Bool.false_eq_true, State.useLeaf]

/-- An access that a TLB entry maps and the checks permit resolves to its page and changes nothing (02 R67). -/
theorem resolve_of_maps (h : s.maps va n k pa) :
    ∃ p, p.pa = pa ∧ p.attr ≠ 2 ∧ resolve (s.coreAgent s.cur) true va n k s = (.ok p, s) := by
  obtain ⟨p, rfl, hattr, htranslate⟩ := translate_of_maps h
  obtain ⟨-, -, -, -, hshut, -, howner⟩ := h
  have hroute : s.shutHops (s.coreAgent s.cur).sender (s.coreAgent s.cur).at' (servedAt p.pa) = [] := hshut
  have hpermit : s.ownerOk (s.coreAgent s.cur) p.pa n k = true := howner
  exact ⟨p, rfl, hattr, by simp [resolve, htranslate, hroute, checkOwner, hpermit, hattr, noted]⟩

theorem loadVirt_of_maps (h : s.maps va n k pa) : loadVirt (s.coreAgent s.cur) true va n k s = (.ok (s.bytesAt pa n), s) := by
  obtain ⟨p, rfl, hattr, hresolve⟩ := resolve_of_maps h
  simp [loadVirt, hresolve, hattr]

theorem not_hostHeld_of_maps (h : s.maps va n k pa) : s.hostHeld (s.coreAgent s.cur) s.cur none va k = false := by
  obtain ⟨-, -, -, -, -, hio, -⟩ := h
  simp [State.hostHeld, hio]

theorem memRead_of_maps (h : s.maps va n k pa) : runM (memRead none 0 va n k 0) s = (.ok (s.bytesAt pa n), s) := by
  have hheld := not_hostHeld_of_maps h
  have hload := loadVirt_of_maps h
  obtain ⟨hcur, -⟩ := h
  refine (runM_bind_ok (runM_get s)).trans ?_
  rw [if_neg hcur]
  simp only [State.accessAgent, Option.map_none, hheld, Bool.false_eq_true, if_false, Option.isNone_none, runM_accM, hload]

theorem writeCheck_of_maps (h : s.maps va n k pa) : runM (writeCheck none 0 va n k 0) s = (.ok pa, s) := by
  have hheld := not_hostHeld_of_maps h
  obtain ⟨p, rfl, -, hresolve⟩ := resolve_of_maps h
  refine (runM_bind_ok (runM_get s)).trans ?_
  simp only [State.accessAgent, Option.map_none, hheld, Bool.false_eq_true, if_false, Option.isNone_none]
  refine (runM_bind_ok (a := p) (t := s) ?_).trans rfl
  simp only [runM_accM, hresolve]

theorem checked_of_maps (h : s.maps va n .atomic pa) : s.checked va n pa s := ⟨h.1, writeCheck_of_maps h⟩

/-- No pass marker waits (13 R422). -/
theorem takePass_of_none (h : s.me.watchPass = none) (entry : Bool) (key : Nat) : runM (takePass entry key) s = (.ok false, s) := by
  refine (runM_bind_ok (runM_meM s)).trans ?_
  rw [if_neg (by simp [h])]
  rfl

theorem passUnused_of_none (h : s.me.watchPass = none) : runM (passUnused none 0 0) s = (.ok (), s) :=
  (runM_bind_ok (runM_meM s)).trans (runM_bind_ok (takePass_of_none h ..))

theorem watchCheck_of_unwatched (h : s.unwatched pa n) : runM (watchCheck none 0 va pa n 0) s = (.ok (), s) := by
  obtain ⟨hhits, hpass⟩ := h
  refine (runM_bind_ok (runM_get s)).trans ((runM_bind_ok (takePass_of_none hpass ..)).trans ?_)
  rw [hhits]
  rfl

theorem memWrite_of_maps (h : s.maps va n k pa) (hw : s.unwatched pa n) :
    runM (memWrite none 0 va n v k 0) s = (.ok (), s.setBytes pa n v) := by
  have hcheck := writeCheck_of_maps h
  obtain ⟨hcur, -⟩ := h
  refine (runM_bind_ok (runM_get s)).trans ?_
  rw [if_neg hcur]
  exact (runM_bind_ok hcheck).trans ((runM_bind_ok (watchCheck_of_unwatched hw)).trans rfl)

theorem dvd_leafSize (level : Nat) : 4096 ∣ leafSize level := by
  unfold leafSize
  split
  · decide
  · split <;> decide

/-- What a TLB entry maps an address to is as aligned as the address. -/
theorem mod_of_maps (h : s.maps va n k pa) (hn : n ∣ 4096) (ha : va.toNat % n = 0) : pa % n = 0 := by
  obtain ⟨-, -, -, ⟨e, -, -, rfl, -⟩, -⟩ := h
  have hoffset : n ∣ va.toNat % leafSize e.level := (Nat.dvd_mod_iff (hn.trans (dvd_leafSize _))).2 (Nat.dvd_of_mod_eq_zero ha)
  exact Nat.mod_eq_zero_of_dvd ((hn.mul_left _).add hoffset)

end

/-! ### What a write of memory leaves -/

section
variable (s : State)

/-- A write of memory changes nothing but memory. -/
theorem setBytes_eq (pa n v : Nat) : s.setBytes pa n v = { s with mem := (s.setBytes pa n v).mem } := by
  induction n generalizing s pa v with
  | zero => rfl
  | succ n ih =>
    rw [State.setBytes, ih]
    rfl

@[simp] theorem setBytes_cur (pa n v : Nat) : (s.setBytes pa n v).cur = s.cur := by rw [setBytes_eq]

@[simp] theorem hart_setBytes (pa n v h : Nat) : (s.setBytes pa n v).hart h = s.hart h := by rw [setBytes_eq]; rfl

@[simp] theorem me_setBytes (pa n v : Nat) : (s.setBytes pa n v).me = s.me := by rw [setBytes_eq]; rfl

@[simp] theorem bytesAt_updMe (f : Hart → Hart) (pa n : Nat) : (s.updMe f).bytesAt pa n = s.bytesAt pa n := by
  induction n generalizing pa with
  | zero => rfl
  | succ n ih => simp [State.bytesAt, ih]

theorem bytesAt_lt (pa n : Nat) : s.bytesAt pa n < 2 ^ (8 * n) := by
  induction n generalizing pa with
  | zero => simp [State.bytesAt]
  | succ n ih =>
    have low := (s.byteAt pa).isLt
    have high := ih (pa + 1)
    have scale : 2 ^ (8 * (n + 1)) = 256 * 2 ^ (8 * n) := by rw [Nat.mul_add, Nat.pow_add]; omega
    rw [State.bytesAt]
    omega

end

/-- A store at an aligned address that a TLB entry maps, with no watchpoint on it: its bytes, and all that it leaves (04 R144). -/
theorem storeOp_of_maps {rd ra : BitVec 5} {off : BitVec 13} {s : State} {n pa : Nat} (hn : n ∈ [1, 2, 4, 8])
    (hr : s.me.ready [rd.toNat, ra.toNat] = true) (hf : s.fenced 2 = false) (ha : (s.reg ra + off.signExtend 64).toNat % n = 0)
    (hm : s.maps (s.reg ra + off.signExtend 64) n .store pa) (hu : s.unwatched pa n) :
    ∃ t, storeOp rd ra off n s = .next t ∧ t.bytesAt pa n = (s.reg rd).toNat % 2 ^ (8 * n) ∧
      (∀ q, (∀ i, i < n → memKey q ≠ memKey (pa + i)) → t.byteAt q = s.byteAt q) ∧
      t = { s with mem := t.mem, harts := t.harts } ∧ (∀ h, h ≠ s.cur → t.hart h = s.hart h) ∧ t.me = s.me.adv := by
  have hpage : n ∣ 4096 := by fin_cases hn <;> decide
  obtain ⟨hread, hother⟩ := Settled.memoryReadAfterWrite s pa n ((s.reg rd).toNat % 2 ^ (8 * n)) hn (mod_of_maps hm hpage ha)
  refine ⟨_, storeOp_ok hr hf ha (memWrite_of_maps hm hu), ?_, hother, ?_, fun h hh => ?_, ?_⟩
  · rw [State.past, bytesAt_updMe, hread, Nat.mod_mod]
  · rw [setBytes_eq]; rfl
  · rw [State.past, hart_updMe_other _ _ _ (by simpa using hh), hart_setBytes]
  · rw [State.past, me_updMe, me_setBytes]

/-! ### Atomics -/

/-- A computation that begins with the first access of an atomic, where that ends in a trap: the supervisor core's read, or the check as
a write (04 R145). -/
theorem runM_of_atomicTraps {α : Type} {s t : State} {va : Word} {k n m : Nat} {e : TrapInfo} {f g : Nat → M α}
    (h : s.atomicTraps va k e t) (hn : s.cur = supvHart → k = n) (hm : s.cur ≠ supvHart → k = m) :
    runM (if s.cur = supvHart then memRead none 0 va n .atomic 0 >>= f else writeCheck none 0 va m .atomic 0 >>= g) s =
      (.error (.trap e), t) := by
  unfold State.atomicTraps at h
  by_cases hcur : s.cur = supvHart
  · rw [if_pos hcur, hn hcur] at h
    rw [if_pos hcur]
    exact runM_bind_error h
  · rw [if_neg hcur, hm hcur] at h
    rw [if_neg hcur]
    exact runM_bind_error h

section
variable {rd ra rb : BitVec 5} {s t u : State} {n pa v : Nat} {e : TrapInfo} {f : Nat → Nat → Nat → Option Nat} {wr : Bool}

/-- The value that an atomic writes over `old`, if any (04 R145). -/
def State.rmwNew (s : State) (f : Nat → Nat → Nat → Option Nat) (rd rb : BitVec 5) (n old : Nat) : Option Nat :=
  f old ((s.reg rb).toNat % 2 ^ (8 * n)) ((s.reg rd).toNat % 2 ^ (8 * n))

/-- What is left of an atomic of a control core's hart once its check has passed: `o` is what it writes at `pa`, `old` what it read
there, and `wr` says whether s[rd] takes that (04 R145). -/
def rmwRest (rd : BitVec 5) (va : Word) (n pa old : Nat) (o : Option Nat) (wr : Bool) : M Unit := do
  match o with
  | some v =>
    watchCheck none 0 va pa n 0
    modify (fun s => s.setBytes pa n (v % 2 ^ (8 * n)))
  | none => passUnused none 0 0
  if wr then updMeM (fun x => x.setS rd.toNat (signBytes n old))

theorem rmwBody_of_checked (ha : (s.reg ra).toNat % n = 0) (hc : s.checked (s.reg ra) n pa u) :
    runM (rmwBody rd ra rb n f wr) s = runM (rmwRest rd (s.reg ra) n pa (u.bytesAt pa n)
      (s.rmwNew f rd rb n (u.bytesAt pa n)) wr) u := by
  obtain ⟨hcur, hcheck⟩ := hc
  refine (runM_aligned ha).trans ((runM_bind_ok (runM_get s)).trans ?_)
  dsimp only
  rw [if_neg hcur]
  exact (runM_bind_ok hcheck).trans (runM_bind_ok (runM_get u))

/-- What an atomic that writes comes to, up to the write of s[rd]. -/
theorem rmwBody_writes (ha : (s.reg ra).toNat % n = 0) (hm : s.maps (s.reg ra) n .atomic pa) (hu : s.unwatched pa n)
    (hv : s.rmwNew f rd rb n (s.bytesAt pa n) = some v) :
    runM (rmwBody rd ra rb n f wr) s =
      runM (if wr then updMeM (fun x => x.setS rd.toNat (signBytes n (s.bytesAt pa n))) else pure ())
        (s.setBytes pa n (v % 2 ^ (8 * n))) := by
  rw [rmwBody_of_checked ha (checked_of_maps hm), hv]
  exact (runM_bind_ok (watchCheck_of_unwatched hu)).trans (runM_bind_ok (runM_modify ..))

theorem rmwBody_trap (ha : (s.reg ra).toNat % n = 0) (h : s.atomicTraps (s.reg ra) n e t) :
    runM (rmwBody rd ra rb n f wr) s = (.error (.trap e), t) :=
  (runM_aligned ha).trans ((runM_bind_ok (runM_get s)).trans (runM_of_atomicTraps h (fun _ => rfl) (fun _ => rfl)))

end

section
variable {rd ra rb : BitVec 5} {w : BitVec 1} {s t u : State} {pa v : Nat} {e : TrapInfo}
variable {f : Nat → Nat → Nat → Nat → Option Nat} {wr : Bool}
variable (hf : s.fenced 3 = false) (hr : s.me.ready [rd.toNat, ra.toNat, rb.toNat] = true)
include hf hr

theorem rmwOp_misaligned (ha : (s.reg ra).toNat % rmwBytes w ≠ 0) :
    rmwOp rd ra rb w f wr s = .next (s.trapHere { code := 4, i0 := s.reg ra }) :=
  memInstr_trap hf hr (runM_misaligned ha)

variable (ha : (s.reg ra).toNat % rmwBytes w = 0)
include ha

theorem rmwOp_trap (h : s.atomicTraps (s.reg ra) (rmwBytes w) e t) : rmwOp rd ra rb w f wr s = .next (t.trapHere e) :=
  memInstr_trap hf hr (rmwBody_trap ha h)

/-- An atomic that passes its check and meets a watchpoint where it writes (13 R422). -/
theorem rmwOp_watch (hc : s.checked (s.reg ra) (rmwBytes w) pa u)
    (hv : s.rmwNew (f (rmwBytes w)) rd rb (rmwBytes w) (u.bytesAt pa (rmwBytes w)) = some v)
    (h : runM (watchCheck none 0 (s.reg ra) pa (rmwBytes w) 0) u = (.error (.trap e), t)) :
    rmwOp rd ra rb w f wr s = .next (t.trapHere e) := by
  refine memInstr_trap hf hr ((rmwBody_of_checked ha hc).trans ?_)
  rw [hv]
  exact runM_bind_error h

section
variable (hm : s.maps (s.reg ra) (rmwBytes w) .atomic pa) (hu : s.unwatched pa (rmwBytes w))
include hm hu

theorem rmwOp_put (hv : s.rmwNew (f (rmwBytes w)) rd rb (rmwBytes w) (s.bytesAt pa (rmwBytes w)) = some v) :
    rmwOp rd ra rb w f true s = .next
      ((s.setBytes pa (rmwBytes w) (v % 2 ^ (8 * rmwBytes w))).put rd (signBytes (rmwBytes w) (s.bytesAt pa (rmwBytes w)))) :=
  memInstr_put hf hr (rmwBody_writes ha hm hu hv)

theorem rmwOp_past (hv : s.rmwNew (f (rmwBytes w)) rd rb (rmwBytes w) (s.bytesAt pa (rmwBytes w)) = some v) :
    rmwOp rd ra rb w f false s = .next (s.setBytes pa (rmwBytes w) (v % 2 ^ (8 * rmwBytes w))).past :=
  memInstr_ok hf hr (rmwBody_writes ha hm hu hv)

/-- An atomic that writes nothing still reads. -/
theorem rmwOp_keeps (hv : s.rmwNew (f (rmwBytes w)) rd rb (rmwBytes w) (s.bytesAt pa (rmwBytes w)) = none) :
    rmwOp rd ra rb w f true s = .next (s.put rd (signBytes (rmwBytes w) (s.bytesAt pa (rmwBytes w)))) := by
  obtain ⟨-, hpass⟩ := hu
  refine memInstr_put hf hr ((rmwBody_of_checked ha (checked_of_maps hm)).trans ?_)
  rw [hv]
  exact runM_bind_ok (passUnused_of_none hpass)

end

end

/-- The value of some bytes as a signed number is that of the word they are. -/
theorem toInt_eq_signedOf {n v : Nat} (hn : 0 < n) (hv : v < 2 ^ (8 * n)) : (BitVec.ofNat (8 * n) v).toInt = signedOf n v := by
  have scale : 2 ^ (8 * n) = 2 * 2 ^ (8 * n - 1) := by rw [← Nat.pow_succ']; congr 1; omega
  rw [BitVec.toInt_eq_toNat_cond, BitVec.toNat_ofNat, Nat.mod_eq_of_lt hv, signedOf]
  split
  · rw [if_neg (by omega)]
  · rw [if_pos (by omega)]; push_cast; rfl

theorem slt_eq_signedOf {n a b : Nat} (hn : 0 < n) (ha : a < 2 ^ (8 * n)) (hb : b < 2 ^ (8 * n)) :
    (BitVec.ofNat (8 * n) a).slt (BitVec.ofNat (8 * n) b) = decide (signedOf n a < signedOf n b) := by
  rw [BitVec.slt, toInt_eq_signedOf hn ha, toInt_eq_signedOf hn hb]

/-! ### CLAIM and BAR -/

section
variable {s t u : State} {va : Word} {pa want vlmax n : Nat} {e : TrapInfo}

theorem claimFarm_misaligned (ha : va.toNat % 16 ≠ 0) :
    runM (claimFarm va want vlmax) s = (.error (.trap { code := 4, i0 := va }), s) := by
  unfold claimFarm
  rw [if_pos ha]
  rfl

theorem claimFarm_trap (ha : va.toNat % 16 = 0) (h : s.atomicTraps va (if s.cur = supvHart then 8 else 16) e t) :
    runM (claimFarm va want vlmax) s = (.error (.trap e), t) := by
  unfold claimFarm
  rw [if_neg (not_not.2 ha)]
  exact (runM_bind_ok (runM_get s)).trans (runM_of_atomicTraps h (fun hcur => if_pos hcur) (fun hcur => if_neg hcur))

/-- CLAIM passes its check, grants something and meets a watchpoint on NEXT (04 R146, 13 R422). -/
theorem claimFarm_watch (ha : va.toNat % 16 = 0) (hc : s.checked va 16 pa u)
    (hg : Nat.min want (Nat.min (u.bytesAt (pa + 8) 8 - u.bytesAt pa 8) vlmax) ≠ 0)
    (h : runM (watchCheck none 0 va pa 8 0) u = (.error (.trap e), t)) :
    runM (claimFarm va want vlmax) s = (.error (.trap e), t) := by
  obtain ⟨hcur, hcheck⟩ := hc
  have room (next limit : Nat) : (if next < limit then limit - next else 0) = limit - next := by split <;> omega
  unfold claimFarm
  rw [if_neg (not_not.2 ha)]
  refine (runM_bind_ok (runM_get s)).trans ?_
  dsimp only
  rw [if_neg hcur]
  refine (runM_bind_ok hcheck).trans ((runM_bind_ok (runM_get u)).trans ?_)
  simp only [room]
  rw [if_pos hg]
  exact runM_bind_error h

theorem barArrive_misaligned (ha : va.toNat % 8 ≠ 0) : runM (barArrive va n) s = (.error (.trap { code := 4, i0 := va }), s) :=
  runM_bind_error (runM_alignCheck_of_not_mod ha)

theorem barArrive_trap (ha : va.toNat % 8 = 0) (h : s.atomicTraps va 8 e t) : runM (barArrive va n) s = (.error (.trap e), t) :=
  (runM_bind_ok (runM_alignCheck_of_mod ha)).trans
    ((runM_bind_ok (runM_get s)).trans (runM_of_atomicTraps h (fun _ => rfl) (fun _ => rfl)))

/-- A BAR passes its check, and the write of its arrival ends in a trap (04 R155, 13 R422). -/
theorem barArrive_watch (ha : va.toNat % 8 = 0) (hc : s.checked va 8 pa u) :
    let a := u.bytesAt pa 8 % 2 ^ 32 + 1
    let g := u.bytesAt pa 8 / 2 ^ 32
    let v := if n + 1 ≤ a then (g + 1) % 2 ^ 32 * 2 ^ 32 else g * 2 ^ 32 + a
    runM (memWrite none 0 va 8 v .atomic 0) u = (.error (.trap e), t) → runM (barArrive va n) s = (.error (.trap e), t) := by
  obtain ⟨hcur, hcheck⟩ := hc
  intro a g v h
  refine (runM_bind_ok (runM_alignCheck_of_mod ha)).trans ((runM_bind_ok (runM_get s)).trans ?_)
  dsimp only
  rw [if_neg hcur]
  refine (runM_bind_ok hcheck).trans ((runM_bind_ok (runM_get u)).trans ((runM_bind_ok (runM_pure _ u)).trans ?_))
  by_cases hlast : n + 1 ≤ a
  · rw [if_pos hlast]
    simp only [v, if_pos hlast] at h
    exact runM_bind_error h
  · rw [if_neg hlast]
    simp only [v, if_neg hlast] at h
    exact runM_bind_error h

variable {rd ra rb : BitVec 5} {sc : BitVec 2} {aq rl : BitVec 1} {p : BitVec 12}

theorem exec_claim_trap (hf : s.fenced 3 = false) (hvl : s.vlmaxSeen = some vlmax)
    (hr : s.me.ready [rd.toNat, ra.toNat, rb.toNat] = true)
    (h : runM (claimFarm (s.reg ra) (s.reg rb).toNat vlmax) s = (.error (.trap e), t)) :
    exec (.claim rd ra rb sc aq rl) s = .next (t.trapHere e) := by
  show execClaim rd ra rb sc aq rl s = _
  simp only [execClaim, hvl]
  exact memInstr_trap hf hr ((runM_bind_ok (runM_meM s)).trans (runM_bind_error h))

/-- A BAR with no wait record of its address arrives. -/
theorem exec_bar_trap_of_arrival (hf : s.fenced 3 = false) (hbar : ∀ g, s.me.bar ≠ some (s.reg ra, g))
    (hr : s.me.ready [ra.toNat] = true) (h : runM (barArrive (s.reg ra) p.toNat) s = (.error (.trap e), t)) :
    exec (.bar ra p) s = .next (t.trapHere e) := by
  refine memInstr_trap hf hr ((runM_bind_ok (runM_meM s)).trans ?_)
  dsimp only
  split
  case h_1 a g hag =>
    rw [if_neg fun ha : a = s.me.s ra.toNat => hbar g (hag.trans (congrArg (fun b => some (b, g)) ha))]
    exact h
  case h_2 => exact h

/-- A BAR with a wait record of its address reads the word again. -/
theorem exec_bar_trap_of_wait {g : BitVec 32} (hf : s.fenced 3 = false) (hbar : s.me.bar = some (s.reg ra, g))
    (hr : s.me.ready [ra.toNat] = true) (h : runM (memRead none 0 (s.reg ra) 8 .load 0) s = (.error (.trap e), t)) :
    exec (.bar ra p) s = .next (t.trapHere e) := by
  refine memInstr_trap hf hr ((runM_bind_ok (runM_meM s)).trans ?_)
  dsimp only
  rw [hbar]
  exact (congrArg (fun m => runM m s) (if_pos rfl)).trans (runM_bind_error h)

end

end Sys2Proof.Machine

/-!
The turn of a hart (04 R136, R163) and the word that a test places (02 R62).
-/

namespace Sys2Proof.Machine

section
variable {s t : State} {h : Nat} {rest : List Act} {w : BitVec 32} {i : Instr}

/-- The turn of a hart that fetches an instruction is the instruction's meaning. -/
theorem runTurn_of_fetches (hf : s.fetches h rest w t) (hd : decode t.me.super w = .ok i) : runTurn (s.turn h rest) = exec i t := by
  obtain ⟨-, -, -, -, hrun, hpending, hportable, hfetch, hemulated⟩ := hf
  have hrun' : (s.turn h rest).me.run = .running := hrun
  have hpending' : (s.turn h rest).me.pending = [] := hpending
  have hportable' : (s.turn h rest).me.portable = none := hportable
  have hfetch' : fetchWord (s.turn h rest).cur (s.turn h rest) = (.ok w, t) := hfetch
  simp only [runTurn, hrun', hpending', ne_eq, not_true_eq_false, if_false, decide_true, Bool.true_or, if_true, runNext, hportable',
    hfetch', runWord, hemulated, hd]

theorem step_of_fetches (hf : s.fetches h rest w t) :
    step s = match runTurn (s.turn h rest) with
      | .next u => .next (settle (State.turned { s with cycle := s.cycle + 1, agenda := rest } h u))
      | r => r := by
  obtain ⟨hagenda, hle, hmay, hback, -⟩ := hf
  have hmay' : State.mayTurn { s with cycle := s.cycle + 1, agenda := rest } h = true := hmay
  simp only [step, advance, hagenda, runAct, if_neg (Nat.not_lt.2 hle), runHart, hmay', hback, Bool.not_true, Bool.or_self,
    Bool.false_eq_true, if_false, State.turn]
  generalize runTurn _ = r
  cases r <;> rfl

end

/-- While a TLB holds the leaf of an access, the bytes of memory are no matter to its translation and its checks. -/
theorem maps_mem (s : State) (mem : List Host.Cell) (va : Word) (n pa : Nat) (k : Acc) :
    State.maps { s with mem := mem } va n k pa ↔ s.maps va n k pa := Iff.rfl

/-- Once a word is placed, the TLB of hart 0's core maps the page at its pc. -/
theorem maps_withFetchWord (w : Nat) : ((State.reset.withFetchWord 32 w).turn 0 []).maps 0 4 .fetch 0 := by
  have placed : ((State.reset.withFetchWord 32 0).turn 0 []).maps 0 4 .fetch 0 :=
    ⟨by decide, by decide, by decide +kernel,
      ⟨{ tenant := 0, va := 0, size := 4096, level := 5, pte := placedLeaf }, by decide +kernel, by decide, by decide +kernel,
        by decide +kernel, by decide⟩, by decide +kernel, by decide +kernel, by decide +kernel⟩
  exact (maps_mem _ ((State.reset.withFetchWord 32 w).turn 0 []).mem ..).2 placed

theorem bytesAt_withFetchWord (w : BitVec 32) : ((State.reset.withFetchWord 32 w.toNat).turn 0 []).bytesAt 0 4 = w.toNat := by
  have hread (s : State) : (s.setBytes 0 4 w.toNat).bytesAt 0 4 = w.toNat % 2 ^ 32 :=
    (Settled.memoryReadAfterWrite s 0 4 w.toNat (by simp) rfl).1
  exact (hread _).trans (Nat.mod_eq_of_lt w.isLt)

theorem fetchWord_withFetchWord (w : BitVec 32) :
    let s := (State.reset.withFetchWord 32 w.toNat).turn 0 []
    fetchWord 0 s = (.ok w, s) := by
  intro s
  have hload : loadVirt (s.coreAgent 0) true (s.hart 0).pc 4 .fetch s = (.ok w.toNat, s) :=
    bytesAt_withFetchWord w ▸ loadVirt_of_maps (maps_withFetchWord w.toNat)
  rw [fetchWord, if_neg (by decide)]
  simp only [hload, BitVec.ofNat_toNat, BitVec.setWidth_eq]

end Sys2Proof.Machine

/-!
YIELD, HALT and FENCE (04 R153, R154, R156, 07 R271), and a write of an owner entry (13 R415).
-/

namespace Sys2Proof.Machine

section
variable {α β : Type}

theorem smFind_map (m : SMap α) (f : α → β) (k : Nat) : smFind (m.map (fun p => (p.1, f p.2))) k = (smFind m k).map f := by
  induction m with
  | nil => rfl
  | cons p m ih =>
    rw [List.map_cons, smFind, smFind, ih]
    split <;> rfl

/-- A map of the values that takes one default to the other. -/
theorem smGet_map {d : α} {d' : β} {f : α → β} (hd : f d = d') (m : SMap α) (k : Nat) :
    smGet d' (m.map (fun p => (p.1, f p.2))) k = f (smGet d m k) := by
  rw [smGet, smFind_map, smGet]
  cases smFind m k with
  | none => exact hd.symm
  | some v => rfl

end

/-- A publish region after its shadow is closed, if hart `h` had it open (07 R271). -/
def Region.closedBy (h : Nat) (r : Region) : Region := { r with owner := if r.owner = some h then none else r.owner }

theorem Region.closedBy_eq_ite (h : Nat) (r : Region) : r.closedBy h = if r.owner = some h then { r with owner := none } else r := by
  unfold Region.closedBy
  split <;> rfl

/-- A tenant after the shadows that hart `h` had open are closed. -/
def Tenant.closedBy (h : Nat) (x : Tenant) : Tenant := { x with regions := x.regions.map (fun p => (p.1, p.2.closedBy h)) }

theorem tenant_closeShadows (s : State) (h k : Nat) : (closeShadows h s).tenant k = (s.tenant k).closedBy h := by
  have hclose : closeShadows h s = { s with tenants := s.tenants.map (fun p => (p.1, p.2.closedBy h)) } := by
    simp only [closeShadows, Tenant.closedBy, Region.closedBy_eq_ite]
  rw [hclose]
  exact smGet_map (d := {}) (f := Tenant.closedBy h) rfl s.tenants k

theorem hart_haltHart (s : State) (h k : Nat) : (haltHart h s).hart k =
    if k = h then { s.hart h with run := .halted, queue := [], fence := [], issueHold := false } else s.hart k :=
  hart_updHart s h k fun x => { x with run := .halted, queue := [], fence := [], issueHold := false }

/-- A YIELD lasts for the 16 cycles after it (04 R153). -/
theorem yielding_after_yield (s : State) (n : Nat) :
    State.yielding { s.updMe (fun x => { x.adv with yield := s.cycle + 16 }) with cycle := s.cycle + n } s.cur = decide (n ≤ 16) := by
  have hyield : ((s.updMe (fun x => { x.adv with yield := s.cycle + 16 })).hart s.cur).yield = s.cycle + 16 :=
    congrArg Hart.yield (me_updMe s _)
  unfold State.yielding
  refine (congrArg (fun y => y != 0 && decide (s.cycle + n ≤ y)) hyield).trans ?_
  simp

/-- A FENCE whose predecessors have not performed holds back what is of a kind in its QS (04 R156). -/
theorem fenced_of_busy {s : State} {f : FenceHold} {kinds : BitVec 5} (hf : f ∈ s.me.fence) (hb : s.fenceBusy s.cur f = true)
    (hk : f.qs &&& kinds ≠ 0) : s.fenced kinds = true := by
  rw [State.fenced, Bool.or_eq_true, List.any_eq_true]
  exact .inl ⟨f, hf, Bool.and_eq_true_iff.2 ⟨decide_eq_true hk, hb⟩⟩

section
variable {s : State} {u : Nat} {v : BitVec 8}

theorem writeOwner_same (h : smGet 0 s.owners u = v &&& 0x8F) : s.writeOwner u v = s := if_pos h

theorem writeOwner_changed (h : smGet 0 s.owners u ≠ v &&& 0x8F) :
    s.writeOwner u v = { s with
      mem := s.mem.filter (fun c => !s.inUnit u c.1)
      owners := smSet 0 s.owners u (v &&& 0x8F)
      splitLock := s.splitLock || (v &&& 0x8F).getLsbD 7 } := if_neg h

/-- A change of an owner entry zeroes the bytes of its unit and no other (13 R415). -/
theorem byteAt_writeOwner (h : smGet 0 s.owners u ≠ v &&& 0x8F) (pa : Nat) :
    (s.writeOwner u v).byteAt pa = if s.inUnit u (memKey pa) then 0 else s.byteAt pa := by
  have kept := smFind_filter s.mem (fun k => !s.inUnit u k) (memKey pa)
  rw [writeOwner_changed h, State.byteAt, smGet, kept]
  cases s.inUnit u (memKey pa) <;> rfl

end

end Sys2Proof.Machine

/-!
The statements on memory as the harts reach it, on a step's fetch, and on the owner entries.
-/

namespace Sys2Proof.Settled

open Sys2Proof.Machine

/-- Settles O25: the access resolves to the entry's page and changes nothing on the way. -/
theorem tlbAccess : Obligations.TlbAccess := fun _ _ _ _ => ⟨memRead_of_maps, fun _ => memWrite_of_maps⟩

/-- Settles O23: each store by `storeOp_of_maps` at its width. -/
theorem storeResults : Obligations.StoreResults := by
  intro rd ra off s hr hf
  exact ⟨fun _ => storeOp_of_maps (by simp) hr hf, fun _ => storeOp_of_maps (by simp) hr hf,
    fun _ => storeOp_of_maps (by simp) hr hf, fun _ => storeOp_of_maps (by simp) hr hf⟩

/-- Settles O27: each atomic by the value that it writes; the signed comparisons agree as both values fit their width. -/
theorem atomicResults : Obligations.AtomicResults := by
  intro rd ra rb sc aq rl w s pa n va old b res hf ha hm hu
  have hb : b < 2 ^ (8 * n) := Nat.mod_lt _ (Nat.two_pow_pos _)
  have hold : old < 2 ^ (8 * n) := bytesAt_lt s pa n
  have hn : 0 < n := by simp only [n]; split <;> decide
  have hslt (x y : Nat) : (if (BitVec.ofNat (8 * n) old).slt (BitVec.ofNat (8 * n) b) then x else y) =
      if signedOf n old < signedOf n b then x else y := by
    rw [slt_eq_signedOf hn hold hb]
    simp
  refine ⟨fun hr => ?_, fun hr => ?_⟩
  · have put {f : Nat → Nat → Nat → Nat → Option Nat} {v : Nat} (hv : f n old b ((s.reg rd).toNat % 2 ^ (8 * n)) = some v) :
        rmwOp rd ra rb w f true s = .next ((s.setBytes pa n (v % 2 ^ (8 * n))).put rd res) := rmwOp_put hf hr ha hm hu hv
    rw [hslt, hslt]
    refine ⟨put rfl, put rfl, put rfl, put rfl, put rfl, put rfl, put rfl, put rfl, put rfl, ?_⟩
    split
    case isTrue heq => exact (put (f := rmwCas) (if_pos heq)).trans (by rw [Nat.mod_eq_of_lt hb])
    case isFalse hne => exact rmwOp_keeps (f := rmwCas) hf hr ha hm hu (if_neg hne)
  · exact (rmwOp_past (rd := 0) (f := rmwSwap) hf hr ha hm hu rfl).trans
      (congrArg (fun b => (.next (s.setBytes pa n b).past : Out)) (Nat.mod_mod ..))

/-- Settles O22: the read of an aligned address, and then the write of s[rd]. -/
theorem loadResults : Obligations.LoadResults := by
  refine ⟨fun rd ra off s hr hf => ?_, fun rd ra sc s hr hf => ?_⟩
  · exact ⟨fun _ _ => loadOp_ok hr hf, fun _ _ => loadOp_ok hr hf, fun _ _ => loadOp_ok hr hf, fun _ _ => loadOp_ok hr hf,
      fun _ _ => loadOp_ok hr hf, fun _ _ => loadOp_ok hr hf, fun _ _ => loadOp_ok hr hf⟩
  · exact ⟨fun _ _ => ldaOp_ok (w := 0) hr hf, fun _ _ => ldaOp_ok (w := 1) hr hf⟩

/-- Settles O26: the alignment, the first access and the watch check, in this order; the instruction's own trap is the first of
them that does not go through. -/
theorem accessTraps : Obligations.AccessTraps := by
  refine ⟨fun rd ra off s hr hf => ?_, fun rd ra off s t e hr hf => ?_, fun rd ra rb sc aq rl w p s hf => ?_,
    fun rd ra rb sc aq rl w p s t e hf => ?_, fun rd ra rb sc aq rl w p s u t pa m e hf => ?_⟩
  · have hload := fenced_of_subset (a := 1) (by decide) hf
    have hstore := fenced_of_subset (a := 2) (by decide) hf
    exact ⟨loadOp_misaligned hr hload, loadOp_misaligned hr hload, loadOp_misaligned hr hload, loadOp_misaligned hr hload,
      loadOp_misaligned hr hload, storeOp_misaligned hr hstore, storeOp_misaligned hr hstore, storeOp_misaligned hr hstore⟩
  · have hload := fenced_of_subset (a := 1) (by decide) hf
    have hstore := fenced_of_subset (a := 2) (by decide) hf
    exact ⟨loadOp_trap hr hload, loadOp_trap hr hload, loadOp_trap hr hload, loadOp_trap hr hload, loadOp_trap hr hload,
      loadOp_trap hr hload, loadOp_trap hr hload, storeOp_trap hr hstore, storeOp_trap hr hstore, storeOp_trap hr hstore,
      storeOp_trap hr hstore⟩
  · refine ⟨fun ha hr => ldaOp_misaligned hr (fenced_of_subset (by decide) hf) ha, fun ha hr => ?_,
      fun ha hr => rmwOp_misaligned (rd := 0) hf hr ha, fun ha hvl hr => ?_,
      fun ha hbar hr => exec_bar_trap_of_arrival hf hbar hr (barArrive_misaligned ha)⟩
    · have stop (f) : rmwOp rd ra rb w f true s = _ := rmwOp_misaligned hf hr ha
      exact ⟨stop _, stop _, stop _, stop _, stop _, stop _, stop _, stop _, stop _, stop _⟩
    · obtain ⟨vlmax, hvl⟩ := Option.isSome_iff_exists.1 hvl
      exact exec_claim_trap hf hvl hr (claimFarm_misaligned ha)
  · refine ⟨fun ha hr => ldaOp_trap hr (fenced_of_subset (by decide) hf) ha, fun ha hr h => ?_,
      fun ha hr => rmwOp_trap (rd := 0) hf hr ha, fun ha hvl hr h => ?_,
      fun ha hbar hr h => exec_bar_trap_of_arrival hf hbar hr (barArrive_trap ha h), fun g hbar hr => exec_bar_trap_of_wait hf hbar hr⟩
    · have stop (f) : rmwOp rd ra rb w f true s = _ := rmwOp_trap hf hr ha h
      exact ⟨stop _, stop _, stop _, stop _, stop _, stop _, stop _, stop _, stop _, stop _⟩
    · obtain ⟨vlmax, hvl⟩ := Option.isSome_iff_exists.1 hvl
      exact exec_claim_trap hf hvl hr (claimFarm_trap ha h)
  · refine ⟨fun ha hc h => ⟨fun hr => ?_, fun hr => rmwOp_watch (rd := 0) hf hr ha hc rfl h⟩,
      fun ha hvl hr hc hg h => exec_claim_trap hf hvl hr (claimFarm_watch ha hc hg h),
      fun ha hbar hr hc h => exec_bar_trap_of_arrival hf hbar hr (barArrive_watch ha hc h)⟩
    have stop {f : Nat → Nat → Nat → Nat → Option Nat} {v : Nat} (hv : f _ _ _ _ = some v) : rmwOp rd ra rb w f true s = _ :=
      rmwOp_watch hf hr ha hc hv h
    exact ⟨stop rfl, stop rfl, stop rfl, stop rfl, stop rfl, stop rfl, stop rfl, stop rfl, stop rfl, fun hold => stop (if_pos hold)⟩

/-- Settles O6: the step makes the turn, and the turn runs the word. -/
theorem stepRunsDecoded : Obligations.StepRunsDecoded := by
  intro s t h rest w i hf hd
  rw [step_of_fetches hf, runTurn_of_fetches hf hd]
  cases exec i t <;> rfl

/-- Settles O8: the page at the pc is mapped whatever the word, and its bytes read back as the word. -/
theorem placedWordIsFetched : Obligations.PlacedWordIsFetched := fun w =>
  ⟨(State.reset.withFetchWord 32 w.toNat).turn 0 [],
    ⟨rfl, by decide, rfl, rfl, rfl, rfl, rfl, fetchWord_withFetchWord w, rfl⟩, rfl, rfl⟩

/-- Settles O36: each instruction by its effect on the running hart, and HALT by the shadows that it closes. -/
theorem systemResults : Obligations.SystemResults := by
  intro s hr closed
  refine ⟨⟨_, if_pos hr, rfl, fun n hn => ?_, fun n hn => ?_⟩, fun ho => ?_, fun ho => if_pos (by simp [ho]), fun ps qs sc => ?_⟩
  · exact (yielding_after_yield s n).trans (decide_eq_true hn)
  · exact (yielding_after_yield s n).trans (decide_eq_false (Nat.not_le.2 hn))
  · exact ⟨haltHart s.cur s, if_neg (by simp [hr, ho]), rfl, (hart_haltHart ..).trans (if_pos rfl),
      fun h hh => (hart_haltHart ..).trans (if_neg hh), tenant_closeShadows _ _⟩
  · exact ⟨_, if_pos hr, rfl, fun u hu hb kinds hk => fenced_of_busy hu hb hk⟩

/-- Settles O59: a device that is not frozen makes the write, and a change of the entry filters its unit out of memory. -/
theorem ownerEntryScrub : Obligations.OwnerEntryScrub := by
  intro s u v hlive hu
  have hexec : exec (.ownerEntryWrite u v) s = .next (s.writeOwner u v) := (next_ifLive hlive).trans (congrArg _ (if_pos hu))
  refine ⟨fun h => by rw [hexec, writeOwner_same h], fun h => ⟨_, hexec, ?_, fun k hk => ?_, byteAt_writeOwner h, ?_, ?_⟩⟩
  · simp [writeOwner_changed h]
  · simp [writeOwner_changed h, hk]
  · rw [writeOwner_changed h]
  · rw [writeOwner_changed h]

/-- Refutes O55: TENANT_CREATE also drops the emulation routines that the table holds for the tenant (`State.dropRoutines`), a change
that the statement leaves no room for. The counterexample is the reset state with a routine of tenant 0 at address 0, and the command
that creates tenant 0, with sequence number 1 and its other fields zero. -/
theorem not_hostCommandResults : ¬ Obligations.HostCommandResults := by
  intro h
  let c : HostCmd := { queue := 0, seq := 1, opcode := 1, flags := 0, block := BitVec.ofNat 512 (1 + 2 ^ 8 + 2 ^ 64), block2 := 0 }
  let s : State := { State.reset with emu := [(0, 0)] }
  obtain ⟨hcreate, -⟩ := h c s
  obtain ⟨u, x, hstart, -, -, -, hu, -⟩ := hcreate (by decide +kernel) (by decide +kernel) (by decide +kernel) (by decide +kernel) rfl
  have hdropped : (startTenantCreate c s).emu = [] := by decide +kernel
  have hkept : (startTenantCreate c s).emu = [(0, 0)] := by
    rw [hstart]
    exact congrArg State.emu hu
  rw [hdropped] at hkept
  cases hkept

end Sys2Proof.Settled

/-!
The integer functions of the control core (04 R139 to R141): each as the function on words that the spec's table names.
-/

namespace Sys2Proof.Machine

/-! ### Comparisons, products and quotients -/

section
variable (a b : Word)

theorem aluSlt_eq : aluSlt a b = if a.slt b then 1 else 0 := by simp [aluSlt, BitVec.slt]

theorem aluSltu_eq : aluSltu a b = if a.ult b then 1 else 0 := by simp [aluSltu, BitVec.ult]

theorem aluMin_eq : aluMin a b = if a.slt b then a else b := by simp [aluMin, BitVec.slt]

theorem aluMax_eq : aluMax a b = if a.slt b then b else a := by simp [aluMax, BitVec.slt]

theorem aluMinu_eq : aluMinu a b = if a.ult b then a else b := by simp [aluMinu, BitVec.ult]

theorem aluMaxu_eq : aluMaxu a b = if a.ult b then b else a := by simp [aluMaxu, BitVec.ult]

/-- Bits [127:64] of a product are those of the product modulo 2^128. -/
theorem highWord_eq (p : Int) : highWord p = (BitVec.ofInt 128 p).extractLsb' 64 64 := by
  apply BitVec.eq_of_toNat_eq
  simp only [highWord, BitVec.toNat_ofInt, BitVec.extractLsb'_toNat, Nat.shiftRight_eq_div_pow]
  omega

theorem aluMulh_eq : aluMulh a b = (a.signExtend 128 * b.signExtend 128).extractLsb' 64 64 := by
  rw [aluMulh, highWord_eq, BitVec.ofInt_mul]
  rfl

theorem aluMulhu_eq : aluMulhu a b = (a.setWidth 128 * b.setWidth 128).extractLsb' 64 64 := by
  rw [aluMulhu, highWord_eq, BitVec.ofInt_mul, BitVec.ofInt_natCast, BitVec.ofInt_natCast, BitVec.ofNat_toNat, BitVec.ofNat_toNat]

theorem aluMulhsu_eq : aluMulhsu a b = (a.signExtend 128 * b.setWidth 128).extractLsb' 64 64 := by
  rw [aluMulhsu, highWord_eq, BitVec.ofInt_mul, BitVec.ofInt_natCast, BitVec.ofNat_toNat]
  rfl

theorem aluDiv_eq : aluDiv a b = if b = 0 then BitVec.allOnes 64 else a.sdiv b :=
  if_congr Iff.rfl (by decide) (BitVec.eq_of_toInt_eq (by rw [BitVec.toInt_ofInt, BitVec.toInt_sdiv]))

theorem aluDivu_eq : aluDivu a b = if b = 0 then BitVec.allOnes 64 else a / b :=
  if_congr Iff.rfl (by decide) (by rw [← BitVec.toNat_udiv, BitVec.ofNat_toNat, BitVec.setWidth_eq])

theorem aluRem_eq : aluRem a b = if b = 0 then a else a.srem b :=
  if_congr Iff.rfl rfl (by rw [← BitVec.toInt_srem, BitVec.ofInt_toInt])

theorem aluRemu_eq : aluRemu a b = if b = 0 then a else a % b :=
  if_congr Iff.rfl rfl (by rw [← BitVec.toNat_umod, BitVec.ofNat_toNat, BitVec.setWidth_eq])

end

/-! ### Counts of bits -/

theorem clzAuxRec_eq_clzNat (x : Word) (n : Nat) (hn : n < 64) :
    x.clzAuxRec n = BitVec.ofNat 64 (63 - n + clzNat (n + 1) x.toNat) := by
  have top (k : Nat) : clzNat (k + 1) x.toNat = if x.getLsbD k then 0 else clzNat k x.toNat + 1 := by
    rw [clzNat, BitVec.testBit_toNat]
  induction n with
  | zero =>
    rw [BitVec.clzAuxRec_zero, top]
    split <;> rfl
  | succ n ih =>
    rw [BitVec.clzAuxRec_succ, ih (by omega), top (n + 1)]
    split
    · rfl
    · congr 1; omega

theorem aluClz_eq (a : Word) : aluClz a = a.clz :=
  (congrArg (BitVec.ofNat 64) (Nat.zero_add _).symm).trans (clzAuxRec_eq_clzNat a 63 (by decide)).symm

/-- The zeros at the bottom of a number are those at the top of its reversal. -/
theorem ctzNat_eq_clzNat (n a u : Nat) (h : ∀ i, i < n → u.testBit i = a.testBit (n - 1 - i)) : ctzNat n a = clzNat n u := by
  induction n generalizing a with
  | zero => rfl
  | succ n ih =>
    have low : u.testBit n = decide (a % 2 = 1) := by rw [h n (by omega)]; simp
    rw [ctzNat, clzNat, low, ih (a / 2) fun i hi => by
      rw [h i (by omega), Nat.testBit_div_two, show n - 1 - i + 1 = n + 1 - 1 - i by omega]]
    simp

theorem aluCtz_eq (a : Word) : aluCtz a = a.ctz := by
  rw [BitVec.ctz, ← aluClz_eq, aluClz, aluCtz, ctzNat_eq_clzNat 64 a.toNat a.reverse.toNat fun i hi => ?_]
  rw [BitVec.testBit_toNat, BitVec.testBit_toNat, BitVec.getLsbD_reverse, BitVec.getMsbD_eq_getLsbD]
  simp [hi]

theorem popcNat_succ (n v : Nat) : popcNat (n + 1) v = popcNat n v + (v.testBit n).toNat := by
  induction n generalizing v with
  | zero => rcases Nat.mod_two_eq_zero_or_one v with h | h <;> simp [popcNat, h]
  | succ n ih => rw [popcNat, ih, Nat.testBit_div_two, popcNat]; omega

theorem cpopNatRec_eq (x : Word) (n acc : Nat) : x.cpopNatRec n acc = acc + popcNat n x.toNat := by
  induction n generalizing acc with
  | zero => rfl
  | succ n ih => rw [BitVec.cpopNatRec_succ, ih, popcNat_succ, BitVec.testBit_toNat]; omega

theorem aluPopc_eq (a : Word) : aluPopc a = a.cpop := by
  rw [aluPopc, BitVec.cpop, cpopNatRec_eq, Nat.zero_add]

/-! ### Bit fields -/

theorem bitfBfx_bit (a b c : Word) (i : Nat) (hi : i < 64) :
    (bitfBfx a b c).getLsbD i = (decide (i < bitfLen c) && a.getLsbD (sh6 b + i)) := by
  rw [bitfBfx, BitVec.getLsbD_ofNat, Nat.testBit_mod_two_pow, Nat.testBit_div_two_pow, BitVec.testBit_toNat, Nat.add_comm i]
  simp [hi]

/-- The value of a field as a signed number, by its top bit. -/
theorem toInt_eq_of_top {n : Nat} (hn : n ≠ 0) (y : BitVec n) :
    y.toInt = if (y.toNat : Int) ≥ 2 ^ (n - 1) then (y.toNat : Int) - 2 ^ n else y.toNat := by
  have twice : (2 : Int) ^ n = 2 * 2 ^ (n - 1) := by rw [← pow_succ']; congr 1; omega
  rw [BitVec.toInt_eq_toNat_cond, twice]
  zify [twice]
  split <;> split <;> omega

/-- BFXS is the sign extension of a field of the word, itself sign-extended. -/
theorem bitfBfxs_eq (a b c : Word) : bitfBfxs a b c = ((a.sshiftRight (sh6 b)).setWidth (bitfLen c)).signExtend 64 := by
  have hlen : bitfLen c ≤ 64 := Nat.min_le_right ..
  have field : a.toInt / 2 ^ sh6 b % 2 ^ bitfLen c = (((a.sshiftRight (sh6 b)).setWidth (bitfLen c)).toNat : Int) := by
    rw [← BitVec.signExtend_eq_setWidth_of_le _ hlen, BitVec.signExtend, BitVec.toNat_ofInt, BitVec.toInt_sshiftRight,
      Int.shiftRight_eq_div_pow]
    push_cast
    exact (Int.toNat_of_nonneg (Int.emod_nonneg _ (by positivity))).symm
  simp only [bitfBfxs, field]
  split
  case isTrue hzero =>
    generalize bitfLen c = len at hzero ⊢
    subst hzero
    rw [BitVec.eq_nil (BitVec.setWidth 0 _)]
    rfl
  case isFalse hzero => exact congrArg (BitVec.ofInt 64) (toInt_eq_of_top hzero _).symm

theorem bitfBfi_bit (old a b c : Word) (i : Nat) (hi : i < 64) :
    (bitfBfi old a b c).getLsbD i =
      if sh6 b ≤ i ∧ i < Nat.min (sh6 b + bitfLen c) 64 then a.getLsbD (i - sh6 b) else old.getLsbD i := by
  have mask : (BitVec.ofNat 64 ((2 ^ bitfLen c - 1) * 2 ^ sh6 b)).getLsbD i =
      decide (sh6 b ≤ i ∧ i < Nat.min (sh6 b + bitfLen c) 64) := by
    rw [BitVec.getLsbD_ofNat, Nat.testBit_mul_two_pow, Nat.testBit_two_pow_sub_one, Bool.eq_iff_iff]
    simp only [Bool.and_eq_true, decide_eq_true_eq, Nat.lt_min]
    omega
  rw [bitfBfi, BitVec.getLsbD_or, BitVec.getLsbD_and, BitVec.getLsbD_and, BitVec.getLsbD_not, BitVec.getLsbD_shiftLeft, mask]
  split
  case isTrue h => simp [h, hi]
  case isFalse h => rw [decide_eq_false h]; simp [hi]

/-! ### Bits dealt out and gathered -/

/-- The set bits of a number below a position, counted from its lowest bit up. -/
theorem countP_testBit_succ (m i : Nat) :
    (List.range (i + 1)).countP m.testBit = (List.range i).countP (m / 2).testBit + m % 2 := by
  rw [List.range_succ_eq_map, List.countP_cons, List.countP_map]
  congr 1
  · exact List.countP_congr fun j _ => by rw [Function.comp_apply, Nat.testBit_succ]
  · rcases Nat.mod_two_eq_zero_or_one m with h | h <;> simp [h]

theorem testBit_depositNat (k a m i : Nat) (hi : i < k) :
    (depositNat k a m).testBit i = (m.testBit i && a.testBit ((List.range i).countP m.testBit)) := by
  induction k generalizing a m i with
  | zero => omega
  | succ k ih =>
    rw [depositNat]
    cases i with
    | zero => rcases Nat.mod_two_eq_zero_or_one m with h | h <;> simp [h]
    | succ i =>
      rw [countP_testBit_succ, Nat.testBit_succ, Nat.testBit_succ m]
      split
      case isTrue h =>
        rw [show (a % 2 + 2 * depositNat k (a / 2) (m / 2)) / 2 = depositNat k (a / 2) (m / 2) by omega, ih _ _ _ (by omega),
          h, Nat.testBit_succ]
      case isFalse h =>
        rw [Nat.mul_div_cancel_left _ Nat.two_pos, ih _ _ _ (by omega), Nat.mod_two_ne_one.1 h, Nat.add_zero]

theorem testBit_compressNat (k a m i : Nat) (hi : i < k) (hm : m.testBit i = true) :
    (compressNat k a m).testBit ((List.range i).countP m.testBit) = a.testBit i := by
  induction k generalizing a m i with
  | zero => omega
  | succ k ih =>
    rw [compressNat]
    cases i with
    | zero =>
      rw [if_pos (by simpa using hm)]
      simp
    | succ i =>
      rw [Nat.testBit_succ] at hm
      rw [countP_testBit_succ, Nat.testBit_succ a]
      split
      case isTrue h =>
        rw [h, Nat.testBit_succ,
          show (a % 2 + 2 * compressNat k (a / 2) (m / 2)) / 2 = compressNat k (a / 2) (m / 2) by omega, ih _ _ _ (by omega) hm]
      case isFalse h => rw [Nat.mod_two_ne_one.1 h, Nat.add_zero, ih _ _ _ (by omega) hm]

theorem compressNat_lt (k a m : Nat) : compressNat k a m < 2 ^ (List.range k).countP m.testBit := by
  induction k generalizing a m with
  | zero => exact Nat.one_pos
  | succ k ih =>
    have := ih (a / 2) (m / 2)
    rw [countP_testBit_succ, compressNat]
    rcases Nat.mod_two_eq_zero_or_one m with h | h <;> simp only [h]
    · simpa
    · simp [Nat.pow_succ]; omega

theorem brevNat_lt (n v : Nat) : brevNat n v < 2 ^ n := by
  induction n generalizing v with
  | zero => exact Nat.one_pos
  | succ n ih =>
    have := ih (v / 2)
    rcases Nat.mod_two_eq_zero_or_one v with h | h <;> simp only [brevNat, h, Nat.pow_succ] <;> omega

theorem testBit_brevNat (n v i : Nat) (hi : i < n) : (brevNat n v).testBit i = v.testBit (n - 1 - i) := by
  induction n generalizing v i with
  | zero => omega
  | succ n ih =>
    rw [brevNat, Nat.mul_comm, Nat.testBit_two_pow_mul_add _ (brevNat_lt n _)]
    split
    case isTrue h => rw [ih _ _ h, Nat.testBit_div_two, show n - 1 - i + 1 = n + 1 - 1 - i by omega]
    case isFalse h =>
      obtain rfl : i = n := by omega
      simp

theorem bitfBrev_eq (a : Word) : bitfBrev a = a.reverse := by
  apply BitVec.eq_of_getLsbD_eq
  intro i hi
  rw [bitfBrev, BitVec.getLsbD_ofNat, testBit_brevNat 64 _ _ hi, BitVec.testBit_toNat, BitVec.getLsbD_reverse, BitVec.getMsbD_eq_getLsbD]

/-- The bits below a position, as the number of the word has them. -/
theorem setBelow_eq (b : Word) (i : Nat) : setBelow b i = (List.range i).countP b.toNat.testBit :=
  congrArg (fun p => (List.range i).countP p) (funext fun _ => (BitVec.testBit_toNat b).symm)

theorem bitfBdep_bit (a b : Word) (i : Nat) (hi : i < 64) :
    (bitfBdep a b).getLsbD i = (b.getLsbD i && a.getLsbD (setBelow b i)) := by
  rw [bitfBdep, BitVec.getLsbD_ofNat, testBit_depositNat 64 _ _ _ hi, BitVec.testBit_toNat, BitVec.testBit_toNat, setBelow_eq]
  simp [hi]

theorem setBelow_lt {b : Word} {i : Nat} (hi : i < 64) : setBelow b i < 64 :=
  List.countP_le_length.trans_lt (by simpa using hi)

theorem bitfBcmpr_bit (a b : Word) (i : Nat) (hi : i < 64) (hb : b.getLsbD i = true) :
    (bitfBcmpr a b).getLsbD (setBelow b i) = a.getLsbD i := by
  rw [bitfBcmpr, BitVec.getLsbD_ofNat, decide_eq_true (setBelow_lt hi), setBelow_eq,
    testBit_compressNat 64 _ _ _ hi ((BitVec.testBit_toNat b).trans hb), BitVec.testBit_toNat, Bool.true_and]

theorem bitfBcmpr_above (a b : Word) (j : Nat) (hj : setBelow b 64 ≤ j) : (bitfBcmpr a b).getLsbD j = false := by
  rw [setBelow_eq] at hj
  rw [bitfBcmpr, BitVec.getLsbD_ofNat,
    Nat.testBit_lt_two_pow ((compressNat_lt 64 _ _).trans_le (Nat.pow_le_pow_right Nat.two_pos hj)), Bool.and_false]

theorem bitfBfxs_bit (a b c : Word) (i : Nat) (hi : i < 64) :
    (bitfBfxs a b c).getLsbD i = (decide (bitfLen c ≠ 0) &&
      if 63 < sh6 b + Nat.min i (bitfLen c - 1) then a.msb else a.getLsbD (sh6 b + Nat.min i (bitfLen c - 1))) := by
  have hlen : bitfLen c ≤ 64 := Nat.min_le_right ..
  have bit (j : Nat) (hj : j < bitfLen c) : ((a.sshiftRight (sh6 b)).setWidth (bitfLen c)).getLsbD j =
      if 63 < sh6 b + j then a.msb else a.getLsbD (sh6 b + j) := by
    rw [BitVec.getLsbD_setWidth, BitVec.getLsbD_sshiftRight, decide_eq_true hj, decide_eq_false (by omega : ¬ 64 ≤ j),
      Bool.not_false, Bool.true_and, Bool.true_and]
    by_cases h : 63 < sh6 b + j
    · rw [if_pos h, if_neg (by omega)]
    · rw [if_neg h, if_pos (by omega)]
  rw [bitfBfxs_eq, BitVec.getLsbD_signExtend, decide_eq_true hi, Bool.true_and, BitVec.msb_eq_getLsbD_last]
  by_cases hzero : bitfLen c = 0
  · rw [decide_eq_false (not_not.2 hzero), Bool.false_and, if_neg (by omega), BitVec.getLsbD_of_ge _ _ (by omega)]
  · rw [decide_eq_true hzero, Bool.true_and]
    split
    case isTrue h => rw [bit i h, show Nat.min i (bitfLen c - 1) = i from Nat.min_eq_left (by omega)]
    case isFalse h =>
      rw [bit _ (by omega), show Nat.min i (bitfLen c - 1) = bitfLen c - 1 from Nat.min_eq_right (by omega)]

/-! ### The instructions -/

section
variable {rd ra rb rc : BitVec 5} {s : State}

theorem aluOp_ready {f : Word → Word → Word} (hr : s.me.ready [rd.toNat, ra.toNat, rb.toNat] = true) :
    aluOp rd ra rb f s = .next (s.put rd (f (s.reg ra) (s.reg rb))) := scalarOp_ready _ _ _ hr

theorem aluOp1_ready {f : Word → Word} (hr : s.me.ready [rd.toNat, ra.toNat] = true) :
    aluOp1 rd ra f s = .next (s.put rd (f (s.reg ra))) := scalarOp_ready _ _ _ hr

theorem aluOp3_ready {f : Word → Word → Word → Word} (hr : s.me.ready [rd.toNat, ra.toNat, rb.toNat, rc.toNat] = true) :
    aluOp3 rd ra rb rc f s = .next (s.put rd (f (s.reg ra) (s.reg rb) (s.reg rc))) := scalarOp_ready _ _ _ hr

theorem execBfi_ready (hr : s.me.ready [rd.toNat, ra.toNat, rb.toNat, rc.toNat] = true) :
    execBfi rd ra rb rc s = .next (s.put rd (bitfBfi (s.reg rd) (s.reg ra) (s.reg rb) (s.reg rc))) := scalarOp_ready _ _ _ hr

end

end Sys2Proof.Machine

namespace Sys2Proof.Settled

open Sys2Proof.Machine

/-- Settles O15: each instruction writes its function of the table, which the model computes on numbers. -/
theorem aluResults : Obligations.AluResults := by
  unfold Obligations.AluResults exec
  refine ⟨fun rd ra rb s hr => ?_, fun rd ra s hr => ?_, fun rd ra sh s hr => ?_, fun rd ra rb rc s hr => ?_⟩
  · have put {f : Word → Word → Word} {v : Word} (hv : f (s.reg ra) (s.reg rb) = v) : aluOp rd ra rb f s = .next (s.put rd v) :=
      hv ▸ aluOp_ready hr
    exact ⟨put rfl, put rfl, put rfl, put rfl, put rfl, put rfl, put rfl, put rfl, put rfl, put rfl, put rfl, put rfl, put rfl,
      put (aluSlt_eq ..), put (aluSltu_eq ..), put rfl, put (aluMulh_eq ..), put (aluMulhu_eq ..), put (aluMulhsu_eq ..),
      put (aluDiv_eq ..), put (aluDivu_eq ..), put (aluRem_eq ..), put (aluRemu_eq ..), put (aluMin_eq ..), put (aluMax_eq ..),
      put (aluMinu_eq ..), put (aluMaxu_eq ..)⟩
  · have put {f : Word → Word} {v : Word} (hv : f (s.reg ra) = v) : aluOp1 rd ra f s = .next (s.put rd v) := hv ▸ aluOp1_ready hr
    exact ⟨put (aluClz_eq _), put (aluCtz_eq _), put (aluPopc_eq _), put rfl, put rfl, put rfl, put rfl, put rfl⟩
  · exact ⟨aluOp1_ready hr, aluOp1_ready hr, aluOp1_ready hr, aluOp1_ready hr⟩
  · exact ⟨aluOp3_ready hr, (aluOp3_ready hr).trans (by rw [ite_not])⟩

/-- Settles O17: the bits of each function, by its lemma. -/
theorem bitFieldResults : Obligations.BitFieldResults := by
  unfold Obligations.BitFieldResults exec
  refine ⟨fun rd ra rb rc s hr => ?_, fun rd ra rb s hr => ?_, fun rd ra s hr => ?_⟩
  · exact ⟨aluOp3_ready hr, aluOp3_ready hr, ⟨_, fun i hi => bitfBfx_bit _ _ _ i hi, aluOp3_ready hr⟩,
      ⟨_, fun i hi => bitfBfxs_bit _ _ _ i hi, aluOp3_ready hr⟩, ⟨_, fun i hi => bitfBfi_bit _ _ _ _ i hi, execBfi_ready hr⟩⟩
  · exact ⟨⟨_, fun i hi => bitfBdep_bit _ _ i hi, aluOp_ready hr⟩,
      ⟨_, fun i hi hb => bitfBcmpr_bit _ _ i hi hb, fun j hj => bitfBcmpr_above _ _ j hj, aluOp_ready hr⟩⟩
  · exact (aluOp1_ready hr).trans (by rw [bitfBrev_eq])

end Sys2Proof.Settled

/-!
Frames of the scalar instructions (04 R139 to R143, R161), and the floating-point results (R143).
-/

namespace Sys2Proof.Machine

section
variable {s : State}

theorem OnlyMe.refl (s : State) : OnlyMe s s := ⟨rfl, fun _ _ => rfl, fun _ => rfl⟩

theorem onlyMe_updMe (s : State) (f : Hart → Hart) : OnlyMe s (s.updMe f) :=
  ⟨rfl, fun k hk => hart_updMe_other s f k hk, fun _ => rfl⟩

/-- An update of the running hart is what it makes of that hart. -/
theorem updMe_congr {f g : Hart → Hart} (h : f s.me = g s.me) : s.updMe f = s.updMe g := congrArg (s.setHart s.cur) h

/-- A write of a scalar register changes the scalar registers alone. -/
theorem setS_eq (x : Hart) (r : Nat) (v : Word) : x.setS r v = { x with sregs := (x.setS r v).sregs } := by
  unfold Hart.setS
  split <;> rfl

theorem s_setS_of_ne {x : Hart} {r q : Nat} {v : Word} (h : q ≠ r) : (x.setS r v).s q = x.s q := by
  rw [s_setS, if_neg fun hq => h hq.1]

/-- A scalar instruction that writes one register changes only that, the pc and the count of issued instructions. -/
theorem regsFrame_scalarOp {regs : List Nat} {r : Nat} {g : Hart → Word} {t : State}
    (h : scalarOp regs (fun x => x.setS r (g x)) s = .next t) : RegsFrame [r] s t := by
  rcases scalarOp_cases regs (fun x => x.setS r (g x)) s with ⟨-, he⟩ | ⟨-, he⟩
  · cases h.symm.trans he
    refine ⟨onlyMe_updMe _ _, ?_, fun q hq => ?_⟩
    · rw [me_updMe, setS_eq]
      rfl
    · rw [me_updMe, s_adv, s_setS_of_ne (by simpa using hq)]
  · cases h.symm.trans he
    exact ⟨.refl _, rfl, fun _ _ => rfl⟩

section
variable {regs : List (BitVec 5)} {rd ra rb rc : BitVec 5} {fn : FpFn}

theorem fpsOp_ready (hp : s.me.vtypePending = false) (hr : s.me.ready (regs.map (·.toNat)) = true) :
    fpsOp regs rd ra rb rc fn s = .next (s.fput rd (s.fpOf fn ra rb rc)) := by
  rw [fpsOp, hp, if_neg Bool.false_ne_true]
  exact scalarOp_ready _ _ _ hr

/-- A floating-point instruction changes, besides, only FFLAGS, which keeps what it held. -/
theorem flagsFrame_fpsOp {t : State} (h : fpsOp regs rd ra rb rc fn s = .next t) : FlagsFrame [rd.toNat] s t := by
  have kept : FlagsFrame [rd.toNat] s s := ⟨.refl _, rfl, ⟨0, (BitVec.or_zero).symm⟩, fun _ _ => rfl⟩
  by_cases hp : s.me.vtypePending = true
  · rw [fpsOp, if_pos hp] at h
    cases h
    exact kept
  · cases hr : s.me.ready (regs.map (·.toNat))
    · rw [fpsOp, if_neg hp, scalarOp, hr, if_neg Bool.false_ne_true] at h
      cases h
      exact kept
    · cases h.symm.trans (fpsOp_ready (Bool.not_eq_true _ ▸ hp) hr)
      refine ⟨onlyMe_updMe _ _, ?_, ⟨(s.fpOf fn ra rb rc).2, ?_⟩, fun q hq => ?_⟩
      · rw [State.fput, me_updMe, setS_eq]
        rfl
      · exact congrArg Hart.fflags (me_updMe ..)
      · rw [State.fput, me_updMe]
        exact s_setS_of_ne (by simpa using hq)

end

end

/-! ### NaN operands (R143) -/

section
variable {f : FFmt} {m : Rm} {r n : Nat} {x y z : FVal}

@[simp] theorem isNan_neg (x : FVal) : x.neg.isNan = x.isNan := by cases x <;> rfl

section
variable (hn : f.nan = some n)
include hn

theorem nanResult_fst (fl : Flags) : (nanResult f fl).1 = n := by rw [nanResult, hn]

theorem faddV_nan (h : x.isNan = true ∨ y.isNan = true) : (faddV f m r x y).1 = n := by
  cases x <;> cases y <;> simp_all [faddV, FVal.isNan, nanResult]

theorem fmulV_nan (h : x.isNan = true ∨ y.isNan = true) : (fmulV f m r x y).1 = n := by
  cases x <;> cases y <;> simp_all [fmulV, FVal.isNan, nanResult]

theorem fdivV_nan (h : x.isNan = true ∨ y.isNan = true) : (fdivV f m r x y).1 = n := by
  cases x <;> cases y <;> simp_all [fdivV, FVal.isNan, nanResult]

theorem fsqrtV_nan (h : x.isNan = true) : (fsqrtV f m r x).1 = n := by
  cases x <;> simp_all [fsqrtV, FVal.isNan, nanResult]

theorem ffmaV_nan (h : x.isNan = true ∨ y.isNan = true ∨ z.isNan = true) : (ffmaV f m r x y z).1 = n := by
  have hany : (x.isNan || y.isNan || z.isNan) = true := by simpa [or_assoc] using h
  simp only [ffmaV, hany, if_true, apply_ite Prod.fst, nanResult_fst hn, ite_self]

end
end

end Sys2Proof.Machine

namespace Sys2Proof.Settled

open Sys2Proof.Machine

/-- Settles O18: each instruction by `fpsOp_ready` at its operation. -/
theorem scalarFloatResults : Obligations.ScalarFloatResults := by
  unfold Obligations.ScalarFloatResults exec
  refine ⟨fun rd ra rb s hp hr => ?_, fun rd ra s hp hr => ?_, fun rd ra rb rc s hp hr => ?_⟩
  all_goals and_intros <;> exact fpsOp_ready hp hr

/-- Settles O19: no branch of an operation is taken before its check for NaN operands, but that of an infinity times zero, which gives
the canonical NaN too. -/
theorem scalarFloatNaN : Obligations.ScalarFloatNaN := by
  intro m a b c
  exact ⟨faddV_nan rfl, fun h => faddV_nan rfl (by simpa using h), fmulV_nan rfl, fdivV_nan rfl, fsqrtV_nan rfl, ffmaV_nan rfl,
    fun h => ffmaV_nan rfl (by simpa using h), faddV_nan rfl, fun h => faddV_nan rfl (by simpa using h), fmulV_nan rfl,
    fdivV_nan rfl, fsqrtV_nan rfl, ffmaV_nan rfl, fun h => ffmaV_nan rfl (by simpa using h)⟩

/-- Settles O21: each instruction is a write of sd, for floating point with the flags. -/
theorem scalarFrame : Obligations.ScalarFrame := by
  unfold Obligations.ScalarFrame exec
  refine ⟨fun rd ra rb rc sh imm s => ?_, fun rd ra rb rc s => ?_⟩
  · and_intros <;> exact fun _ => regsFrame_scalarOp
  · and_intros <;> exact fun _ => flagsFrame_fpsOp

/-- Settles O11: a write of s0 leaves the hart as it is. -/
theorem zeroRegister : Obligations.ZeroRegister := by
  refine ⟨s_zero, fun _ _ => rfl, fun _ _ _ hr => aluOp_ready (rd := 0) hr, fun _ _ _ hr hp => ?_, fun _ _ _ _ _ hr hf ha h => ?_⟩
  · exact fpsOp_ready (rd := 0) (regs := [0, _, _]) hp hr
  · exact loadOp_ok (rd := 0) hr hf ha h

/-- Settles O24: each store by `storeOp_ok` at its width. -/
theorem storesPerform : Obligations.StoresPerform := fun _ _ _ _ _ hr hf =>
  ⟨storeOp_ok hr hf, storeOp_ok hr hf, storeOp_ok hr hf, storeOp_ok hr hf⟩

/-- Settles O1: the decoder evaluates each word. -/
theorem decodeWords : Obligations.DecodeWords := by
  unfold Obligations.DecodeWords
  and_intros <;> rfl

end Sys2Proof.Settled

/-!
Branches, LOOPV, and taking a trap and returning from it (04 R147 to R162).
-/

namespace Sys2Proof.Machine

/-! ### Branches -/

section
variable {s : State}

theorem branchOp_ready {ra rb : BitVec 5} {off : BitVec 13} {cond : Word → Word → Bool} (hr : s.me.ready [ra.toNat, rb.toNat] = true) :
    branchOp ra rb off cond s =
      .next (s.goTo (if cond (s.reg ra) (s.reg rb) then s.me.pc + off.signExtend 64 * 4 else s.me.pc + 4)) := by
  have run : branchOp ra rb off cond s = .next (s.updMe fun x =>
      { x with pc := (if cond (x.s ra.toNat) (x.s rb.toNat) then relTarget x.pc off else x.pc + 4) - 4 }.adv) := by
    rw [branchOp, scalarRun, if_pos hr, scalarM, runM_bind_ok (runM_updMeM ..)]
    exact congrArg _ (updMe_updMe ..)
  rw [run]
  refine congrArg _ (updMe_congr ?_)
  simp only [Hart.adv, BitVec.sub_add_cancel]
  rfl

/-- An instruction that writes a register and goes on at an address computed before. -/
theorem scalarOp_jump {regs : List Nat} {rd : BitVec 5} {v pc : Hart → Word} (hr : s.me.ready regs = true) :
    scalarOp regs (fun x => { x.setS rd.toNat (v x) with pc := pc x - 4 }) s = .next (s.jump rd (v s.me) (pc s.me)) := by
  rw [scalarOp_ready _ _ _ hr]
  refine congrArg _ (updMe_congr ?_)
  simp only [Hart.adv, BitVec.sub_add_cancel, hart_setS_issueCount]

end

/-! ### LOOPV -/

/-- A hart with `n` scalar registers from `base` on raised by `d`. -/
def Hart.raised (x : Hart) (base n : Nat) (d : Word) : Hart :=
  (List.range n).foldl (fun x i => x.setS (base + i) (x.s (base + i) + d)) x

section
variable (x : Hart) (base n : Nat) (d : Word)

theorem Hart.raised_succ :
    x.raised base (n + 1) d = (x.raised base n d).setS (base + n) ((x.raised base n d).s (base + n) + d) := by
  rw [Hart.raised, List.range_succ, List.foldl_append]
  rfl

theorem Hart.raised_eq : x.raised base n d = { x with sregs := (x.raised base n d).sregs } := by
  induction n with
  | zero => rfl
  | succ n ih =>
    rw [raised_succ, setS_eq]
    generalize ((x.raised base n d).setS _ _).sregs = regs
    rw [ih]

theorem Hart.s_raised (hbase : base ≠ 0) (r : Nat) :
    (x.raised base n d).s r = if base ≤ r ∧ r < base + n then x.s r + d else x.s r := by
  induction n with
  | zero => exact (if_neg (by omega)).symm
  | succ n ih =>
    rw [raised_succ, s_setS]
    by_cases hlast : r = base + n
    · rw [hlast, if_pos ⟨rfl, by omega⟩, if_pos (by omega), ← hlast, ih, if_neg (by omega)]
    · rw [if_neg fun h => hlast h.1, ih]
      exact if_congr (by omega) rfl rfl

end

section
variable {rc rp : BitVec 5} {np esh : BitVec 2} {off : BitVec 12} {vl : Nat}

/-- The pointer registers of LOOPV. -/
def loopvPointers (rp : BitVec 5) (np : BitVec 2) : List Nat := if rp = 0 then [] else (List.range (np.toNat + 1)).map (rp.toNat + ·)

theorem mem_loopvPointers {r : Nat} : r ∈ loopvPointers rp np ↔ rp ≠ 0 ∧ rp.toNat ≤ r ∧ r < rp.toNat + (np.toNat + 1) := by
  unfold loopvPointers
  split
  case isTrue h => simp [h]
  case isFalse h =>
    simp only [List.mem_map, List.mem_range, h, ne_eq, not_false_eq_true, true_and]
    exact ⟨fun ⟨i, hi, e⟩ => by omega, fun _ => ⟨r - rp.toNat, by omega, by omega⟩⟩

/-- A hart with the pointer registers of LOOPV raised by `d`. -/
def Hart.raisedPointers (x : Hart) (rp : BitVec 5) (np : BitVec 2) (d : Word) : Hart :=
  if rp = 0 then x else x.raised rp.toNat (np.toNat + 1) d

theorem Hart.raisedPointers_eq (x : Hart) (d : Word) :
    x.raisedPointers rp np d = { x with sregs := (x.raisedPointers rp np d).sregs } := by
  unfold raisedPointers
  split
  · rfl
  · exact raised_eq ..

theorem Hart.s_raisedPointers (x : Hart) (d : Word) (r : Nat) :
    (x.raisedPointers rp np d).s r = if r ∈ loopvPointers rp np then x.s r + d else x.s r := by
  simp only [mem_loopvPointers, raisedPointers]
  by_cases hrp : rp = 0
  · rw [if_pos hrp, if_neg fun h => h.1 hrp]
  · rw [if_neg hrp, s_raised _ _ _ _ fun h => hrp (BitVec.eq_of_toNat_eq h)]
    exact if_congr (iff_and_self.2 fun _ => hrp) rfl rfl

/-- The count that LOOPV leaves (04 R150). -/
def loopvCount (c v : Word) : Word := if v < c then c - v else 0

/-- A hart with the registers that LOOPV leaves: the pointers raised, and then the count (04 R150). -/
def loopvRegs (rc rp : BitVec 5) (np esh : BitVec 2) (vl : Nat) (x : Hart) : Hart :=
  (x.raisedPointers rp np (BitVec.ofNat 64 vl * BitVec.ofNat 64 (2 ^ esh.toNat))).setS rc.toNat
    (loopvCount (x.s rc.toNat) (BitVec.ofNat 64 vl))

theorem loopvRegs_eq (x : Hart) : loopvRegs rc rp np esh vl x = { x with sregs := (loopvRegs rc rp np esh vl x).sregs } := by
  rw [loopvRegs, setS_eq]
  generalize (Hart.setS _ _ _).sregs = regs
  rw [Hart.raisedPointers_eq]

theorem s_loopvRegs (x : Hart) (r : Nat) :
    (loopvRegs rc rp np esh vl x).s r =
      if r = rc.toNat ∧ rc.toNat ≠ 0 then loopvCount (x.s rc.toNat) (BitVec.ofNat 64 vl)
      else if r ∈ loopvPointers rp np then x.s r + BitVec.ofNat 64 vl * BitVec.ofNat 64 (2 ^ esh.toNat) else x.s r := by
  rw [loopvRegs, s_setS, Hart.s_raisedPointers]

/-- The count is written last, and s0 stays 0, as does the count there. -/
theorem s_loopvRegs_count (x : Hart) :
    (loopvRegs rc rp np esh vl x).s rc.toNat = loopvCount (x.s rc.toNat) (BitVec.ofNat 64 vl) := by
  by_cases hrc : rc.toNat = 0
  · rw [hrc, s_zero, s_zero]
    exact (if_neg BitVec.not_lt_zero).symm
  · rw [s_loopvRegs, if_pos ⟨rfl, hrc⟩]

/-- What LOOPV does for a VL that is not 0 (04 R150). -/
theorem loopvEffect_eq (hvl : vl ≠ 0) (x : Hart) :
    loopvEffect rc rp np esh off vl x = { loopvRegs rc rp np esh vl x with
      pc := if loopvCount (x.s rc.toNat) (BitVec.ofNat 64 vl) ≠ 0 then relTarget x.pc off - 4 else x.pc } := by
  have effect : loopvEffect rc rp np esh off vl x = if loopvCount (x.s rc.toNat) (BitVec.ofNat 64 vl) ≠ 0
      then { loopvRegs rc rp np esh vl x with pc := relTarget (loopvRegs rc rp np esh vl x).pc off - 4 }
      else loopvRegs rc rp np esh vl x := if_neg hvl
  have pc : (loopvRegs rc rp np esh vl x).pc = x.pc := by rw [loopvRegs_eq]
  rw [effect]
  split
  · rw [pc]
  · rw [← pc]

end

/-! ### Traps -/

/-- The words of a trap with a handler, and what it leaves alone (04 R160). -/
theorem takeTrap_words {x : Hart} {tpc : Word} {t : TrapInfo} (hc : x.tcause.extractLsb' 0 8 = 0) (hv : x.tvec ≠ 0) :
    let y := takeTrap x false 0 tpc t
    y.tinfo0 = t.i0 ∧ y.tinfo1 = t.i1 ∧ y.tinfo2 = t.i2 ∧ y.tinfo3 = t.i3 ∧ y.tqsn = 0 ∧
      y.super = x.super ∧ y.sregs = x.sregs := by
  intro y
  have handled : ¬(x.tcause.extractLsb' 0 8 ≠ 0 ∨ x.tvec = 0) := fun h => h.elim (· hc) hv
  simp only [y, takeTrap, if_neg handled]
  exact ⟨trivial, trivial, trivial, trivial, rfl, rfl, rfl⟩

/-- The trap that an instruction takes as its effect, with the pc past it (04 R152). -/
theorem trapsPast {s : State} {code : BitVec 8} {i0 : Word} (hr : s.me.run = .running) (hc : s.me.tcause.extractLsb' 0 8 = 0)
    (hv : s.me.tvec ≠ 0) :
    let t := s.updMe (fun x => takeTrap x false 0 (x.pc + 4) { code := code, i0 := i0, i1 := x.pc })
    OnlyMe s t ∧ t.me.tcause = 0 + code.setWidth 9 ∧ t.me.tpc = s.me.pc + 4 ∧ t.me.tinfo0 = i0 ∧
      t.me.tinfo1 = s.me.pc ∧ t.me.tinfo2 = 0 ∧ t.me.tinfo3 = 0 ∧ t.me.tqsn = 0 ∧ t.me.pc = s.me.tvec ∧
      t.me.run = .running ∧ t.me.super = s.me.super ∧ t.me.sregs = s.me.sregs := by
  intro t
  obtain ⟨hpc, htpc, hcause, hrun⟩ := takeTrap_handler s.me false 0 (s.me.pc + 4) { code := code, i0 := i0, i1 := s.me.pc } hc hv
  obtain ⟨h0, h1, h2, h3, hqsn, hsuper, hsregs⟩ :=
    takeTrap_words (tpc := s.me.pc + 4) (t := { code := code, i0 := i0, i1 := s.me.pc }) hc hv
  refine ⟨onlyMe_updMe _ _, ?_⟩
  simp only [t, me_updMe]
  exact ⟨hcause, htpc, h0, h1, h2, h3, hqsn, hpc, hrun.trans hr, hsuper, hsregs⟩

/-- A released entry is no longer held (04 R159). -/
theorem not_held_releaseAt (x : Hart) (index : Entry → Nat) : ∀ e ∈ (x.releaseAt index).queue, e.st ≠ .held := by
  intro e he
  obtain ⟨o, -, rfl⟩ := List.mem_map.1 he
  split
  · dsimp only
    split <;> decide
  · assumption

theorem uid_releaseAt (x : Hart) (index : Entry → Nat) : (x.releaseAt index).queue.map (·.uid) = x.queue.map (·.uid) := by
  refine List.map_map.trans (List.map_congr_left fun e _ => ?_)
  rw [Function.comp_apply]
  split <;> rfl

/-- A queue with nothing open stays as it is. -/
theorem drain_of_closed {h : Nat} {s : State} (hs : ∀ o ∈ (s.hart h).queue, o.open = false) : drain h s = s := by
  have closed : (s.hart h).queue.any (·.open) = false := by simpa using hs
  rw [drain, closed, Bool.not_false, Bool.or_true]
  rfl

/-- The return from a trap with an empty queue (04 R162). -/
theorem returnFromTrap_of_empty {x : Hart} (hq : x.queue = []) (hh : x.issueHold = false) :
    returnFromTrap x = { x with
      pc := x.tpc, tcause := 0, watchPass := (returnFromTrap x).watchPass, faultUid := none, issueCount := x.issueCount + 1 } := by
  have release (index : Entry → Nat) : x.releaseAt index = x := by
    rw [Hart.releaseAt, hq]
    exact congrArg₂ (fun q b => { x with queue := q, issueHold := b }) hq.symm hh.symm
  rw [returnFromTrap, release]

theorem ready_iff {x : Hart} {regs : List Nat} :
    x.ready regs = true ↔ x.run = .running ∧ x.issueHold = false ∧ ∀ r ∈ regs, x.pendReg r = false := by
  simp [Hart.ready, and_assoc]

end Sys2Proof.Machine

namespace Sys2Proof.Settled

open Sys2Proof.Machine

/-- Settles O29: each branch by `branchOp_ready`, each jump by `scalarOp_jump`. -/
theorem branchResults : Obligations.BranchResults := by
  unfold Obligations.BranchResults exec
  refine ⟨fun ra rb off s hr => ?_, fun rd off s hr => ?_, fun rd ra imm s hr => ?_⟩
  · have go {cond : Word → Word → Bool} {p : Prop} [Decidable p] (h : cond (s.reg ra) (s.reg rb) = true ↔ p) :
        branchOp ra rb off cond s = .next (s.goTo (if p then s.me.pc + off.signExtend 64 * 4 else s.me.pc + 4)) := by
      simpa only [h] using branchOp_ready (cond := cond) hr
    exact ⟨go beq_iff_eq, go bne_iff_ne, go Iff.rfl, go (iff_of_eq (Bool.not_eq_true' _)), go Iff.rfl,
      go (iff_of_eq (Bool.not_eq_true' _))⟩
  · exact scalarOp_jump hr
  · exact scalarOp_jump hr

/-- Settles O30: by what `loopvEffect` does to a register, to the pc and to nothing else. -/
theorem loopvResult : Obligations.LoopvResult := by
  intro rc rp np esh off s vl _ hseen _ hr v c
  have hexec : exec (.loopv rc rp np esh off) s = .next (s.updMe fun x => (loopvEffect rc rp np esh off vl x).adv) := by
    show execLoopv rc rp np esh off s = _
    rw [execLoopv, hseen]
    exact scalarOp_ready _ _ _ hr
  refine ⟨fun hvl => hexec.trans (congrArg _ (updMe_congr (congrArg Hart.adv (if_pos hvl)))), fun hvl =>
    ⟨_, hexec, ?_⟩⟩
  have hs (r : Nat) : (s.updMe fun x => (loopvEffect rc rp np esh off vl x).adv).me.s r = (loopvRegs rc rp np esh vl s.me).s r := by
    rw [me_updMe, s_adv, loopvEffect_eq hvl]
    rfl
  refine ⟨⟨onlyMe_updMe _ _, ?_, fun r hmem => ?_⟩, ?_, fun hrp i hi hne => ?_, ?_⟩
  · rw [me_updMe, loopvEffect_eq hvl, loopvRegs_eq]
    rfl
  · obtain ⟨hrc, hpointer⟩ := not_or.1 (mt List.mem_cons.2 hmem)
    rw [hs, s_loopvRegs, if_neg fun h => hrc h.1]
    exact if_neg hpointer
  · exact (hs _).trans (s_loopvRegs_count _)
  · rw [hs, s_loopvRegs, if_neg fun h => hne h.1, if_pos (mem_loopvPointers.2 ⟨hrp, by omega, by omega⟩)]
  · rw [me_updMe, loopvEffect_eq hvl]
    exact (apply_ite (· + 4) _ _ _).trans (if_congr Iff.rfl (BitVec.sub_add_cancel ..) rfl)

/-- Settles O33: both take their trap by the same entry. -/
theorem trapAndBreak : Obligations.TrapAndBreak := by
  intro n s hr hc hv
  obtain ⟨hrun, -⟩ := ready_iff.1 hr
  exact ⟨⟨_, if_pos hr, trapsPast hrun hc hv⟩, ⟨_, if_pos hr, trapsPast hrun hc hv⟩⟩

/-- Settles O35: the release of the held entries, and with no entry nothing to release. -/
theorem returnFromTrap : Obligations.ReturnFromTrap := by
  refine ⟨fun s hr => if_pos hr, fun x => ⟨rfl, rfl, rfl, rfl, not_held_releaseAt x _, uid_releaseAt x _⟩, fun s hr hq => ?_⟩
  obtain ⟨-, hhold, -⟩ := ready_iff.1 hr
  have hme : (s.updMe Machine.returnFromTrap).me = _ := (me_updMe s _).trans (returnFromTrap_of_empty hq hhold)
  have hqueue : (s.updMe Machine.returnFromTrap).me.queue = [] := by rw [hme, hq]
  refine ⟨_, (if_pos hr).trans (congrArg _ (drain_of_closed fun o ho => ?_)), onlyMe_updMe _ _, ?_⟩
  · exact absurd (hqueue.subst (motive := fun q => o ∈ q) ho) List.not_mem_nil
  · rw [me_updMe]
    exact returnFromTrap_of_empty hq hhold

end Sys2Proof.Settled

/-!
CLAIM and BAR where a TLB entry maps their word (04 R146, R155).
-/

namespace Sys2Proof.Machine

section
variable {s : State} {va : Word} {pa want vlmax n : Nat}

/-- What CLAIM leaves of the farm record: NEXT advanced by the grant, or nothing written for a grant of 0 (04 R146). -/
def State.granting (s : State) (pa grant : Nat) : State :=
  if grant = 0 then s else s.setBytes pa 8 ((s.bytesAt pa 8 + grant) % 2 ^ 64)

/-- The grant of CLAIM (04 R146). -/
def State.farmGrant (s : State) (pa want vlmax : Nat) : Nat :=
  Nat.min want (Nat.min (s.bytesAt (pa + 8) 8 - s.bytesAt pa 8) vlmax)

theorem claimFarm_of_maps (ha : va.toNat % 16 = 0) (hm : s.maps va 16 .atomic pa) (hu : s.unwatched pa 8) :
    runM (claimFarm va want vlmax) s =
      (.ok (s.bytesAt pa 8, s.farmGrant pa want vlmax), s.granting pa (s.farmGrant pa want vlmax)) := by
  have room (next limit : Nat) : (if next < limit then limit - next else 0) = limit - next := by split <;> omega
  have hcheck := writeCheck_of_maps hm
  have hwatch := watchCheck_of_unwatched (va := va) hu
  have hpass := passUnused_of_none hu.2
  obtain ⟨hcur, -⟩ := hm
  unfold claimFarm
  rw [if_neg (not_not.2 ha)]
  refine (runM_bind_ok (runM_get s)).trans ?_
  dsimp only
  rw [if_neg hcur]
  refine (runM_bind_ok hcheck).trans ((runM_bind_ok (runM_get s)).trans ?_)
  have grant : Nat.min want (Nat.min (s.bytesAt (pa + 8) 8 - s.bytesAt pa 8) vlmax) = s.farmGrant pa want vlmax := rfl
  simp only [room, grant]
  by_cases hg : s.farmGrant pa want vlmax = 0
  · rw [if_neg (not_not.2 hg), State.granting, if_pos hg]
    exact runM_bind_ok hpass
  · rw [if_pos hg, State.granting, if_neg hg]
    exact (runM_bind_ok hwatch).trans (runM_bind_ok (runM_modify ..))

@[simp] theorem me_granting (s : State) (pa grant : Nat) : (s.granting pa grant).me = s.me := by
  unfold State.granting
  split
  · rfl
  · exact me_setBytes ..

theorem queueVl_closed (h : s.me.queue.any (·.open) = false) :
    runM (queueVl n) s = (.ok (), s.updMe fun x => { x with vl := BitVec.ofNat 15 n }) := by
  refine (runM_bind_ok (runM_meM s)).trans ?_
  rw [h, if_neg Bool.false_ne_true]
  rfl

theorem queueVl_open (h : s.me.queue.any (·.open) = true) :
    runM (queueVl n) s =
      (.ok (), s.updMe fun x => { pushEntry x (.setVl n) 0 0 0 0 0 none false with nextQsn := x.nextQsn }) := by
  refine (runM_bind_ok (runM_meM s)).trans ?_
  rw [h, if_pos rfl]
  rfl

/-- CLAIM where a TLB entry maps the farm record: the counter to s[rd], and the grant to VL as `queueVl` does it. -/
theorem exec_claim_of_maps {rd ra rb : BitVec 5} {sc : BitVec 2} {aq rl : BitVec 1} {vl : Hart → Hart}
    (hvl : s.vlmaxSeen = some vlmax) (hr : s.me.ready [rd.toNat, ra.toNat, rb.toNat] = true) (hf : s.fenced 3 = false)
    (ha : (s.reg ra).toNat % 16 = 0) (hm : s.maps (s.reg ra) 16 .atomic pa) (hu : s.unwatched pa 8)
    (hq : ∀ t : State, t.me.queue = s.me.queue →
      runM (queueVl (s.farmGrant pa (s.reg rb).toNat vlmax)) t = (.ok (), t.updMe vl)) :
    exec (.claim rd ra rb sc aq rl) s = .next ((s.granting pa (s.farmGrant pa (s.reg rb).toNat vlmax)).updMe
      fun x => (vl (x.setS rd.toNat (BitVec.ofNat 64 (s.bytesAt pa 8)))).adv) := by
  show execClaim rd ra rb sc aq rl s = _
  simp only [execClaim, hvl]
  refine (memInstr_ok hf hr ((runM_bind_ok (runM_meM s)).trans ((runM_bind_ok (claimFarm_of_maps ha hm hu)).trans
    ((runM_bind_ok (runM_updMeM ..)).trans (hq _ ?_))))).trans ?_
  · rw [me_updMe, hart_setS_queue, me_granting]
  · rw [State.past, updMe_updMe, updMe_updMe]
    rfl

/-! ### BAR -/

/-- The arrival at a barrier whose word a TLB entry maps: the last opens it, an earlier one counts itself and waits (04 R155). -/
theorem barArrive_of_maps (ha : va.toNat % 8 = 0) (hm : s.maps va 8 .atomic pa) (hu : s.unwatched pa 8) :
    let g := s.bytesAt pa 8 / 2 ^ 32
    let a := s.bytesAt pa 8 % 2 ^ 32 + 1
    runM (barArrive va n) s =
      if n + 1 ≤ a then (.ok (), (s.setBytes pa 8 ((g + 1) % 2 ^ 32 * 2 ^ 32)).updMe fun x => { x with bar := none })
      else (.error .wait, (s.setBytes pa 8 (g * 2 ^ 32 + a)).updMe fun x => { x with bar := some (va, BitVec.ofNat 32 g) }) := by
  have hcheck := writeCheck_of_maps hm
  have hwrite (v : Nat) := memWrite_of_maps (v := v) hm hu
  obtain ⟨hcur, -⟩ := hm
  intro g a
  refine (runM_bind_ok (runM_alignCheck_of_mod ha)).trans ((runM_bind_ok (runM_get s)).trans ?_)
  dsimp only
  rw [if_neg hcur]
  refine (runM_bind_ok hcheck).trans ((runM_bind_ok (runM_get s)).trans ((runM_bind_ok (runM_pure _ s)).trans ?_))
  by_cases hn : n + 1 ≤ a
  · rw [if_pos hn, if_pos hn]
    exact (runM_bind_ok (hwrite _)).trans (runM_updMeM ..)
  · rw [if_neg hn, if_neg hn]
    exact (runM_bind_ok (hwrite _)).trans ((runM_bind_ok (runM_updMeM ..)).trans (runM_block _))

/-- A wait whose generation has changed ends (04 R155). -/
theorem barWait_ends {k : BitVec 32} (hm : s.maps va 8 .load pa) (hk : BitVec.ofNat 32 (s.bytesAt pa 8 / 2 ^ 32) ≠ k) :
    runM (barWait va k) s = (.ok (), s.updMe fun x => { x with bar := none }) := by
  refine (runM_bind_ok (memRead_of_maps hm)).trans ?_
  rw [if_neg hk]
  rfl

/-- The effect of BAR. -/
def barEffect (ra : BitVec 5) (n : BitVec 12) : M Unit := do
  let x ← meM
  let va := x.s ra.toNat
  match x.bar with
  | some (a, g) => if a = va then barWait va g else barArrive va n.toNat
  | none => barArrive va n.toNat

/-- Without a wait record, BAR arrives. -/
theorem runM_barEffect_of_none {ra : BitVec 5} {n : BitVec 12} (hbar : s.me.bar = none) :
    runM (barEffect ra n) s = runM (barArrive (s.reg ra) n.toNat) s := by
  refine (runM_bind_ok (runM_meM s)).trans ?_
  dsimp only
  rw [hbar]
  rfl

/-- An instruction whose effect waits stays where the effect ended. -/
theorem memInstr_wait {t : State} {m : M Unit} {regs : List Nat} {kinds : BitVec 5} (hf : s.fenced kinds = false)
    (hr : s.me.ready regs = true) (h : runM m s = (.error .wait, t)) : memInstr regs kinds m s = .next t := by
  rw [memInstr, hf, if_neg Bool.false_ne_true, scalarRun, if_pos hr, scalarM, runM_bind_error h]

end

end Sys2Proof.Machine

namespace Sys2Proof.Settled

open Sys2Proof.Machine

/-- Settles O28: the grant is written and VL fixed by `exec_claim_of_maps`, at once or as an entry. -/
theorem claimResult : Obligations.ClaimResult := by
  intro rd ra rb sc aq rl s pa m next limit grant t hvl hr hf ha hm hu
  exact ⟨fun hq => exec_claim_of_maps hvl hr hf ha hm hu fun t ht => queueVl_closed (ht ▸ hq),
    fun hq => (exec_claim_of_maps hvl hr hf ha hm hu fun t ht => queueVl_open (ht ▸ hq)).trans
      (congrArg _ (updMe_congr (by rw [hart_setS_nextQsn]; rfl)))⟩

/-- Settles O37: the arrival by whether it is the last, and the end of a wait by the generation that it reads. -/
theorem barrierResults : Obligations.BarrierResults := by
  intro ra n s pa va old g hr hf ha
  refine ⟨fun hm hu hbar => ?_, fun k hm hbar hk => ?_⟩
  · have arrives := runM_barEffect_of_none (ra := ra) (n := n) hbar
    refine ⟨fun hn => ?_, fun hn => ?_⟩
    · refine (memInstr_ok hf hr (arrives.trans ((barArrive_of_maps ha hm hu).trans (if_pos hn)))).trans (congrArg _ ?_)
      rw [State.past, updMe_updMe]
      refine updMe_congr (congrArg Hart.adv ?_)
      rw [me_setBytes, ← hbar]
    · exact memInstr_wait hf hr (arrives.trans ((barArrive_of_maps ha hm hu).trans (if_neg (Nat.not_le.2 hn))))
  · refine (memInstr_ok hf hr ((runM_bind_ok (runM_meM s)).trans ?_)).trans (congrArg _ (updMe_updMe s _ _))
    dsimp only
    rw [hbar]
    exact (congrArg (fun m => runM m s) (if_pos rfl)).trans (barWait_ends hm hk)

end Sys2Proof.Settled

/-!
The queue-class instructions issue as their operations (04 R157).
-/

namespace Sys2Proof.Machine

/-- An instruction that `exec` hands to `issue`, with the word that it encodes to, issues as the operation. -/
theorem issuesAs_of_exec {i : Instr} {op : QOp} {word : BitVec 32} {rd ra rb : Nat} {dst : Option Nat} {regs : List Nat}
    (hw : encode i = some word) (hx : ∀ s, exec i s = issue op word rd ra rb dst regs s) : IssuesAs i op rd ra rb dst regs := by
  intro s w hw' hs
  obtain rfl : word = w := Option.some.inj (hw.symm.trans hw')
  exact (hx s).trans (issue_ok op word rd ra rb dst regs s hs)

end Sys2Proof.Machine

namespace Sys2Proof.Settled

open Sys2Proof.Machine

/-- Settles O38: each form is handed to `issue` with the word that it encodes to. -/
theorem vectorArithmeticIssue : Obligations.VectorArithmeticIssue := by
  and_intros <;> intros <;> and_intros <;> exact issuesAs_of_exec rfl fun _ => rfl

/-- Settles O39: each form is handed to `issue` with the word that it encodes to. -/
theorem vectorFloatIssue : Obligations.VectorFloatIssue := by
  and_intros <;> intros <;> and_intros <;> exact issuesAs_of_exec rfl fun _ => rfl

/-- Settles O40: each form is handed to `issue` with the word that it encodes to. -/
theorem vectorMoveIssue : Obligations.VectorMoveIssue := by
  and_intros <;> intros <;> and_intros <;> exact issuesAs_of_exec rfl fun _ => rfl

/-- Settles O41: each form is handed to `issue` with the word that it encodes to. -/
theorem maskTileIssue : Obligations.MaskTileIssue := by
  and_intros <;> intros <;> and_intros <;> exact issuesAs_of_exec rfl fun _ => rfl

/-- Settles O42: each form is handed to `issue` with the word that it encodes to. -/
theorem engineIssue : Obligations.EngineIssue := by
  and_intros <;> intros <;> and_intros <;> exact issuesAs_of_exec rfl fun _ => rfl

end Sys2Proof.Settled

/-!
MASK and its commands (04 R157, 10 R354): the command of an entry that has just issued may have to wait, though none of the next QSN did
before the issue. A flit of a scalar access at the next pc, which nothing sends before the issue, is one that the hart sends after it, when
the pc has moved on to it, and it flows before the command (10 R337).
-/

namespace Sys2Proof.Machine

/-- Hart 0 runs at pc 0 in the reset state, and a control flit of a scalar access of its own at pc 4 stands at the link from CD to die 0. -/
def State.staleFlit : State :=
  { State.reset.updMe (fun x => { x with run := .running }) with
    flits := [{ link := 0, toB := false, cls := .ctl, payer := none, owner := .hart 0 4, permit := some false }] }

theorem commandsPass_staleFlit : State.staleFlit.commandsPass := by
  unfold State.commandsPass
  decide +kernel

theorem mayQueue_staleFlit {op : QOp} {regs : List Nat} (hf : State.staleFlit.fenced op.kinds = false)
    (hr : State.staleFlit.me.ready regs = true) : State.staleFlit.mayQueue op regs :=
  ⟨by decide, rfl, hr, hf, by decide⟩

/-- After the issue of MAND the hart is at pc 4, and the entry waits behind the flit. -/
theorem queue_issued_mand :
    (drain 0 (State.staleFlit.issued (.mask .and 0 0 0) (encMK 0x28 0 0 0 0) 0 0 0 none)).me.queue ≠ [] := by decide +kernel

/-- After the issue of MPOPC the hart is at pc 4, and the entry waits behind the flit. -/
theorem queue_issued_mpopc :
    (drain 0 (State.staleFlit.issued (.mask .popc 0 0 0) (encMK 0x28 0 0 0 15) 0 0 0 (some 0))).me.queue ≠ [] := by
  decide +kernel

end Sys2Proof.Machine

namespace Sys2Proof.Settled

open Sys2Proof.Machine

/-- Refutes O46: in `State.staleFlit` the dies take commands, but the entry of MAND waits once it has issued. -/
theorem not_maskLogicRuns : ¬ Obligations.MaskLogicRuns := by
  intro h
  obtain ⟨⟨t, ht, ⟨hq, -⟩, -⟩, -⟩ := h 0 0 0 State.staleFlit (by decide) rfl rfl rfl commandsPass_staleFlit
  have issues := issue_ok (.mask .and 0 0 0) (encMK 0x28 0 0 0 0) 0 0 0 none [] State.staleFlit (mayQueue_staleFlit rfl rfl)
  obtain rfl := Host.Outcome.next.inj (issues.symm.trans ht)
  exact queue_issued_mand hq

/-- Refutes O47: in `State.staleFlit` the dies take commands, but the entry of MPOPC waits once it has issued. -/
theorem not_maskCounts : ¬ Obligations.MaskCounts := by
  intro h
  obtain ⟨⟨t, ht, -, hq, -⟩, -⟩ := h.1 0 0 State.staleFlit (by decide) rfl rfl rfl commandsPass_staleFlit
  have issues := issue_ok (.mask .popc 0 0 0) (encMK 0x28 0 0 0 15) 0 0 0 (some 0) [] State.staleFlit (mayQueue_staleFlit rfl rfl)
  obtain rfl := Host.Outcome.next.inj (issues.symm.trans ht)
  exact queue_issued_mpopc hq

end Sys2Proof.Settled

/-!
Every instruction and event answers a next state (00 R14, log entry 22): the shared operations do, a trap taken and a wait included, and
`exec` hands each instruction to one of them.
-/

namespace Sys2Proof.Machine

/-- The outcome is a next state: no fault and no refusal. -/
def Answers (o : Out) : Prop := ∃ t, o = .next t

section
variable {s : State} {regs : List Nat} {word : BitVec 32} {o : Out}

theorem answers_next (t : State) : Answers (.next t) := ⟨t, rfl⟩

theorem Answers.ite {p : Prop} [Decidable p] {a b : Out} (ha : Answers a) (hb : Answers b) : Answers (if p then a else b) := by
  split <;> assumption

/-- A computation that ends, traps or waits answers the state it leaves, with its trap taken. -/
theorem answers_scalarM (m : M Unit) : Answers (scalarM m s) := by
  rcases h : runM m s with ⟨(_ | _ | _) | _, t⟩ <;> exact ⟨_, by rw [scalarM, h]⟩

theorem answers_scalarOp {f : Hart → Hart} : Answers (scalarOp regs f s) := .ite (answers_next _) (answers_next _)

theorem answers_scalarRun {m : M Unit} : Answers (scalarRun regs m s) := .ite (answers_scalarM _) (answers_next _)

theorem answers_memInstr {kinds : BitVec 5} {m : M Unit} : Answers (memInstr regs kinds m s) := .ite (answers_next _) answers_scalarRun

theorem answers_fpsOp {regs : List (BitVec 5)} {rd ra rb rc : BitVec 5} {fn : FpFn} : Answers (fpsOp regs rd ra rb rc fn s) :=
  .ite (answers_next _) answers_scalarOp

theorem answers_cwOp {cw : BitVec 12} {f : Word → Hart → Hart} : Answers (cwOp regs word cw f s) := by
  unfold cwOp
  split
  · exact answers_next _
  · exact .ite (answers_next _) answers_scalarOp

theorem answers_claim {rd ra rb : BitVec 5} {sc : BitVec 2} {aq rl : BitVec 1} : Answers (execClaim rd ra rb sc aq rl s) := by
  unfold execClaim
  split
  · exact answers_next _
  · exact answers_memInstr

theorem answers_loopv {rc rp : BitVec 5} {np esh : BitVec 2} {off : BitVec 12} : Answers (execLoopv rc rp np esh off s) := by
  unfold execLoopv
  split
  · exact answers_next _
  · exact answers_scalarOp

theorem answers_issue {op : QOp} {rd ra rb : Nat} {dst : Option Nat} : Answers (issue op word rd ra rb dst regs s) := by
  obtain h | h | ⟨_, -, h⟩ | h := issue_cases op word rd ra rb dst regs s <;> exact ⟨_, h⟩

/-- An instruction of supervisor mode takes PRIV outside it (03 R97). -/
theorem answers_priv {trap : TrapInfo} (h : Answers o) : Answers (if !s.me.super then .next (s.trapHere trap) else o) :=
  .ite (answers_next _) h

end

end Sys2Proof.Machine

namespace Sys2Proof.Settled

open Sys2Proof.Machine

/-- Settles O9: by the operation that `exec` hands the instruction to, which is `issue` for those not named.
An absent form's trap and an event's move are next states by definition. -/
theorem execAnswers : Obligations.ExecAnswers := by
  intro i s
  show Answers (exec i s)
  unfold exec
  cases i with
  | add | sub | and | or | xor | andn | orn | xnor | sll | srl | sra | rol | ror | slt | sltu | mul | mulh | mulhu
  | mulhsu | div | divu | rem | remu | min | max | minu | maxu | bdep | bcmpr | clz | ctz | popc | rev8 | slli | srli
  | srai | rori | sextb | sexth | sextw | zextw | brev | addi | andi | ori | xori | slti | sltiu | addhi | selz | selnz
  | fsl | fsr | bfx | bfxs | bfi | lui | jalr | jal => exact answers_scalarOp
  | faddS | fsubS | fmulS | fdivS | fsqrtS | fminS | fmaxS | fmaS | fnmaS | fcsignS | fnsignS | fxsignS | feqS | fltS
  | fleS | fkindS | ftoiS | ftoiuS | itofS | utofS | ftohS | ftobS | htofS | btofS | fcvtxS | faddD | fsubD | fmulD
  | fminD | fmaxD | fmaD | fnmaD | fcsignD | fnsignD | fxsignD | feqD | fltD | fleD | fkindD | ftoiD | ftoiuD | itofD
  | utofD | ftohD | ftobD | htofD | btofD | fcvtxD => exact answers_fpsOp
  | ldb | ldh | ldw | ldd | ldbu | ldhu | ldwu | stb | sth | stw | std | rmswap | rmadd | rmand | rmor | rmxor | rmmin
  | rmmax | rmminu | rmmaxu | cas | stl | lda | bar | klaunch => exact answers_memInstr
  | claim => exact answers_claim
  | beq | bne | blt | bge | bltu | bgeu | kwait => exact answers_scalarRun
  | loopv => exact answers_loopv
  | cwread | cwwrite | cwset | cwclr => exact answers_cwOp
  | trap | brk | rett | yield | halt | fence => exact .ite (answers_next _) (answers_next _)
  | vsetvl | vsetvli | tmulsp => exact .ite (answers_next _) answers_issue
  | lpause | lresume | lremap | ltrain => exact answers_priv answers_issue
  | ctxsave | ctxload | svrd | svwr | warm => exact answers_priv answers_memInstr
  | wdisarm => exact answers_priv answers_scalarRun
  | fdivD | fsqrtD | vferf | vdadd | vdsub | vdmul | vddiv | vdmin | vdmax | vdfma | vdfnma | vdfms | vdcsign
  | vdnsign | vdxsign | vdkind | vdsubr | vdsqrt => exact answers_next _
  | trapEntry | entryComplete | barWaitEnd | yieldExpiry | streamFetch | streamStoreWrite | sgatherRow | copyChunk
  | driveRequest | pairError | turnBegin | autoTurn | turnDrainEnd | turnDeadTimeEnd | linkPaused | ltrainDone
  | flitReplay | put | getreq | atom | notify | ack | getdata | atomrsp | bell | rbell | beaconFlitReplay | portUp
  | launchBind | preEmption | contextSave | completionEntryWrite | sqtail | cqhead | enable | tenantCreate
  | tenantReset | tenantDelete | ownerSet | pairCreate | pairDelete | regionCreate | regionDelete | gangCreate
  | gangDelete | gangSwitchSave | gangSwitchResume | launchSuspend | launchResume | debugGrant | launch | invalidate
  | faultReplyRetry | faultReplyAbort | nop | bootgo | resetkey | powerOn | attreq | fatalreq | svnfuse
  | clusterRetire | ownerEntryWrite | registerWrite | powerClampWindow | junctionHot | thermal | cdMemory | dumpdone
  => exact answers_next _
  | _ => exact answers_issue

end Sys2Proof.Settled

/-!
Events of the links (10 R338 to R340, R354): what a turn leaves of its link, of the others and of the clock.
-/

namespace Sys2Proof.Machine

/-! ### Links and their groups -/

theorem link_setLink (s : State) (l j : Nat) (k : Link) : (s.setLink l k).link j = if j = l then k else s.link j :=
  smGet_set ..

@[simp] theorem link_setLink_same (s : State) (l : Nat) (k : Link) : (s.setLink l k).link l = k := (link_setLink ..).trans (if_pos rfl)

theorem link_setLink_of_ne {l j : Nat} (hj : j ≠ l) (s : State) (k : Link) : (s.setLink l k).link j = s.link j :=
  (link_setLink ..).trans (if_neg hj)

theorem group_setGroup (k : Link) (g i : Nat) (x : LGroup) : (k.setGroup g x).group i = if i = g then x else k.group i := by
  split
  case isTrue h => subst h; exact (smGet_set ..).trans (if_pos rfl)
  case isFalse h =>
    have hfind : smFind (k.setGroup g x).groups i = smFind k.groups i := by
      unfold Link.setGroup smSet
      split <;> simp [smFind_erase, smFind_put, h]
    simp only [Link.group, smGet, hfind]

/-- The groups listed, each changed by `f`. -/
def Link.eachGroup (k : Link) (f : LGroup → LGroup) (gs : List Nat) : Link := gs.foldl (fun k g => k.setGroup g (f (k.group g))) k

theorem eachGroup_eq (f : LGroup → LGroup) (gs : List Nat) (k : Link) :
    k.eachGroup f gs = { k with groups := (k.eachGroup f gs).groups } := by
  induction gs generalizing k with
  | nil => rfl
  | cons g gs ih => exact ih (k.setGroup g (f (k.group g)))

theorem group_eachGroup {f : LGroup → LGroup} {gs : List Nat} (hgs : gs.Nodup) (k : Link) (i : Nat) :
    (k.eachGroup f gs).group i = if i ∈ gs then f (k.group i) else k.group i := by
  induction gs generalizing k with
  | nil => rfl
  | cons g gs ih =>
    obtain ⟨hg, hgs⟩ := List.nodup_cons.1 hgs
    refine (ih hgs _).trans ?_
    by_cases hi : i = g
    · subst hi; simp [hg, group_setGroup]
    · simp [hi, group_setGroup]

/-! ### The dwell of the groups that turn -/

theorem le_foldl_max (f : Nat → Nat) (gs : List Nat) (c : Nat) :
    c ≤ gs.foldl (fun t g => Nat.max t (f g)) c ∧ ∀ g ∈ gs, f g ≤ gs.foldl (fun t g => Nat.max t (f g)) c := by
  induction gs generalizing c with
  | nil => exact ⟨le_rfl, by simp⟩
  | cons g gs ih =>
    obtain ⟨hc, hgs⟩ := ih (Nat.max c (f g))
    exact ⟨(Nat.le_max_left ..).trans hc, List.forall_mem_cons.2 ⟨(Nat.le_max_right ..).trans hc, hgs⟩⟩

/-! ### The events -/

theorem yielding_yieldEnds (h : Nat) (s : State) : (yieldEnds h s).yielding h = false := by
  simp [State.yielding, yieldEnds, hart_updHart]

section
variable {s : State} {l : Nat}

/-- What a live device makes of a move of a link that exists. -/
theorem next_onLink {f : Nat → State → State} (h : s.boot.fatal = false) (hl : l < 14) :
    (.next (ifLive (onLink l f) s) : Out) = .next (f l s) := (next_ifLive h).trans (congrArg _ (if_pos hl))

/-- The end of a pause makes the link PAUSED; the flits that it drops are of no link's state. -/
theorem link_linkPaused (hstate : (s.link l).state = 1) (hturn : (s.link l).turn = none) (j : Nat) :
    (linkPaused l s).link j = (s.setLink l { s.link l with state := 2 }).link j := by
  unfold linkPaused
  dsimp only
  rw [if_pos ⟨hstate, hturn⟩]
  rfl

/-- A turn whose clamped split is the one in force does not begin: its winner is gone and its outcome recorded. -/
theorem turnBegin_of_same {w : TurnReq} (hstate : (s.link l).state = 0) (hturn : (s.link l).turn = none)
    (hw : (s.link l).winner = some w) (hn : (s.link l).clamp w.n (s.facing l).1 (s.facing l).2 = (s.link l).nab) :
    turnBegin l s = s.setLink l ({ s.link l with winner := none }.ends w.serial (outcome 2 (s.link l).nab 0)) := by
  simp [turnBegin, hw, hstate, hturn, hn]

/-- A turn to another split begins once the groups that turn are past their dwell. -/
theorem turnBegin_of_other {w : TurnReq} (hstate : (s.link l).state = 0) (hturn : (s.link l).turn = none)
    (hw : (s.link l).winner = some w) {n : Nat} (h : (s.link l).clamp w.n (s.facing l).1 (s.facing l).2 = n)
    (hn : n ≠ (s.link l).nab) :
    turnBegin l s =
      { s with cycle := ((s.link l).turners n).foldl (fun t g => Nat.max t ((s.link l).group g).dwellEnd) s.cycle }.setLink l
        { s.link l with
          winner := none, turn := some { req := w, n := n, clamped := n != w.n, groups := (s.link l).turners n, dead := false } } := by
  subst h
  simp [turnBegin, hw, hstate, hturn, hn]

/-- A group turned around, with a dwell up to a cycle. -/
def LGroup.turned (x : LGroup) (dwellEnd : Nat) : LGroup := { x with dirB := !x.dirB, dwellEnd := dwellEnd }

/-- The link after the dead time of turn `u`, but for the outcome of its request. -/
def Link.turnedBy (k : Link) (u : Turn) (now : Nat) : Link :=
  { k with turn := none, split := u.n }.eachGroup (·.turned (now + 3600)) u.groups

theorem turnDeadTimeEnd_of_dead {u : Turn} (hturn : (s.link l).turn = some u) (hdead : u.dead = true) :
    turnDeadTimeEnd l s = { s with cycle := s.cycle + 72 }.setLink l (((s.link l).turnedBy u (s.cycle + 72)).ends u.req.serial
      (outcome (if u.clamped then 4 else 1) ((s.link l).turnedBy u (s.cycle + 72)).nab 0)) := by
  simp only [turnDeadTimeEnd, hturn, hdead, if_true]
  rfl

end

end Sys2Proof.Machine

namespace Sys2Proof.Settled

open Sys2Proof.Machine

/-- Settles O51: each event by the meaning of its instruction; a turn's results by the link that it leaves. -/
theorem unitEvents : Obligations.UnitEvents := by
  unfold Obligations.UnitEvents exec
  refine ⟨fun _ _ => next_ifLive, fun _ _ => next_ifLive, fun _ _ => next_ifLive, fun _ _ => next_ifLive, fun _ _ _ _ => next_ifLive,
    fun _ _ _ _ => next_ifLive, fun _ _ _ _ => next_ifLive, fun _ _ _ _ _ => next_ifLive, fun _ _ _ _ _ _ _ => next_ifLive,
    fun _ _ => next_ifLive, fun _ _ => next_onLink, fun _ _ _ => next_onLink, fun _ _ => next_onLink, fun _ _ => next_onLink,
    fun _ _ => next_onLink, fun _ _ _ _ => next_onLink, fun _ _ _ _ _ => next_onLink,
    fun h s hs => ⟨_, next_ifLive hs, yielding_yieldEnds h s⟩,
    fun l s hs hl hstate hturn => ⟨_, next_onLink hs hl, ?_⟩,
    fun l s w hs hl hstate hturn hw => ⟨_, next_onLink hs hl, ?_⟩, fun l s u hs hl hturn hdead hgs => ⟨_, next_onLink hs hl, ?_⟩⟩
  · have paused := link_linkPaused hstate hturn
    exact ⟨by rw [paused, link_setLink_same], fun j hj => (paused j).trans (link_setLink_of_ne hj ..)⟩
  · by_cases hn : (s.link l).clamp w.n (s.facing l).1 (s.facing l).2 = (s.link l).nab
    · rw [turnBegin_of_same hstate hturn hw hn, link_setLink_same]
      exact ⟨rfl, fun j hj => link_setLink_of_ne hj .., fun _ => ⟨hturn, rfl⟩, (absurd hn ·)⟩
    · obtain ⟨hcycle, hdwell⟩ := le_foldl_max (fun g => ((s.link l).group g).dwellEnd)
        ((s.link l).turners ((s.link l).clamp w.n (s.facing l).1 (s.facing l).2)) s.cycle
      rw [turnBegin_of_other hstate hturn hw rfl hn, link_setLink_same]
      exact ⟨rfl, fun j hj => link_setLink_of_ne hj .., (absurd · hn), fun _ => ⟨_, rfl, rfl, rfl, fun _ => Iff.rfl, hcycle, hdwell⟩⟩
  · have turned : (s.link l).turnedBy u (s.cycle + 72) = _ := eachGroup_eq ..
    rw [turnDeadTimeEnd_of_dead hturn hdead, link_setLink_same]
    exact ⟨rfl, congrArg Link.turn turned, congrArg Link.split turned, fun j hj => link_setLink_of_ne hj ..,
      fun g => group_eachGroup hgs _ g⟩

end Sys2Proof.Settled

/-!
Integer arithmetic of elements (05 R179): each operation as the function on words of the element's width that the table names.
-/

namespace Sys2Proof.Machine

/-- The bits of an integer are those of its word. -/
theorem ofInt_eq_toNat (w : Nat) (v : Int) : ofInt w v = (BitVec.ofInt w v).toNat := (BitVec.toNat_ofInt ..).symm

/-- The upper half of a number's low bits is the low half of its upper bits. -/
theorem emod_mul_self_ediv_emod (p : Int) {n : Int} (hn : n ≠ 0) : p % (n * n) / n % n = p / n % n := by
  rw [Int.emod_def p, Int.mul_assoc, Int.sub_mul_ediv_left _ _ hn, Int.sub_mul_emod_self_left]

/-- The high half of a product is that of the product modulo 2^(2w). -/
theorem ofInt_ediv_two_pow (w : Nat) (p : Int) :
    ofInt w (p / (2 ^ w : Nat)) = ((BitVec.ofInt (2 * w) p).extractLsb' w w).toNat := by
  have hdouble : ((2 ^ w : Nat) : Int) * (2 ^ w : Nat) = (2 ^ (2 * w) : Nat) := by rw [← Nat.cast_mul, ← Nat.pow_add, Nat.two_mul]
  have hnonneg : 0 ≤ p % (2 ^ (2 * w) : Nat) := Int.emod_nonneg _ (by positivity)
  rw [ofInt, ← emod_mul_self_ediv_emod p (by positivity), hdouble, BitVec.extractLsb'_toNat, BitVec.toNat_ofInt,
    Nat.shiftRight_eq_div_pow]
  lift p % (2 ^ (2 * w) : Nat) to Nat using hnonneg with r
  rfl

section
variable {w : Nat} (x y : BitVec w)

theorem toSigned_toNat (hw : w ≠ 0) : toSigned w x.toNat = x.toInt := by
  have hmod : (x.toNat : Int) % 2 ^ w = x.toNat := mod_cast Nat.mod_eq_of_lt x.isLt
  rw [toInt_eq_of_top hw, toSigned, hmod, Nat.mod_eq_of_lt x.isLt]
  norm_cast

theorem intFn_add : intFn .add w x.toNat y.toNat = (x + y).toNat := (BitVec.toNat_add ..).symm

theorem intFn_sub : intFn .sub w x.toNat y.toNat = (x - y).toNat := by
  rw [intFn, Nat.mod_eq_of_lt y.isLt, BitVec.toNat_sub, Nat.add_comm]

theorem intFn_subr : intFn .subr w x.toNat y.toNat = (y - x).toNat := intFn_sub y x

theorem intFn_mul : intFn .mul w x.toNat y.toNat = (x * y).toNat := (BitVec.toNat_mul ..).symm

theorem intFn_mulh (hw : w ≠ 0) :
    intFn .mulh w x.toNat y.toNat = ((x.signExtend (2 * w) * y.signExtend (2 * w)).extractLsb' w w).toNat := by
  simp only [intFn, toSigned_toNat _ hw]
  rw [ofInt_ediv_two_pow, BitVec.ofInt_mul]
  rfl

theorem intFn_mulhu :
    intFn .mulhu w x.toNat y.toNat = ((x.setWidth (2 * w) * y.setWidth (2 * w)).extractLsb' w w).toNat := by
  have hw : w ≤ 2 * w := by omega
  have hlt : x.toNat * y.toNat < 2 ^ w * 2 ^ w := Nat.mul_lt_mul'' x.isLt y.isLt
  rw [intFn, BitVec.extractLsb'_toNat, BitVec.toNat_mul, BitVec.toNat_setWidth_of_le hw, BitVec.toNat_setWidth_of_le hw,
    Nat.shiftRight_eq_div_pow, Nat.two_mul, Nat.pow_add, Nat.mod_eq_of_lt hlt, Nat.mod_eq_of_lt (Nat.div_lt_of_lt_mul hlt)]

theorem intFn_min (hw : w ≠ 0) : intFn .min w x.toNat y.toNat = if x.slt y then x.toNat else y.toNat := by
  simp [intFn, toSigned_toNat _ hw, BitVec.slt]

theorem intFn_max (hw : w ≠ 0) : intFn .max w x.toNat y.toNat = if x.slt y then y.toNat else x.toNat := by
  simp [intFn, toSigned_toNat _ hw, BitVec.slt]

theorem intFn_sll (k : Nat) : intFn .sll w x.toNat k = (x <<< (k % w)).toNat := by
  rw [intFn, BitVec.toNat_shiftLeft, Nat.shiftLeft_eq]

theorem intFn_srl (k : Nat) : intFn .srl w x.toNat k = (x >>> (k % w)).toNat := by
  rw [intFn, BitVec.toNat_ushiftRight, Nat.shiftRight_eq_div_pow]

theorem intFn_sra (hw : w ≠ 0) (k : Nat) : intFn .sra w x.toNat k = (x.sshiftRight (k % w)).toNat := by
  simp only [intFn, toSigned_toNat _ hw]
  rw [ofInt_eq_toNat, ← Int.shiftRight_eq_div_pow, ← BitVec.toInt_sshiftRight, BitVec.ofInt_toInt]

end

end Sys2Proof.Machine

namespace Sys2Proof.Settled

open Sys2Proof.Machine

/-- Settles O48: an element is the value of its word, and each operation is the table's on words. -/
theorem vectorIntegerElements : Obligations.VectorIntegerElements := by
  unfold Obligations.VectorIntegerElements
  intro w a b hw ha hb x y
  have hx : x.toNat = a := Nat.mod_eq_of_lt ha
  have hy : y.toNat = b := Nat.mod_eq_of_lt hb
  have hw : w ≠ 0 := by rintro rfl; simp at hw
  rw [← hx, ← hy]
  exact ⟨intFn_add x y, intFn_sub x y, intFn_subr x y, intFn_mul x y, intFn_mulh x y hw, intFn_mulhu x y, intFn_min x y hw,
    intFn_max x y hw, rfl, rfl, rfl, rfl, rfl, intFn_sll x _, intFn_srl x _, intFn_sra x hw _⟩

end Sys2Proof.Settled

/-!
Events of the Beacon ports (10 R359, R362): what PORT_UP and the replays of a flit leave of the port, and of the others.
-/

namespace Sys2Proof.Machine

section
variable {s : State} {port : Nat} (hp : port < 16)
include hp

/-- PORT_UP writes its port and nothing else. -/
theorem portUp_of_lt :
    portUp port s =
      { s with ports := smPut s.ports port { smGet {} s.ports port with up := true, failed := false, fails := 0 } } :=
  if_neg (Nat.not_le.2 hp)

variable {again : Bool} {n : Nat} (hup : (smGet {} s.ports port).up = true)
  (hn : (if again then (smGet {} s.ports port).fails else 0) + 1 = n)
include hup hn

/-- Up to the 16th, a replay is counted at its port and nothing else changes. -/
theorem beaconFlitReplay_of_le (hle : n ≤ 16) :
    beaconFlitReplay port again s = { s with ports := smPut s.ports port { smGet {} s.ports port with fails := n } } := by
  simp [beaconFlitReplay, Nat.not_le.2 hp, hup, hn, hle]

/-- Once the 16th replay too has failed, the port is down, marked as failed, and the last in the supervisor's record of such ports. -/
theorem beaconFlitReplay_of_gt (hgt : 16 < n) :
    (beaconFlitReplay port again s).ports =
        smPut s.ports port { smGet {} s.ports port with up := false, failed := true, fails := 0 } ∧
      (beaconFlitReplay port again s).supv.portReports = s.supv.portReports ++ [port] := by
  simp [beaconFlitReplay, Nat.not_le.2 hp, hup, hn, Nat.not_le.2 hgt]

end

end Sys2Proof.Machine

namespace Sys2Proof.Settled

open Sys2Proof.Machine

/-- Settles O52: each event by the meaning of its instruction; the results of PORT_UP and of a replay by the port that they write. -/
theorem beaconEvents : Obligations.BeaconEvents := by
  refine ⟨fun _ _ _ => next_ifLive, fun _ _ _ => next_ifLive, fun _ _ _ => next_ifLive, fun _ _ _ => next_ifLive,
    fun _ _ _ => next_ifLive, fun _ _ _ => next_ifLive, fun _ _ _ => next_ifLive, fun _ _ _ _ => next_ifLive,
    fun _ _ _ _ => next_ifLive, fun _ _ _ => next_ifLive, fun _ _ => next_ifLive,
    fun port s hs hp => ⟨⟨_, next_ifLive hs, ?_⟩, fun again hup => ⟨_, next_ifLive hs, fun hle => ?_, fun hgt => ?_⟩⟩⟩
  · rw [portUp_of_lt hp]
    exact ⟨rfl, by simp, by simp, fun q hq => by simp [hq]⟩
  · rw [beaconFlitReplay_of_le hp hup rfl hle]
    exact ⟨by simp [hup], by simp, rfl⟩
  · obtain ⟨hports, hreports⟩ := beaconFlitReplay_of_gt hp hup rfl hgt
    exact ⟨by simp [hports], hreports⟩

end Sys2Proof.Settled

/-!
The host queues (12 R380, R382) and the actions of the sequencer (10 R354, 12 R383): what a doorbell leaves of its queue and of the
others, and what a command leaves when its turn has come.
-/

namespace Sys2Proof.Machine

/-! ### The queues -/

section
variable {s : State} {q : Nat}

theorem hq_setHq (s : State) (q i : Nat) (x : HostQueue) : (s.setHq q x).hq i = if i = q then x else s.hq i := smGet_set ..

@[simp] theorem hq_setHq_same (s : State) (q : Nat) (x : HostQueue) : (s.setHq q x).hq q = x := (hq_setHq ..).trans (if_pos rfl)

theorem hq_setHq_of_ne {i : Nat} (hi : i ≠ q) (s : State) (x : HostQueue) : (s.setHq q x).hq i = s.hq i :=
  (hq_setHq ..).trans (if_neg hi)

/-- What the device makes of a move of a queue that exists. -/
theorem onQueue_of_le {f : Nat → State → State} (hq : q ≤ 128) : onQueue q f s = f q s := if_pos (decide_eq_true hq)

theorem next_onQueue {f : Nat → State → State} (hs : s.boot.fatal = false) (hq : q ≤ 128) :
    (.next (ifLive (onQueue q f) s) : Out) = .next (f q s) := (next_ifLive hs).trans (congrArg _ (onQueue_of_le hq))

variable {v : BitVec 64}

theorem cqheadBell_of_le (hserving : s.serving = true) (henable : (s.hq q).enable = true) (hv : v.toNat ≤ (s.hq q).cqsize) :
    cqheadBell q v s = s.setHq q { s.hq q with cqhead := v.toNat } := by
  simp [cqheadBell, hserving, henable, hv]

theorem cqheadBell_of_gt (hv : (s.hq q).cqsize < v.toNat) : cqheadBell q v s = s := by
  simp [cqheadBell, Nat.not_le.2 hv]

theorem sqtailBell_of_gt (hv : (s.hq q).sqsize < v.toNat) : sqtailBell q v s = s := by
  simp [sqtailBell, Nat.not_le.2 hv]

theorem exec_enable (hq : q ≤ 128) : exec (.enable q v) s = .next (enableWrite q v s) :=
  congrArg Host.Outcome.next (onQueue_of_le (f := fun q => enableWrite q v) hq)

/-- A write that leaves bit 63 clear disables the queue, with the VECTOR written. -/
theorem enableWrite_of_clear (hv : v.getLsbD 63 = false) :
    ∃ x : HostQueue, enableWrite q v s = s.setHq q x ∧ x.enable = false ∧ x.vector = v.extractLsb' 32 16 := by
  refine ⟨_, by rw [enableWrite, hv]; rfl, rfl, ?_⟩
  dsimp only
  split <;> rfl

end

/-! ### Actions that no link holds up -/

section
variable {s t : State} {c : HostCmd}

/-- An action is made where no flit of it waits, before or after (10 R354). -/
theorem attempts_of_unheld {o : FlitOwner} {f : State → State} (hs : ∀ g ∈ s.flits, g.owner ≠ o)
    (ht : ∀ g ∈ (f s).flits, g.owner ≠ acting) : s.attempts o f = f s := by
  have unmarked : s.flits.map (fun g => if g.owner = o then { g with owner := acting, link := 14 } else g) = s.flits :=
    (List.map_congr_left fun g hg => if_neg (hs g hg)).trans (List.map_id' _)
  have none_waits : (f s).flits.find? (fun g => g.owner == acting && g.link != 14) = none :=
    List.find?_eq_none.2 fun g hg => by simp [ht g hg]
  have none_acts : (f s).flits.filter (fun g => g.owner != acting) = (f s).flits :=
    List.filter_eq_self.2 fun g hg => by simp [ht g hg]
  simp only [State.attempts, State.attempt, unmarked, none_waits, none_acts]

/-- A command that starts does what its opcode names, once it is no longer one that waits (12 R382, R383). -/
theorem commandStart_of_starts (h : s.starts c) : commandStart c s = perform c (s.taken c) := by
  obtain ⟨-, -, -, -, -, hrefusal, hhops⟩ := h
  have same : (cmdReads (s.taken c) c).flatMap (fun pa => (s.taken c).shutHops (commandSender c) 8 (servedAt pa)) = [] := hhops
  unfold State.taken at hrefusal same ⊢
  simp only [commandStart, hrefusal, same]

/-- What the device makes of a row of the opcode table for a command of that row that starts and that no link holds up. -/
theorem next_hostCommand {row : HostCmd → Bool} (h : s.starts c) (hrow : row c = true) (ht : perform c (s.taken c) = t)
    (hu : s.unheld c t) : (.next (hostCommand row c s) : Out) = .next t := by
  have hstart : commandStart c s = t := (commandStart_of_starts h).trans ht
  obtain ⟨hserving, henable, hexists, hwaits, hmay, -⟩ := h
  obtain ⟨hbefore, hafter⟩ := hu
  have attempted : startCommand c s = t :=
    (attempts_of_unheld (fun g hg => (hbefore g hg).1) (by rwa [hstart])).trans hstart
  simp [hostCommand, hserving, henable, hexists, hrow, hwaits, hmay, attempted]

end

end Sys2Proof.Machine

namespace Sys2Proof.Settled

open Sys2Proof.Machine

/-- Settles O53: each event by the meaning of its instruction; the results of the doorbells and of ENABLE by the queue that they write. -/
theorem launchQueueEvents : Obligations.LaunchQueueEvents := by
  refine ⟨fun _ _ => next_ifLive, fun _ _ => next_ifLive, fun _ _ => next_ifLive, fun _ _ => next_onQueue, fun _ _ _ => next_onQueue,
    fun _ _ _ => next_onQueue, fun _ _ _ => exec_enable,
    fun q v s hs hq hserving henable => ⟨fun hv => ⟨_, next_onQueue hs hq, ?_⟩,
      fun hv => (next_onQueue hs hq).trans (congrArg _ (cqheadBell_of_gt hv)),
      fun hv => (next_onQueue hs hq).trans (congrArg _ (sqtailBell_of_gt hv))⟩,
    fun q v s hq hv => ⟨_, exec_enable hq, ?_⟩⟩
  · rw [cqheadBell_of_le hserving henable hv]
    exact ⟨rfl, hq_setHq_same .., fun i hi => hq_setHq_of_ne hi ..⟩
  · obtain ⟨x, hx, henable, hvector⟩ := enableWrite_of_clear (s := s) (q := q) hv
    rw [hx, hq_setHq_same]
    exact ⟨rfl, henable, hvector, fun i hi => hq_setHq_of_ne hi ..⟩

/-- Settles O54: a command that starts is attempted, and its opcode names what it does; the ACTION of a GANG_SWITCH names which half. -/
theorem hostCommands : Obligations.HostCommands := by
  intro c s h
  obtain ⟨queue, seq, opcode, flags, block, block2⟩ := c
  and_intros <;> rintro rfl
  iterate 16 exact next_hostCommand h rfl rfl
  · exact fun hact => next_hostCommand h (by simpa using hact) (if_neg hact)
  · exact fun hact => next_hostCommand h (by simpa using hact) (if_pos hact)
  · exact fun hact => next_hostCommand h (by simpa using hact) rfl
  · exact fun hact => next_hostCommand h (by simpa using hact) rfl

end Sys2Proof.Settled

/-!
The context instructions (12 R404): what KLAUNCH is answered, and how CTXSAVE and CTXLOAD go on from the record of their request.
-/

namespace Sys2Proof.Machine

/-! ### Waits and actions -/

section
variable {s t : State}

theorem fenceWait_of_clear {ps : BitVec 5} (h : s.fenceBusy s.cur (s.me.fenceFrom ps 0 2) = false) :
    runM (fenceWait ps) s = (.ok (), s) := by
  refine (runM_bind_ok (runM_get s)).trans ?_
  rw [h, if_neg Bool.false_ne_true]
  rfl

theorem attemptM_of_some {α : Type} {o : FlitOwner} {f : State → α × State} {a : α} (h : s.attempt o f = (some a, t)) :
    runM (attemptM o f) s = (.ok a, t) := by
  refine (runM_bind_ok (runM_get s)).trans ?_
  rw [h]
  rfl

theorem scalarRun_ok {regs : List Nat} {m : M Unit} (hr : s.me.ready regs = true) (h : runM m s = (.ok (), t)) :
    scalarRun regs m s = .next t.past := by
  rw [scalarRun, if_pos hr, scalarM, runM_bind_ok h]
  rfl

end

/-! ### The launch of a KLAUNCH -/

section
variable {x : Hart} {b : BitVec 512} {s t : State}

/-- DONEADDR stands at byte 40 of the block of KLAUNCH, which the sequencer reads 16 bytes further on (12 R404). -/
theorem doneaddr_eq_zero (b : BitVec 512) : blkField (b <<< 128) 56 8 = 0 ↔ b.extractLsb' 320 64 = 0 := by
  have field : blkField (b <<< 128) 56 8 = (b.extractLsb' 320 64).toNat := by
    rw [blkField, BitVec.toNat_shiftLeft, BitVec.extractLsb'_toNat, Nat.shiftLeft_eq, Nat.shiftRight_eq_div_pow]
    omega
  rw [field, ← BitVec.toNat_inj]
  rfl

theorem launchId_lt (slot : Nat) (l : Launch) : launchId slot l < 2 ^ 63 := by
  unfold launchId
  omega

theorem acceptLaunch_lt (l : Launch) (ends : Option Nat) (s : State) : (acceptLaunch l ends s).1 < 2 ^ 63 := by
  unfold acceptLaunch
  dsimp only
  split <;> exact launchId_lt ..

theorem deviceLaunch_of_malformed (h : b.extractLsb' 384 128 ≠ 0 ∨ b.extractLsb' 320 64 = 0) :
    deviceLaunch x b s = (2 ^ 63 + 0x82, s) :=
  if_pos (by simpa [doneaddr_eq_zero] using h)

section
variable (hrest : b.extractLsb' 384 128 = 0) (hdone : b.extractLsb' 320 64 ≠ 0)
include hrest hdone

theorem deviceLaunch_of_error {st : Nat} {v : Word} (h : checkLaunch x.tenant (b <<< 128) none s = (.error (st, v), t)) :
    deviceLaunch x b s = (2 ^ 63 + st, t) :=
  (if_neg (by simpa [doneaddr_eq_zero, hrest] using hdone)).trans (by rw [h])

theorem deviceLaunch_of_ok {l : Launch × Option Nat} (h : checkLaunch x.tenant (b <<< 128) none s = (.ok l, t)) :
    deviceLaunch x b s = acceptLaunch { l.1 with prio := Nat.min l.1.prio ((t.prioOf x).getD 7) } l.2 t :=
  (if_neg (by simpa [doneaddr_eq_zero, hrest] using hdone)).trans (by rw [h])

end

end

/-- KWAIT does not wait for a launch that has ended (12 R404). -/
theorem exec_kwait_of_ended {ra : BitVec 5} {s : State} (hr : s.me.ready [ra.toNat] = true)
    (h : s.launchUnder s.me.tenant (s.reg ra).toNat = false) : exec (.kwait ra) s = .next s.past :=
  scalarRun_ok hr ((runM_bind_ok (runM_get s)).trans (congrArg (runM · s) (if_neg (ne_true_of_eq_false h))))

/-! ### CTXSAVE and CTXLOAD -/

/-- What a context request asks of the sequencer: a launch by tenant and id, for a hart. -/
abbrev ContextAsk := Nat → Nat → Waiter → State → Option Nat × State

theorem exec_ctxsave (ra : BitVec 5) (s : State) : exec (.ctxsave ra) s = contextOp (encSY 0x36 0x0 ra 0x0 0x2) ra askSuspend s := rfl

theorem exec_ctxload (ra : BitVec 5) (s : State) :
    exec (.ctxload ra) s = contextOp (encSY 0x36 0x0 ra 0x0 0x3) ra (fun t id => askResume t id 0 0) s := rfl

/-- The end of a context request whose action has ended: its status is written, and the hart's record of it is gone. -/
def contextFinish (a : Word) (st : Nat) : M Unit := do
  memWrite none 0 (a + 9) 1 st .store 0
  updMeM (fun x => { x with ctx := none })

/-- The beginning of a context request: the action is asked for. -/
def contextStart (ask : ContextAsk) (a : Word) (rq : Nat) : M Unit := do
  let h := (← get).cur
  match ← attemptM (hartFlit h) (ask (rq / 2 ^ 64 % 256) (rq % 2 ^ 64) (.hart h)) with
  | some st =>
    updMeM (fun x => { x with ctx := some (rq % 2 ^ 64, some st) })
    contextFinish a st
  | none =>
    updMeM (fun x => { x with ctx := some (rq % 2 ^ 64, none) })
    block

/-- A context request by the hart's record of the one that it waits for. -/
def contextGo (ask : ContextAsk) (a : Word) (rq : Nat) : Option (Nat × Option Nat) → M Unit
  | some (k, st) =>
    if k ≠ rq % 2 ^ 64 then contextStart ask a rq
    else match st with
      | some st => contextFinish a st
      | none => block
  | none => contextStart ask a rq

section
variable {ask : ContextAsk} {a : Word} {rq st : Nat} {s t u z : State} {ctx : Option (Nat × Option Nat)}

/-- A request with another id than the record's is a new one. -/
theorem contextGo_of_new (h : ∀ p, ctx = some p → p.1 ≠ rq % 2 ^ 64) : contextGo ask a rq ctx = contextStart ask a rq := by
  cases ctx with
  | none => rfl
  | some p => exact if_pos (h p rfl)

theorem contextGo_of_ended : contextGo ask a rq (some (rq % 2 ^ 64, some st)) = contextFinish a st := if_neg (not_not.2 rfl)

theorem runM_contextFinish (h : t.writes (a + 9) 1 st z) :
    runM (contextFinish a st) t = (.ok (), z.updMe fun x => { x with ctx := none }) :=
  (runM_bind_ok h).trans (runM_updMeM ..)

theorem contextStart_of_ended
    (ht : t.attempt (hartFlit t.cur) (ask (rq / 2 ^ 64 % 256) (rq % 2 ^ 64) (.hart t.cur)) = (some (some st), u))
    (hz : (u.updMe fun x => { x with ctx := some (rq % 2 ^ 64, some st) }).writes (a + 9) 1 st z) :
    runM (contextStart ask a rq) t = (.ok (), z.updMe fun x => { x with ctx := none }) :=
  (runM_bind_ok (runM_get t)).trans ((runM_bind_ok (attemptM_of_some ht)).trans
    ((runM_bind_ok (runM_updMeM ..)).trans (runM_contextFinish hz)))

theorem contextStart_of_begun
    (ht : t.attempt (hartFlit t.cur) (ask (rq / 2 ^ 64 % 256) (rq % 2 ^ 64) (.hart t.cur)) = (some none, u)) :
    runM (contextStart ask a rq) t = (.error .wait, u.updMe fun x => { x with ctx := some (rq % 2 ^ 64, none) }) :=
  (runM_bind_ok (runM_get t)).trans ((runM_bind_ok (attemptM_of_some ht)).trans
    ((runM_bind_ok (runM_updMeM ..)).trans (runM_block _)))

section
variable {word : BitVec 32} {ra : BitVec 5} (hsuper : s.me.super = true) (hr : s.me.ready [ra.toNat] = true)
variable (hf : s.fenced 3 = false) (ha : (s.reg ra).toNat % 16 = 0) (hrq : s.reads (s.reg ra) 16 rq t)
include hsuper hr hf ha hrq

theorem contextOp_ends
    (h : runM (contextGo ask (s.reg ra) rq s.me.ctx) t = (.ok (), z.updMe fun x => { x with ctx := none })) :
    contextOp word ra ask s = .next (z.updMe fun x => { x with ctx := none }.adv) := by
  rw [contextOp, hsuper, if_neg (by decide)]
  exact (memInstr_ok hf hr ((runM_aligned ha).trans ((runM_bind_ok hrq).trans h))).trans (congrArg _ (updMe_updMe ..))

/-- A request of which the hart has no record, whose action ends at once. -/
theorem contextOp_of_ended (hnew : ∀ p, s.me.ctx = some p → p.1 ≠ rq % 2 ^ 64)
    (hask : t.attempt (hartFlit t.cur) (ask (rq / 2 ^ 64 % 256) (rq % 2 ^ 64) (.hart t.cur)) = (some (some st), u))
    (hz : (u.updMe fun x => { x with ctx := some (rq % 2 ^ 64, some st) }).writes (s.reg ra + 9) 1 st z) :
    contextOp word ra ask s = .next (z.updMe fun x => { x with ctx := none }.adv) := by
  refine contextOp_ends hsuper hr hf ha hrq ?_
  rw [contextGo_of_new hnew]
  exact contextStart_of_ended hask hz

/-- A request of which the hart has no record, whose action begins. -/
theorem contextOp_of_begun (hnew : ∀ p, s.me.ctx = some p → p.1 ≠ rq % 2 ^ 64)
    (hask : t.attempt (hartFlit t.cur) (ask (rq / 2 ^ 64 % 256) (rq % 2 ^ 64) (.hart t.cur)) = (some none, u)) :
    contextOp word ra ask s = .next (u.updMe fun x => { x with ctx := some (rq % 2 ^ 64, none) }) := by
  have waits : runM (contextGo ask (s.reg ra) rq s.me.ctx) t = _ :=
    (congrArg (runM · t) (contextGo_of_new hnew)).trans (contextStart_of_begun hask)
  rw [contextOp, hsuper, if_neg (by decide)]
  exact memInstr_wait hf hr ((runM_aligned ha).trans ((runM_bind_ok hrq).trans waits))

/-- A request whose action has ended while the hart waited. -/
theorem contextOp_of_recorded (hctx : s.me.ctx = some (rq % 2 ^ 64, some st)) (hz : t.writes (s.reg ra + 9) 1 st z) :
    contextOp word ra ask s = .next (z.updMe fun x => { x with ctx := none }.adv) := by
  refine contextOp_ends hsuper hr hf ha hrq ?_
  rw [hctx, contextGo_of_ended]
  exact runM_contextFinish hz

end

end

end Sys2Proof.Machine

namespace Sys2Proof.Settled

open Sys2Proof.Machine

/-- Settles O49: KLAUNCH by the answer of `deviceLaunch`, and a context request by the hart's record of it. -/
theorem contextResults : Obligations.ContextResults := by
  refine ⟨?_, fun x b s t => ⟨deviceLaunch_of_malformed, fun hrest hdone =>
    ⟨fun st v => deviceLaunch_of_error hrest hdone, fun l hl => ?_⟩⟩, fun _ _ => exec_kwait_of_ended, ?_, ?_⟩
  · intro rd ra s t u v r hr hf ha hfence hread hask
    exact memInstr_put hf hr ((runM_aligned ha).trans ((runM_bind_ok (fenceWait_of_clear hfence)).trans
      ((runM_bind_ok hread).trans ((runM_bind_ok (runM_get t)).trans (runM_bind_ok (attemptM_of_some hask))))))
  · rw [deviceLaunch_of_ok hrest hdone hl]
    exact acceptLaunch_lt ..
  · intro ra s t u z rq st hsuper hr hf ha hrq hnew hz
    exact ⟨fun hask => (exec_ctxsave ra s).trans (contextOp_of_ended hsuper hr hf ha hrq hnew hask hz),
      fun hask => (exec_ctxload ra s).trans (contextOp_of_ended hsuper hr hf ha hrq hnew hask hz)⟩
  · intro ra s t u z rq st hsuper hr hf ha hrq
    refine ⟨fun hnew => ⟨fun hask => ?_, fun hask => ?_⟩, fun hctx hz => ⟨?_, ?_⟩⟩
    · exact (exec_ctxsave ra s).trans (contextOp_of_begun hsuper hr hf ha hrq hnew hask)
    · exact (exec_ctxload ra s).trans (contextOp_of_begun hsuper hr hf ha hrq hnew hask)
    · exact (exec_ctxsave ra s).trans (contextOp_of_recorded hsuper hr hf ha hrq hctx hz)
    · exact (exec_ctxload ra s).trans (contextOp_of_recorded hsuper hr hf ha hrq hctx hz)

end Sys2Proof.Settled

namespace Sys2Proof.Settled

open Sys2Proof.Machine

/-- Settles O13: nothing has been written to memory at reset. -/
theorem resetMemoryCanonical : Obligations.ResetMemoryCanonical :=
  show smWf (0 : BitVec 8) [] = true from rfl

end Sys2Proof.Settled

/-!
The supervisor instructions (13 R418, R419, R424): an access to physical memory that goes through, and a watchpoint armed or disarmed.
-/

namespace Sys2Proof.Machine

section
variable {s t : State}

/-- An access that goes through has no trap and no wait. -/
theorem runM_accM_of_ok {α : Type} {f : State → Except AccErr α × State} {mk : AccErr → TrapInfo} {a : α} (h : f s = (.ok a, t)) :
    runM (accM f mk) s = (.ok a, t) := by
  rw [runM_accM, h]

section
variable (hsuper : s.me.super = true)
include hsuper

/-- An instruction of supervisor mode does what it does without its check for PRIV (03 R97). -/
theorem priv_of_super {o o' : Out} : (if !s.me.super then o else o') = o' := if_neg (by simp [hsuper])

theorem exec_svrd_ok {rd ra : BitVec 5} {v : Nat} (hr : s.me.ready [rd.toNat, ra.toNat] = true) (hf : s.fenced 1 = false)
    (ha : (s.reg ra).toNat % 8 = 0) (hread : physRead s.supvAccess (s.reg ra).toNat 8 .load s = (.ok v, t)) :
    exec (.svrd rd ra) s = .next (t.put rd (BitVec.ofNat 64 v)) := by
  refine (priv_of_super hsuper).trans (memInstr_put hf hr ((runM_aligned ha).trans
    ((runM_bind_ok (runM_get s)).trans (runM_bind_ok (runM_accM_of_ok ?_)))))
  simp only [State.reg] at hread
  rw [hread]

theorem exec_svwr_ok {rd ra : BitVec 5} (hr : s.me.ready [rd.toNat, ra.toNat] = true) (hf : s.fenced 2 = false)
    (ha : (s.reg rd).toNat % 8 = 0)
    (hwrite : physWrite s.supvAccess (s.reg rd).toNat 8 (s.reg ra).toNat .store s = (.ok (), t)) :
    exec (.svwr rd ra) s = .next t.past := by
  refine (priv_of_super hsuper).trans (memInstr_ok hf hr ((runM_aligned ha).trans
    ((runM_bind_ok (runM_get s)).trans (runM_accM_of_ok ?_))))
  simp only [State.reg] at hwrite
  rw [hwrite]

theorem exec_warm_ok {ra : BitVec 5} {n : BitVec 2} {v : Nat} {w : WatchPt} (hr : s.me.ready [ra.toNat] = true)
    (hf : s.fenced 1 = false) (ha : (s.reg ra).toNat % 16 = 0) (hread : s.reads (s.reg ra) 16 v t) (hw : watchOf t v = some w)
    (hfence : t.fenceBusy t.cur (t.me.fenceFrom 0b11111 0 2) = false) :
    exec (.warm ra n) s =
      .next { t with watch := smPut t.watch n.toNat w, watchReg := smSet 0 t.watchReg n.toNat 0 }.past := by
  refine (priv_of_super hsuper).trans (memInstr_ok hf hr ((runM_aligned ha).trans
    ((runM_bind_ok hread).trans ((runM_bind_ok (runM_get t)).trans ?_))))
  rw [hw]
  exact runM_bind_ok (fenceWait_of_clear hfence)

theorem exec_wdisarm_ok {n : BitVec 2} (hr : s.me.ready [] = true) (hfence : s.fenceBusy s.cur (s.me.fenceFrom 0b11111 0 2) = false) :
    exec (.wdisarm n) s = .next { s with watch := smErase s.watch n.toNat }.past :=
  (priv_of_super hsuper).trans (scalarRun_ok hr (runM_bind_ok (fenceWait_of_clear hfence)))

end

end

end Sys2Proof.Machine

namespace Sys2Proof.Settled

open Sys2Proof.Machine

/-- Settles O50: each instruction by its access that goes through, or by its wait that ends at once. -/
theorem supervisorResults : Obligations.SupervisorResults :=
  ⟨fun _ _ _ _ _ hsuper hr => ⟨exec_svrd_ok hsuper hr, exec_svwr_ok hsuper hr⟩,
    fun _ _ _ _ _ _ hsuper => ⟨exec_warm_ok hsuper, exec_wdisarm_ok hsuper⟩⟩

end Sys2Proof.Settled

/-!
The freeze (13 R426 to R428): what the dump header writes, what a fatal error leaves, and the moves that a frozen device ignores.
-/

namespace Sys2Proof.Machine

/-! ### The dump header -/

/-- The header's fields in the order of their writes: place in the window, length and value (13 R428). -/
def headerFields (cause die measure : Nat) : List (Nat × Nat × Nat) :=
  [(0, 4096, 0), (0, 2, 1), (2, 1, cause), (3, 1, die), (4, 1, 1), (5, 1, 0xA0), (8, 8, 4096), (16, 64, measure)]

/-- Fields written to the dump window, one after another. -/
def State.dumpFields (s : State) (fs : List (Nat × Nat × Nat)) : State := fs.foldl (fun s f => s.dumpBytes f.1 f.2.1 f.2.2) s

/-- The header lies in the first page of the window. -/
theorem headerFields_fit {cause die measure : Nat} : ∀ f ∈ headerFields cause die measure, f.1 + f.2.1 ≤ 4096 := by
  simp [headerFields]

section
variable {s : State} {b : Boot} {cause die off n v q : Nat}

@[simp] theorem dumpBytes_boot : (s.dumpBytes off n v).boot = s.boot := setBytes_boot ..

theorem dumpBytes_eq : s.dumpBytes off n v = { s with mem := (s.dumpBytes off n v).mem } := setBytes_eq ..

theorem dumpHeader_of_empty (h : s.boot.dumpsize = 0) : s.dumpHeader cause die = s := if_pos h

theorem dumpHeader_eq_dumpFields (h : s.boot.dumpsize ≠ 0) :
    s.dumpHeader cause die = s.dumpFields (headerFields cause die s.boot.measure.toNat) := by
  rw [State.dumpHeader, if_neg h]
  simp only [State.dumpFields, headerFields, List.foldl_cons, List.foldl_nil, dumpBytes_boot]

theorem dumpFields_eq (fs : List (Nat × Nat × Nat)) : s.dumpFields fs = { s with mem := (s.dumpFields fs).mem } := by
  induction fs generalizing s with
  | nil => rfl
  | cons f fs ih =>
    exact (ih (s := s.dumpBytes ..)).trans (congrArg (fun t : State => { t with mem := (s.dumpFields (f :: fs)).mem }) dumpBytes_eq)

/-- The header changes nothing but memory. -/
theorem dumpHeader_eq : s.dumpHeader cause die = { s with mem := (s.dumpHeader cause die).mem } := by
  by_cases h : s.boot.dumpsize = 0
  · rw [dumpHeader_of_empty h]
  · rw [dumpHeader_eq_dumpFields h]
    exact dumpFields_eq _

theorem setBytes_withBoot (pa : Nat) : { s with boot := b }.setBytes pa n v = { s.setBytes pa n v with boot := b } := by
  induction n generalizing s pa v with
  | zero => rfl
  | succ n ih => exact ih (s := s.setByte ..) _

section
variable (hbase : b.dumpbase = s.boot.dumpbase) (hsize : b.dumpsize = s.boot.dumpsize)
include hbase hsize

theorem dumpBytes_withBoot : { s with boot := b }.dumpBytes off n v = { s.dumpBytes off n v with boot := b } := by
  rw [State.dumpBytes, hbase, hsize, setBytes_withBoot]
  rfl

theorem dumpFields_withBoot (fs : List (Nat × Nat × Nat)) :
    { s with boot := b }.dumpFields fs = { s.dumpFields fs with boot := b } := by
  induction fs generalizing s with
  | nil => rfl
  | cons f fs ih =>
    refine (congrArg (State.dumpFields · fs) (dumpBytes_withBoot hbase hsize)).trans (ih ?_ ?_)
    · rw [dumpBytes_boot, hbase]
    · rw [dumpBytes_boot, hsize]

/-- The header depends on the dump window and the measurement of the boot registers, and on no other of them. -/
theorem dumpHeader_withBoot (hmeasure : b.measure = s.boot.measure) :
    { s with boot := b }.dumpHeader cause die = { s.dumpHeader cause die with boot := b } := by
  by_cases h : s.boot.dumpsize = 0
  · rw [dumpHeader_of_empty h, dumpHeader_of_empty (hsize.trans h)]
  · rw [dumpHeader_eq_dumpFields (hsize.trans_ne h), dumpHeader_eq_dumpFields h, dumpFields_withBoot hbase hsize, hmeasure]

end

section
variable (hq : ∀ i, i < 4096 → i < s.boot.dumpsize.toNat → memKey q ≠ memKey (s.boot.dumpbase.toNat + i))
include hq

theorem byteAt_dumpBytes (hfit : off + n ≤ 4096) : (s.dumpBytes off n v).byteAt q = s.byteAt q := by
  refine byteAt_setBytes_other _ _ _ _ _ fun i hi => ?_
  rw [Nat.add_assoc]
  obtain ⟨hn, hsize⟩ := Nat.lt_min.1 hi
  exact hq _ (by omega) (by omega)

theorem byteAt_dumpFields {fs : List (Nat × Nat × Nat)} (hfit : ∀ f ∈ fs, f.1 + f.2.1 ≤ 4096) :
    (s.dumpFields fs).byteAt q = s.byteAt q := by
  induction fs generalizing s with
  | nil => rfl
  | cons f fs ih =>
    obtain ⟨hf, hfs⟩ := List.forall_mem_cons.1 hfit
    exact (ih (by simpa using hq) hfs).trans (byteAt_dumpBytes hq hf)

theorem byteAt_dumpHeader : (s.dumpHeader cause die).byteAt q = s.byteAt q := by
  by_cases h : s.boot.dumpsize = 0
  · rw [dumpHeader_of_empty h]
  · rw [dumpHeader_eq_dumpFields h]
    exact byteAt_dumpFields hq headerFields_fit

end

end

/-! ### A fatal error -/

section
variable {s : State} {cause die : Nat}

/-- The boot registers of a device that a fatal error froze; `hw` where the hardware finishes the dump by itself (13 R427). -/
def Boot.frozen (b : Boot) (cause die : Nat) (hw : Bool) : Boot :=
  { b with fatal := true, bstate := 4, cause := BitVec.ofNat 8 cause, die := BitVec.ofNat 8 die, fwdead := hw, dumpdone := hw }

theorem fatalFreeze_of_frozen (hs : s.boot.fatal = true) : s.fatalFreeze cause die = s := if_pos hs

/-- A fatal error whose dump is firmware's changes the boot registers alone. -/
theorem fatalFreeze_of_firmware (hs : s.boot.fatal = false) (hcause : (cause == 2 || cause == 3) = false) :
    s.fatalFreeze cause die = { s with boot := s.boot.frozen cause die false } := by
  rw [State.fatalFreeze, if_neg (ne_true_of_eq_false hs)]
  dsimp only
  rw [hcause, if_neg Bool.false_ne_true]
  rfl

/-- A fatal error whose dump is the hardware's writes the header too, and signals the MQ's vector. -/
theorem fatalFreeze_of_hardware (hs : s.boot.fatal = false) (hcause : (cause == 2 || cause == 3) = true) :
    s.fatalFreeze cause die = { s with
      mem := (s.dumpHeader cause die).mem
      irqs := s.irqs ++ [((s.hq 0).vector.toNat, 0)]
      boot := s.boot.frozen cause die true } := by
  have header := dumpHeader_withBoot (s := s) (b := s.boot.frozen cause die true) (cause := cause) (die := die) rfl rfl rfl
  rw [dumpHeader_eq (s := s)] at header
  rw [State.fatalFreeze, if_neg (ne_true_of_eq_false hs)]
  dsimp only
  rw [hcause, if_pos rfl]
  exact congrArg (fun t : State => { t with irqs := s.irqs ++ [((s.hq 0).vector.toNat, 0)] }) header

/-- What a frozen device makes of a move that the freeze stops (13 R427). -/
theorem next_ifLive_of_frozen {f : State → State} (hs : s.boot.fatal = true) : (.next (ifLive f s) : Out) = .next s :=
  congrArg _ (if_pos hs)

/-- THERMAL of a frozen device, whatever the die. -/
theorem thermalAt_of_frozen (hs : s.boot.fatal = true) : thermalAt die s = s :=
  ite_eq_right_iff.2 fun _ => fatalFreeze_of_frozen hs

/-- No hart below the supervisor core takes a turn on a frozen device. -/
theorem runHart_of_frozen {h : Nat} (hs : s.boot.fatal = true) (hh : h < 128) : runHart h s = .next s := by
  have stays : s.mayTurn h = false := by simp [State.mayTurn, hs, supvHart, hh.ne]
  rw [runHart, stays]
  rfl

end

end Sys2Proof.Machine

namespace Sys2Proof.Settled

open Sys2Proof.Machine

/-- Settles O58: the freeze by the party that writes the dump, and each move of a frozen device by `ifLive`. -/
theorem fatalFreeze : Obligations.FatalFreeze := by
  refine ⟨fun s hs => ⟨fun die hdie => ?_, ?_, ?_⟩, fun s hs => ⟨?_, ?_, fun die => ?_⟩, fun s h => runHart_of_frozen, ?_⟩
  · exact congrArg Host.Outcome.next ((if_pos hdie).trans (fatalFreeze_of_firmware hs rfl))
  · exact congrArg Host.Outcome.next (fatalFreeze_of_firmware hs rfl)
  · refine ⟨_, congrArg Host.Outcome.next (fatalFreeze_of_hardware hs rfl), rfl, fun hsize => ?_, fun q => byteAt_dumpHeader⟩
    show (s.dumpHeader 2 8).mem = s.mem
    rw [dumpHeader_of_empty hsize]
  · exact congrArg Host.Outcome.next (fatalFreeze_of_frozen hs)
  · exact congrArg Host.Outcome.next (fatalFreeze_of_frozen hs)
  · exact congrArg Host.Outcome.next (thermalAt_of_frozen hs)
  · and_intros <;> (intros; exact next_ifLive_of_frozen ‹_›)

end Sys2Proof.Settled

/-!
The fields of a word (03 R91, R92): a word of a format has the fields that it is put together from, and no others.
-/

namespace Sys2Proof

section
variable {w : BitVec 32}

/-- A field that is cut in two has its upper part above its lower. -/
theorem fld_eq_append {m n lo : Nat} {x : BitVec m} {y : BitVec n} :
    fld lo (m + n) w = x ++ y ↔ fld (lo + n) m w = x ∧ fld lo n w = y := by
  have cut : fld (lo + n) m w ++ fld lo n w = fld lo (m + n) w := BitVec.extractLsb'_append_extractLsb'_eq_extractLsb' rfl
  constructor
  · intro h
    have h := cut.trans h
    exact ⟨by simpa [BitVec.extractLsb'_append_eq_left] using congrArg (BitVec.extractLsb' n m) h,
      by simpa [BitVec.extractLsb'_append_eq_right] using congrArg (BitVec.extractLsb' 0 n) h⟩
  · rintro ⟨rfl, rfl⟩
    exact cut.symm

theorem eq_iff_fld_eq {x : BitVec 32} : x = w ↔ fld 0 32 w = x := by
  rw [show fld 0 32 w = w from BitVec.extractLsb'_eq_self, eq_comm]

theorem fld_eq_of_toNat {lo n k : Nat} (h : (fld lo n w).toNat = k) : fld lo n w = BitVec.ofNat n k := by
  simp [← h]

/-! A word is that of a format exactly when its major opcode, its function code and its other fields are the format's. -/

@[simp] theorem encS3_eq_iff {maj rd ra rb rc fn} : encS3 maj rd ra rb rc fn = w ↔
    fld 26 6 w = maj ∧ fld 0 6 w = fn ∧ fld 21 5 w = rd ∧ fld 16 5 w = ra ∧ fld 11 5 w = rb ∧ fld 6 5 w = rc := by
  rw [eq_iff_fld_eq]
  show fld 0 (6 + 5 + 5 + 5 + 5 + 6) w = _ ↔ _
  simp only [encS3, fld_eq_append, and_assoc, and_comm]

@[simp] theorem encSH_eq_iff {maj rd ra sh z fn} : encSH maj rd ra sh z fn = w ↔
    fld 26 6 w = maj ∧ fld 0 6 w = fn ∧ fld 21 5 w = rd ∧ fld 16 5 w = ra ∧ fld 10 6 w = sh ∧ fld 6 4 w = z := by
  rw [eq_iff_fld_eq]
  show fld 0 (6 + 5 + 5 + 6 + 4 + 6) w = _ ↔ _
  simp only [encSH, fld_eq_append, and_assoc, and_comm]

@[simp] theorem encRMW_eq_iff {maj rd ra rb sc aq rl wd fn} : encRMW maj rd ra rb sc aq rl wd fn = w ↔
    fld 26 6 w = maj ∧ fld 0 6 w = fn ∧ fld 21 5 w = rd ∧ fld 16 5 w = ra ∧ fld 11 5 w = rb ∧ fld 9 2 w = sc ∧
      fld 8 1 w = aq ∧ fld 7 1 w = rl ∧ fld 6 1 w = wd := by
  rw [eq_iff_fld_eq]
  show fld 0 (6 + 5 + 5 + 5 + 2 + 1 + 1 + 1 + 6) w = _ ↔ _
  simp only [encRMW, fld_eq_append, and_assoc, and_comm]

@[simp] theorem encSI_eq_iff {maj rd ra imm} : encSI maj rd ra imm = w ↔
    fld 26 6 w = maj ∧ fld 21 5 w = rd ∧ fld 16 5 w = ra ∧ fld 0 16 w = imm := by
  rw [eq_iff_fld_eq]
  show fld 0 (6 + 5 + 5 + 16) w = _ ↔ _
  simp only [encSI, fld_eq_append, and_assoc, and_comm]

@[simp] theorem encSM_eq_iff {maj rd ra wd off} : encSM maj rd ra wd off = w ↔
    fld 26 6 w = maj ∧ fld 13 3 w = wd ∧ fld 21 5 w = rd ∧ fld 16 5 w = ra ∧ fld 0 13 w = off := by
  rw [eq_iff_fld_eq]
  show fld 0 (6 + 5 + 5 + 3 + 13) w = _ ↔ _
  simp only [encSM, fld_eq_append, and_assoc, and_comm, and_left_comm]

@[simp] theorem encSB_eq_iff {maj ra rb cc off} : encSB maj ra rb cc off = w ↔
    fld 26 6 w = maj ∧ fld 13 3 w = cc ∧ fld 21 5 w = ra ∧ fld 16 5 w = rb ∧ fld 0 13 w = off := by
  rw [eq_iff_fld_eq]
  show fld 0 (6 + 5 + 5 + 3 + 13) w = _ ↔ _
  simp only [encSB, fld_eq_append, and_assoc, and_comm, and_left_comm]

@[simp] theorem encSJ_eq_iff {maj rd off} : encSJ maj rd off = w ↔
    fld 26 6 w = maj ∧ fld 21 5 w = rd ∧ fld 0 21 w = off := by
  rw [eq_iff_fld_eq]
  show fld 0 (6 + 5 + 21) w = _ ↔ _
  simp only [encSJ, fld_eq_append, and_assoc, and_comm]

@[simp] theorem encLP_eq_iff {maj rc rp np esh off} : encLP maj rc rp np esh off = w ↔
    fld 26 6 w = maj ∧ fld 21 5 w = rc ∧ fld 16 5 w = rp ∧ fld 14 2 w = np ∧ fld 12 2 w = esh ∧ fld 0 12 w = off := by
  rw [eq_iff_fld_eq]
  show fld 0 (6 + 5 + 5 + 2 + 2 + 12) w = _ ↔ _
  simp only [encLP, fld_eq_append, and_assoc, and_comm]

@[simp] theorem encV3_eq_iff {maj vd va vb m ms ds x fn} : encV3 maj vd va vb m ms ds x fn = w ↔
    fld 26 6 w = maj ∧ fld 0 4 w = fn ∧ fld 21 5 w = vd ∧ fld 16 5 w = va ∧ fld 11 5 w = vb ∧ fld 10 1 w = m ∧
      fld 7 3 w = ms ∧ fld 5 2 w = ds ∧ fld 4 1 w = x := by
  rw [eq_iff_fld_eq]
  show fld 0 (6 + 5 + 5 + 5 + 1 + 3 + 2 + 1 + 4) w = _ ↔ _
  simp only [encV3, fld_eq_append, and_assoc, and_comm]

@[simp] theorem encVQ_eq_iff {maj vd va p qn m ms ds x fn} : encVQ maj vd va p qn m ms ds x fn = w ↔
    fld 26 6 w = maj ∧ fld 0 4 w = fn ∧ fld 21 5 w = vd ∧ fld 16 5 w = va ∧ fld 15 1 w = p ∧ fld 11 4 w = qn ∧
      fld 10 1 w = m ∧ fld 7 3 w = ms ∧ fld 5 2 w = ds ∧ fld 4 1 w = x := by
  rw [eq_iff_fld_eq]
  show fld 0 (6 + 5 + 5 + 1 + 4 + 1 + 3 + 2 + 1 + 4) w = _ ↔ _
  simp only [encVQ, fld_eq_append, and_assoc, and_comm]

@[simp] theorem encMK_eq_iff {maj md ma mb fn} : encMK maj md ma mb fn = w ↔
    fld 26 6 w = maj ∧ fld 0 5 w = fn ∧ fld 19 7 w = md ∧ fld 12 7 w = ma ∧ fld 5 7 w = mb := by
  rw [eq_iff_fld_eq]
  show fld 0 (6 + 7 + 7 + 7 + 5) w = _ ↔ _
  simp only [encMK, fld_eq_append, and_assoc, and_comm]

@[simp] theorem encTL_eq_iff {maj qc qr sk p acc ds gc} : encTL maj qc qr sk p acc ds gc = w ↔
    fld 26 6 w = maj ∧ fld 21 5 w = qc ∧ fld 16 5 w = qr ∧ fld 11 5 w = sk ∧ fld 10 1 w = p ∧
      fld 7 3 w = acc ∧ fld 5 2 w = ds ∧ fld 0 5 w = gc := by
  rw [eq_iff_fld_eq]
  show fld 0 (6 + 5 + 5 + 5 + 1 + 3 + 2 + 5) w = _ ↔ _
  simp only [encTL, fld_eq_append, and_assoc, and_comm]

@[simp] theorem encST_eq_iff {maj qn ra rb z ds z2 fn} : encST maj qn ra rb z ds z2 fn = w ↔
    fld 26 6 w = maj ∧ fld 0 4 w = fn ∧ fld 21 5 w = qn ∧ fld 16 5 w = ra ∧ fld 11 5 w = rb ∧
      fld 7 4 w = z ∧ fld 5 2 w = ds ∧ fld 4 1 w = z2 := by
  rw [eq_iff_fld_eq]
  show fld 0 (6 + 5 + 5 + 5 + 4 + 2 + 1 + 4) w = _ ↔ _
  simp only [encST, fld_eq_append, and_assoc, and_comm]

@[simp] theorem encEN_eq_iff {maj rd ra rb spd sps z ds z2 fn} : encEN maj rd ra rb spd sps z ds z2 fn = w ↔
    fld 26 6 w = maj ∧ fld 0 4 w = fn ∧ fld 21 5 w = rd ∧ fld 16 5 w = ra ∧ fld 11 5 w = rb ∧ fld 10 1 w = spd ∧
      fld 9 1 w = sps ∧ fld 7 2 w = z ∧ fld 5 2 w = ds ∧ fld 4 1 w = z2 := by
  rw [eq_iff_fld_eq]
  show fld 0 (6 + 5 + 5 + 5 + 1 + 1 + 2 + 2 + 1 + 4) w = _ ↔ _
  simp only [encEN, fld_eq_append, and_assoc, and_comm]

@[simp] theorem encEB_eq_iff {maj rd ra rb sc z ds z2 fn} : encEB maj rd ra rb sc z ds z2 fn = w ↔
    fld 26 6 w = maj ∧ fld 0 4 w = fn ∧ fld 21 5 w = rd ∧ fld 16 5 w = ra ∧ fld 11 5 w = rb ∧ fld 9 2 w = sc ∧
      fld 7 2 w = z ∧ fld 5 2 w = ds ∧ fld 4 1 w = z2 := by
  rw [eq_iff_fld_eq]
  show fld 0 (6 + 5 + 5 + 5 + 2 + 2 + 2 + 1 + 4) w = _ ↔ _
  simp only [encEB, fld_eq_append, and_assoc, and_comm]

@[simp] theorem encSY_eq_iff {maj rd ra cw fn} : encSY maj rd ra cw fn = w ↔
    fld 26 6 w = maj ∧ fld 0 4 w = fn ∧ fld 21 5 w = rd ∧ fld 16 5 w = ra ∧ fld 4 12 w = cw := by
  rw [eq_iff_fld_eq]
  show fld 0 (6 + 5 + 5 + 12 + 4) w = _ ↔ _
  simp only [encSY, fld_eq_append, and_assoc, and_comm]

@[simp] theorem encSW_eq_iff {maj rd ra z n fn} : encSW maj rd ra z n fn = w ↔
    fld 26 6 w = maj ∧ fld 0 4 w = fn ∧ fld 21 5 w = rd ∧ fld 16 5 w = ra ∧ fld 6 10 w = z ∧ fld 4 2 w = n := by
  rw [eq_iff_fld_eq]
  show fld 0 (6 + 5 + 5 + 10 + 2 + 4) w = _ ↔ _
  simp only [encSW, fld_eq_append, and_assoc, and_comm]

@[simp] theorem encSYF_eq_iff {maj ps qs sc z fn} : encSYF maj ps qs sc z fn = w ↔
    fld 26 6 w = maj ∧ fld 0 4 w = fn ∧ fld 21 5 w = ps ∧ fld 16 5 w = qs ∧ fld 14 2 w = sc ∧ fld 4 10 w = z := by
  rw [eq_iff_fld_eq]
  show fld 0 (6 + 5 + 5 + 2 + 10 + 4) w = _ ↔ _
  simp only [encSYF, fld_eq_append, and_assoc, and_comm]

end

end Sys2Proof

/-!
Encoding and decoding (03 R91, R97, R99): what the tables give for a word, and the words for which they give an instruction.
-/

namespace Sys2Proof

open Machine

/-! ### From the row to the word -/

/-- What a table promises of the row that it gives for a word: with its constant bits as they must be the word is that of the row's
instruction, and the row is marked as its instruction is. -/
structure DecRow.Reads (r : DecRow) (w : BitVec 32) : Prop where
  word : (r.zero && r.one) = true → encode r.instr = some w
  marks : (r.priv && r.absent) = false
  priv : r.priv = privileged r.instr

/-- What a table gives for a word, if it gives a row, keeps the promise. -/
def TableReads (w : BitVec 32) (o : Option DecRow) : Prop := ∀ r, o = some r → r.Reads w

section
variable {w : BitVec 32} {o : Option DecRow} {r : DecRow} {i : Instr}

theorem TableReads.none : TableReads w none := fun _ h => (Option.some_ne_none _ h.symm).elim

theorem TableReads.some (h : r.Reads w) : TableReads w (some r) := by
  rintro _ ⟨⟩
  exact h

/-- Every table keeps its promise, row by row: a major opcode and a function code leave the word's other fields free, and those are
the operands or must be zero. -/
theorem tableReads_decodeRow (h : decodeRow w = some o) : TableReads w o := by
  unfold decodeRow at h
  split at h
  on_goal -1 => cases h
  all_goals
    have hmaj := fld_eq_of_toNat ‹_›
    obtain rfl := Option.some.inj h
    clear h
    delta decAlu decBitf decFps decAddi decAndi decOri decXori decSlti decSltiu decLui decAddhi decLoad decStore decRmw
      decJalr decBr decJal decLoopv decSys decFence decVint decVints decVfp decVfps decVspec decVcvt decVmx decVred
      decVperm decVbits decVconf decVsetvli decVmem decVgrid decVqsrc decVqdst decMask decVcmp decVcmps decTmul decTmulsp
      decTile decStrm decCopy decStor decLink decBeacon decCtx decSupv decVfp64
  -- The majors of a single row.
  case h_4 | h_5 | h_6 | h_7 | h_8 | h_9 | h_10 | h_11 | h_15 | h_17 | h_18 | h_32 =>
    refine .some ⟨fun hbits => congrArg Option.some ?_, rfl, rfl⟩
    simp only [Bool.and_eq_true, beq_iff_eq] at hbits
    simp [*]
  -- TMUL and TMULSP, whose gang code is among those assigned.
  case h_40 | h_41 =>
    split
    · exact .some ⟨fun _ => congrArg Option.some (by simp [*]), rfl, rfl⟩
    · exact .none
  all_goals
    split
    on_goal -1 => exact .none
    all_goals
      have hfn := fld_eq_of_toNat ‹_›
      refine .some ⟨fun hbits => congrArg Option.some ?_, rfl, rfl⟩
      simp only [Bool.and_eq_true, beq_iff_eq] at hbits
      simp [*]

/-! ### From the instruction to the row -/

/-- The tables give a row for the word: that of the instruction, with its constant bits as they must be. -/
def DecodesTo (w : BitVec 32) (i : Instr) : Prop :=
  ∃ o, decodeRow w = some o ∧ ∃ r, o = some r ∧ (r.zero && r.one) = true ∧ r.instr = i

/-- The word of an instruction leads to the instruction's row: its major opcode to the table, its function code to the row, and its
fields are the operands. -/
theorem decodesTo_of_encode (hrange : i.rangeOk = true) (h : encode i = some w) : DecodesTo w i := by
  cases i
  case trapEntry | entryComplete | barWaitEnd | yieldExpiry | streamFetch | streamStoreWrite | sgatherRow | copyChunk |
    driveRequest | pairError | turnBegin | autoTurn | turnDrainEnd | turnDeadTimeEnd | linkPaused | ltrainDone | flitReplay
    | put | getreq | atom | notify | ack | getdata | atomrsp | bell | rbell | beaconFlitReplay | portUp | launchBind |
    preEmption | contextSave | completionEntryWrite | sqtail | cqhead | enable | tenantCreate | tenantReset | tenantDelete
    | ownerSet | pairCreate | pairDelete | regionCreate | regionDelete | gangCreate | gangDelete | gangSwitchSave |
    gangSwitchResume | launchSuspend | launchResume | debugGrant | launch | invalidate | faultReplyRetry | faultReplyAbort
    | nop | bootgo | resetkey | powerOn | attreq | fatalreq | svnfuse | clusterRetire | ownerEntryWrite | registerWrite |
    powerClampWindow | junctionHot | thermal | cdMemory | dumpdone => cases h
  all_goals
    replace h := Option.some.inj h
    simp only [encS3_eq_iff, encSH_eq_iff, encRMW_eq_iff, encSI_eq_iff, encSM_eq_iff, encSB_eq_iff, encSJ_eq_iff,
      encLP_eq_iff, encV3_eq_iff, encVQ_eq_iff, encMK_eq_iff, encTL_eq_iff, encST_eq_iff, encEN_eq_iff,
      encEB_eq_iff, encSY_eq_iff, encSW_eq_iff, encSYF_eq_iff] at h
    obtain ⟨hmaj, hf⟩ := h
    unfold DecodesTo decodeRow
    rewrite [hmaj]
    refine ⟨_, rfl, ?_⟩
    delta decAlu decBitf decFps decAddi decAndi decOri decXori decSlti decSltiu decLui decAddhi decLoad decStore decRmw
      decJalr decBr decJal decLoopv decSys decFence decVint decVints decVfp decVfps decVspec decVcvt decVmx decVred
      decVperm decVbits decVconf decVsetvli decVmem decVgrid decVqsrc decVqdst decMask decVcmp decVcmps decTmul decTmulsp
      decTile decStrm decCopy decStor decLink decBeacon decCtx decSupv decVfp64
  -- The majors of a single row.
  case addi | andi | ori | xori | slti | sltiu | lui | addhi | jalr | jal | loopv | vsetvli =>
    exact ⟨_, rfl, by simp only [hf, beq_self_eq_true, Bool.and_self, and_self]⟩
  -- The gang code is among those assigned.
  case tmul | tmulsp =>
    have hgc := of_decide_eq_true (Bool.and_eq_true_iff.mp hrange).2
    obtain ⟨-, -, -, -, -, -, rfl⟩ := id hf
    rewrite [if_pos (by omega)]
    exact ⟨_, rfl, by simp only [hf, Bool.and_self, and_self]⟩
  all_goals
    obtain ⟨hfn, hf⟩ := hf
    rewrite [hfn]
    exact ⟨_, rfl, by simp only [hf, beq_self_eq_true, Bool.and_self, and_self]⟩

end

end Sys2Proof

namespace Sys2Proof

open Machine

/-! ### What decodes -/

theorem isSome_encode (i : Instr) : (encode i).isSome = !i.isEvent := by
  cases i <;> rfl

section
variable {w : BitVec 32} {o : Option DecRow} {r : DecRow} {i : Instr} {super : Bool}

theorem DecodesTo.exists_row (h : DecodesTo w i) :
    ∃ r, decodeRow w = some (some r) ∧ (r.zero && r.one) = true ∧ r.instr = i := by
  obtain ⟨_, hrow, r, rfl, hr⟩ := h
  exact ⟨r, hrow, hr⟩

/-- A row that fits gives its instruction, unless the instruction is kept for the supervisor. -/
theorem decode_of_fits (hrow : decodeRow w = some (some r)) (hfits : r.fits = true) :
    decode super w = if !r.absent && r.priv && !super then .error .priv else .ok r.instr := by
  unfold decode
  rw [hrow]
  simp only [hfits]
  simp only [DecRow.fits, Bool.and_eq_true] at hfits
  obtain ⟨⟨⟨hz, hzo⟩, ho⟩, hro⟩ := hfits
  cases r.absent <;> simp [hz, hzo, ho, hro]

/-- In supervisor mode the words that decode are those whose row fits. -/
theorem decode_super_eq_ok_iff :
    decode true w = .ok i ↔ ∃ r, decodeRow w = some (some r) ∧ r.fits = true ∧ r.instr = i := by
  constructor
  · intro h
    unfold decode at h
    split at h
    · cases h
    · split at h <;> cases h
    · next r hrow =>
      refine ⟨r, hrow, ?_⟩
      cases habsent : r.absent
      · cases hz : r.zero && r.instr.zeroOk <;> cases ho : r.one && r.instr.rangeOk <;> simp_all [DecRow.fits]
      · cases hfits : r.fits <;> simp_all
  · rintro ⟨r, hrow, hfits, rfl⟩
    simp [decode_of_fits hrow hfits]

theorem decode_of_encode (hwf : i.wellFormed = true) (h : encode i = some w) : decode true w = .ok i := by
  simp only [Instr.wellFormed, Bool.and_eq_true] at hwf
  obtain ⟨⟨-, hzero⟩, hrange⟩ := hwf
  obtain ⟨r, hrow, hbits, rfl⟩ := (decodesTo_of_encode hrange h).exists_row
  rw [Bool.and_eq_true] at hbits
  exact decode_super_eq_ok_iff.2 ⟨r, hrow, by simp [DecRow.fits, hbits, hzero, hrange], rfl⟩

theorem encode_of_decode (h : decode true w = .ok i) : i.wellFormed = true ∧ encode i = some w := by
  obtain ⟨r, hrow, hfits, rfl⟩ := decode_super_eq_ok_iff.1 h
  simp only [DecRow.fits, Bool.and_eq_true] at hfits
  obtain ⟨⟨⟨hz, hzo⟩, ho⟩, hro⟩ := hfits
  have henc : encode r.instr = some w := (tableReads_decodeRow hrow r rfl).word (by simp [hz, ho])
  have hevent : r.instr.isEvent = false := by simpa [henc] using (isSome_encode r.instr).symm
  exact ⟨by simp [Instr.wellFormed, hevent, hzo, hro], henc⟩

/-- No row is both absent and privileged, and the privileged rows are those of the privileged instructions. -/
theorem decode_user_of_decode_super (h : decode true w = .ok i) :
    decode false w = if privileged i then .error .priv else .ok i := by
  obtain ⟨r, hrow, hfits, rfl⟩ := decode_super_eq_ok_iff.1 h
  obtain ⟨-, hmarks, hpriv⟩ := tableReads_decodeRow hrow r rfl
  rw [decode_of_fits hrow hfits, ← hpriv]
  rw [Bool.and_eq_false_iff] at hmarks
  rcases hmarks with hp | ha
  · simp [hp]
  · simp [ha]

end

end Sys2Proof

namespace Sys2Proof.Settled

/-- Settles O2: the word leads to the instruction's row, and the row fits since the instruction is well formed. -/
theorem encodeThenDecode : Obligations.EncodeThenDecode := fun _ _ hwf h => decode_of_encode hwf h

/-- Settles O3: the row that fits has its constant bits as they must be, so the word is its instruction's. -/
theorem decodeThenEncode : Obligations.DecodeThenEncode := fun _ _ h => encode_of_decode h

/-- Settles O4: a row is marked privileged exactly when its instruction is. -/
theorem userModeDecode : Obligations.UserModeDecode := fun _ _ h => decode_user_of_decode_super h

end Sys2Proof.Settled

/-!
Instructions that a hart may not run: privileged ones outside supervisor mode, those left out, and words that are no instruction
(03 R97, R99, R164; 13 R405).
-/

namespace Sys2Proof.Machine

section
variable {s t : State} {h : Nat} {rest : List Act} {w word : BitVec 32} {e : Reject} {i : Instr}

/-- An instruction of supervisor mode takes PRIV outside it, with the word that it encodes to. -/
theorem exec_priv {o : Out} (huser : s.me.super = false)
    (hx : exec i s = if !s.me.super then .next (s.trapHere (privTrap word)) else o) (hword : encode i = some word)
    (hw : encode i = some w) : exec i s = .next (s.trapHere { code := 3, i0 := w.setWidth 64 }) := by
  obtain rfl : word = w := Option.some.inj (hword.symm.trans hw)
  rw [hx, huser]
  rfl

/-- The two formats of major 0x37 put WATCHn's number in the same bits (03 R91). -/
theorem encSW_eq_encSY {maj : BitVec 6} {rd ra : BitVec 5} {n : BitVec 2} {fn : BitVec 4} :
    encSW maj rd ra 0 n fn = encSY maj rd ra (n.setWidth 12) fn := by
  obtain ⟨hmaj, hfn, hrd, hra, hcw⟩ := encSY_eq_iff.1 (Eq.refl (encSY maj rd ra (n.setWidth 12) fn))
  have append_zero : ∀ n : BitVec 2, n.setWidth 12 = (0 : BitVec 10) ++ n := by decide
  obtain ⟨hz, hn⟩ := (fld_eq_append (m := 10) (n := 2)).1 (hcw.trans (append_zero n))
  exact encSW_eq_iff.2 ⟨hmaj, hfn, hrd, hra, hz, hn⟩

/-- The fields of a word as numbers. -/
theorem wfld_eq_toNat_fld {lo len : Nat} : wfld w lo len = (fld lo len w).toNat := by
  simp [wfld, fld, BitVec.extractLsb'_toNat, Nat.shiftRight_eq_div_pow]

/-- On a core whose queue class is not there, a word of a queue-class major takes ILLEGAL reason 1. -/
theorem coreTrap_of_queueWord {trap : TrapInfo} (hq : queueWord w = true) :
    s.coreTrap w trap = if s.cur = supvHart then illegal w 1 else trap := by
  simp [State.coreTrap, hq]

/-- An instruction that is left out takes ABSENT with the word that it encodes to. -/
theorem exec_absent (hx : exec i s = .next (s.trapHere (absentTrap word))) (hword : encode i = some word)
    (hw : encode i = some w) : exec i s = .next (s.trapHere { code := 2, i0 := w.setWidth 64 }) := by
  obtain rfl : word = w := Option.some.inj (hword.symm.trans hw)
  exact hx

/-- One of the queue class that is left out takes ILLEGAL reason 1 on the supervisor core. -/
theorem exec_absent_of_queueWord (hq : queueWord word = true)
    (hx : exec i s = .next (s.trapHere (s.coreTrap word (absentTrap word)))) (hword : encode i = some word)
    (hw : encode i = some w) :
    exec i s = .next (s.trapHere (if s.cur = supvHart then { code := 1, i0 := w.setWidth 64, i1 := 1 }
      else { code := 2, i0 := w.setWidth 64 })) := by
  obtain rfl : word = w := Option.some.inj (hword.symm.trans hw)
  rw [hx, coreTrap_of_queueWord hq]
  rfl

theorem queueWord_encV3 {vd va vb : BitVec 5} {m : BitVec 1} {ms : BitVec 3} {ds : BitVec 2} {x : BitVec 1} {fn : BitVec 4} :
    queueWord (encV3 0x1c vd va vb m ms ds x fn) = true := by
  simp [queueWord, wfld_eq_toNat_fld, (encV3_eq_iff.1 rfl).1]

theorem queueWord_encTL {qc qr sk : BitVec 5} {p : BitVec 1} {acc : BitVec 3} {ds : BitVec 2} {gc : BitVec 5} :
    queueWord (encTL 0x2d qc qr sk p acc ds gc) = true := by
  simp [queueWord, wfld_eq_toNat_fld, (encTL_eq_iff.1 rfl).1]

/-- The turn of a hart that fetches a word runs the word. -/
theorem runTurn_eq_runWord (hf : s.fetches h rest w t) : runTurn (s.turn h rest) = runWord w t := by
  obtain ⟨-, -, -, -, hrun, hpending, hportable, hfetch, -⟩ := hf
  have hrun' : (s.turn h rest).me.run = .running := hrun
  have hpending' : (s.turn h rest).me.pending = [] := hpending
  have hportable' : (s.turn h rest).me.portable = none := hportable
  have hfetch' : fetchWord (s.turn h rest).cur (s.turn h rest) = (.ok w, t) := hfetch
  simp only [runTurn, hrun', hpending', ne_eq, not_true_eq_false, if_false, decide_true, Bool.true_or, if_true, runNext, hportable',
    hfetch']

/-- A word that is no instruction takes the trap of its rejection. -/
theorem runWord_of_reject (hemulated : emulated t w = none) (hrun : t.me.run = .running) (hd : decode t.me.super w = .error e) :
    runWord w t = .next (t.trapHere (t.coreTrap w (rejectTrap w e))) := by
  simp only [runWord, hemulated, hd, hrun, if_true]

end

end Sys2Proof.Machine

namespace Sys2Proof.Settled

open Sys2Proof.Machine

/-- Settles O5: each privileged instruction asks for supervisor mode before anything else. -/
theorem privilegedTraps : Obligations.PrivilegedTraps := by
  unfold Obligations.PrivilegedTraps
  intro i w s hp hw huser
  unfold privileged at hp
  split at hp
  case h_9 | h_10 => exact exec_priv huser rfl (congrArg some encSW_eq_encSY) hw
  case h_11 => cases hp
  all_goals exact exec_priv huser rfl rfl hw

/-- Settles O7: the turn runs the word, which is no instruction. -/
theorem stepTrapsRejectedWords : Obligations.StepTrapsRejectedWords := by
  unfold Obligations.StepTrapsRejectedWords
  intro s t h rest w e hf hrun hd
  obtain ⟨-, -, -, -, -, -, -, -, hemulated⟩ := id hf
  rw [step_of_fetches hf, runTurn_eq_runWord hf, runWord_of_reject hemulated hrun hd]
  cases e <;> rfl

/-- Settles O20: each of them answers the trap, and for those of the queue class the supervisor core's comes first. -/
theorem absentInstructions : Obligations.AbsentInstructions := by
  unfold Obligations.AbsentInstructions
  refine ⟨fun vd va m ms ds x s => ⟨?_, ?_, ?_⟩, ?_, ?_, ?_, ?_⟩
  case refine_1 =>
    exact fun w hw => exec_absent_of_queueWord queueWord_encV3 rfl rfl hw
  case refine_7 =>
    intro qc qr sk p acc ds gc s w hlo hhi hw
    have habsent : tmulspAbsent gc = true := by simp [tmulspAbsent, hlo, hhi]
    exact exec_absent_of_queueWord queueWord_encTL (if_pos habsent) rfl hw
  all_goals
    intros
    and_intros <;> intros <;> exact exec_absent rfl rfl ‹_›

end Sys2Proof.Settled

/-!
Immediate and control-word instructions (04 R140, R151), and the instructions of the queue class that issue under a condition or
while entries are held (04 R157, R159).
-/

namespace Sys2Proof.Machine

section
variable {s : State} {cw : BitVec 12} {w word : BitVec 32} {regs : List Nat} {f : Word → Hart → Hart} {i : Instr}

/-! ### Control words -/

/-- Every control word that is listed is below the privileged ones (03 R116, R117). -/
theorem lt_of_cwListed {k : Nat} (h : cwListed k = true) : k < 0x800 := by
  simp only [cwListed, Bool.or_eq_true, Bool.and_eq_true, decide_eq_true_eq, beq_iff_eq] at h
  omega

theorem cwTrap_of_listed {super : Bool} (h : cwListed cw.toNat = true) : cwTrap super word cw = none := by
  have hlt := lt_of_cwListed h
  rw [cwTrap, if_neg (by omega), if_pos h]

theorem exec_cwread {r : BitVec 5} :
    exec (.cwread r cw) s = cwOp [r.toNat] (encSY 0x13 r 0 cw 0) cw (fun v x => x.setS r.toNat v) s := rfl

theorem exec_cwwrite {r : BitVec 5} :
    exec (.cwwrite r cw) s = cwOp [r.toNat] (encSY 0x13 0 r cw 1) cw (fun _ x => cwPut x cw.toNat (x.s r.toNat)) s := rfl

theorem exec_cwset {r : BitVec 5} :
    exec (.cwset r cw) s = cwOp [r.toNat] (encSY 0x13 0 r cw 2) cw (fun v x => cwPut x cw.toNat (v ||| x.s r.toNat)) s := rfl

theorem exec_cwclr {r : BitVec 5} :
    exec (.cwclr r cw) s = cwOp [r.toNat] (encSY 0x13 0 r cw 3) cw (fun v x => cwPut x cw.toNat (v &&& ~~~(x.s r.toNat))) s := rfl

/-- With no entry of the queue in its way, an access of a listed control word acts, and an access of LFSRDAT moves LFSRIDX on. -/
theorem exec_cw_ready (hl : cwListed cw.toNat = true) (hv : cwVector cw.toNat = false ∨ s.me.queue.any (·.open) = false)
    (hr : s.me.ready regs = true) (hx : exec i s = cwOp regs word cw f s) :
    exec i s = .next (s.updMe fun x => (cwStep (f (cwValue s s.cur cw.toNat) x) cw.toNat).adv) := by
  rw [← Bool.and_eq_false_iff] at hv
  rw [hx]
  simp only [cwOp, cwTrap_of_listed hl, hv, Bool.false_eq_true, if_false]
  exact scalarOp_ready _ _ _ hr

theorem exec_cw_waits (hl : cwListed cw.toNat = true) (hv : cwVector cw.toNat = true) (hq : s.me.queue.any (·.open) = true)
    (hx : exec i s = cwOp regs word cw f s) : exec i s = .next s := by
  rw [hx]
  simp only [cwOp, cwTrap_of_listed hl, hv, hq, Bool.and_self, if_true]

theorem exec_cw_illegal (hl : cwListed cw.toNat = false) (hmode : cw.toNat < 0x800 ∨ s.me.super = true)
    (hx : exec i s = cwOp regs word cw f s) (hword : encode i = some word) (hw : encode i = some w) :
    exec i s = .next (s.trapHere { code := 1, i0 := w.setWidth 64, i1 := 4 }) := by
  obtain rfl : word = w := Option.some.inj (hword.symm.trans hw)
  have hpriv : ¬(0x800 ≤ cw.toNat ∧ s.me.super = false) := by
    rintro ⟨hle, hsuper⟩
    rcases hmode with h | h
    · omega
    · exact Bool.false_ne_true (hsuper.symm.trans h)
  have htrap : cwTrap s.me.super word cw = some (illegal word 4) := by
    rw [cwTrap, if_neg hpriv, hl, if_neg Bool.false_ne_true]
  rw [hx, cwOp, htrap]
  rfl

theorem exec_cw_priv (hk : 0x800 ≤ cw.toNat) (hsuper : s.me.super = false)
    (hx : exec i s = cwOp regs word cw f s) (hword : encode i = some word) (hw : encode i = some w) :
    exec i s = .next (s.trapHere { code := 3, i0 := w.setWidth 64 }) := by
  obtain rfl : word = w := Option.some.inj (hword.symm.trans hw)
  have htrap : cwTrap s.me.super word cw = some (privTrap word) := by rw [cwTrap, if_pos ⟨hk, hsuper⟩]
  rw [hx, cwOp, htrap]
  rfl

/-! ### Issue -/

/-- An instruction handed to `issue` with its word does there what its entry may do. -/
theorem exec_of_issue {op : QOp} {rd ra rb : Nat} {dst : Option Nat} (hx : exec i s = issue op word rd ra rb dst regs s)
    (hword : encode i = some word) (hw : encode i = some w) (hmay : s.mayQueue op (regs ++ dst.toList)) :
    exec i s = .next (drain s.cur (s.issued op w rd ra rb dst)) := by
  obtain rfl : word = w := Option.some.inj (hword.symm.trans hw)
  exact hx.trans (issue_ok op word rd ra rb dst regs s hmay)

theorem issuePriv_of_super {op : QOp} {rd ra rb : Nat} {dst : Option Nat} (h : s.me.super = true) :
    issuePriv op word rd ra rb dst regs s = issue op word rd ra rb dst regs s := by
  rw [issuePriv, h]
  rfl

theorem vsetOp_of_vtypeOk {vt : BitVec 16} {ds : Nat} {rd ra : BitVec 5} (h : vtypeOk vt = true) :
    vsetOp vt ds rd ra regs word s =
      issue (.vset vt ds (if ra = 0 then 16384 else (s.me.s ra.toNat).toNat)) word 0 ra.toNat 0 (some rd.toNat) regs s := by
  rw [vsetOp, h, Bool.not_true, Bool.and_false, if_neg Bool.false_ne_true]

/-- While entries are held, an instruction that may issue takes the trap of its entry. -/
theorem issue_of_holding {op : QOp} {rd ra rb : Nat} {dst : Option Nat} (hcore : s.cur ≠ supvHart) (hhold : s.me.holding = true)
    (hr : s.me.ready (regs ++ dst.toList) = true) (hf : s.fenced op.kinds = false) :
    issue op word rd ra rb dst regs s =
      let y := (s.issued op word rd ra rb dst).me
      .next (s.updMe (fun _ => takeTrap y true s.me.nextQsn y.pc (illegal word 9))) := by
  have acts : ¬(!s.me.ready (regs ++ dst.toList) || s.fenced op.kinds ||
      (!s.me.holding && decide (64 ≤ (retire s.me.queue).length))) = true := by
    rw [hr, hf, hhold]
    exact Bool.false_ne_true
  have traps (y : Hart) (hy : (s.issued op word rd ra rb dst).me = y) :
      (.next (s.updMe (fun _ => takeTrap y true s.me.nextQsn y.pc (illegal word 9))) : Out) =
        let y := (s.issued op word rd ra rb dst).me
        .next (s.updMe (fun _ => takeTrap y true s.me.nextQsn y.pc (illegal word 9))) := by
    rw [hy]
  exact (if_neg hcore).trans ((if_neg acts).trans ((if_pos hhold).trans (traps _ (me_updMe s _))))

theorem exec_of_holding {op : QOp} {rd ra rb : Nat} {dst : Option Nat} (hcore : s.cur ≠ supvHart) (hhold : s.me.holding = true)
    (hmay : s.me.ready (regs ++ dst.toList) = true ∧ s.fenced op.kinds = false)
    (hx : exec i s = issue op word rd ra rb dst regs s) (hword : encode i = some word) (hw : encode i = some w) :
    exec i s =
      let y := (s.issued op w rd ra rb dst).me
      .next (s.updMe (fun _ => takeTrap y true s.me.nextQsn y.pc { code := 1, i0 := w.setWidth 64, i1 := 9 })) := by
  obtain rfl : word = w := Option.some.inj (hword.symm.trans hw)
  obtain ⟨hr, hf⟩ := hmay
  exact hx.trans (issue_of_holding hcore hhold hr hf)

end

end Sys2Proof.Machine

namespace Sys2Proof.Settled

open Sys2Proof.Machine

/-- Settles O16: each is its function of the register and the extended immediate. -/
theorem immediateResults : Obligations.ImmediateResults := by
  unfold Obligations.ImmediateResults exec
  refine ⟨fun rd ra imm s hr => ?_, fun rd imm s hr => scalarOp_ready _ _ _ hr⟩
  have put {f : Word → Word} {v : Word} (hv : f (s.reg ra) = v) : aluOp1 rd ra f s = .next (s.put rd v) := hv ▸ aluOp1_ready hr
  exact ⟨put rfl, put rfl, put rfl, put rfl, put (aluSlt_eq ..), put (aluSltu_eq ..), put rfl⟩

/-- Settles O31: a listed word is accessed or waited for, and any other index traps by the mode. -/
theorem controlWordAccess : Obligations.ControlWordAccess := by
  unfold Obligations.ControlWordAccess
  intro r cw s
  refine ⟨fun hl hv hr => ?_, fun hl hv hq => ?_, fun hl hmode w => ?_, fun hk hsuper w => ?_⟩
  · exact ⟨exec_cw_ready hl hv hr exec_cwread, exec_cw_ready hl hv hr exec_cwwrite,
      exec_cw_ready hl hv hr exec_cwset, exec_cw_ready hl hv hr exec_cwclr⟩
  · exact ⟨exec_cw_waits hl hv hq exec_cwread, exec_cw_waits hl hv hq exec_cwwrite,
      exec_cw_waits hl hv hq exec_cwset, exec_cw_waits hl hv hq exec_cwclr⟩
  · exact ⟨exec_cw_illegal hl hmode exec_cwread rfl, exec_cw_illegal hl hmode exec_cwwrite rfl,
      exec_cw_illegal hl hmode exec_cwset rfl, exec_cw_illegal hl hmode exec_cwclr rfl⟩
  · exact ⟨exec_cw_priv hk hsuper exec_cwread rfl, exec_cw_priv hk hsuper exec_cwwrite rfl,
      exec_cw_priv hk hsuper exec_cwset rfl, exec_cw_priv hk hsuper exec_cwclr rfl⟩

/-- Settles O43: where the condition holds, each is handed to `issue`. -/
theorem conditionalIssue : Obligations.ConditionalIssue := by
  unfold Obligations.ConditionalIssue
  refine ⟨?_, ?_, ?_, ?_, fun ra rb s hsuper => ?_⟩
  · exact fun rd ra imm s w hw hvt hmay => exec_of_issue (vsetOp_of_vtypeOk hvt) rfl hw hmay
  · exact fun vd va vb ds s w hw hvt hmay => exec_of_issue (vsetOp_of_vtypeOk hvt) rfl hw hmay
  · intro qc qr sk p acc ds gc s w op hw hgc hmay
    have hpresent : tmulspAbsent gc = false := by simp [tmulspAbsent, hgc]
    refine exec_of_issue (regs := []) (if_neg ?_) rfl hw hmay
    rw [hpresent]
    exact Bool.false_ne_true
  · exact fun rd ra rb s w hw hmay => exec_of_issue (dst := some rd.toNat) rfl rfl hw hmay
  · exact ⟨fun w hw hmay => exec_of_issue (issuePriv_of_super hsuper) rfl hw hmay,
      fun w hw hmay => exec_of_issue (issuePriv_of_super hsuper) rfl hw hmay,
      fun w hw hmay => exec_of_issue (issuePriv_of_super hsuper) rfl hw hmay,
      fun w hw hmay => exec_of_issue (issuePriv_of_super hsuper) rfl hw hmay⟩

/-- Settles O44: each is handed to `issue` with its word. -/
theorem heldQueueTraps : Obligations.HeldQueueTraps := by
  unfold Obligations.HeldQueueTraps
  intro s w hcore hhold
  and_intros <;> intros <;> exact exec_of_holding hcore hhold ‹_› rfl rfl ‹_›

end Sys2Proof.Settled

/-!
Source lines and the words of `li` (03 R123 to R127).
-/

namespace Sys2Proof.Machine

/-! ### The fields of an assembled word -/

section
variable {lo len lo' len' v : Nat}

theorem fld_or {a b : BitVec 32} : fld lo len (a ||| b) = fld lo len a ||| fld lo len b := BitVec.extractLsb'_or

theorem getLsbD_fld_inField {i : Nat} : (fld lo' len' (inField lo len v)).getLsbD i =
    (decide (i < len') && decide (lo' + i < 32) && decide (lo ≤ lo' + i ∧ lo' + i < lo + len) && v.testBit (lo' + i - lo)) := by
  simp only [fld, inField, BitVec.getLsbD_extractLsb', BitVec.getLsbD_shiftLeft, BitVec.getLsbD_ofNat, Nat.testBit_mod_two_pow]
  grind

theorem fld_inField (h : lo + len ≤ 32) : fld lo len (inField lo len v) = BitVec.ofNat len v := by
  refine BitVec.eq_of_getLsbD_eq fun i hi => ?_
  have inside : lo ≤ lo + i ∧ lo + i < lo + len := by omega
  simp only [getLsbD_fld_inField, BitVec.getLsbD_ofNat, hi, show lo + i < 32 by omega, inside, Nat.add_sub_cancel_left, decide_true,
    Bool.true_and, and_self]

/-- A field holds nothing of another that it does not meet. -/
theorem fld_inField_of_disjoint (h : lo + len ≤ lo' ∨ lo' + len' ≤ lo) : fld lo len (inField lo' len' v) = 0 := by
  refine BitVec.eq_of_getLsbD_eq fun i hi => ?_
  have outside : ¬(lo' ≤ lo + i ∧ lo + i < lo' + len') := by omega
  simp only [getLsbD_fld_inField, BitVec.ofNat_eq_ofNat, BitVec.getLsbD_zero, outside, decide_false, Bool.and_false, Bool.false_and]

end

/-! ### The words of `li` -/

section
variable {rd ra : BitVec 5} {sh : BitVec 6} {v : Int}

theorem ofNat_emod_toNat : BitVec.ofNat 16 (v % 65536).toNat = BitVec.ofInt 16 v := by
  apply BitVec.eq_of_toNat_eq
  simp only [BitVec.toNat_ofNat, BitVec.toNat_ofInt]
  omega

theorem decode_addiWord : decode true (addiWord rd.toNat ra.toNat v) = .ok (.addi rd ra (BitVec.ofInt 16 v)) := by
  refine decode_of_encode rfl (congrArg some (encSI_eq_iff.2 ?_))
  have opcode : (0x10000000 : BitVec 32) = inField 26 6 0x04 := rfl
  simp [addiWord, opcode, fld_or, fld_inField, fld_inField_of_disjoint, ofNat_emod_toNat]

theorem decode_luiWord : decode true (luiWord rd.toNat v) = .ok (.lui rd (BitVec.ofInt 16 v)) := by
  refine decode_of_encode rfl (congrArg some (encSI_eq_iff.2 ?_))
  have opcode : (0x28000000 : BitVec 32) = inField 26 6 0x0A := rfl
  simp [luiWord, opcode, fld_or, fld_inField, fld_inField_of_disjoint, ofNat_emod_toNat]

theorem decode_addhiWord : decode true (addhiWord rd.toNat ra.toNat v) = .ok (.addhi rd ra (BitVec.ofInt 16 v)) := by
  refine decode_of_encode rfl (congrArg some (encSI_eq_iff.2 ?_))
  have opcode : (0x2C000000 : BitVec 32) = inField 26 6 0x0B := rfl
  simp [addhiWord, opcode, fld_or, fld_inField, fld_inField_of_disjoint, ofNat_emod_toNat]

theorem decode_slliWord : decode true (slliWord rd.toNat ra.toNat sh.toNat) = .ok (.slli rd ra sh) := by
  refine decode_of_encode rfl (congrArg some (encSH_eq_iff.2 ?_))
  have opcode : (0x04000020 : BitVec 32) = inField 26 6 0x01 ||| inField 0 6 0x20 := rfl
  simp [slliWord, opcode, fld_or, fld_inField, fld_inField_of_disjoint]

end

/-! ### The value that `li` builds -/

section
variable {v : Int}

theorem lowSigned_bounds : -32768 ≤ lowSigned v ∧ lowSigned v ≤ 32767 := by
  simp only [lowSigned]
  omega

theorem aboveLow_mul_add_lowSigned : aboveLow v * 65536 + lowSigned v = v := by
  simp only [aboveLow, lowSigned]
  omega

theorem signExtend_ofInt (h : -32768 ≤ v ∧ v ≤ 32767) : (BitVec.ofInt 16 v).signExtend 64 = BitVec.ofInt 64 v := by
  rw [BitVec.signExtend, BitVec.toInt_ofInt, Int.bmod_eq_of_le (by omega) (by omega)]

/-- Above bit 48 an immediate's sign is shifted out. -/
theorem signExtend_ofInt_shiftLeft : (BitVec.ofInt 16 v).signExtend 64 <<< 48 = BitVec.ofInt 64 v <<< 48 := by
  have carry : (BitVec.ofInt 64 (65536 * v.bdiv 65536)) <<< 48 = 0 := by
    rw [BitVec.ofInt_mul, BitVec.shiftLeft_eq_mul_twoPow, mul_right_comm,
      show BitVec.ofInt 64 65536 * BitVec.twoPow 64 48 = 0 by decide]
    exact BitVec.zero_mul
  calc (BitVec.ofInt 16 v).signExtend 64 <<< 48 = BitVec.ofInt 64 (v.bmod 65536) <<< 48 := by
        rw [BitVec.signExtend, BitVec.toInt_ofInt]
    _ = BitVec.ofInt 64 (v.bmod 65536 + 65536 * v.bdiv 65536) <<< 48 := by
        rw [BitVec.ofInt_add, BitVec.shiftLeft_add_distrib, carry]
        exact (BitVec.add_zero _).symm
    _ = BitVec.ofInt 64 v <<< 48 := congrArg (BitVec.ofInt 64 · <<< 48) (Int.bmod_add_bdiv v 65536)

/-- A value is the part above its low 16 bits, moved up, and those bits, signed. -/
theorem ofInt_eq_add : (BitVec.ofInt 64 (aboveLow v) <<< 16) + BitVec.ofInt 64 (lowSigned v) = BitVec.ofInt 64 v := by
  rw [← congrArg (BitVec.ofInt 64) (aboveLow_mul_add_lowSigned (v := v)), BitVec.ofInt_add, BitVec.ofInt_mul,
    BitVec.shiftLeft_eq_mul_twoPow]
  rfl

end

section
variable {rd : Nat} {x : Word}

/-- The three sequences of `li`: that of one word and that of two where their parts are 16-bit values, and that of five. -/
theorem liWords_cases :
    ((-32768 ≤ x.toInt ∧ x.toInt ≤ 32767) ∧ liWords rd x = [addiWord rd 0 x.toInt]) ∨
    ((-32768 ≤ aboveLow x.toInt ∧ aboveLow x.toInt ≤ 32767) ∧
      liWords rd x = [luiWord rd (aboveLow x.toInt), addiWord rd rd (lowSigned x.toInt)]) ∨
    liWords rd x =
      [luiWord rd (aboveLow (aboveLow (aboveLow x.toInt))), addiWord rd rd (lowSigned (aboveLow (aboveLow x.toInt))),
       slliWord rd rd 32, addhiWord rd rd (lowSigned (aboveLow x.toInt)), addiWord rd rd (lowSigned x.toInt)] := by
  unfold liWords
  by_cases hone : -32768 ≤ x.toInt ∧ x.toInt ≤ 32767
  · exact .inl ⟨hone, if_pos (by simpa using hone)⟩
  · by_cases htwo : -32768 ≤ aboveLow x.toInt ∧ aboveLow x.toInt ≤ 32767
    · exact .inr (.inl ⟨htwo, (if_neg (by simpa using hone)).trans (if_pos (by simpa using htwo))⟩)
    · exact .inr (.inr ((if_neg (by simpa using hone)).trans (if_neg (by simpa using htwo))))

theorem liTwo_value (h : -32768 ≤ aboveLow x.toInt ∧ aboveLow x.toInt ≤ 32767) :
    ((BitVec.ofInt 16 (aboveLow x.toInt)).signExtend 64 <<< 16) + (BitVec.ofInt 16 (lowSigned x.toInt)).signExtend 64 = x := by
  rw [signExtend_ofInt h, signExtend_ofInt lowSigned_bounds, ofInt_eq_add, BitVec.ofInt_toInt]

theorem liFive_value :
    ((((BitVec.ofInt 16 (aboveLow (aboveLow (aboveLow x.toInt)))).signExtend 64 <<< 16) +
      (BitVec.ofInt 16 (lowSigned (aboveLow (aboveLow x.toInt)))).signExtend 64) <<< 32) +
      ((BitVec.ofInt 16 (lowSigned (aboveLow x.toInt))).signExtend 64 <<< 16) +
      (BitVec.ofInt 16 (lowSigned x.toInt)).signExtend 64 = x := by
  generalize hv : x.toInt = v
  generalize hmid : aboveLow v = mid
  generalize hupper : aboveLow mid = upper
  have top : ((BitVec.ofInt 16 (aboveLow upper)).signExtend 64 <<< 16 +
      (BitVec.ofInt 16 (lowSigned upper)).signExtend 64) <<< 32 = BitVec.ofInt 64 upper <<< 32 := by
    rw [BitVec.shiftLeft_add_distrib, ← BitVec.shiftLeft_add, signExtend_ofInt_shiftLeft, signExtend_ofInt lowSigned_bounds,
      BitVec.shiftLeft_add (n := 16) (m := 32), ← BitVec.shiftLeft_add_distrib, ofInt_eq_add]
  calc _ = ((BitVec.ofInt 64 upper <<< 16) + BitVec.ofInt 64 (lowSigned mid)) <<< 16 + BitVec.ofInt 64 (lowSigned v) := by
        rw [top, signExtend_ofInt lowSigned_bounds, signExtend_ofInt lowSigned_bounds, BitVec.shiftLeft_add_distrib,
          ← BitVec.shiftLeft_add]
    _ = (BitVec.ofInt 64 mid <<< 16) + BitVec.ofInt 64 (lowSigned v) := by rw [← hupper, ofInt_eq_add]
    _ = x := by rw [← hmid, ofInt_eq_add, ← hv, BitVec.ofInt_toInt]

end

end Sys2Proof.Machine

namespace Sys2Proof.Settled

open Sys2Proof.Machine

/-- Settles O60: the lines by evaluation of the assembler, and `li` by its three sequences. -/
theorem assemblyResults : Obligations.AssemblyResults := by
  unfold Obligations.AssemblyResults
  refine ⟨?_, fun rd x => ?_⟩
  · and_intros <;> decide +kernel
  · obtain ⟨hone, h⟩ | ⟨htwo, h⟩ | h := liWords_cases (rd := rd.toNat) (x := x)
    all_goals rw [h]
    · exact ⟨_, decode_addiWord (ra := 0), (signExtend_ofInt hone).trans BitVec.ofInt_toInt⟩
    · exact ⟨_, _, decode_luiWord, decode_addiWord, liTwo_value htwo⟩
    · exact ⟨_, _, _, _, decode_luiWord, decode_addiWord, decode_slliWord (sh := 32), decode_addhiWord, decode_addiWord,
        liFive_value⟩

end Sys2Proof.Settled
